-- ==== Sys2Proof/Word.lean ====
section
/-!
DEFINITION. Word types of the Bruden package and their plainest arithmetic (spec/00_scope.md R1).
-/

namespace Sys2Proof

/-- A byte of memory (R1). -/
abbrev Byte := BitVec 8

/-- A 32-bit word: a parcel, a parcel address, a task id. -/
abbrev Word32 := BitVec 32

/-- A 64-bit word: a scalar register, a canonical pointer. -/
abbrev Word64 := BitVec 64

/-- A core, numbered within the package: 0 to 511 are the compute cores (die, cluster, core as
R9 packs them in bits 8:0), 512 to 515 the M-cores (512 + 2·(I/O die) + M-core). -/
abbrev CoreId := Nat

/-- The cluster of a compute core, 0 to 63 (die in bits 5:4, cluster within the die in bits 3:0). -/
abbrev ClusterId := Nat

/-- A task slot of the package: 8·core + slot. -/
abbrev TaskKey := Nat

end Sys2Proof
end

