-- ==== Sys2Proof/Config.lean ====
section
/-!
DEFINITION. Free values: what the spec leaves open. Each is an opaque constant without a body, so
that no proof can rest on one value of it. The counter they are applied to is a plain field of the state.
-/

namespace Sys2Proof.Config

/-- Which of the moves that are possible comes next (log entry 1). -/
opaque pick : Nat → Nat

/-- Reference-clock periods between two readings of a die's counter, less one (log entry 7; R14). -/
opaque elapsed : Nat → BitVec 16

/-- Which elements of an outstanding deferred result arrive now (log entry 5; R62). -/
opaque landLanes : Nat → BitVec 256

/-- For an FP32 special function, whether the upper of the two FP32 neighbours of the exact value is
returned: a fixed function of the operation and the source pattern (R364, log entry 8). -/
opaque sfuUpper : Nat → BitVec 32 → Bool

/-- Nanoseconds of wait for power leave (R156, log entry 9). -/
opaque leaveWait : Nat → BitVec 32

/-- Projected power, in W, of a die's engines and large jobs with a request for leave added (R254, log entry 9). -/
opaque projected : Nat → BitVec 16

/-- An engine is due the pass that it is granted in every 10 µs (R156, R254, log entry 9). -/
opaque floorDue : Nat → Bool

/-- Nanoseconds that a collection paused its tasks (R46, R50, log entry 20). -/
opaque pauseTime : Nat → BitVec 32

/-- Whether an atomic is performed under a lease rather than at the home (R213, log entry 11). -/
opaque leased : Nat → Bool

/-- Cycles of skid between the halt line and an agent's stop (R228, log entry 12). -/
opaque skid : Nat → BitVec 8

/-- The partition whose region table and windows a task of an M-core uses: it belongs to none (log entry 13). -/
opaque mCorePart : Fin 16

/-- A 64-bit value the spec does not state, fresh for each value of the counter (log entry 2). -/
opaque word : Nat → Word64

/-- Byte of the header of an image, by the number of its free bytes, its partition, context, halt count and block count, and its place (R236,
log entry 30). -/
opaque headerByte : Nat → Nat → Nat → Nat → Nat → Nat → Byte

/-- Where among the blocks of an image an o register lies: by 32 times the slot plus the register (R21, R236, log entry 30). -/
opaque imageReg : Nat → Nat

/-- Byte of an image that CTXSV writes, blocks and tags: their layout and the key are not stated (R236, log entry 30). -/
opaque imageByte : Nat → Nat → Byte

/-- Element of a rank on another package in a collective round, by the round's number, the rank and the element (R288, log entry 23). -/
opaque remoteElement : Nat → Nat → Nat → Word64

/-- Whether the members on other packages of a collective round agree with those of this one, by the round's number (R289, log entry 23). -/
opaque remoteAgrees : Nat → Bool

/-- Byte of the payload of a flit, by its number: what a request holds is not stated (R246, log entry 41). -/
opaque flitByte : Nat → Nat → Byte

/-- Type of a flit that carries a payload, and of one that does not (R246, log entry 41). -/
opaque flitKind : Bool → Nat

/-- SHA-384 measurement of the image that a boot step ran, by its method and the firmware that the module holds (R251, log entry 36). -/
opaque measurement : Nat → Bool → List Byte → BitVec 384

/-- Digest of almanac entries, each as the list of its fields (R251, log entry 36). -/
opaque almanacDigest : List (List Int) → BitVec 384

/-- A die temperature that an almanac entry takes, in °C (R250, log entry 36). -/
opaque dieTemp : Nat → Int

/-- Signature of an attestation report, by its number (R251, log entry 36). -/
opaque signature : Nat → BitVec 768

/-- Elements of an outstanding canonical load that are read again at a moment: when each is performed is not stated (R208, R370, log
entry 6). -/
opaque rereads : Nat → BitVec 256

/-- How many blocks of an object a touch or a prefetch reads before something else may happen, of those that are left (R33, R337, log entry
34). -/
opaque touchBlocks : Nat → Nat

/-- The lanes that pass a pattern run: what the memory's lanes do is not stated (R256, log entry 32). -/
opaque lanePass : Nat → BitVec 37

end Sys2Proof.Config
end

