-- ==== Sys2Proof/Syntax.lean ====
section
/-!
DEFINITION. The syntax of the Bruden instruction set (spec/04_encoding.md) and of the events of
spec/opcode_table.json: one constructor of `Instr` for each row of that table. The 193 instructions carry the
fields of their parcels under the names of R52 and R53; the 89 events carry what they act on.
-/

namespace Sys2Proof

/-- The fault codes of R227. -/
inductive FaultCode where
  | illegalEncoding | illegalOpcode | noExtension | branchTarget | bounds | alignment | kind | nullPointer
  | sealedStore | packOverflow | escapeOverflow | maskProgram | handle | allocExhausted | softwareTrap
  | waitAbort | privilege | region | hostTranslation | remotePermission | atomicResultLost | uncorrectable
  | saveIntegrity | hostAtomic | streamLength | engineLoop
deriving DecidableEq, Repr

/-- The length of an instruction: format F1, F2 or F3 (R51). -/
inductive Form where
  | f1 | f2 | f3
deriving DecidableEq, Repr

/-- The fields of an instruction's parcels (R52, R53). F1 has no parcel 1 and F2 no parcel 2: their fields are zero. -/
structure Fields where
  /-- LEN: how many parcels. -/
  form : Form := .f1
  /-- M: the switch marker. -/
  m : Bool := false
  /-- Z: the size or type selector. -/
  z : BitVec 2 := 0
  /-- D: the destination register, or offset bits. -/
  d : BitVec 6 := 0
  /-- A: the first source register, or immediate or offset bits. -/
  a : BitVec 6 := 0
  /-- B: the second source register, or immediate or offset bits. -/
  b : BitVec 6 := 0
  /-- C: the third register, or an instruction-specific value. -/
  c : BitVec 6 := 0
  /-- G: the guard predicate in bits 2:0, negated by bit 3. -/
  g : BitVec 4 := 0
  /-- SM class: none, rotate, butterfly swap, segment broadcast. -/
  smClass : BitVec 2 := 0
  /-- SM segment: log2 of the segment size in elements. -/
  smSeg : BitVec 4 := 0
  /-- SM distance. -/
  smDist : BitVec 6 := 0
  /-- X: the instruction-specific bits. -/
  x : BitVec 10 := 0
  /-- The literal of an F3 instruction. -/
  lit : BitVec 32 := 0
deriving DecidableEq, Repr

/-- A pad with a Gleaner of its own: a core pad, a cluster pad or a die pad (R40, R50). -/
inductive PadUnit where
  | core (c : CoreId)
  | cluster (k : ClusterId)
  | die (d : Nat)
deriving DecidableEq, Repr

/-- An agent that a halt stops and that writes a stop record (R228, R230). -/
inductive Agent where
  | task (t : TaskKey)
  | engine (k : ClusterId)
  | fabric (k : ClusterId)
  | nearBank (stack : Nat)
  | collective (io : Nat)
  | taskGraph (d : Nat)
  | distributor (io : Nat)
  | gleaner (d unit : Nat)
  | restore (p : Nat)
deriving DecidableEq, Repr

/-- A location whose corrected errors are counted (R240). -/
inductive EccLoc where
  | hbmRow (stack row : Nat)
  | linkLane (port lane : Nat)
  | padBank (u : PadUnit) (bank : Nat)
  | other (addr : Nat)
deriving DecidableEq, Repr

/-- A location that an uncorrectable error strikes (R240). -/
inductive ErrorLoc where
  /-- The 64-byte block of memory, a pad or a stack, at a physical address. -/
  | block (addr : Nat)
  /-- An accumulator of a core. -/
  | accumulator (c : CoreId) (n : Nat)
  /-- An entry of a core's matrix queue. -/
  | queueEntry (c : CoreId) (n : Nat)
  /-- The 64-byte block that holds a parcel of the instruction store of a cluster, or of an M-core by its number. -/
  | code (store parcel : Nat)
deriving DecidableEq, Repr

/-- What happens at an address of the host (R244): a load, a store, or the supervisor's map of the 256 MiB frame of device memory there
onto frame `index` of a region of a partition's heap. -/
inductive HostOp where
  | read
  | write
  | map (p region index : Nat)
deriving DecidableEq, Repr

/-- What one boot step did to one unit (R249, R250). -/
structure BootResult where
  step : Nat
  unit : Nat
  /-- Whether the step passed by the method that the almanac chose for it; none when the power failed while it ran. -/
  outcome : Option Bool
  /-- For step 6: the partner takes CXL (R241). -/
  cxl : Bool
  /-- The coldest die temperature read while the step ran, in °C. -/
  temp : Int
deriving DecidableEq, Repr

/-- A driver message on the firmware mailbox (R251). -/
inductive MailboxMessage where
  | negotiate (version : Nat)
  | packetVersions
  | finvenRange
  | update (image : List Byte)
deriving DecidableEq, Repr

/-- The instructions and events of spec/opcode_table.json, one constructor for each row. -/
inductive Instr where
  /-- Does nothing; with M = 1 it is a switch point. (R325) -/
  | nop (f : Fields)
  /-- Adds two integers at the selected width, wrapping or saturating. (R268) -/
  | add (f : Fields)
  /-- Subtracts two integers at the selected width, wrapping or saturating. (R332) -/
  | sub (f : Fields)
  /-- Writes the low half of an integer product, optionally saturated. (R314) -/
  | mul (f : Fields)
  /-- Writes the high half of the double-width integer product. (R314) -/
  | mulh (f : Fields)
  /-- Integer division truncated toward zero, without trapping. (R268) -/
  | div (f : Fields)
  /-- Integer remainder with the sign of the dividend. (R332) -/
  | rem (f : Fields)
  /-- Bitwise AND of two scalars. (R268) -/
  | and (f : Fields)
  /-- Bitwise OR of two scalars. (R332) -/
  | or (f : Fields)
  /-- Bitwise exclusive OR of two scalars. (R398) -/
  | xor (f : Fields)
  /-- Bitwise AND of a scalar with the complement of another. (R268) -/
  | andn (f : Fields)
  /-- Shifts left, with the amount taken modulo the width, optionally saturating. (R332) -/
  | shl (f : Fields)
  /-- Shifts right, filling with zeros. (R332) -/
  | shr (f : Fields)
  /-- Shifts right arithmetically. (R332) -/
  | sra (f : Fields)
  /-- Rotates right within the selected width. (R332) -/
  | ror (f : Fields)
  /-- Writes the smaller of two scalars, signed or unsigned. (R314) -/
  | min (f : Fields)
  /-- Writes the larger of two scalars, signed or unsigned. (R314) -/
  | max (f : Fields)
  /-- Compares two integers and writes 1 or 0 to a scalar. (R284) -/
  | cmp (f : Fields)
  /-- Compares two integers into every bit of a predicate. (R284) -/
  | cmpp (f : Fields)
  /-- Selects one of two scalars by a third. (R343) -/
  | sel (f : Fields)
  /-- Loads a sign-extended immediate into a scalar. (R313) -/
  | li (f : Fields)
  /-- Loads a literal into the high 32 bits of a scalar. (R313) -/
  | liH (f : Fields)
  /-- Counts the leading zero bits. (R280) -/
  | clz (f : Fields)
  /-- Counts the trailing zero bits. (R280) -/
  | ctz (f : Fields)
  /-- Counts the set bits. (R336) -/
  | popc (f : Fields)
  /-- Reverses the bits within the selected width. (R280) -/
  | brev (f : Fields)
  /-- Extracts a bit field, sign- or zero-extended. (R294) -/
  | ext (f : Fields)
  /-- Inserts a bit field into the destination. (R305) -/
  | ins (f : Fields)
  /-- Deposits bits at the set positions of a mask. (R334) -/
  | pdep (f : Fields)
  /-- Extracts the bits at the set positions of a mask. (R334) -/
  | pext (f : Fields)
  /-- Bit-matrix product over GF(2). (R299) -/
  | gfm (f : Fields)
  /-- Permutes the bits of a scalar through a g register. (R279) -/
  | bperm (f : Fields)
  /-- Branches unconditionally by a relative offset. (R277) -/
  | br (f : Fields)
  /-- Branches when a scalar is zero. (R277) -/
  | bz (f : Fields)
  /-- Branches when a scalar is not zero. (R277) -/
  | bnz (f : Fields)
  /-- Branches on any, all or none of a predicate's bits. (R277) -/
  | bp (f : Fields)
  /-- Branches by a relative offset and writes the link register. (R277) -/
  | call (f : Fields)
  /-- Branches to a register address and writes the link register. (R277) -/
  | callr (f : Fields)
  /-- Jumps to the address held in a register. (R306) -/
  | jmp (f : Fields)
  /-- Returns through the link register. (R340) -/
  | ret (f : Fields)
  /-- Arms a hardware loop level, or skips the body on a count of 0. (R311) -/
  | loop (f : Fields)
  /-- Clears a loop count and branches out of the loop. (R311) -/
  | lexit (f : Fields)
  /-- Reads a loop register into a scalar. (R317) -/
  | mfl (f : Fields)
  /-- Writes a loop register after checking the address. (R317) -/
  | mtl (f : Fields)
  /-- Raises software-trap with a 12-bit code. (R354) -/
  | trap (f : Fields)
  /-- Loads a scalar through the copy, touching the object. (R309) -/
  | ld (f : Fields)
  /-- Stores a scalar through the copy, touching the object. (R347) -/
  | st (f : Fields)
  /-- Loads a pointer into an o-register and reads its header length. (R310) -/
  | ldo (f : Fields)
  /-- Stores a canonical pointer, promoting objects under the escape rule. (R348) -/
  | sto (f : Fields)
  /-- Creates a zeroed object at a level and places its pointer in an o-register. (R271) -/
  | alloc (f : Fields)
  /-- Reads the length field of an o-register. (R327) -/
  | olen (f : Fields)
  /-- Copies all 128 bits of an o-register. (R327) -/
  | omov (f : Fields)
  /-- Makes a view of part of an object's payload. (R329) -/
  | oview (f : Fields)
  /-- Compares the canonical pointers of two o-registers. (R327) -/
  | oeq (f : Fields)
  /-- Acquires an object's header shared or exclusive, parking until granted, and refreshes the copy. (R265) -/
  | acq (f : Fields)
  /-- Writes back the copy, releases, and updates the lock word. (R339) -/
  | rel (f : Fields)
  /-- Writes back the dirty blocks of the core's copy and releases. (R330) -/
  | osync (f : Fields)
  /-- Discards the core's copy of an object without write-back. (R331) -/
  | odrop (f : Fields)
  /-- Sets the pinned flag of the canonical header. (R335) -/
  | pin (f : Fields)
  /-- Clears the pinned flag of the canonical header. (R335) -/
  | unpin (f : Fields)
  /-- Writes back the copy and sets the sealed flag at the home. (R342) -/
  | seal (f : Fields)
  /-- Reads header word 0 of an object canonically. (R328) -/
  | okind (f : Fields)
  /-- Loads a scalar canonically, never touching. (R309) -/
  | ldc (f : Fields)
  /-- Stores a scalar canonically, never touching. (R347) -/
  | stc (f : Fields)
  /-- Checks a KV handle and makes a view of one latent row. (R181) -/
  | hdl (f : Fields)
  /-- Starts a background copy-in of an object without waiting. (R337) -/
  | pref (f : Fields)
  /-- Orders the task's canonical accesses at a scope. (R212) -/
  | fence (f : Fields)
  /-- Adds integers element by element. (R356) -/
  | vadd (f : Fields)
  /-- Subtracts integers element by element. (R394) -/
  | vsub (f : Fields)
  /-- Multiplies integers element by element, low half. (R377) -/
  | vmul (f : Fields)
  /-- High half of the integer product, element by element. (R377) -/
  | vmulh (f : Fields)
  /-- Integer multiply-add, element by element. (R377) -/
  | vmad (f : Fields)
  /-- Integer minimum, element by element. (R377) -/
  | vmin (f : Fields)
  /-- Integer maximum, element by element. (R377) -/
  | vmax (f : Fields)
  /-- Integer absolute value, element by element. (R356) -/
  | vabs (f : Fields)
  /-- Bitwise AND, element by element. (R378) -/
  | vand (f : Fields)
  /-- Bitwise OR, element by element. (R378) -/
  | vor (f : Fields)
  /-- Bitwise exclusive OR, element by element. (R378) -/
  | vxor (f : Fields)
  /-- Shifts left, element by element. (R389) -/
  | vshl (f : Fields)
  /-- Shifts right logically, element by element. (R389) -/
  | vshr (f : Fields)
  /-- Shifts right arithmetically, element by element. (R389) -/
  | vsra (f : Fields)
  /-- Compares integers into a predicate. (R359) -/
  | vcmp (f : Fields)
  /-- Selects elements of two registers by a predicate. (R388) -/
  | vsel (f : Fields)
  /-- GF(2) bit-matrix product per 64-bit element. (R372) -/
  | vgfm (f : Fields)
  /-- Bit deposit, element by element. (R379) -/
  | vpdep (f : Fields)
  /-- Bit extract, element by element. (R379) -/
  | vpext (f : Fields)
  /-- Permutes the bits of each 64-bit element through a g register. (R357) -/
  | vbperm (f : Fields)
  /-- Accumulates four-byte integer dot products into 32-bit elements. (R363) -/
  | vdot4 (f : Fields)
  /-- Reduces the active elements to one integer. (R382) -/
  | vred (f : Fields)
  /-- Inclusive integer prefix sum over the active elements. (R385) -/
  | vscan (f : Fields)
  /-- Broadcasts a scalar to every active element. (R390) -/
  | vsplat (f : Fields)
  /-- Fills each element with its own index. (R373) -/
  | viota (f : Fields)
  /-- Reads one element into a scalar. (R371) -/
  | vget (f : Fields)
  /-- Writes one element from a scalar. (R381) -/
  | vput (f : Fields)
  /-- Floating addition, element by element. (R365) -/
  | vfadd (f : Fields)
  /-- Floating subtraction, element by element. (R365) -/
  | vfsub (f : Fields)
  /-- Floating multiplication, element by element. (R365) -/
  | vfmul (f : Fields)
  /-- Fused floating multiply-add, element by element. (R365) -/
  | vfma (f : Fields)
  /-- Floating minimum, element by element. (R365) -/
  | vfmin (f : Fields)
  /-- Floating maximum, element by element. (R365) -/
  | vfmax (f : Fields)
  /-- Approximates the reciprocal of each element. (R364) -/
  | vrcp (f : Fields)
  /-- Approximates the reciprocal square root of each element. (R364) -/
  | vrsq (f : Fields)
  /-- Approximates 2 to the power of each element. (R364) -/
  | vexp2 (f : Fields)
  /-- Approximates the base-2 logarithm of each element. (R364) -/
  | vlog2 (f : Fields)
  /-- Compares floating values into a predicate. (R366) -/
  | vfcmp (f : Fields)
  /-- Reduces the active elements to one floating value. (R367) -/
  | vfred (f : Fields)
  /-- Inclusive floating prefix sum over the active elements. (R368) -/
  | vfscan (f : Fields)
  /-- Converts between floating formats, element by element. (R361) -/
  | vcvt (f : Fields)
  /-- Converts between floating and integer formats, element by element. (R361) -/
  | vcvti (f : Fields)
  /-- Accumulates FP32 products with block scales. (R384) -/
  | vscacc (f : Fields)
  /-- Expands CB4 codes into BF16 values through the core codebook. (R358) -/
  | vcbx (f : Fields)
  /-- Adds a vector into a wide FP32 running sum. (R395) -/
  | vwacc (f : Fields)
  /-- Rounds a wide running sum back into a vector. (R395) -/
  | vwget (f : Fields)
  /-- Loads contiguous elements. (R374) -/
  | vld (f : Fields)
  /-- Stores contiguous elements. (R391) -/
  | vst (f : Fields)
  /-- Loads strided elements. (R374) -/
  | vlds (f : Fields)
  /-- Stores strided elements. (R391) -/
  | vsts (f : Fields)
  /-- Loads elements from offsets held in a vector. (R369) -/
  | vgath (f : Fields)
  /-- Stores elements at offsets held in a vector, combining collisions. (R386) -/
  | vscat (f : Fields)
  /-- Loads and expands one tile of a packed object. (R375) -/
  | vldpk (f : Fields)
  /-- Appends one compressed tile to a packed object. (R393) -/
  | vstpk (f : Fields)
  /-- Selects elements of one register by indices in another. (R380) -/
  | vperm (f : Fields)
  /-- Compresses the active elements to the bottom of a register. (R360) -/
  | vcomp (f : Fields)
  /-- Spreads the bottom elements over the active positions. (R360) -/
  | vexpd (f : Fields)
  /-- Makes a governing predicate for a strip. (R396) -/
  | vwhile (f : Fields)
  /-- Writes the number of elements at a size. (R376) -/
  | vlen (f : Fields)
  /-- Predicate AND. (R333) -/
  | pand (f : Fields)
  /-- Predicate OR. (R333) -/
  | por (f : Fields)
  /-- Predicate exclusive OR. (R333) -/
  | pxor (f : Fields)
  /-- Predicate complement. (R333) -/
  | pnot (f : Fields)
  /-- Counts the set elements of a predicate. (R333) -/
  | pcnt (f : Fields)
  /-- Sets a predicate to none, all or the first elements. (R333) -/
  | pset (f : Fields)
  /-- Loads a 48-byte permutation table into a g register. (R300) -/
  | gld (f : Fields)
  /-- Stores a g register as 48 bytes. (R300) -/
  | gst (f : Fields)
  /-- Ranks 64 four-bit codes into a permutation table. (R301) -/
  | grank (f : Fields)
  /-- Adds summation-by-parts CB4 group products into wide running sums. (R383) -/
  | vsbp (f : Fields)
  /-- Queues a dense matrix product into an accumulator. (R320) -/
  | mma (f : Fields)
  /-- Queues a summation-by-parts matrix product into an accumulator. (R320) -/
  | msbp (f : Fields)
  /-- Queues the zeroing of an accumulator. (R323) -/
  | mzero (f : Fields)
  /-- Queues a drain of an accumulator to memory in a narrower format. (R315) -/
  | mdrain (f : Fields)
  /-- Reads a row block and the step counter of an accumulator's committed copy. (R322) -/
  | mread (f : Fields)
  /-- Sets an engine loop register. (R319) -/
  | mloop (f : Fields)
  /-- Binds or clears a scale or base-and-step record. (R319) -/
  | mscale (f : Fields)
  /-- Loads a codebook into a slot and the core codebook, ranking it. (R283) -/
  | cbld (f : Fields)
  /-- Binds or clears the permutation table. (R319) -/
  | mtab (f : Fields)
  /-- Starts a near-bank matrix-vector job on a stack. (R324) -/
  | nbmv (f : Fields)
  /-- Loads a mask program and start vector into a mask slot. (R169) -/
  | mkld (f : Fields)
  /-- Classifies a tile as empty, partial or full and counts it. (R171) -/
  | mkcls (f : Fields)
  /-- Writes the exact mask for a row of keys into a predicate. (R172) -/
  | mkapp (f : Fields)
  /-- Writes the exact mask for a row of keys as FP32 biases. (R172) -/
  | mkappBias (f : Fields)
  /-- Reads and optionally clears a mask-slot counter. (R173) -/
  | mkcnt (f : Fields)
  /-- Expands an attention record into task-graph nodes. (R269) -/
  | agx (f : Fields)
  /-- Waits for a sync word to be full and reads it. (R295) -/
  | fld (f : Fields)
  /-- Waits for a sync word to be full, reads it and empties it. (R295) -/
  | ftake (f : Fields)
  /-- Waits for a sync word to be empty, writes it and fills it. (R295) -/
  | fput (f : Fields)
  /-- Writes a sync word and marks it full without waiting. (R295) -/
  | fset (f : Fields)
  /-- Marks a sync word empty. (R295) -/
  | fclr (f : Fields)
  /-- Atomic read-modify-write of a 32- or 64-bit word. (R274) -/
  | amo (f : Fields)
  /-- Compare and swap of a 32- or 64-bit word. (R281) -/
  | cas (f : Fields)
  /-- Compare and swap of a pointer-and-version pair. (R259) -/
  | cas2 (f : Fields)
  /-- Builds a child task record, counts it into the join word and places it. (R298) -/
  | fork (f : Fields)
  /-- Waits for a join word to reach zero, then acquires. (R307) -/
  | join (f : Fields)
  /-- Ends the task, decrements its join word and frees the slot. (R95) -/
  | halt (f : Fields)
  /-- Ends the task and starts a successor in the same slot. (R95) -/
  | haltRetain (f : Fields)
  /-- Gives up the task's next turn in the issue rotation. (R399) -/
  | yield (f : Fields)
  /-- Sends a 64-byte data message to a core or task. (R344) -/
  | send (f : Fields)
  /-- Sends a task record as a spawn message. (R104) -/
  | sendSpawn (f : Fields)
  /-- Takes a data message from the inbox, blocking or not. (R338) -/
  | recv (f : Fields)
  /-- Starts a copy job through the stream fabric. (R290) -/
  | cpy (f : Fields)
  /-- Starts a copy job bound to a building copy-job node. (R190) -/
  | cpyNode (f : Fields)
  /-- Validates and loads a stream graph into a fabric slot. (R345) -/
  | sgld (f : Fields)
  /-- Waits for a job's mailbox, acquires and frees it. (R308) -/
  | jwait (f : Fields)
  /-- Tests a job's mailbox without waiting. (R308) -/
  | jpoll (f : Fields)
  /-- Creates a building node in the die's task graph unit. (R351) -/
  | tgnode (f : Fields)
  /-- Adds an edge between two nodes. (R352) -/
  | tgedge (f : Fields)
  /-- Releases every building node the task created. (R353) -/
  | tgrun (f : Fields)
  /-- Declares the expected signaller of a sync object. (R346) -/
  | sigdecl (f : Fields)
  /-- Starts a collective operation over a group. (R287) -/
  | coll (f : Fields)
  /-- Parks until a message, mailbox fill or slice boundary. (R304) -/
  | idle (f : Fields)
  /-- Reads a control register. (R316) -/
  | mfc (f : Fields)
  /-- Writes a control register. (R316) -/
  | mtc (f : Fields)
  /-- Returns from a fault handler to c.epc. (R293) -/
  | eret (f : Fields)
  /-- Sets a handle-table entry's token count and issues a handle. (R180) -/
  | hnew (f : Fields)
  /-- Advances an entry's generation, revoking its handles. (R180) -/
  | hrev (f : Fields)
  /-- Writes a region-table entry and invalidates every lookaside. (R341) -/
  | rgset (f : Fields)
  /-- Copies a stop record to memory. (R349) -/
  | stoprd (f : Fields)
  /-- Saves one context of a partition to an image. (R292) -/
  | ctxsv (f : Fields)
  /-- Restores one context from an image after checking its tags. (R292) -/
  | ctxld (f : Fields)
  /-- Copies a wait-for table entry to memory. (R397) -/
  | wftrd (f : Fields)
  /-- Reads a management register. (R261) -/
  | mgrd (f : Fields)
  /-- Writes a management register. (R261) -/
  | mgwr (f : Fields)
  /-- Replaces a running partition's tenant group and membership. (R350) -/
  | tenset (f : Fields)
  /-- Copies a home's atomic result log to memory. (R275) -/
  | atlog (f : Fields)
  /-- Event: Moves a task to a reserved A-core slot and re-issues the instruction. (R109) -/
  | migration (t : TaskKey)
  /-- Event: A deferred instruction's result arrives and is written to its register. (R60) -/
  | deferredResultWrite (t : TaskKey) (i : Nat) (lanes : BitVec 256)
  /-- Event: A free slot pops the bottom record of its core's deque and starts it. (R97) -/
  | dequePop (c : CoreId)
  /-- Event: An idle core takes the top record of a victim's deque and starts it. (R98) -/
  | steal (c : CoreId)
  /-- Event: Records return from the spill area when the deque holds fewer than 64. (R97) -/
  | spillReturn (c : CoreId)
  /-- Event: A FORK parked on a full deque places its record once room appears. (R93) -/
  | forkPlace (t : TaskKey)
  /-- Event: Parked full/empty requests are retried in arrival order when the word changes. (R296) -/
  | fullEmptyRetry (word : Nat)
  /-- Event: A parked JOIN resumes when its word reads 0 and acquires. (R94) -/
  | joinWake (t : TaskKey)
  /-- Event: A parked ACQ obtains the header and refreshes the copy. (R210) -/
  | acqGrant (t : TaskKey)
  /-- Event: A parked JWAIT resumes when its mailbox fills. (R308) -/
  | jwaitWake (t : TaskKey)
  /-- Event: A parked IDLE resumes on a message, mailbox fill or slice boundary. (R96) -/
  | idleWake (t : TaskKey)
  /-- Event: A message arrives at a target inbox, or waits for a free entry. (R101) -/
  | messageArrival (i : Nat)
  /-- Event: A spawn message's record is pushed on the target deque once there is room. (R104) -/
  | spawnPush (c : CoreId)
  /-- Event: A parked blocking RECV takes a qualifying message and acquires. (R102) -/
  | recvDelivery (t : TaskKey)
  /-- Event: A sender parked on a full inbox enters its message when an entry frees. (R101) -/
  | sendInboxEntry (c : CoreId)
  /-- Event: A released node whose count reaches 0 becomes a record and is placed. (R105) -/
  | tgNodeReady (d n : Nat)
  /-- Event: A finished node subtracts 1 from each successor's count with a release. (R106) -/
  | tgNodeFinish (d n : Nat)
  /-- Event: The task graph unit places held records when a deque gains room. (R105) -/
  | tgHeldPlace (d : Nat)
  /-- Event: A ready copy-job node is checked and kicks its fabric. (R200) -/
  | copyNodeKick (d n : Nat)
  /-- Event: The die power controller grants leave for a pass or large job. (R156) -/
  | powerLeaveGrant (i : Nat)
  /-- Event: The matrix engine runs up to four K steps of one queue command. (R142) -/
  | tilePass (k : ClusterId)
  /-- Event: A stack starts the next queued near-bank job. (R162) -/
  | nbmvJobStart (stack : Nat)
  /-- Event: A near-bank job finishes its results and fills its mailbox. (R161) -/
  | nbmvJobComplete (stack : Nat)
  /-- Event: The fabric sequencer starts the next kicked copy job. (R184) -/
  | fabricJobStart (k : ClusterId)
  /-- Event: A sink commits its next 256 bytes of writes whole. (R199) -/
  | chunkCommit (k : ClusterId)
  /-- Event: A copy job completes and fills its mailbox. (R191) -/
  | fabricJobComplete (k : ClusterId)
  /-- Event: A collective round completes and each member's job fills its mailbox. (R289) -/
  | collRoundComplete (i : Nat)
  /-- Event: A background prefetch copy finishes or is abandoned. (R337) -/
  | prefCopyComplete (c : CoreId) (ptr : Word64)
  /-- Event: The Gleaner pauses tasks and traces, drops, writes back and moves objects of one pad colour. (R40) -/
  | collection (u : PadUnit) (colour : Nat)
  /-- Event: The bump pointer is reset and paused tasks resume. (R44) -/
  | collectionEnd (u : PadUnit) (colour : Nat)
  /-- Event: The distributor selects an eligible queue and starts its head packet. (R221) -/
  | launchSelect (io : Nat)
  /-- Event: Held root records are placed as deque room appears. (R221) -/
  | launchRootPlace (io : Nat)
  /-- Event: When the descendant count reaches 0, the distributor releases and writes the completion word. (R221) -/
  | launchComplete (l : Nat)
  /-- Event: A compute die saves the outgoing context and loads the incoming one. (R226) -/
  | contextSwap (p ctx : Nat)
  /-- Event: A fault report reaches the halt controller, which marks the primary and drives the halt line. (R229) -/
  | haltReport (p : Nat)
  /-- Event: An agent sees the halt line, stops within its skid and writes its stop record. (R228) -/
  | agentStop (a : Agent)
  /-- Event: A fault of an M-core task stops only that task and reports to the supervisor controller. (R403) -/
  | mCoreFault (t : TaskKey)
  /-- Event: A destination router refuses a posted store and logs it. (R233) -/
  | remoteStoreRefused (t : TaskKey)
  /-- Event: A destination router delivers or drops traffic by tenant test. (R223) -/
  | routerDelivery (i : Nat)
  /-- Event: A CTL write that waited for busy to clear takes effect. (R257) -/
  | ctlWriteApply (ch : Nat)
  /-- Event: A pseudo-channel finishes automatic retraining. (R257) -/
  | autoRetrainDone (ch : Nat)
  /-- Event: The core issues at a PC whose parcel has no start bit, has LEN 11, carries an OP outside the map, or lies past the end of the loaded code, and raises the matching fault. (R67) -/
  | undecodableParcel (code : FaultCode)
  /-- Event: The oldest canonical store in an agent's FIFO store buffer, or a posted remote store, becomes visible at its home. (R208) -/
  | storeBufferDrain (t : TaskKey) (home : Nat)
  /-- Event: Each period of a die's unstretched reference arithmetic clock advances that die's c.cycle counter. (R14) -/
  | referenceClockTick (d : Nat)
  /-- Event: The whole partition pauses while live heap objects are moved to free regions. (R49) -/
  | regionEvacuation (p d colour : Nat)
  /-- Event: A WSINCEH write aborts a still-parked waiter with wait-abort. (R231) -/
  | waitAbort (p : Nat)
  /-- Event: A pattern run ends, fills RESULT0 and RESULT1 and sets done. (R256) -/
  | patternRunDone (ch : Nat) (good : BitVec 37)
  /-- Event: A location reaches its error threshold and is retired or repaired. (R240) -/
  | lastingFaultAction (loc : EccLoc)
  /-- Event: A write of 0 clears an intercalary entry; other writes are ignored. (R110) -/
  | icoldWrite (c : CoreId) (e : Nat) (v : Word32)
  /-- Event: A GLCMD write with go starts a collection or is rejected. (R50) -/
  | glcmdGo (d unit : Nat) (v : Word32)
  /-- Event: A read of GLPAUSE returns the longest pause and clears it. (R50) -/
  | glpauseRead (d unit : Nat)
  /-- Event: A doorbell write to QTAIL, directly or through the VF, or an overflow that stops the queue. (R217) -/
  | qtailWrite (p q : Nat) (v : Word32)
  /-- Event: Enabling a queue, which sets the error bit on an unusable ring. (R217) -/
  | qctlEnable (p q : Nat) (v : Word32)
  /-- Event: A write to DERR clears the bits written as 1. (R404) -/
  | derrWrite (io : Nat) (v : Word32)
  /-- Event: A write to a partition description, ignored unless the partition is idle. (R222) -/
  | partitionWrite (p off : Nat) (v : Word32)
  /-- Event: At a calendar slice start the I/O die sends the boundary message. (R226) -/
  | sliceBoundary (p : Nat) (time : Word64)
  /-- Event: Resumes the halted partition from its stop records. (R231) -/
  | hresGo (p : Nat)
  /-- Event: Resumes with the primary task entering its handler. (R232) -/
  | hresHandler (p : Nat)
  /-- Event: Resumes after ending the primary task or cancelling its job. (R231) -/
  | hresEnd (p : Nat)
  /-- Event: Every 100 µs the Vigil walks the wait-for tables for cycles. (R238) -/
  | vigilScan (d : Nat)
  /-- Event: An applied atomic's response returns in error and raises atomic-result-lost. (R234) -/
  | atomicResponseError (t : TaskKey) (i : Nat)
  /-- Event: A host CXL.mem or PCIe access reaches device memory. (R244) -/
  | hostAccess (what : HostOp) (addr : Nat) (bytes : List Byte)
  /-- Event: A corrected ECC error is repaired and counted. (R240) -/
  | correctedError (loc : EccLoc) (time : Nat)
  /-- Event: An uncorrectable error poisons its block. (R240) -/
  | uncorrectableError (loc : ErrorLoc)
  /-- Event: Error counts older than their window lapse. (R240) -/
  | errorWindowLapse (loc : EccLoc) (time : Nat)
  /-- Event: A Finven flit arrives; a CRC failure drops it and sends a negative acknowledgement. (R246) -/
  | flitReceive (port seq ack : Nat) (good nack : Bool) (payload : List Byte)
  /-- Event: A sender replays flits from the failed sequence number. (R246) -/
  | flitReplay (port seq : Nat)
  /-- Event: A Finven port negotiates its protocol version and comes up or stays down. (R247) -/
  | linkTraining (port : Nat) (range : Nat × Nat) (number : Option (BitVec 6))
  /-- Event: A port goes down and requests in flight retry on the alternate port. (R247) -/
  | portDown (port : Nat)
  /-- Event: An Ethernet frame is sent or received under firmware, PTP events timestamped. (R248) -/
  | ethernetFrame (port : Nat) (sent ptp : Bool) (frame : List Byte)
  /-- Event: At reset the boot steps run in order by primary or alternate method. (R249) -/
  | boot (results : List BootResult)
  /-- Event: The package warms itself until every die and stack reaches its temperature. (R252) -/
  | coldStartWarming (dies bases : List Int)
  /-- Event: Warming fails after 600 s. (R252) -/
  | warmingTimeout
  /-- Event: A firmware mailbox request returns a signed attestation report. (R251) -/
  | attestationRequest (nonce : Word64)
  /-- Event: A tripped droop or path-delay monitor stretches a cluster's clock. (R253) -/
  | clockStretch (k : ClusterId) (steps : Nat)
  /-- Event: The stretch relaxes by one step per 32 cycles after the monitor clears. (R253) -/
  | stretchRelax (k : ClusterId)
  /-- Event: A read of the stretched-cycle counters returns and clears them. (R253) -/
  | stretchCountRead (k : ClusterId) (steps : Bool)
  /-- Event: A CTL write with run starts a pattern run on a quiesced channel in train mode. (R256) -/
  | ctlRun (ch : Nat) (v : Word32)
  /-- Event: A CTL write sets or clears quiesce, stalling the channel's accesses. (R256) -/
  | ctlQuiesce (ch : Nat) (v : Word32)
  /-- Event: A CTL write takes or releases the channel; clearing applies delays and repairs. (R256) -/
  | ctlTrainMode (ch : Nat) (v : Word32)
  /-- Event: A read-delay write, accepted only in train mode. (R256) -/
  | rdlyWrite (ch lane : Nat) (v : Word32)
  /-- Event: A write-delay write, accepted only in train mode. (R256) -/
  | wdlyWrite (ch lane : Nat) (v : Word32)
  /-- Event: A lane repair write, accepted only in train mode and for lanes 0–35. (R256) -/
  | repairWrite (ch : Nat) (v : Word32)
  /-- Event: A temperature drift of 8 °C starts automatic retraining of a channel. (R257) -/
  | autoRetrain (ch : Nat) (temp : BitVec 8)
  /-- Event: A write to a management register that has no row of its own. (R261) -/
  | mgmtRegisterWrite (addr : Word32) (v : Word32)
  /-- Event: The host answers a PRI page request: the stalled window access or copy job continues, or raises host-translation. (R239) -/
  | priResponse (i : Nat) (ok : Bool)
  /-- Event: The supervisor starts a firmware kernel as one task on a free M-core slot, loading its code into the M-core's instruction store. (R262) -/
  | firmwareKernelStart (c : CoreId) (code argument : Word64) (entry : Word32)
  /-- Event: A driver message on the physical function's firmware mailbox: version negotiation, queries such as the accepted packet versions, or a firmware update in recovery. (R251) -/
  | firmwareMailboxMessage (m : MailboxMessage)
  /-- Event: A host configuration write changes AtomicOp Requester Enable, which decides whether window atomics raise host-atomic. (R243) -/
  | deviceControl2Write (fn : Nat) (enable : Bool)
deriving DecidableEq, Repr

end Sys2Proof
end

