-- ==== Sys2Proof/Decode.lean ====
section
/-!
DEFINITION. The opcode map (spec/04_encoding.md R67 to R75), decoding in the order of R59 checks 2 to 5, and the encoder
(R52, R53), both from the same table.
-/

namespace Sys2Proof

/-! ## The opcode map -/

/-- The mnemonics of the instructions. -/
inductive Op where
  | nop | add | sub | mul | mulh | div | rem | and | or | xor
  | andn | shl | shr | sra | ror | min | max | cmp | cmpp | sel
  | li | liH | clz | ctz | popc | brev | ext | ins | pdep | pext
  | gfm | bperm | br | bz | bnz | bp | call | callr | jmp | ret
  | loop | lexit | mfl | mtl | trap | ld | st | ldo | sto | alloc
  | olen | omov | oview | oeq | acq | rel | osync | odrop | pin | unpin
  | seal | okind | ldc | stc | hdl | pref | fence | vadd | vsub | vmul
  | vmulh | vmad | vmin | vmax | vabs | vand | vor | vxor | vshl | vshr
  | vsra | vcmp | vsel | vgfm | vpdep | vpext | vbperm | vdot4 | vred | vscan
  | vsplat | viota | vget | vput | vfadd | vfsub | vfmul | vfma | vfmin | vfmax
  | vrcp | vrsq | vexp2 | vlog2 | vfcmp | vfred | vfscan | vcvt | vcvti | vscacc
  | vcbx | vwacc | vwget | vld | vst | vlds | vsts | vgath | vscat | vldpk
  | vstpk | vperm | vcomp | vexpd | vwhile | vlen | pand | por | pxor | pnot
  | pcnt | pset | gld | gst | grank | vsbp | mma | msbp | mzero | mdrain
  | mread | mloop | mscale | cbld | mtab | nbmv | mkld | mkcls | mkapp | mkappBias
  | mkcnt | agx | fld | ftake | fput | fset | fclr | amo | cas | cas2
  | fork | join | halt | haltRetain | yield | send | sendSpawn | recv | cpy | cpyNode
  | sgld | jwait | jpoll | tgnode | tgedge | tgrun | sigdecl | coll | idle | mfc
  | mtc | eret | hnew | hrev | rgset | stoprd | ctxsv | ctxld | wftrd | mgrd
  | mgwr | tenset | atlog
deriving DecidableEq, Repr

/-- The extensions of R66. -/
inductive Ext where
  | base | vec | bit | graph | mat | mask | sbp | mgmt
deriving DecidableEq, Repr

/-- What a register field may hold (R55), or what else the map says of it. -/
inductive Slot where
  /-- An x or v register, 0–63. -/
  | reg
  /-- Immediate or offset bits, or a field that the form's literal replaces. -/
  | bits
  /-- A field that the map marks zero, or that the instruction does not use. -/
  | zero
  /-- An o register, 0–31. -/
  | obj
  /-- A predicate, 0–15. -/
  | pred
  /-- A destination predicate, 1–15. -/
  | predDest
  /-- A g, w, m or el register, 0–7. -/
  | low8
  /-- A loop register, 0–5. -/
  | loopReg
  /-- The home hint of R69: 0 or 4–7. -/
  | hint
  /-- A step count: an x register, or el 0–7 when X bit 9 is 1 (R146). -/
  | steps
  /-- CAS2's first pointer register, 0–30. -/
  | obj30
  /-- CAS2's first version register, 0–62. -/
  | reg62
deriving DecidableEq, Repr

/-- The role of X bit 9 and of the literal (R56). -/
inductive LitRole where
  | none | imm | sB | offset | value
deriving DecidableEq, Repr

/-- One row of the opcode map. -/
structure Row where
  code : BitVec 9
  f1 : Bool
  f2 : Bool
  f3 : Bool
  /-- Bit z is set when Z = z is legal. -/
  zs : BitVec 4
  /-- The defined X bits other than bit 9 of an imm or sB row. -/
  xs : BitVec 10
  lit : LitRole
  /-- m: source modifiers are legal (R58). -/
  mods : Bool
  /-- The offset field X bits 7:0 must be 0 in F3 (R56). -/
  offX : Bool
  d : Slot
  a : Slot
  b : Slot
  c : Slot
  ext : Ext
  /-- Privileged (R75). -/
  priv : Bool
  /-- The guard selects elements instead of testing bit 0 (R54). -/
  lanes : Bool
deriving DecidableEq, Repr

/-- The map, row by row (R68 to R75). DESIGN CHOICE (log entry 56): the map marks no register field of a word with a literal as zero, and R56
lets the literal stand for operand B; the fields that the literal replaces take any value, operand B of the *imm* and *sB* rows and every
field of LI and of the branches, and a field that the row has no use for is 0. -/
def Op.row : Op → Row
  | .nop => ⟨0x000, true, true, false, 1, 0x000, .none, false, false, .zero, .zero, .zero, .zero, .base, false, false⟩
  | .add => ⟨0x001, true, true, true, 15, 0x080, .imm, false, false, .reg, .reg, .reg, .zero, .base, false, false⟩
  | .sub => ⟨0x002, true, true, true, 15, 0x080, .imm, false, false, .reg, .reg, .reg, .zero, .base, false, false⟩
  | .mul => ⟨0x003, true, true, true, 15, 0x080, .imm, false, false, .reg, .reg, .reg, .zero, .base, false, false⟩
  | .mulh => ⟨0x004, true, true, true, 15, 0x100, .imm, false, false, .reg, .reg, .reg, .zero, .base, false, false⟩
  | .div => ⟨0x005, true, true, true, 15, 0x100, .imm, false, false, .reg, .reg, .reg, .zero, .base, false, false⟩
  | .rem => ⟨0x006, true, true, true, 15, 0x100, .imm, false, false, .reg, .reg, .reg, .zero, .base, false, false⟩
  | .and => ⟨0x007, true, true, true, 15, 0x000, .imm, false, false, .reg, .reg, .reg, .zero, .base, false, false⟩
  | .or => ⟨0x008, true, true, true, 15, 0x000, .imm, false, false, .reg, .reg, .reg, .zero, .base, false, false⟩
  | .xor => ⟨0x009, true, true, true, 15, 0x000, .imm, false, false, .reg, .reg, .reg, .zero, .base, false, false⟩
  | .andn => ⟨0x00A, true, true, true, 15, 0x000, .imm, false, false, .reg, .reg, .reg, .zero, .base, false, false⟩
  | .shl => ⟨0x00B, true, true, true, 15, 0x080, .imm, false, false, .reg, .reg, .reg, .zero, .base, false, false⟩
  | .shr => ⟨0x00C, true, true, true, 15, 0x000, .imm, false, false, .reg, .reg, .reg, .zero, .base, false, false⟩
  | .sra => ⟨0x00D, true, true, true, 15, 0x000, .imm, false, false, .reg, .reg, .reg, .zero, .base, false, false⟩
  | .ror => ⟨0x00E, true, true, true, 15, 0x000, .imm, false, false, .reg, .reg, .reg, .zero, .base, false, false⟩
  | .min => ⟨0x00F, true, true, true, 15, 0x100, .imm, false, false, .reg, .reg, .reg, .zero, .base, false, false⟩
  | .max => ⟨0x010, true, true, true, 15, 0x100, .imm, false, false, .reg, .reg, .reg, .zero, .base, false, false⟩
  | .cmp => ⟨0x011, true, true, true, 15, 0x107, .imm, false, false, .reg, .reg, .reg, .zero, .base, false, false⟩
  | .cmpp => ⟨0x012, true, true, true, 15, 0x107, .imm, false, false, .predDest, .reg, .reg, .zero, .base, false, false⟩
  | .sel => ⟨0x013, false, true, false, 1, 0x000, .none, false, false, .reg, .reg, .reg, .reg, .base, false, false⟩
  | .li => ⟨0x014, true, true, true, 1, 0x000, .value, false, false, .reg, .bits, .bits, .bits, .base, false, false⟩
  | .liH => ⟨0x014, false, false, true, 2, 0x000, .value, false, false, .reg, .bits, .bits, .bits, .base, false, false⟩
  | .clz => ⟨0x015, true, true, false, 15, 0x000, .none, false, false, .reg, .reg, .zero, .zero, .base, false, false⟩
  | .ctz => ⟨0x016, true, true, false, 15, 0x000, .none, false, false, .reg, .reg, .zero, .zero, .base, false, false⟩
  | .popc => ⟨0x017, true, true, false, 15, 0x000, .none, false, false, .reg, .reg, .zero, .zero, .base, false, false⟩
  | .brev => ⟨0x018, true, true, false, 15, 0x000, .none, false, false, .reg, .reg, .zero, .zero, .base, false, false⟩
  | .ext => ⟨0x019, false, true, false, 1, 0x13F, .none, false, false, .reg, .reg, .zero, .bits, .base, false, false⟩
  | .ins => ⟨0x01A, false, true, false, 1, 0x03F, .none, false, false, .reg, .reg, .zero, .bits, .base, false, false⟩
  | .pdep => ⟨0x01B, true, true, false, 1, 0x000, .none, false, false, .reg, .reg, .reg, .zero, .bit, false, false⟩
  | .pext => ⟨0x01C, true, true, false, 1, 0x000, .none, false, false, .reg, .reg, .reg, .zero, .bit, false, false⟩
  | .gfm => ⟨0x01D, true, true, false, 1, 0x000, .none, false, false, .reg, .reg, .reg, .zero, .bit, false, false⟩
  | .bperm => ⟨0x01E, true, true, false, 1, 0x000, .none, false, false, .reg, .reg, .low8, .zero, .bit, false, false⟩
  | .br => ⟨0x020, true, true, true, 1, 0x000, .offset, false, false, .bits, .bits, .bits, .zero, .base, false, false⟩
  | .bz => ⟨0x021, true, true, true, 1, 0x000, .offset, false, false, .bits, .reg, .bits, .zero, .base, false, false⟩
  | .bnz => ⟨0x022, true, true, true, 1, 0x000, .offset, false, false, .bits, .reg, .bits, .zero, .base, false, false⟩
  | .bp => ⟨0x023, true, true, true, 7, 0x000, .offset, false, false, .bits, .pred, .bits, .zero, .base, false, false⟩
  | .call => ⟨0x024, true, true, true, 1, 0x000, .offset, false, false, .bits, .bits, .bits, .zero, .base, false, false⟩
  | .callr => ⟨0x025, true, true, false, 1, 0x000, .none, false, false, .zero, .reg, .zero, .zero, .base, false, false⟩
  | .jmp => ⟨0x026, true, true, false, 1, 0x000, .none, false, false, .zero, .reg, .zero, .zero, .base, false, false⟩
  | .ret => ⟨0x027, true, true, false, 1, 0x000, .none, false, false, .zero, .zero, .zero, .zero, .base, false, false⟩
  | .loop => ⟨0x028, true, true, true, 3, 0x000, .offset, false, false, .bits, .reg, .bits, .zero, .base, false, false⟩
  | .lexit => ⟨0x029, true, true, true, 3, 0x000, .offset, false, false, .bits, .bits, .bits, .zero, .base, false, false⟩
  | .mfl => ⟨0x02A, true, true, false, 1, 0x000, .none, false, false, .reg, .loopReg, .zero, .zero, .base, false, false⟩
  | .mtl => ⟨0x02B, true, true, false, 1, 0x000, .none, false, false, .loopReg, .reg, .zero, .zero, .base, false, false⟩
  | .trap => ⟨0x02C, true, true, false, 1, 0x000, .none, false, false, .zero, .bits, .bits, .zero, .base, false, false⟩
  | .ld => ⟨0x040, true, true, true, 15, 0x1FF, .offset, false, true, .reg, .obj, .reg, .hint, .base, false, false⟩
  | .st => ⟨0x041, true, true, true, 15, 0x0FF, .offset, false, true, .reg, .obj, .reg, .hint, .base, false, false⟩
  | .ldo => ⟨0x042, true, true, true, 1, 0x0FF, .offset, false, true, .obj, .obj, .reg, .hint, .base, false, false⟩
  | .sto => ⟨0x043, true, true, true, 1, 0x0FF, .offset, false, true, .obj, .obj, .reg, .hint, .base, false, false⟩
  | .alloc => ⟨0x044, true, true, false, 1, 0x1FF, .none, false, false, .obj, .reg, .zero, .hint, .base, false, false⟩
  | .olen => ⟨0x045, true, true, false, 1, 0x000, .none, false, false, .reg, .obj, .zero, .zero, .base, false, false⟩
  | .omov => ⟨0x046, true, true, false, 1, 0x000, .none, false, false, .obj, .obj, .zero, .zero, .base, false, false⟩
  | .oview => ⟨0x047, false, true, false, 1, 0x000, .none, false, false, .obj, .obj, .reg, .reg, .base, false, false⟩
  | .oeq => ⟨0x048, true, true, false, 1, 0x000, .none, false, false, .reg, .obj, .obj, .zero, .base, false, false⟩
  | .acq => ⟨0x049, true, true, false, 1, 0x00F, .none, false, false, .zero, .obj, .zero, .zero, .base, false, false⟩
  | .rel => ⟨0x04A, true, true, false, 1, 0x007, .none, false, false, .zero, .obj, .zero, .zero, .base, false, false⟩
  | .osync => ⟨0x04B, true, true, false, 1, 0x007, .none, false, false, .zero, .obj, .zero, .zero, .base, false, false⟩
  | .odrop => ⟨0x04C, true, true, false, 1, 0x000, .none, false, false, .zero, .obj, .zero, .zero, .base, false, false⟩
  | .pin => ⟨0x04D, true, true, false, 1, 0x000, .none, false, false, .zero, .obj, .zero, .zero, .base, false, false⟩
  | .unpin => ⟨0x04E, true, true, false, 1, 0x000, .none, false, false, .zero, .obj, .zero, .zero, .base, false, false⟩
  | .seal => ⟨0x04F, true, true, false, 1, 0x007, .none, false, false, .zero, .obj, .zero, .zero, .base, false, false⟩
  | .okind => ⟨0x050, true, true, false, 1, 0x000, .none, false, false, .reg, .obj, .zero, .zero, .base, false, false⟩
  | .ldc => ⟨0x051, true, true, true, 15, 0x1FF, .offset, false, true, .reg, .obj, .reg, .hint, .base, false, false⟩
  | .stc => ⟨0x052, true, true, true, 15, 0x0FF, .offset, false, true, .reg, .obj, .reg, .hint, .base, false, false⟩
  | .hdl => ⟨0x053, true, true, false, 1, 0x000, .none, false, false, .obj, .reg, .reg, .zero, .base, false, false⟩
  | .pref => ⟨0x054, true, true, false, 1, 0x007, .none, false, false, .zero, .obj, .zero, .zero, .base, false, false⟩
  | .fence => ⟨0x055, true, true, false, 1, 0x01F, .none, false, false, .zero, .zero, .zero, .zero, .base, false, false⟩
  | .vadd => ⟨0x080, true, true, true, 15, 0x080, .sB, true, false, .reg, .reg, .reg, .zero, .vec, false, true⟩
  | .vsub => ⟨0x081, true, true, true, 15, 0x080, .sB, true, false, .reg, .reg, .reg, .zero, .vec, false, true⟩
  | .vmul => ⟨0x082, true, true, true, 15, 0x080, .sB, true, false, .reg, .reg, .reg, .zero, .vec, false, true⟩
  | .vmulh => ⟨0x083, true, true, true, 15, 0x100, .sB, true, false, .reg, .reg, .reg, .zero, .vec, false, true⟩
  | .vmad => ⟨0x084, false, true, true, 15, 0x080, .sB, true, false, .reg, .reg, .reg, .reg, .vec, false, true⟩
  | .vmin => ⟨0x085, true, true, true, 15, 0x100, .sB, true, false, .reg, .reg, .reg, .zero, .vec, false, true⟩
  | .vmax => ⟨0x086, true, true, true, 15, 0x100, .sB, true, false, .reg, .reg, .reg, .zero, .vec, false, true⟩
  | .vabs => ⟨0x087, true, true, false, 15, 0x080, .none, false, false, .reg, .reg, .zero, .zero, .vec, false, true⟩
  | .vand => ⟨0x088, true, true, true, 15, 0x000, .sB, true, false, .reg, .reg, .reg, .zero, .vec, false, true⟩
  | .vor => ⟨0x089, true, true, true, 15, 0x000, .sB, true, false, .reg, .reg, .reg, .zero, .vec, false, true⟩
  | .vxor => ⟨0x08A, true, true, true, 15, 0x000, .sB, true, false, .reg, .reg, .reg, .zero, .vec, false, true⟩
  | .vshl => ⟨0x08B, true, true, true, 15, 0x080, .sB, true, false, .reg, .reg, .reg, .zero, .vec, false, true⟩
  | .vshr => ⟨0x08C, true, true, true, 15, 0x000, .sB, true, false, .reg, .reg, .reg, .zero, .vec, false, true⟩
  | .vsra => ⟨0x08D, true, true, true, 15, 0x000, .sB, true, false, .reg, .reg, .reg, .zero, .vec, false, true⟩
  | .vcmp => ⟨0x08F, true, true, true, 15, 0x107, .sB, true, false, .predDest, .reg, .reg, .zero, .vec, false, true⟩
  | .vsel => ⟨0x090, false, true, false, 15, 0x000, .none, true, false, .reg, .reg, .reg, .pred, .vec, false, true⟩
  | .vgfm => ⟨0x091, true, true, false, 8, 0x000, .none, false, false, .reg, .reg, .reg, .zero, .bit, false, true⟩
  | .vpdep => ⟨0x092, true, true, true, 15, 0x000, .sB, true, false, .reg, .reg, .reg, .zero, .bit, false, true⟩
  | .vpext => ⟨0x093, true, true, true, 15, 0x000, .sB, true, false, .reg, .reg, .reg, .zero, .bit, false, true⟩
  | .vbperm => ⟨0x094, true, true, false, 8, 0x000, .none, false, false, .reg, .reg, .low8, .zero, .bit, false, true⟩
  | .vdot4 => ⟨0x095, true, true, false, 4, 0x000, .none, false, false, .reg, .reg, .reg, .zero, .vec, false, true⟩
  | .vred => ⟨0x096, true, true, false, 15, 0x107, .none, false, false, .reg, .reg, .zero, .zero, .vec, false, true⟩
  | .vscan => ⟨0x097, true, true, false, 15, 0x000, .none, false, false, .reg, .reg, .zero, .zero, .vec, false, true⟩
  | .vsplat => ⟨0x098, true, true, false, 15, 0x000, .none, false, false, .reg, .reg, .zero, .zero, .vec, false, true⟩
  | .viota => ⟨0x099, true, true, false, 15, 0x000, .none, false, false, .reg, .zero, .zero, .zero, .vec, false, true⟩
  | .vget => ⟨0x09A, true, true, false, 15, 0x100, .none, false, false, .reg, .reg, .reg, .zero, .vec, false, false⟩
  | .vput => ⟨0x09B, true, true, false, 15, 0x000, .none, false, false, .reg, .reg, .reg, .zero, .vec, false, false⟩
  | .vfadd => ⟨0x0C0, true, true, true, 7, 0x000, .sB, true, false, .reg, .reg, .reg, .zero, .vec, false, true⟩
  | .vfsub => ⟨0x0C1, true, true, true, 7, 0x000, .sB, true, false, .reg, .reg, .reg, .zero, .vec, false, true⟩
  | .vfmul => ⟨0x0C2, true, true, true, 7, 0x000, .sB, true, false, .reg, .reg, .reg, .zero, .vec, false, true⟩
  | .vfma => ⟨0x0C3, false, true, true, 7, 0x000, .sB, true, false, .reg, .reg, .reg, .reg, .vec, false, true⟩
  | .vfmin => ⟨0x0C4, true, true, true, 7, 0x000, .sB, true, false, .reg, .reg, .reg, .zero, .vec, false, true⟩
  | .vfmax => ⟨0x0C5, true, true, true, 7, 0x000, .sB, true, false, .reg, .reg, .reg, .zero, .vec, false, true⟩
  | .vrcp => ⟨0x0C6, true, true, false, 7, 0x000, .none, false, false, .reg, .reg, .zero, .zero, .vec, false, true⟩
  | .vrsq => ⟨0x0C7, true, true, false, 7, 0x000, .none, false, false, .reg, .reg, .zero, .zero, .vec, false, true⟩
  | .vexp2 => ⟨0x0C8, true, true, false, 7, 0x000, .none, false, false, .reg, .reg, .zero, .zero, .vec, false, true⟩
  | .vlog2 => ⟨0x0C9, true, true, false, 7, 0x000, .none, false, false, .reg, .reg, .zero, .zero, .vec, false, true⟩
  | .vfcmp => ⟨0x0CB, true, true, true, 7, 0x007, .sB, true, false, .predDest, .reg, .reg, .zero, .vec, false, true⟩
  | .vfred => ⟨0x0CC, true, true, false, 7, 0x003, .none, false, false, .reg, .reg, .zero, .zero, .vec, false, true⟩
  | .vfscan => ⟨0x0CD, true, true, false, 7, 0x000, .none, false, false, .reg, .reg, .zero, .zero, .vec, false, true⟩
  | .vcvt => ⟨0x0CE, false, true, false, 1, 0x1FF, .none, false, false, .reg, .reg, .zero, .zero, .vec, false, true⟩
  | .vcvti => ⟨0x0CF, false, true, false, 1, 0x1FF, .none, false, false, .reg, .reg, .zero, .zero, .vec, false, true⟩
  | .vscacc => ⟨0x0D0, false, true, false, 1, 0x0FF, .none, false, false, .reg, .reg, .reg, .zero, .vec, false, true⟩
  | .vcbx => ⟨0x0D1, true, true, false, 4, 0x000, .none, false, false, .reg, .reg, .zero, .zero, .sbp, false, true⟩
  | .vwacc => ⟨0x0D2, true, true, false, 7, 0x000, .none, false, false, .low8, .reg, .zero, .zero, .vec, false, true⟩
  | .vwget => ⟨0x0D3, true, true, false, 7, 0x000, .none, false, false, .reg, .low8, .zero, .zero, .vec, false, true⟩
  | .vld => ⟨0x100, true, true, true, 15, 0x080, .offset, false, false, .reg, .obj, .reg, .zero, .vec, false, true⟩
  | .vst => ⟨0x101, true, true, true, 15, 0x080, .offset, false, false, .reg, .obj, .reg, .zero, .vec, false, true⟩
  | .vlds => ⟨0x102, false, true, true, 15, 0x080, .offset, false, false, .reg, .obj, .reg, .reg, .vec, false, true⟩
  | .vsts => ⟨0x103, false, true, true, 15, 0x080, .offset, false, false, .reg, .obj, .reg, .reg, .vec, false, true⟩
  | .vgath => ⟨0x104, true, true, false, 15, 0x080, .none, false, false, .reg, .obj, .reg, .zero, .vec, false, true⟩
  | .vscat => ⟨0x105, true, true, false, 15, 0x087, .none, false, false, .reg, .obj, .reg, .zero, .vec, false, true⟩
  | .vldpk => ⟨0x106, true, true, false, 7, 0x000, .none, false, false, .reg, .obj, .reg, .zero, .vec, false, true⟩
  | .vstpk => ⟨0x107, true, true, false, 7, 0x000, .none, false, false, .reg, .obj, .reg, .zero, .vec, false, true⟩
  | .vperm => ⟨0x108, true, true, false, 15, 0x000, .none, false, false, .reg, .reg, .reg, .zero, .vec, false, true⟩
  | .vcomp => ⟨0x109, true, true, false, 15, 0x000, .none, false, false, .reg, .reg, .zero, .zero, .vec, false, true⟩
  | .vexpd => ⟨0x10A, true, true, false, 15, 0x000, .none, false, false, .reg, .reg, .zero, .zero, .vec, false, true⟩
  | .vwhile => ⟨0x10B, true, true, false, 15, 0x100, .none, false, false, .predDest, .reg, .reg, .zero, .vec, false, true⟩
  | .vlen => ⟨0x10C, true, true, false, 15, 0x000, .none, false, false, .reg, .zero, .zero, .zero, .vec, false, false⟩
  | .pand => ⟨0x10D, true, true, false, 1, 0x000, .none, false, false, .predDest, .pred, .pred, .zero, .vec, false, true⟩
  | .por => ⟨0x10E, true, true, false, 1, 0x000, .none, false, false, .predDest, .pred, .pred, .zero, .vec, false, true⟩
  | .pxor => ⟨0x10F, true, true, false, 1, 0x000, .none, false, false, .predDest, .pred, .pred, .zero, .vec, false, true⟩
  | .pnot => ⟨0x110, true, true, false, 1, 0x000, .none, false, false, .predDest, .pred, .zero, .zero, .vec, false, true⟩
  | .pcnt => ⟨0x111, true, true, false, 15, 0x000, .none, false, false, .reg, .pred, .zero, .zero, .vec, false, false⟩
  | .pset => ⟨0x113, true, true, false, 15, 0x003, .none, false, false, .predDest, .reg, .zero, .zero, .vec, false, true⟩
  | .gld => ⟨0x114, true, true, true, 1, 0x000, .offset, false, false, .low8, .obj, .reg, .zero, .bit, false, false⟩
  | .gst => ⟨0x115, true, true, true, 1, 0x000, .offset, false, false, .low8, .obj, .reg, .zero, .bit, false, false⟩
  | .grank => ⟨0x116, true, true, false, 1, 0x001, .none, false, false, .low8, .reg, .zero, .zero, .sbp, false, false⟩
  | .vsbp => ⟨0x117, true, true, false, 4, 0x000, .none, false, false, .low8, .reg, .reg, .zero, .sbp, false, true⟩
  | .mma => ⟨0x140, false, true, false, 1, 0x3FF, .none, false, false, .low8, .obj, .obj, .steps, .mat, false, false⟩
  | .msbp => ⟨0x141, false, true, false, 1, 0x3FF, .none, false, false, .low8, .obj, .obj, .steps, .sbp, false, false⟩
  | .mzero => ⟨0x142, true, true, false, 1, 0x000, .none, false, false, .low8, .zero, .zero, .zero, .mat, false, false⟩
  | .mdrain => ⟨0x143, false, true, false, 1, 0x30F, .none, false, false, .reg, .low8, .obj, .zero, .mat, false, false⟩
  | .mread => ⟨0x144, false, true, false, 1, 0x03F, .none, false, false, .reg, .low8, .reg, .reg, .mat, false, true⟩
  | .mloop => ⟨0x145, true, true, false, 1, 0x000, .none, false, false, .low8, .reg, .zero, .zero, .mat, false, false⟩
  | .mscale => ⟨0x146, true, true, false, 1, 0x00F, .none, false, false, .zero, .obj, .zero, .zero, .mat, false, false⟩
  | .cbld => ⟨0x147, true, true, false, 1, 0x001, .none, false, false, .zero, .obj, .zero, .zero, .sbp, false, false⟩
  | .mtab => ⟨0x148, true, true, false, 1, 0x000, .none, false, false, .zero, .obj, .zero, .zero, .sbp, false, false⟩
  | .nbmv => ⟨0x149, false, true, false, 1, 0x03F, .none, false, false, .reg, .obj, .obj, .obj, .mat, false, false⟩
  | .mkld => ⟨0x14A, true, true, false, 1, 0x001, .none, false, false, .zero, .obj, .obj, .zero, .mask, false, false⟩
  | .mkcls => ⟨0x14B, true, true, false, 1, 0x001, .none, false, false, .reg, .reg, .reg, .zero, .mask, false, false⟩
  | .mkapp => ⟨0x14C, true, true, false, 1, 0x001, .none, false, false, .predDest, .reg, .reg, .zero, .mask, false, true⟩
  | .mkappBias => ⟨0x14C, false, true, false, 1, 0x003, .none, false, false, .reg, .reg, .reg, .zero, .mask, false, true⟩
  | .mkcnt => ⟨0x14D, true, true, false, 1, 0x00F, .none, false, false, .reg, .zero, .zero, .zero, .mask, false, false⟩
  | .agx => ⟨0x14E, true, true, false, 1, 0x001, .none, false, false, .reg, .obj, .zero, .zero, .mask, false, false⟩
  | .fld => ⟨0x180, true, true, true, 1, 0x0FF, .offset, false, true, .reg, .obj, .reg, .zero, .base, false, false⟩
  | .ftake => ⟨0x181, true, true, true, 1, 0x0FF, .offset, false, true, .reg, .obj, .reg, .zero, .base, false, false⟩
  | .fput => ⟨0x182, true, true, true, 1, 0x0FF, .offset, false, true, .reg, .obj, .reg, .zero, .base, false, false⟩
  | .fset => ⟨0x183, true, true, true, 1, 0x0FF, .offset, false, true, .reg, .obj, .reg, .zero, .base, false, false⟩
  | .fclr => ⟨0x184, true, true, true, 1, 0x0FF, .offset, false, true, .zero, .obj, .reg, .zero, .base, false, false⟩
  | .amo => ⟨0x185, false, true, true, 3, 0x1FF, .offset, false, false, .reg, .obj, .reg, .zero, .base, false, false⟩
  | .cas => ⟨0x186, false, true, true, 3, 0x1F0, .offset, false, false, .reg, .obj, .reg, .reg, .base, false, false⟩
  | .cas2 => ⟨0x187, false, true, false, 1, 0x1F0, .none, false, false, .obj30, .obj, .reg, .reg62, .base, false, false⟩
  | .fork => ⟨0x188, false, true, true, 1, 0x03F, .offset, false, false, .reg, .obj, .reg, .obj, .base, false, false⟩
  | .join => ⟨0x189, true, true, true, 1, 0x000, .offset, false, false, .zero, .obj, .zero, .zero, .base, false, false⟩
  | .halt => ⟨0x18A, true, true, false, 1, 0x000, .none, false, false, .zero, .zero, .zero, .zero, .base, false, false⟩
  | .haltRetain => ⟨0x18A, false, true, false, 1, 0x001, .none, false, false, .zero, .obj, .reg, .zero, .base, false, false⟩
  | .yield => ⟨0x18B, true, true, false, 1, 0x000, .none, false, false, .zero, .zero, .zero, .zero, .base, false, false⟩
  | .send => ⟨0x18C, true, true, false, 1, 0x000, .none, false, false, .reg, .obj, .reg, .zero, .base, false, false⟩
  | .sendSpawn => ⟨0x18C, false, true, false, 1, 0x001, .none, false, false, .reg, .obj, .reg, .zero, .base, false, false⟩
  | .recv => ⟨0x18D, true, true, false, 1, 0x001, .none, false, false, .obj, .reg, .zero, .zero, .base, false, false⟩
  | .cpy => ⟨0x18E, true, true, false, 1, 0x003, .none, false, false, .reg, .obj, .obj, .zero, .base, false, false⟩
  | .cpyNode => ⟨0x18E, false, true, false, 1, 0x103, .none, false, false, .reg, .obj, .obj, .reg, .base, false, false⟩
  | .sgld => ⟨0x18F, true, true, false, 1, 0x003, .none, false, false, .reg, .obj, .zero, .zero, .base, false, false⟩
  | .jwait => ⟨0x190, true, true, false, 1, 0x000, .none, false, false, .reg, .reg, .zero, .zero, .base, false, false⟩
  | .jpoll => ⟨0x191, true, true, false, 1, 0x000, .none, false, false, .reg, .reg, .zero, .zero, .base, false, false⟩
  | .tgnode => ⟨0x192, false, true, true, 1, 0x003, .offset, false, false, .reg, .obj, .reg, .reg, .graph, false, false⟩
  | .tgedge => ⟨0x193, true, true, false, 1, 0x000, .none, false, false, .zero, .reg, .reg, .zero, .graph, false, false⟩
  | .tgrun => ⟨0x194, true, true, false, 1, 0x000, .none, false, false, .zero, .zero, .zero, .zero, .graph, false, false⟩
  | .sigdecl => ⟨0x195, true, true, false, 1, 0x000, .none, false, false, .zero, .obj, .reg, .zero, .base, false, false⟩
  | .coll => ⟨0x196, false, true, false, 1, 0x27F, .none, false, false, .reg, .obj, .obj, .zero, .base, false, false⟩
  | .idle => ⟨0x197, true, true, false, 1, 0x000, .none, false, false, .zero, .zero, .zero, .zero, .base, false, false⟩
  | .mfc => ⟨0x1C0, true, true, false, 1, 0x000, .none, false, false, .reg, .bits, .bits, .zero, .base, false, false⟩
  | .mtc => ⟨0x1C1, true, true, false, 1, 0x000, .none, false, false, .reg, .bits, .bits, .zero, .base, false, false⟩
  | .eret => ⟨0x1C2, true, false, false, 1, 0x000, .none, false, false, .zero, .zero, .zero, .zero, .base, false, false⟩
  | .hnew => ⟨0x1C3, true, true, false, 1, 0x000, .none, false, false, .reg, .reg, .reg, .zero, .base, false, false⟩
  | .hrev => ⟨0x1C4, true, true, false, 1, 0x000, .none, false, false, .zero, .reg, .zero, .zero, .base, false, false⟩
  | .rgset => ⟨0x1C5, true, true, false, 1, 0x000, .none, false, false, .reg, .reg, .reg, .zero, .mgmt, true, false⟩
  | .stoprd => ⟨0x1C6, true, true, false, 1, 0x000, .none, false, false, .reg, .obj, .reg, .zero, .mgmt, true, false⟩
  | .ctxsv => ⟨0x1C7, true, true, false, 1, 0x000, .none, false, false, .zero, .obj, .reg, .zero, .mgmt, true, false⟩
  | .ctxld => ⟨0x1C8, true, true, false, 1, 0x000, .none, false, false, .zero, .obj, .reg, .zero, .mgmt, true, false⟩
  | .wftrd => ⟨0x1C9, true, true, false, 1, 0x000, .none, false, false, .reg, .obj, .reg, .zero, .mgmt, true, false⟩
  | .mgrd => ⟨0x1CA, true, true, false, 1, 0x000, .none, false, false, .reg, .reg, .zero, .zero, .mgmt, true, false⟩
  | .mgwr => ⟨0x1CB, true, true, false, 1, 0x000, .none, false, false, .reg, .reg, .zero, .zero, .mgmt, true, false⟩
  | .tenset => ⟨0x1CC, true, true, false, 1, 0x000, .none, false, false, .reg, .reg, .reg, .zero, .mgmt, true, false⟩
  | .atlog => ⟨0x1CD, true, true, false, 1, 0x000, .none, false, false, .reg, .obj, .reg, .zero, .mgmt, true, false⟩

/-- Position plus length of EXT and INS is at most 64 (R294, R305). -/
def posLenOk (f : Fields) : Bool :=
  f.x.toNat % 64 + (if f.c == 0 then 64 else f.c.toNat) ≤ 64

/-- The floating format codes of R361's set F. -/
def isFloatFmt (c : Nat) : Bool := c ≤ 6 || c == 12

/-- The integer format codes of R361's set I. -/
def isIntFmt (c : Nat) : Bool := c == 7 || c == 8 || c == 13 || c == 14

/-- VCVT's format pair (R361). -/
def cvtOk (f : Fields) : Bool :=
  isFloatFmt (f.x.toNat / 16 % 16) && isFloatFmt (f.x.toNat % 16) && f.x.toNat / 16 % 16 != f.x.toNat % 16

/-- VCVTI's format pair (R361). -/
def cvtiOk (f : Fields) : Bool :=
  (isFloatFmt (f.x.toNat / 16 % 16) && isIntFmt (f.x.toNat % 16))
    || (isIntFmt (f.x.toNat / 16 % 16) && isFloatFmt (f.x.toNat % 16))

/-- COLL's op and element type (R285). -/
def collOk (f : Fields) : Bool :=
  let op := f.x.toNat % 8
  let t := f.x.toNat / 8 % 16
  if op ≤ 1 then t == 0 || t == 1 || t == 12 || t == 14
  else op ≤ 3 && (t ≤ 5 || t == 7 || 11 ≤ t)

/-- The control-register number {A,B} of MFC and MTC (R75). -/
def Fields.creg (f : Fields) : Nat := f.a.toNat * 64 + f.b.toNat

/-- The number names a control register (R316). -/
def cregOk (f : Fields) : Bool :=
  (1 ≤ f.creg && f.creg ≤ 0x11) || (0x100 ≤ f.creg && f.creg ≤ 0x104)

/-- The X and field values that the group chapters and the entries add to the map (R59 check 5). For a mnemonic that
shares its OP, the bit that selects it is part of this. -/
def Op.extra : Op → Fields → Bool
  | .cmp, f => f.x.toNat % 8 < 6
  | .cmpp, f => f.x.toNat % 8 < 6
  | .ext, f => posLenOk f
  | .ins, f => posLenOk f
  | .ld, f => f.z != 0 || !f.x.getLsbD 8
  | .alloc, f => f.x.toNat % 8 < 5
  | .acq, f => f.x.toNat % 8 < 6
  | .rel, f => f.x.toNat % 8 < 6
  | .osync, f => f.x.toNat % 8 < 6
  | .seal, f => f.x.toNat % 8 < 6
  | .ldc, f => f.z != 0 || !f.x.getLsbD 8
  | .pref, f => f.x.toNat % 8 == 1 || f.x.toNat % 8 == 2
  | .fence, f => f.x.toNat % 8 < 6 && f.x.toNat / 8 % 4 != 3
  | .vcmp, f => f.x.toNat % 8 < 6
  | .vred, f => f.x.toNat % 8 < 6
  | .vfcmp, f => f.x.toNat % 8 < 7
  | .vfred, f => f.x.toNat % 4 < 3
  | .vcvt, f => cvtOk f
  | .vcvti, f => cvtiOk f
  | .vscacc, f => f.x.toNat / 16 % 16 ≤ 6 && (f.x.toNat % 16 == 15 || f.x.toNat % 16 == 2)
  | .vscat, f => f.x.toNat % 8 ≤ 4 && (f.x.toNat % 8 != 4 || f.z == 2)
  | .pset, f => f.x.toNat % 4 != 3 && (f.x.toNat % 4 == 2 || f.a == 0)
  | .mma, f => f.x.toNat % 16 ≤ 11 && f.x.toNat / 16 % 16 ≤ 11
  | .msbp, f => f.x.toNat % 16 ≤ 2 && 9 ≤ f.x.toNat / 16 % 16 && f.x.toNat / 16 % 16 ≤ 11
  | .mdrain, f => f.x.toNat % 16 ≤ 7 || (12 ≤ f.x.toNat % 16 && f.x.toNat % 16 ≤ 14)
  | .mscale, f => f.x.toNat / 2 % 8 < 3
  | .nbmv, f => f.x.toNat % 16 == 9 || f.x.toNat % 16 == 2 || f.x.toNat % 16 == 7
  | .mkappBias, f => f.x.getLsbD 1
  | .amo, f => f.x.toNat / 16 % 8 < 6 && f.x.toNat % 16 ≤ 9 && (f.x.toNat % 16 != 9 || f.z == 1)
  | .cas, f => f.x.toNat / 16 % 8 < 6
  | .cas2, f => f.x.toNat / 16 % 8 < 6
  | .fork, f => f.x.toNat / 16 % 4 != 3 && f.x.toNat % 8 < 4
  | .haltRetain, f => f.x.getLsbD 0
  | .sendSpawn, f => f.x.getLsbD 0
  | .cpyNode, f => f.x.getLsbD 8
  | .sgld, f => f.x.toNat % 4 != 0
  | .tgnode, f => f.x.toNat % 4 != 3 && (f.x.toNat % 4 != 1 || (f.form == .f2 && f.b == 0))
  | .coll, f => collOk f
  | .mfc, f => cregOk f
  | .mtc, f => cregOk f
  | _, _ => true

/-- The instruction whose OP is the number given; for a shared OP, the one the map lists first. -/
def Op.ofCode : Nat → Option Op
  | 0x000 => some .nop
  | 0x001 => some .add
  | 0x002 => some .sub
  | 0x003 => some .mul
  | 0x004 => some .mulh
  | 0x005 => some .div
  | 0x006 => some .rem
  | 0x007 => some .and
  | 0x008 => some .or
  | 0x009 => some .xor
  | 0x00A => some .andn
  | 0x00B => some .shl
  | 0x00C => some .shr
  | 0x00D => some .sra
  | 0x00E => some .ror
  | 0x00F => some .min
  | 0x010 => some .max
  | 0x011 => some .cmp
  | 0x012 => some .cmpp
  | 0x013 => some .sel
  | 0x014 => some .li
  | 0x015 => some .clz
  | 0x016 => some .ctz
  | 0x017 => some .popc
  | 0x018 => some .brev
  | 0x019 => some .ext
  | 0x01A => some .ins
  | 0x01B => some .pdep
  | 0x01C => some .pext
  | 0x01D => some .gfm
  | 0x01E => some .bperm
  | 0x020 => some .br
  | 0x021 => some .bz
  | 0x022 => some .bnz
  | 0x023 => some .bp
  | 0x024 => some .call
  | 0x025 => some .callr
  | 0x026 => some .jmp
  | 0x027 => some .ret
  | 0x028 => some .loop
  | 0x029 => some .lexit
  | 0x02A => some .mfl
  | 0x02B => some .mtl
  | 0x02C => some .trap
  | 0x040 => some .ld
  | 0x041 => some .st
  | 0x042 => some .ldo
  | 0x043 => some .sto
  | 0x044 => some .alloc
  | 0x045 => some .olen
  | 0x046 => some .omov
  | 0x047 => some .oview
  | 0x048 => some .oeq
  | 0x049 => some .acq
  | 0x04A => some .rel
  | 0x04B => some .osync
  | 0x04C => some .odrop
  | 0x04D => some .pin
  | 0x04E => some .unpin
  | 0x04F => some .seal
  | 0x050 => some .okind
  | 0x051 => some .ldc
  | 0x052 => some .stc
  | 0x053 => some .hdl
  | 0x054 => some .pref
  | 0x055 => some .fence
  | 0x080 => some .vadd
  | 0x081 => some .vsub
  | 0x082 => some .vmul
  | 0x083 => some .vmulh
  | 0x084 => some .vmad
  | 0x085 => some .vmin
  | 0x086 => some .vmax
  | 0x087 => some .vabs
  | 0x088 => some .vand
  | 0x089 => some .vor
  | 0x08A => some .vxor
  | 0x08B => some .vshl
  | 0x08C => some .vshr
  | 0x08D => some .vsra
  | 0x08F => some .vcmp
  | 0x090 => some .vsel
  | 0x091 => some .vgfm
  | 0x092 => some .vpdep
  | 0x093 => some .vpext
  | 0x094 => some .vbperm
  | 0x095 => some .vdot4
  | 0x096 => some .vred
  | 0x097 => some .vscan
  | 0x098 => some .vsplat
  | 0x099 => some .viota
  | 0x09A => some .vget
  | 0x09B => some .vput
  | 0x0C0 => some .vfadd
  | 0x0C1 => some .vfsub
  | 0x0C2 => some .vfmul
  | 0x0C3 => some .vfma
  | 0x0C4 => some .vfmin
  | 0x0C5 => some .vfmax
  | 0x0C6 => some .vrcp
  | 0x0C7 => some .vrsq
  | 0x0C8 => some .vexp2
  | 0x0C9 => some .vlog2
  | 0x0CB => some .vfcmp
  | 0x0CC => some .vfred
  | 0x0CD => some .vfscan
  | 0x0CE => some .vcvt
  | 0x0CF => some .vcvti
  | 0x0D0 => some .vscacc
  | 0x0D1 => some .vcbx
  | 0x0D2 => some .vwacc
  | 0x0D3 => some .vwget
  | 0x100 => some .vld
  | 0x101 => some .vst
  | 0x102 => some .vlds
  | 0x103 => some .vsts
  | 0x104 => some .vgath
  | 0x105 => some .vscat
  | 0x106 => some .vldpk
  | 0x107 => some .vstpk
  | 0x108 => some .vperm
  | 0x109 => some .vcomp
  | 0x10A => some .vexpd
  | 0x10B => some .vwhile
  | 0x10C => some .vlen
  | 0x10D => some .pand
  | 0x10E => some .por
  | 0x10F => some .pxor
  | 0x110 => some .pnot
  | 0x111 => some .pcnt
  | 0x113 => some .pset
  | 0x114 => some .gld
  | 0x115 => some .gst
  | 0x116 => some .grank
  | 0x117 => some .vsbp
  | 0x140 => some .mma
  | 0x141 => some .msbp
  | 0x142 => some .mzero
  | 0x143 => some .mdrain
  | 0x144 => some .mread
  | 0x145 => some .mloop
  | 0x146 => some .mscale
  | 0x147 => some .cbld
  | 0x148 => some .mtab
  | 0x149 => some .nbmv
  | 0x14A => some .mkld
  | 0x14B => some .mkcls
  | 0x14C => some .mkapp
  | 0x14D => some .mkcnt
  | 0x14E => some .agx
  | 0x180 => some .fld
  | 0x181 => some .ftake
  | 0x182 => some .fput
  | 0x183 => some .fset
  | 0x184 => some .fclr
  | 0x185 => some .amo
  | 0x186 => some .cas
  | 0x187 => some .cas2
  | 0x188 => some .fork
  | 0x189 => some .join
  | 0x18A => some .halt
  | 0x18B => some .yield
  | 0x18C => some .send
  | 0x18D => some .recv
  | 0x18E => some .cpy
  | 0x18F => some .sgld
  | 0x190 => some .jwait
  | 0x191 => some .jpoll
  | 0x192 => some .tgnode
  | 0x193 => some .tgedge
  | 0x194 => some .tgrun
  | 0x195 => some .sigdecl
  | 0x196 => some .coll
  | 0x197 => some .idle
  | 0x1C0 => some .mfc
  | 0x1C1 => some .mtc
  | 0x1C2 => some .eret
  | 0x1C3 => some .hnew
  | 0x1C4 => some .hrev
  | 0x1C5 => some .rgset
  | 0x1C6 => some .stoprd
  | 0x1C7 => some .ctxsv
  | 0x1C8 => some .ctxld
  | 0x1C9 => some .wftrd
  | 0x1CA => some .mgrd
  | 0x1CB => some .mgwr
  | 0x1CC => some .tenset
  | 0x1CD => some .atlog
  | _ => none

/-- The mnemonic of a shared OP: li.h by Z (R313), halt.retain and send.spawn by X bit 0, cpy.node by X bit 8,
mkapp.bias by X bit 1 (R73, R74). -/
def Op.refine : Op → Fields → Op
  | .li, f => if f.z == 1 then .liH else .li
  | .halt, f => if f.x.getLsbD 0 then .haltRetain else .halt
  | .send, f => if f.x.getLsbD 0 then .sendSpawn else .send
  | .cpy, f => if f.x.getLsbD 8 then .cpyNode else .cpy
  | .mkapp, f => if f.x.getLsbD 1 then .mkappBias else .mkapp
  | o, _ => o

/-- A field value is legal for its class (R55). -/
def Slot.ok : Slot → Fields → BitVec 6 → Bool
  | .reg, _, _ => true
  | .bits, _, _ => true
  | .zero, _, v => v == 0
  | .obj, _, v => v.toNat < 32
  | .pred, _, v => v.toNat < 16
  | .predDest, _, v => v.toNat < 16 && v != 0
  | .low8, _, v => v.toNat < 8
  | .loopReg, _, v => v.toNat ≤ 5
  | .hint, _, v => v == 0 || (4 ≤ v.toNat && v.toNat ≤ 7)
  | .steps, f, v => !f.x.getLsbD 9 || v.toNat < 8
  | .obj30, _, v => v.toNat ≤ 30
  | .reg62, _, v => v.toNat ≤ 62

/-- The form is one the map lists (R59 check 4). -/
def Row.formOk (r : Row) : Form → Bool
  | .f1 => r.f1
  | .f2 => r.f2
  | .f3 => r.f3

/-- X bit 9 selects an immediate or a scalar operand B (R56). -/
def Row.x9Role (r : Row) : Bool := r.lit == .imm || r.lit == .sB

/-- X bit 9 and the other X bits are legal in the form (R56). -/
def Row.xOk (r : Row) (f : Fields) : Bool :=
  (f.x &&& ~~~(if r.x9Role then r.xs ||| 0x200 else r.xs)) == 0
    && (f.form != .f3 || !r.x9Role || f.x.getLsbD 9)
    && (f.form != .f3 || !r.offX || f.x.toNat % 256 == 0)

/-- The source modifier is legal but for its test against the task's width (R58). -/
def Row.smOk (r : Row) (f : Fields) : Bool :=
  (f.smClass == 0 && f.smSeg == 0 && f.smDist == 0)
    || (r.mods && f.smClass != 0 && !f.x.getLsbD 9 && f.smDist.toNat < 2 ^ f.smSeg.toNat)

/-- C holds immediate bits when an imm row takes {B,C} (R56). -/
def Row.cSlot (r : Row) (f : Fields) : Slot :=
  if r.lit == .imm && f.form == .f2 && f.x.getLsbD 9 then .bits else r.c

/-- F1 has the fields of its F2 form with G = 0, C = 0, SM = 0 and X = 0, and F1 and F2 have no literal (R54). -/
def Fields.shapeOk (f : Fields) : Bool :=
  match f.form with
  | .f1 => f.g == 0 && f.c == 0 && f.smClass == 0 && f.smSeg == 0 && f.smDist == 0 && f.x == 0 && f.lit == 0
  | .f2 => f.lit == 0
  | .f3 => true

/-- R59 check 5: Z, G, register fields, zero fields, X, SM and the role of the literal. -/
def Op.fieldsOk (o : Op) (f : Fields) : Bool :=
  let r := o.row
  r.zs.getLsbD f.z.toNat && f.g != 8 && r.xOk f && r.smOk f
    && r.d.ok f f.d && r.a.ok f f.a && r.b.ok f f.b && (r.cSlot f).ok f f.c && o.extra f

/-- The instruction may be written: its form and its fields are legal, and it is the mnemonic its bits select. -/
def Op.legal (o : Op) (f : Fields) : Bool :=
  f.shapeOk && o.row.formOk f.form && o.fieldsOk f

/-! ## Instructions and their parts -/

/-- The instruction of a mnemonic with its fields. -/
def Op.instr : Op → Fields → Instr
  | .nop, f => .nop f
  | .add, f => .add f
  | .sub, f => .sub f
  | .mul, f => .mul f
  | .mulh, f => .mulh f
  | .div, f => .div f
  | .rem, f => .rem f
  | .and, f => .and f
  | .or, f => .or f
  | .xor, f => .xor f
  | .andn, f => .andn f
  | .shl, f => .shl f
  | .shr, f => .shr f
  | .sra, f => .sra f
  | .ror, f => .ror f
  | .min, f => .min f
  | .max, f => .max f
  | .cmp, f => .cmp f
  | .cmpp, f => .cmpp f
  | .sel, f => .sel f
  | .li, f => .li f
  | .liH, f => .liH f
  | .clz, f => .clz f
  | .ctz, f => .ctz f
  | .popc, f => .popc f
  | .brev, f => .brev f
  | .ext, f => .ext f
  | .ins, f => .ins f
  | .pdep, f => .pdep f
  | .pext, f => .pext f
  | .gfm, f => .gfm f
  | .bperm, f => .bperm f
  | .br, f => .br f
  | .bz, f => .bz f
  | .bnz, f => .bnz f
  | .bp, f => .bp f
  | .call, f => .call f
  | .callr, f => .callr f
  | .jmp, f => .jmp f
  | .ret, f => .ret f
  | .loop, f => .loop f
  | .lexit, f => .lexit f
  | .mfl, f => .mfl f
  | .mtl, f => .mtl f
  | .trap, f => .trap f
  | .ld, f => .ld f
  | .st, f => .st f
  | .ldo, f => .ldo f
  | .sto, f => .sto f
  | .alloc, f => .alloc f
  | .olen, f => .olen f
  | .omov, f => .omov f
  | .oview, f => .oview f
  | .oeq, f => .oeq f
  | .acq, f => .acq f
  | .rel, f => .rel f
  | .osync, f => .osync f
  | .odrop, f => .odrop f
  | .pin, f => .pin f
  | .unpin, f => .unpin f
  | .seal, f => .seal f
  | .okind, f => .okind f
  | .ldc, f => .ldc f
  | .stc, f => .stc f
  | .hdl, f => .hdl f
  | .pref, f => .pref f
  | .fence, f => .fence f
  | .vadd, f => .vadd f
  | .vsub, f => .vsub f
  | .vmul, f => .vmul f
  | .vmulh, f => .vmulh f
  | .vmad, f => .vmad f
  | .vmin, f => .vmin f
  | .vmax, f => .vmax f
  | .vabs, f => .vabs f
  | .vand, f => .vand f
  | .vor, f => .vor f
  | .vxor, f => .vxor f
  | .vshl, f => .vshl f
  | .vshr, f => .vshr f
  | .vsra, f => .vsra f
  | .vcmp, f => .vcmp f
  | .vsel, f => .vsel f
  | .vgfm, f => .vgfm f
  | .vpdep, f => .vpdep f
  | .vpext, f => .vpext f
  | .vbperm, f => .vbperm f
  | .vdot4, f => .vdot4 f
  | .vred, f => .vred f
  | .vscan, f => .vscan f
  | .vsplat, f => .vsplat f
  | .viota, f => .viota f
  | .vget, f => .vget f
  | .vput, f => .vput f
  | .vfadd, f => .vfadd f
  | .vfsub, f => .vfsub f
  | .vfmul, f => .vfmul f
  | .vfma, f => .vfma f
  | .vfmin, f => .vfmin f
  | .vfmax, f => .vfmax f
  | .vrcp, f => .vrcp f
  | .vrsq, f => .vrsq f
  | .vexp2, f => .vexp2 f
  | .vlog2, f => .vlog2 f
  | .vfcmp, f => .vfcmp f
  | .vfred, f => .vfred f
  | .vfscan, f => .vfscan f
  | .vcvt, f => .vcvt f
  | .vcvti, f => .vcvti f
  | .vscacc, f => .vscacc f
  | .vcbx, f => .vcbx f
  | .vwacc, f => .vwacc f
  | .vwget, f => .vwget f
  | .vld, f => .vld f
  | .vst, f => .vst f
  | .vlds, f => .vlds f
  | .vsts, f => .vsts f
  | .vgath, f => .vgath f
  | .vscat, f => .vscat f
  | .vldpk, f => .vldpk f
  | .vstpk, f => .vstpk f
  | .vperm, f => .vperm f
  | .vcomp, f => .vcomp f
  | .vexpd, f => .vexpd f
  | .vwhile, f => .vwhile f
  | .vlen, f => .vlen f
  | .pand, f => .pand f
  | .por, f => .por f
  | .pxor, f => .pxor f
  | .pnot, f => .pnot f
  | .pcnt, f => .pcnt f
  | .pset, f => .pset f
  | .gld, f => .gld f
  | .gst, f => .gst f
  | .grank, f => .grank f
  | .vsbp, f => .vsbp f
  | .mma, f => .mma f
  | .msbp, f => .msbp f
  | .mzero, f => .mzero f
  | .mdrain, f => .mdrain f
  | .mread, f => .mread f
  | .mloop, f => .mloop f
  | .mscale, f => .mscale f
  | .cbld, f => .cbld f
  | .mtab, f => .mtab f
  | .nbmv, f => .nbmv f
  | .mkld, f => .mkld f
  | .mkcls, f => .mkcls f
  | .mkapp, f => .mkapp f
  | .mkappBias, f => .mkappBias f
  | .mkcnt, f => .mkcnt f
  | .agx, f => .agx f
  | .fld, f => .fld f
  | .ftake, f => .ftake f
  | .fput, f => .fput f
  | .fset, f => .fset f
  | .fclr, f => .fclr f
  | .amo, f => .amo f
  | .cas, f => .cas f
  | .cas2, f => .cas2 f
  | .fork, f => .fork f
  | .join, f => .join f
  | .halt, f => .halt f
  | .haltRetain, f => .haltRetain f
  | .yield, f => .yield f
  | .send, f => .send f
  | .sendSpawn, f => .sendSpawn f
  | .recv, f => .recv f
  | .cpy, f => .cpy f
  | .cpyNode, f => .cpyNode f
  | .sgld, f => .sgld f
  | .jwait, f => .jwait f
  | .jpoll, f => .jpoll f
  | .tgnode, f => .tgnode f
  | .tgedge, f => .tgedge f
  | .tgrun, f => .tgrun f
  | .sigdecl, f => .sigdecl f
  | .coll, f => .coll f
  | .idle, f => .idle f
  | .mfc, f => .mfc f
  | .mtc, f => .mtc f
  | .eret, f => .eret f
  | .hnew, f => .hnew f
  | .hrev, f => .hrev f
  | .rgset, f => .rgset f
  | .stoprd, f => .stoprd f
  | .ctxsv, f => .ctxsv f
  | .ctxld, f => .ctxld f
  | .wftrd, f => .wftrd f
  | .mgrd, f => .mgrd f
  | .mgwr, f => .mgwr f
  | .tenset, f => .tenset f
  | .atlog, f => .atlog f

/-- The mnemonic and the fields of an instruction; none for an event. -/
def Instr.parts : Instr → Option (Op × Fields)
  | .nop f => some (.nop, f)
  | .add f => some (.add, f)
  | .sub f => some (.sub, f)
  | .mul f => some (.mul, f)
  | .mulh f => some (.mulh, f)
  | .div f => some (.div, f)
  | .rem f => some (.rem, f)
  | .and f => some (.and, f)
  | .or f => some (.or, f)
  | .xor f => some (.xor, f)
  | .andn f => some (.andn, f)
  | .shl f => some (.shl, f)
  | .shr f => some (.shr, f)
  | .sra f => some (.sra, f)
  | .ror f => some (.ror, f)
  | .min f => some (.min, f)
  | .max f => some (.max, f)
  | .cmp f => some (.cmp, f)
  | .cmpp f => some (.cmpp, f)
  | .sel f => some (.sel, f)
  | .li f => some (.li, f)
  | .liH f => some (.liH, f)
  | .clz f => some (.clz, f)
  | .ctz f => some (.ctz, f)
  | .popc f => some (.popc, f)
  | .brev f => some (.brev, f)
  | .ext f => some (.ext, f)
  | .ins f => some (.ins, f)
  | .pdep f => some (.pdep, f)
  | .pext f => some (.pext, f)
  | .gfm f => some (.gfm, f)
  | .bperm f => some (.bperm, f)
  | .br f => some (.br, f)
  | .bz f => some (.bz, f)
  | .bnz f => some (.bnz, f)
  | .bp f => some (.bp, f)
  | .call f => some (.call, f)
  | .callr f => some (.callr, f)
  | .jmp f => some (.jmp, f)
  | .ret f => some (.ret, f)
  | .loop f => some (.loop, f)
  | .lexit f => some (.lexit, f)
  | .mfl f => some (.mfl, f)
  | .mtl f => some (.mtl, f)
  | .trap f => some (.trap, f)
  | .ld f => some (.ld, f)
  | .st f => some (.st, f)
  | .ldo f => some (.ldo, f)
  | .sto f => some (.sto, f)
  | .alloc f => some (.alloc, f)
  | .olen f => some (.olen, f)
  | .omov f => some (.omov, f)
  | .oview f => some (.oview, f)
  | .oeq f => some (.oeq, f)
  | .acq f => some (.acq, f)
  | .rel f => some (.rel, f)
  | .osync f => some (.osync, f)
  | .odrop f => some (.odrop, f)
  | .pin f => some (.pin, f)
  | .unpin f => some (.unpin, f)
  | .seal f => some (.seal, f)
  | .okind f => some (.okind, f)
  | .ldc f => some (.ldc, f)
  | .stc f => some (.stc, f)
  | .hdl f => some (.hdl, f)
  | .pref f => some (.pref, f)
  | .fence f => some (.fence, f)
  | .vadd f => some (.vadd, f)
  | .vsub f => some (.vsub, f)
  | .vmul f => some (.vmul, f)
  | .vmulh f => some (.vmulh, f)
  | .vmad f => some (.vmad, f)
  | .vmin f => some (.vmin, f)
  | .vmax f => some (.vmax, f)
  | .vabs f => some (.vabs, f)
  | .vand f => some (.vand, f)
  | .vor f => some (.vor, f)
  | .vxor f => some (.vxor, f)
  | .vshl f => some (.vshl, f)
  | .vshr f => some (.vshr, f)
  | .vsra f => some (.vsra, f)
  | .vcmp f => some (.vcmp, f)
  | .vsel f => some (.vsel, f)
  | .vgfm f => some (.vgfm, f)
  | .vpdep f => some (.vpdep, f)
  | .vpext f => some (.vpext, f)
  | .vbperm f => some (.vbperm, f)
  | .vdot4 f => some (.vdot4, f)
  | .vred f => some (.vred, f)
  | .vscan f => some (.vscan, f)
  | .vsplat f => some (.vsplat, f)
  | .viota f => some (.viota, f)
  | .vget f => some (.vget, f)
  | .vput f => some (.vput, f)
  | .vfadd f => some (.vfadd, f)
  | .vfsub f => some (.vfsub, f)
  | .vfmul f => some (.vfmul, f)
  | .vfma f => some (.vfma, f)
  | .vfmin f => some (.vfmin, f)
  | .vfmax f => some (.vfmax, f)
  | .vrcp f => some (.vrcp, f)
  | .vrsq f => some (.vrsq, f)
  | .vexp2 f => some (.vexp2, f)
  | .vlog2 f => some (.vlog2, f)
  | .vfcmp f => some (.vfcmp, f)
  | .vfred f => some (.vfred, f)
  | .vfscan f => some (.vfscan, f)
  | .vcvt f => some (.vcvt, f)
  | .vcvti f => some (.vcvti, f)
  | .vscacc f => some (.vscacc, f)
  | .vcbx f => some (.vcbx, f)
  | .vwacc f => some (.vwacc, f)
  | .vwget f => some (.vwget, f)
  | .vld f => some (.vld, f)
  | .vst f => some (.vst, f)
  | .vlds f => some (.vlds, f)
  | .vsts f => some (.vsts, f)
  | .vgath f => some (.vgath, f)
  | .vscat f => some (.vscat, f)
  | .vldpk f => some (.vldpk, f)
  | .vstpk f => some (.vstpk, f)
  | .vperm f => some (.vperm, f)
  | .vcomp f => some (.vcomp, f)
  | .vexpd f => some (.vexpd, f)
  | .vwhile f => some (.vwhile, f)
  | .vlen f => some (.vlen, f)
  | .pand f => some (.pand, f)
  | .por f => some (.por, f)
  | .pxor f => some (.pxor, f)
  | .pnot f => some (.pnot, f)
  | .pcnt f => some (.pcnt, f)
  | .pset f => some (.pset, f)
  | .gld f => some (.gld, f)
  | .gst f => some (.gst, f)
  | .grank f => some (.grank, f)
  | .vsbp f => some (.vsbp, f)
  | .mma f => some (.mma, f)
  | .msbp f => some (.msbp, f)
  | .mzero f => some (.mzero, f)
  | .mdrain f => some (.mdrain, f)
  | .mread f => some (.mread, f)
  | .mloop f => some (.mloop, f)
  | .mscale f => some (.mscale, f)
  | .cbld f => some (.cbld, f)
  | .mtab f => some (.mtab, f)
  | .nbmv f => some (.nbmv, f)
  | .mkld f => some (.mkld, f)
  | .mkcls f => some (.mkcls, f)
  | .mkapp f => some (.mkapp, f)
  | .mkappBias f => some (.mkappBias, f)
  | .mkcnt f => some (.mkcnt, f)
  | .agx f => some (.agx, f)
  | .fld f => some (.fld, f)
  | .ftake f => some (.ftake, f)
  | .fput f => some (.fput, f)
  | .fset f => some (.fset, f)
  | .fclr f => some (.fclr, f)
  | .amo f => some (.amo, f)
  | .cas f => some (.cas, f)
  | .cas2 f => some (.cas2, f)
  | .fork f => some (.fork, f)
  | .join f => some (.join, f)
  | .halt f => some (.halt, f)
  | .haltRetain f => some (.haltRetain, f)
  | .yield f => some (.yield, f)
  | .send f => some (.send, f)
  | .sendSpawn f => some (.sendSpawn, f)
  | .recv f => some (.recv, f)
  | .cpy f => some (.cpy, f)
  | .cpyNode f => some (.cpyNode, f)
  | .sgld f => some (.sgld, f)
  | .jwait f => some (.jwait, f)
  | .jpoll f => some (.jpoll, f)
  | .tgnode f => some (.tgnode, f)
  | .tgedge f => some (.tgedge, f)
  | .tgrun f => some (.tgrun, f)
  | .sigdecl f => some (.sigdecl, f)
  | .coll f => some (.coll, f)
  | .idle f => some (.idle, f)
  | .mfc f => some (.mfc, f)
  | .mtc f => some (.mtc, f)
  | .eret f => some (.eret, f)
  | .hnew f => some (.hnew, f)
  | .hrev f => some (.hrev, f)
  | .rgset f => some (.rgset, f)
  | .stoprd f => some (.stoprd, f)
  | .ctxsv f => some (.ctxsv, f)
  | .ctxld f => some (.ctxld, f)
  | .wftrd f => some (.wftrd, f)
  | .mgrd f => some (.mgrd, f)
  | .mgwr f => some (.mgwr, f)
  | .tenset f => some (.tenset, f)
  | .atlog f => some (.atlog, f)
  | .migration _ => none
  | .deferredResultWrite _ _ _ => none
  | .dequePop _ => none
  | .steal _ => none
  | .spillReturn _ => none
  | .forkPlace _ => none
  | .fullEmptyRetry _ => none
  | .joinWake _ => none
  | .acqGrant _ => none
  | .jwaitWake _ => none
  | .idleWake _ => none
  | .messageArrival _ => none
  | .spawnPush _ => none
  | .recvDelivery _ => none
  | .sendInboxEntry _ => none
  | .icoldWrite _ _ _ => none
  | .tgNodeReady _ _ => none
  | .tgNodeFinish _ _ => none
  | .tgHeldPlace _ => none
  | .copyNodeKick _ _ => none
  | .powerLeaveGrant _ => none
  | .tilePass _ => none
  | .nbmvJobStart _ => none
  | .nbmvJobComplete _ => none
  | .fabricJobStart _ => none
  | .chunkCommit _ => none
  | .fabricJobComplete _ => none
  | .collRoundComplete _ => none
  | .prefCopyComplete _ _ => none
  | .collection _ _ => none
  | .collectionEnd _ _ => none
  | .regionEvacuation _ _ _ => none
  | .glcmdGo _ _ _ => none
  | .glpauseRead _ _ => none
  | .qtailWrite _ _ _ => none
  | .qctlEnable _ _ _ => none
  | .launchSelect _ => none
  | .launchRootPlace _ => none
  | .launchComplete _ => none
  | .derrWrite _ _ => none
  | .partitionWrite _ _ _ => none
  | .sliceBoundary _ _ => none
  | .contextSwap _ _ => none
  | .haltReport _ => none
  | .agentStop _ => none
  | .hresGo _ => none
  | .hresHandler _ => none
  | .hresEnd _ => none
  | .waitAbort _ => none
  | .mCoreFault _ => none
  | .vigilScan _ => none
  | .remoteStoreRefused _ => none
  | .routerDelivery _ => none
  | .atomicResponseError _ _ => none
  | .hostAccess _ _ _ => none
  | .correctedError _ _ => none
  | .uncorrectableError _ => none
  | .lastingFaultAction _ => none
  | .errorWindowLapse _ _ => none
  | .flitReceive _ _ _ _ _ _ => none
  | .flitReplay _ _ => none
  | .linkTraining _ _ _ => none
  | .portDown _ => none
  | .ethernetFrame _ _ _ _ => none
  | .boot _ => none
  | .coldStartWarming _ _ => none
  | .warmingTimeout => none
  | .attestationRequest _ => none
  | .clockStretch _ _ => none
  | .stretchRelax _ => none
  | .stretchCountRead _ _ => none
  | .ctlRun _ _ => none
  | .ctlQuiesce _ _ => none
  | .ctlTrainMode _ _ => none
  | .ctlWriteApply _ => none
  | .patternRunDone _ _ => none
  | .rdlyWrite _ _ _ => none
  | .wdlyWrite _ _ _ => none
  | .repairWrite _ _ => none
  | .autoRetrain _ _ => none
  | .autoRetrainDone _ => none
  | .mgmtRegisterWrite _ _ => none
  | .undecodableParcel _ => none
  | .storeBufferDrain _ _ => none
  | .priResponse _ _ => none
  | .firmwareKernelStart _ _ _ _ => none
  | .firmwareMailboxMessage _ => none
  | .deviceControl2Write _ _ => none
  | .referenceClockTick _ => none

/-! ## Parcels -/

/-- Why a parcel is no instruction (R59 checks 2 to 5). -/
inductive Reject where
  | illegalOpcode
  | illegalEncoding
deriving DecidableEq, Repr

/-- The fault that executing a rejected parcel raises. -/
def Reject.code : Reject → FaultCode
  | .illegalOpcode => .illegalOpcode
  | .illegalEncoding => .illegalEncoding

/-- LEN of each form (R51). -/
def Form.len : Form → BitVec 2
  | .f1 => 0
  | .f2 => 1
  | .f3 => 2

/-- The number of parcels of each form. -/
def Form.parcels : Form → Nat
  | .f1 => 1
  | .f2 => 2
  | .f3 => 3

/-- Parcel 0 (R52). -/
def parcel0 (code : BitVec 9) (f : Fields) : Word32 :=
  f.z ++ f.b ++ f.a ++ f.d ++ code ++ BitVec.ofBool f.m ++ f.form.len

/-- Parcel 1 (R53). -/
def parcel1 (f : Fields) : Word32 :=
  f.x ++ f.smClass ++ f.smSeg ++ f.smDist ++ f.c ++ f.g

/-- The fields that parcel 0 gives. -/
def fields0 (form : Form) (p : Word32) : Fields :=
  { form := form, m := p.getLsbD 2, z := p.extractLsb' 30 2, d := p.extractLsb' 12 6, a := p.extractLsb' 18 6,
    b := p.extractLsb' 24 6 }

/-- The fields with those of parcel 1. -/
def fields1 (f : Fields) (p : Word32) : Fields :=
  { f with
    g := p.extractLsb' 0 4, c := p.extractLsb' 4 6, smDist := p.extractLsb' 10 6, smSeg := p.extractLsb' 16 4,
    smClass := p.extractLsb' 20 2, x := p.extractLsb' 22 10 }

/-- The fields of the instruction that begins with parcel `p`, and the parcels after it; none when LEN = 11 or the
parcels end first (R51, R64). -/
def takeFields (p : Word32) (rest : List Word32) : Option (Fields × List Word32) :=
  match (p.extractLsb' 0 2).toNat, rest with
  | 0, rest => some (fields0 .f1 p, rest)
  | 1, p1 :: rest => some (fields1 (fields0 .f2 p) p1, rest)
  | 2, p1 :: p2 :: rest => some ({ fields1 (fields0 .f3 p) p1 with lit := p2 }, rest)
  | _, _ => none

/-- Decode the instruction that begins with the first parcel, in the order of R59 checks 2 to 5: its mnemonic and fields
and the parcels after it, or why it is no instruction. -/
def decodeOp : List Word32 → Except Reject ((Op × Fields) × List Word32)
  | [] => .error .illegalEncoding
  | p :: rest =>
    match takeFields p rest with
    | none => .error .illegalEncoding
    | some (f, rest) =>
      match Op.ofCode (p.extractLsb' 3 9).toNat with
      | none => .error .illegalOpcode
      | some o =>
        if (o.refine f).legal f then .ok (((o.refine f), f), rest) else .error .illegalEncoding

/-- Decode parcels to an instruction. -/
def decodeParcels (ps : List Word32) : Except Reject (Instr × List Word32) :=
  match decodeOp ps with
  | .error e => .error e
  | .ok ((o, f), rest) => .ok (o.instr f, rest)

/-- A parcel from its four bytes, the first the least significant (R1). -/
def parcelOfBytes (b0 b1 b2 b3 : Byte) : Word32 := b3 ++ b2 ++ b1 ++ b0

/-- The parcels of a byte sequence; bytes past the last whole parcel are left. -/
def parcelsOfBytes : List Byte → List Word32
  | b0 :: b1 :: b2 :: b3 :: rest => parcelOfBytes b0 b1 b2 b3 :: parcelsOfBytes rest
  | _ => []

/-- The bytes of a parcel, the least significant first (R1). -/
def bytesOfParcel (p : Word32) : List Byte :=
  [p.extractLsb' 0 8, p.extractLsb' 8 8, p.extractLsb' 16 8, p.extractLsb' 24 8]

/-- Decode a byte sequence: the instruction at its start and the parcels after it. -/
def decode (bs : List Byte) : Except Reject (Instr × List Word32) := decodeParcels (parcelsOfBytes bs)

/-! ## Encoding -/

/-- The parcels of a mnemonic with its fields. -/
def encodeOp (o : Op) (f : Fields) : List Word32 :=
  match f.form with
  | .f1 => [parcel0 o.row.code f]
  | .f2 => [parcel0 o.row.code f, parcel1 f]
  | .f3 => [parcel0 o.row.code f, parcel1 f, f.lit]

/-- The parcels of an instruction; an event has none. -/
def encode (i : Instr) : List Word32 :=
  match i.parts with
  | some (o, f) => encodeOp o f
  | none => []

/-! ## The opcode table's numbering -/

/-- The three parcels of an instruction whose bits are `w`, the first parcel lowest. -/
def tableParcels (w : Nat) : List Word32 :=
  [BitVec.ofNat 32 w, BitVec.ofNat 32 (w / 2 ^ 32), BitVec.ofNat 32 (w / 2 ^ 64)]

/-- The instruction that the decoder reads from the bits of a row of spec/opcode_table.json: bit 0 is the least
significant bit of the first parcel, and every bit above `nbits` is 0. -/
def decodeTableWord (nbits w : Nat) : Option Instr :=
  match decode ((tableParcels (w % 2 ^ nbits)).flatMap bytesOfParcel) with
  | .ok (i, _) => some i
  | .error _ => none

end Sys2Proof
end

