-- ==== Sys2Proof/Machine/State.lean ====
section
/-!
DEFINITION. The state of the package as plain data, and the state after reset. Each field names the rule that gives
it; INVENTORY.md lists them with their reset values. A value that the spec does not state is marked in
notes/assumptions/4.md (registers), 3.md (memory) or 1.md and 2.md (the model's own fields).
-/

namespace Sys2Proof.Machine

/-- A sparse map keyed by number: keys strictly rise; a key that is not listed holds the reader's default. -/
abbrev FMap (α : Type) := List (Nat × α)

/-- Memory: listed bytes at rising addresses, none of them 0, which is what an unlisted byte reads as (log entry 3). -/
abbrev Memory := List Host.Cell

/-! ## Tasks -/

/-- The states of a task slot (R90); `stopped` is a task that a fault or a halt has stopped (R228). -/
inductive SlotState where
  | free | ready | parked | paused | moving | stopped
deriving DecidableEq, Repr

/-- What a parked task waits on, in the order of the codes of R237 from 1. -/
inductive WaitKind where
  | fullEmpty | join | jwait | acq | recv | send | idle | migration | room | queue | mailbox
deriving DecidableEq, Repr

/-- A task record (R92), with what the hardware keeps beside its 64 bytes. -/
structure Record where
  tenant : BitVec 16 := 0
  origin : BitVec 2 := 0
  domain : BitVec 2 := 0
  acore : Bool := false
  width : BitVec 2 := 0
  entry : Word32 := 0
  arg : Word64 := 0
  join : Word64 := 0
  creator : Word32 := 0
  recCore : BitVec 16 := 0
  recCount : BitVec 16 := 0
  x1 : Word64 := 0
  x2 : Word64 := 0
  x3 : Word64 := 0
  x4 : Word64 := 0
  /-- Initial x7: a node id or a root index. -/
  x7 : Word64 := 0
  node : Option Word32 := none
  launch : Option Nat := none
  part : Nat := 0
  ctx : Nat := 0
  /-- An uncorrectable error has struck it in its spill area (R97, R240). -/
  bad : Bool := false
deriving DecidableEq, Repr

/-- A fault with what its stop record and handler need (R230, R232). -/
structure Flt where
  code : FaultCode
  /-- Value for `c.eval`. -/
  eval : Word64 := 0
  /-- Canonical pointer involved. -/
  ptr : Word64 := 0
  /-- Payload offset or failing address. -/
  offset : Word64 := 0
  progress : Word64 := 0
  /-- A remote store whose source log entry is gone (R233). -/
  lost : Bool := false
deriving DecidableEq, Repr

/-- An operator of a stream graph: its record's words (R193). -/
structure GraphOp where
  code : Nat
  words : List Word64
deriving DecidableEq, Repr

/-- An edge of a stream graph (R192). -/
structure GraphEdge where
  src : Nat
  srcPort : Nat
  dst : Nat
  dstPort : Nat
deriving DecidableEq, Repr

/-- A stream graph (R192). -/
structure Graph where
  strict : Bool
  edges : List GraphEdge
  ops : List GraphOp
deriving DecidableEq, Repr

/-- A copy job of a fabric or a DMA engine (R184 to R191, R198 to R200). -/
structure CopyJob where
  job : Word32
  /-- Issuing core (whose mailbox it fills), or none for a copy-job node. -/
  core : Option CoreId
  cluster : ClusterId
  tid : Word32
  part : Nat
  ctx : Nat
  launch : Option Nat
  /-- Tenant that its traffic carries (R223). -/
  tenant : BitVec 16
  src : BitVec 128
  dst : BitVec 128
  graph : Option Graph
  node : Option (Nat × Nat)
  /-- State of a staged source before the job, which it returns to. -/
  srcState : Option (BitVec 4)
  /-- The writes of the job, in order of production, 256 bytes a chunk; bytes with their offset from the destination's header. -/
  plan : List (List (Nat × Byte))
  committed : Nat
  /-- The elements dropped, each by the bytes that the job had produced before it (R199). -/
  drops : List Nat
  mismatch : Bool
  /-- The used bytes of a packed destination when the job started: what PACK appends after, also on resume (R193, R199). -/
  packed : Option Nat
  /-- The fault that strikes after the plan's chunks (R196, R199, R406). -/
  fault : Option Flt
  started : Bool
  /-- Power leave has been asked for. -/
  asked : Bool
  /-- Power leave is still to be granted. -/
  waitsLeave : Bool
deriving DecidableEq, Repr

/-- A near-bank job (R159 to R164). -/
structure NbJob where
  job : Word32
  core : CoreId
  tid : Word32
  part : Nat
  ctx : Nat
  launch : Option Nat
  /-- Tenant that its traffic carries (R223). -/
  tenant : BitVec 16
  oa : BitVec 128
  ob : BitVec 128
  oc : BitVec 128
  m : Nat
  fmt : Nat
  n : Nat
  k : Nat
  started : Bool
  waitsLeave : Bool
deriving DecidableEq, Repr

/-- A parked task's wait: the fields of its wait-for entry (R237), the instruction that parked, and its arrival. -/
structure Wait where
  kind : WaitKind
  op : Op
  f : Fields
  object : Word64 := 0
  signaller : Word32 := 0
  offset : Word32 := 0
  since : Word64 := 0
  /-- Position in the order of parking. -/
  order : Nat := 0
  /-- What is waited on: a sync word's physical address, a mailbox, a target core, a reserved slot. -/
  aux : Nat := 0
  /-- The record of a FORK that has found no room (R93). -/
  record : Option Record := none
  /-- The job of a CPY that waits for a queue entry (R184, R191). -/
  copy : Option CopyJob := none
  /-- The job of an NBMV that waits for a queue entry (R162, R324). -/
  near : Option NbJob := none
deriving DecidableEq, Repr

/-- A codebook: 16 BF16 entries, code 0 in the low bits, the codes in rank order (4 bits each, rank 0 low), and the
epact table, rank 0 low (R138). -/
structure Codebook where
  entries : BitVec 256
  ranks : BitVec 64
  epact : BitVec 512
deriving DecidableEq, Repr

/-- A mask literal (R165, R166). -/
structure MaskLit where
  op : BitVec 3
  term : BitVec 3
  neg : Bool
  lo : Int
  hi : Int
deriving DecidableEq, Repr

/-- A mask program with its document starts (R165, R166). -/
structure MaskProg where
  terms : Nat
  lits : List MaskLit
  starts : List Nat
deriving DecidableEq, Repr

/-- A record that MSCALE or MTAB binds: the register's contents and the record kind (R150). -/
structure Binding where
  reg : BitVec 128
  kind : Nat
deriving DecidableEq, Repr

/-- The destination of a deferred result (R60): a register, or the core or fabric state that a class D instruction
without a register destination replaces (R138, R150, R174, R189). -/
inductive Dest where
  | x (n : BitVec 6)
  | o (n : BitVec 6)
  | v (n : BitVec 6)
  | p (n : BitVec 6)
  | g (n : BitVec 6)
  | w (n : BitVec 6)
  | el (n : BitVec 6)
  | scale (opB : Bool) (b : Option Binding)
  | tab (b : Option Binding)
  | codebook (slot1 : Bool) (cb : Codebook)
  | mask (slot1 : Bool) (prog : MaskProg)
  | graph (slot : Nat) (g : Graph)
deriving DecidableEq, Repr

/-- How the value of a load follows from the bytes it reads (R203, R309, R310, R370). -/
inductive Reload where
  /-- An x register, from a whole element, zero-extended or sign-extended. -/
  | word (zext : Bool)
  /-- Elements side by side. -/
  | lanes
  /-- The pointer in element 0, with the length in the header of its object, which is element 1; both are read at one moment. -/
  | pointer
  /-- Tile `i` of the packed view that is element 0, elements of `es` bytes, in the lanes given. -/
  | tile (i es : Nat) (lanes : List Nat)
deriving DecidableEq, Repr

/-- An element of a load that may still be performed at a later moment (R205, R208, R370). -/
structure Elem where
  /-- Its number in the result. -/
  idx : Nat := 0
  /-- Physical addresses of the object's header and of the element's first byte, and its bytes. -/
  hdr : Nat
  addr : Nat
  size : Nat
  /-- It is read in a copy, and is private (R204). -/
  priv : Bool := false
deriving DecidableEq, Repr

/-- The way of a request to another package: the package, the I/O die whose route it took, and the port it went out on (R247). -/
structure Via where
  pkg : Nat
  io : Nat
  port : Nat
deriving DecidableEq, Repr

/-- An outstanding deferred result (R60 to R63). -/
structure Pend where
  dest : Dest
  /-- The value, in the low bits. -/
  val : BitVec 4096 := 0
  /-- The units still to be written: bytes of a v register, lanes of a w register, bits of a p register, else bit 0. -/
  mask : BitVec 256 := 1
  /-- Units in one element: an element is written whole. -/
  unit : Nat := 1
  /-- Flags that each element sets in c.fflags when it is written (R123, R364), element 0 first. -/
  flags : List (BitVec 6) := []
  /-- The result of an atomic, with its canonical pointer and offset (R234). -/
  atomic : Option (Word64 × Word64) := none
  /-- A fault that arises after issue instead of a result (R63). -/
  fault : Option Flt := none
  /-- The elements of a load that may still be performed at a later moment, and how the value follows from them. -/
  src : List Elem := []
  how : Reload := .lanes
  /-- Place of the load in its task's program order. -/
  seq : Nat := 0
  /-- The message in the mesh whose entry into its inbox gives the result (R101). -/
  msg : Option Nat := none
  /-- The way of the request in flight, for a result that comes from another package (R247). -/
  peer : Option Via := none
  /-- Parcel address of the deferred instruction (R63). -/
  pc : Word32 := 0
deriving DecidableEq, Repr

/-- A canonical store in a task's store buffer (R208). -/
structure Store where
  /-- Physical address of the first byte, and of the object's header. -/
  addr : Nat
  hdr : Nat
  bytes : List Byte
  /-- Home: a compute die 0–3, or 4 for a window or another package, whose stores keep no order but that of the same bytes (R209). -/
  home : Nat
  /-- The store goes to another die, and is posted (R233). -/
  posted : Bool
  ptr : Word64
  pc : Word32
  /-- Zero bytes that follow `bytes`: the payload of a new object (R271). -/
  zero : Nat := 0
  /-- The bytes are a pointer that STO stores. -/
  isPtr : Bool := false
  /-- Place in the task's program order; the elements of one instruction share it (R392). -/
  seq : Nat := 0
  /-- A full fence below pkg scope stands between the store and what follows (R212). -/
  fenced : Bool := false
  /-- What comes before the store by a release fence: the accesses up to this place to the dies (pkg), and to every home (dom, sys)
  (R209, R212). -/
  pkgBar : Nat := 0
  sysBar : Nat := 0
  /-- Number of the source-log entry of a posted store (R233). -/
  log : Nat := 0
deriving DecidableEq, Repr

/-- What a stopped task or unit reports in its stop record (R230). -/
structure StopInfo where
  /-- The fault, or none when stopped only by the halt. -/
  code : Option FaultCode := none
  ptr : Word64 := 0
  offset : Word64 := 0
  progress : Word64 := 0
  /-- The value that R232 gives c.eval. -/
  eval : Word64 := 0
  /-- Parcel address of the stopped or faulting instruction. -/
  pos : Word32 := 0
  /-- What c.epc takes at handler entry. -/
  epc : Word32 := 0
  handler : Bool := false
  lost : Bool := false
  /-- The fault was raised at issue (R63, R232). -/
  atIssue : Bool := true
deriving DecidableEq, Repr

/-- An AGX that has expanded some of its query tiles (R177, R178): the slot and the record it copied. -/
structure AgxJob where
  pc : Word32
  slot1 : Bool
  prog : MaskProg
  /-- Next query tile, and the tile after the last. -/
  tile : Nat
  stop : Nat
  keyFirst : Nat
  keyStop : Nat
  dies : BitVec 4
  join : Word64
  /-- Node ids of the templates. -/
  compute : Word32
  merge : Word32
  /-- Nodes made so far. -/
  made : Nat
deriving DecidableEq, Repr

/-- A task slot with the state of its task (R88). -/
structure Task where
  status : SlotState
  gen : BitVec 13
  tid : Word32
  pc : Word32
  x : Vector Word64 64
  o : Vector (BitVec 128) 32
  v : Vector (BitVec 2048) 64
  p : Vector (BitVec 256) 16
  g : Vector (BitVec 384) 8
  w : Vector (BitVec 4096) 8
  ls0 : Word64
  le0 : Word64
  lc0 : Word64
  ls1 : Word64
  le1 : Word64
  lc1 : Word64
  fflags : Word64
  cause : Word64
  epc : Word64
  eval : Word64
  tvec : Word64
  /-- Task width is 256 · 2^width bits. -/
  width : BitVec 2
  acore : Bool
  tenant : BitVec 16
  /-- Stealing domain (R98). -/
  domain : BitVec 2
  /-- Partition and context; partition 16 for a task of an M-core. -/
  part : Nat
  ctx : Nat
  /-- The task runs at privileged level (R262). -/
  priv : Bool
  join : Word64
  /-- Task graph node that the task runs. -/
  node : Option Word32
  /-- The launch it descends from. -/
  launch : Option Nat
  pend : List Pend
  sb : List Store
  wait : Option Wait
  /-- YIELD: the next pass of the rotation skips the slot (R399). -/
  skip : Bool
  /-- The task has fallen through past the last parcel of its loaded code (R65). -/
  past : Bool
  /-- Canonical pointers of the copies that a retain HALT pinned (R95). -/
  pins : List Word64
  /-- An AGX in progress. -/
  agx : Option AgxJob
  stop : Option StopInfo
  /-- Memory instructions so far: the task's place in its program order (R205, R208). -/
  seq : Nat
  /-- The place of the last release fence at pkg, and at dom or sys (R212). -/
  pkgBar : Nat
  sysBar : Nat
  /-- The host page whose translation the host has refused to the instruction that the task is at (R239). -/
  refused : Option Nat
deriving DecidableEq, Repr

/-- A free slot that has started no task. -/
def Task.empty : Task :=
  { status := .free, gen := 0, tid := 0, pc := 0, x := Vector.replicate 64 0, o := Vector.replicate 32 0
    v := Vector.replicate 64 0, p := Vector.replicate 16 0, g := Vector.replicate 8 0, w := Vector.replicate 8 0
    ls0 := 0, le0 := 0, lc0 := 0, ls1 := 0, le1 := 0, lc1 := 0, fflags := 0, cause := 0, epc := 0, eval := 0, tvec := 0
    width := 0, acore := false, tenant := 0, domain := 0, part := 0, ctx := 0, priv := false, join := 0, node := none
    launch := none, pend := [], sb := [], wait := none, skip := false, past := false, pins := [], agx := none
    stop := none, seq := 0, pkgBar := 0, sysBar := 0, refused := none }

/-- A message in flight or in an inbox (R100). -/
structure Message where
  /-- Target core. -/
  target : CoreId
  tag : Word32
  sender : Word32
  tenant : BitVec 16
  spawn : Bool
  orphan : Bool
  bytes : List Byte
  /-- The record of a spawn message. -/
  record : Option Record := none
  /-- The router of the destination has passed it (R223). -/
  routed : Bool := false
  /-- It has taken an entry of its inbox, though it has not arrived yet (R101). -/
  held : Bool := false
  /-- When it entered the mesh, in the order of arrivals. -/
  seq : Nat := 0
  /-- Parcel address of its SEND, which a refusal's fault names (R63, R344). -/
  pc : Word32 := 0
  /-- The sender's partition and context: it arrives while that context is in (R224, R226). -/
  part : Nat := 16
  ctx : Nat := 0
  /-- An uncorrectable error has struck its entry of the inbox (R240). -/
  bad : Bool := false
deriving DecidableEq, Repr

/-- An entry of a core's copy map (R32). -/
structure Copy where
  canon : Word64
  copy : Word64
  /-- Whole size in bytes, header and payload. -/
  size : Nat
  /-- Dirty 64-byte payload blocks (R34). -/
  dirty : List Nat
  /-- Slots whose retain HALT pinned it (R95). -/
  pins : List Nat
  /-- False while blocks of it are still to be read (R33, R337). -/
  complete : Bool
  /-- The next payload block to read, in ascending order (R33). -/
  next : Nat := 0
  /-- The task for which the copy is made, and the touch's or the prefetch's place in its program order: the task's own earlier accesses
  come before the reads of the copy (R205, R337). -/
  reader : Option (Word32 × Nat) := none
  /-- A prefetch makes it (R337). -/
  pref : Bool := false
deriving DecidableEq, Repr

/-- A job mailbox, whose word stands in memory (R186, R308). -/
structure Mailbox where
  taken : Bool
  seq : BitVec 24
  /-- Task that took it. -/
  owner : Word32
  full : Bool
  /-- Scope of the fill's release. -/
  scope : Nat
deriving DecidableEq, Repr

/-- A mailbox that no job has. -/
def Mailbox.free : Mailbox := { taken := false, seq := 0, owner := 0, full := false, scope := 0 }

/-- A queue command of the matrix engine with all that it captured (R141, R147). -/
inductive MKind where
  | mma | msbp | mzero | mdrain
deriving DecidableEq, Repr

/-- An entry of a matrix queue. -/
structure MCmd where
  kind : MKind
  /-- Accumulator. -/
  acc : Nat
  fa : Nat := 0
  fb : Nat := 0
  scaled : Bool := false
  steps : Nat := 0
  /-- K steps committed so far. -/
  done : Nat := 0
  oa : BitVec 128 := 0
  ob : BitVec 128 := 0
  /-- The records that were bound at issue (R319). -/
  scaleA : Option Binding := none
  scaleB : Option Binding := none
  tab : Option Binding := none
  cb : Codebook := ⟨0, 0, 0⟩
  /-- Format of MDRAIN is fa; .sat and .clr. -/
  sat : Bool := false
  clr : Bool := false
  job : Word32 := 0
  tid : Word32 := 0
  part : Nat := 0
  /-- Tenant that its traffic carries (R223). -/
  tenant : BitVec 16 := 0
  launch : Option Nat := none
  /-- An uncorrectable error has struck the entry (R240). -/
  bad : Bool := false
deriving DecidableEq, Repr

/-- An accumulator: working and committed tile, element (i, c) at key 64·i + c and +0 where unlisted, and the step
counter (R151). -/
structure Acc where
  work : FMap Word32
  tile : FMap Word32
  count : Word32
  /-- An uncorrectable error has struck it, and nothing has written it whole since (R240). -/
  bad : Bool
deriving DecidableEq, Repr

/-- A mask slot and its counters (R169). -/
structure MaskSlot where
  prog : Option MaskProg
  empty : Word64
  partialTiles : Word64
  full : Word64
deriving DecidableEq, Repr

/-- An atomic in a home's result log (R234, R275). -/
structure AtomicLog where
  tid : Word32
  op : BitVec 8
  lost : Bool
  ptr : Word64
  offset : Word64
  old : Word64
  oldHigh : Word64
  /-- The home: a compute die 0–3, or 4 + I/O die for windows. -/
  home : Nat
deriving DecidableEq, Repr

/-- A posted remote store in a core's source log (R233). -/
structure StoreLog where
  pc : Word32
  tid : Word32
  ptr : Word64
  /-- Its number, by which its store finds it. -/
  num : Nat := 0
deriving DecidableEq, Repr

/-- State that a core's tasks share (R88). -/
structure Core where
  lastSlot : Nat
  copies : List Copy
  deque : List Record
  spill : List Record
  recCount : BitVec 16
  jobSeq : BitVec 24
  /-- FORK .die: the cluster chosen last; none stands for the core's own. -/
  dieChoice : Option Nat
  /-- The last victim of a steal; none stands for the core itself. -/
  lastVictim : Option Nat
  inbox : List Message
  mailboxes : Vector Mailbox 32
  /-- Intercalary entries: old id and new id (R110). -/
  forward : Vector (Word32 × Word32) 16
  /-- When the newest intercalary entry was made, in the order of arrivals; `INFLIGHT` counts from it. -/
  entryMade : Nat
  weight : BitVec 4
  queue : List MCmd
  /-- The entry of the matrix queue, 0–15, that holds its oldest command or takes the next one (R141, R155). -/
  qhead : BitVec 4
  acc : Vector Acc 8
  el : Vector Word64 8
  scaleA : Option Binding
  scaleB : Option Binding
  tab : Option Binding
  slot0 : Codebook
  slot1 : Codebook
  codebook : Codebook
  mask0 : MaskSlot
  mask1 : MaskSlot
  apred : Word64
  grant : Word64
  storeLog : List StoreLog
  results : List AtomicLog
  /-- M-core: the cluster that took its last FORK record (R298). -/
  forkPos : Option Nat
deriving DecidableEq, Repr

/-- The codebook at reset: entries +0, rank order codes 0–15, epact 0 (R138). -/
def Codebook.initial : Codebook := ⟨0, 0xFEDCBA9876543210, 0⟩

/-- A mask slot at reset (R169). -/
def MaskSlot.initial : MaskSlot := ⟨none, 0, 0, 0⟩

/-- A core at reset. -/
def Core.initial : Core :=
  { lastSlot := 7, copies := [], deque := [], spill := [], recCount := 0, jobSeq := 0, dieChoice := none
    lastVictim := none, inbox := [], mailboxes := Vector.replicate 32 Mailbox.free
    forward := Vector.replicate 16 (0, 0), entryMade := 0, weight := 1, queue := [], qhead := 0
    acc := Vector.replicate 8 ⟨[], [], 0, false⟩, el := Vector.replicate 8 0, scaleA := none, scaleB := none, tab := none
    slot0 := Codebook.initial, slot1 := Codebook.initial, codebook := Codebook.initial
    mask0 := MaskSlot.initial, mask1 := MaskSlot.initial, apred := 0, grant := 0, storeLog := [], results := []
    forkPos := none }

/-! ## Clusters, dies, stacks -/

/-- A code object loaded into an instruction store (R64, R221). -/
structure CodeRange where
  /-- Parcel address of its first parcel. -/
  base : Nat
  parcels : List Word32
  /-- Canonical pointer of the code object. -/
  ptr : Word64
  /-- Parcel addresses of the 64-byte blocks that an uncorrectable error has struck (R240). -/
  bad : List Nat := []
deriving DecidableEq, Repr

/-- A cluster: instruction store, matrix engine arbiter, stream fabric, clock stretching. -/
structure Cluster where
  code : List CodeRange
  /-- Current queue and credit of the arbiter (R142). -/
  queue : Nat
  credit : Nat
  /-- Leave has been granted for the next pass (R156). -/
  leave : Bool
  asked : Bool
  graphs : FMap Graph
  jobs : List CopyJob
  /-- Steps by which the clock is stretched now (R253). -/
  stretch : Nat
  stretchedCycles : Word32
  stretchSteps : Word32
deriving DecidableEq, Repr

/-- A cluster at reset. -/
def Cluster.initial : Cluster :=
  { code := [], queue := 0, credit := 0, leave := false, asked := false, graphs := [], jobs := [], stretch := 0
    stretchedCycles := 0, stretchSteps := 0 }

/-- The kinds of task graph node (R105). -/
inductive NodeKind where
  | task | copy | merge
deriving DecidableEq, Repr

/-- How far a task graph node has come (R106). -/
inductive NodeState where
  | building | released | running | finished
deriving DecidableEq, Repr

/-- A task graph node (R105, R106, R177). -/
structure Node where
  kind : NodeKind
  state : NodeState
  count : Nat
  entry : Word32
  arg : Word64
  width : BitVec 2
  acore : Bool
  tenant : BitVec 16
  domain : BitVec 2
  part : Nat
  ctx : Nat
  /-- Task that created it; migration changes the id. -/
  creator : Word32
  launch : Option Nat
  join : Word64
  x1 : Word64
  x2 : Word64
  x3 : Word64
  x4 : Word64
  /-- Made by AGX, with the dies whose cores may run it (R177). -/
  agx : Bool
  dies : BitVec 4
  /-- A CPY .node job is bound to it (R191). -/
  bound : Bool
  /-- When it became ready, in the order of arrivals (R105, R184). -/
  readyAt : Nat
deriving DecidableEq, Repr

/-- A stop record (R230). -/
structure StopRec where
  kind : BitVec 8
  code : BitVec 8
  agent : BitVec 16
  lost : Bool
  handler : Bool
  primary : Bool
  id : Word32
  pos : Word32
  ptr : Word64
  offset : Word64
  progress : Word64
  skid : Word32
  count : Word32
  detail : Word64
  /-- The agent the record is for. -/
  who : Agent
  /-- The core that issued the job, for one that no partition holds (R403). -/
  owner : Option CoreId
deriving DecidableEq, Repr

/-- Registers of a Gleaner (R50). -/
structure Gleaner where
  /-- GLCMD bits 7:0 (go reads 0). -/
  cmd : BitVec 8
  rejected : Bool
  cascaded : Bool
  busy : Bool
  /-- The running collection has treated its objects and is to end (R44). -/
  traced : Bool
  count : Word32
  pause : Word32
  /-- The forwarding table: moves, old and new, that are committed and not yet patched (R45). -/
  forward : List (Word64 × Word64)
  /-- The pads, colours and partitions whose tasks the collection holds paused, its cascades' with its own (R46). -/
  paused : List (PadUnit × Nat × Nat)
deriving DecidableEq, Repr

/-- A die: clock, task graph unit, halt storage, refusal log, power controller. -/
structure Die where
  cycle : Word64
  nodes : FMap Node
  /-- Edges of the task graph, from node and to node. -/
  edges : List (Nat × Nat)
  /-- The core that the task graph unit chose last; none stands before the lowest address. -/
  tgPos : Option Nat
  tgErrors : Word32
  /-- Ready records held for room (R105). -/
  held : List Record
  /-- Ready copy nodes held for a fabric queue entry, in order of readiness, each with its job (R184, R200). -/
  heldKicks : List (Nat × CopyJob)
  refusals : List (BitVec 16 × BitVec 16 × Word64)
  budget : BitVec 16
  pwait : Word32
deriving DecidableEq, Repr

/-- A die at reset. -/
def Die.initial : Die :=
  { cycle := 0, nodes := [], edges := [], tgPos := none, tgErrors := 0, held := [], heldKicks := [], refusals := []
    budget := 400, pwait := 0 }

/-- A Gleaner at reset. -/
def Gleaner.initial : Gleaner := ⟨0, false, false, false, false, 0, 0, [], []⟩

/-- An object in a pad or a region: offset of its header, whole size, the core and canonical pointer of a copy, and the partition whose
tables its pointers use. -/
structure PadObj where
  off : Nat
  size : Nat
  copyOf : Option (CoreId × Word64)
  part : Nat := 0
deriving DecidableEq, Repr

/-- Allocation of one colour of one pad (R30, R42, R44, R48). -/
structure PadAlloc where
  /-- The bump pointer; none stands for the colour's base. -/
  bump : Option Nat
  objs : List PadObj
  incoming : List Word64
  /-- Banks retired from the colour (R48, R240). -/
  retired : List Nat
  /-- Banks that wait to be retired until a collection finds them empty (R240). -/
  retiring : List Nat
deriving DecidableEq, Repr

/-- A pad colour at reset. -/
def PadAlloc.initial : PadAlloc := ⟨none, [], [], [], []⟩

/-- Allocation of one heap region (R49). -/
structure RegionAlloc where
  bump : Nat
  objs : List PadObj
deriving DecidableEq, Repr

/-- One member's part in a collective round (R285 to R289). -/
structure CollJob where
  job : Word32
  core : CoreId
  tid : Word32
  part : Nat
  ctx : Nat
  launch : Option Nat
  /-- Tenant that its traffic carries (R223). -/
  tenant : BitVec 16
  buf : BitVec 128
  op : Nat
  fmt : Nat
  dom : Bool
  group : Word32
  /-- Canonical pointer of its group object, by which a member is known (R289, log entry 23). -/
  object : Word64
  rank : Nat
  root : Nat
  members : Nat
  count : Nat
  reduce : Nat
  entries : List Nat
  waitsLeave : Bool
  /-- The elements that the engine has read of its buffer into its own storage, with the round's number (R288, R289). -/
  stored : Option (Nat × List Nat) := none
deriving DecidableEq, Repr

/-- A request for power leave (R156). -/
inductive LeaveFor where
  | engine (k : ClusterId)
  | copy (job : Word32) (k : ClusterId)
  | nearBank (job : Word32) (stack : Nat)
  | collective (job : Word32)
deriving DecidableEq, Repr

/-- A waiting request: what it is for and the core whose c.grant takes the wait. -/
structure Leave where
  what : LeaveFor
  core : CoreId
deriving DecidableEq, Repr

/-! ## Partitions, launches, halts -/

/-- A slice calendar that the I/O dies have accepted (R225). -/
structure Calendar where
  epoch : Nat
  period : Nat
  /-- Context and start of each slice. -/
  slices : List (Nat × Nat)
deriving DecidableEq, Repr

/-- A partition (R222, R225). -/
structure Partition where
  part : Word64
  member : Word64
  htab : Word64
  slical : Word64
  save : Word64
  /-- Its description has been written since reset. -/
  configured : Bool
  ctx : Nat
  calendar : Option Calendar
  /-- An accepted calendar and the time from which it applies (R225). -/
  next : Option (Nat × Calendar)
  /-- A slice boundary has arrived and the swap is due, to the context given. -/
  boundary : Option Nat
deriving DecidableEq, Repr

/-- A partition at reset. -/
def Partition.initial : Partition := ⟨0, 0, 0, 0, 0, false, 0, none, none, none⟩

/-- A launch queue (R217). -/
structure Queue where
  base : Word64
  ctl : Word32
  head : Word32
  tail : Word32
  running : Option Nat
deriving DecidableEq, Repr

/-- A launch (R218, R221). -/
structure Launch where
  part : Nat
  ctx : Nat
  queue : Nat
  io : Nat
  code : Word64
  /-- Parcel address of the code's first parcel, and the clusters that hold it. -/
  base : Nat
  clusters : List ClusterId
  mailbox : Word64
  count : Word32
  notify : Bool
  /-- The code is in the stores and the root records are made. -/
  loaded : Bool
  /-- Number of roots, and the root record without its index; its entry is the packet's. -/
  roots : Nat
  root : Record
deriving DecidableEq, Repr

/-- A distributor (R220, R404). -/
structure Dist where
  derr : Word32
  dcount : Word32
  /-- The queue (64·partition + queue) served last at each priority. -/
  last : FMap Nat
  /-- Root records that wait for room, with their cluster. -/
  held : List (Record × ClusterId)
deriving DecidableEq, Repr

/-- A fault report on its way to a halt controller (R229). -/
structure Report where
  agent : Agent
  info : StopInfo
  tid : Word32
  /-- The core that issued the job, for one that no partition holds (R403). -/
  owner : Option CoreId := none
deriving DecidableEq, Repr

/-- A halt controller: partitions 0–15, and 16 the supervisor's (R231, R403). -/
structure HaltCtl where
  halted : Bool
  eligible : Bool
  overflow : Bool
  primary : BitVec 8
  hprim : Word32
  /-- HRES bits 2:1. -/
  hres : BitVec 2
  wabort : Word32
  wsince : Word64
  count : Word32
  reports : List Report
  records : List StopRec
  /-- The primary agent. -/
  who : Option Agent
deriving DecidableEq, Repr

/-- A halt controller at reset. -/
def HaltCtl.initial : HaltCtl := ⟨false, false, false, 0, 0, 0, 0, 0, 0, [], [], none⟩

/-! ## HBM channels and the platform -/

/-- The PHY of one HBM channel (R255 to R257). Lane registers are keyed 64·(pseudo-channel) + lane. -/
structure Channel where
  /-- CTL bits 7:0 with run reading 0. -/
  ctl : BitVec 8
  auto : Bool
  busy : Bool
  done : Bool
  current : BitVec 8
  trained : BitVec 8
  rdly : FMap (BitVec 6)
  wdly : FMap (BitVec 6)
  result0 : BitVec 37
  result1 : BitVec 37
  repair0 : BitVec 8
  repair1 : BitVec 8
  /-- The pseudo-channel and repair that a run latched. -/
  run : Option (Bool × BitVec 8)
  /-- The pseudo-channel that automatic retraining is at. -/
  autoPc : Bool
  /-- CTL writes that wait for busy to clear, with the task that made each, or 0. -/
  waiting : List (Word32 × Word32)
deriving DecidableEq, Repr

/-- A channel at reset. -/
def Channel.initial : Channel :=
  { ctl := 0, auto := false, busy := false, done := false, current := 0, trained := 0, rdly := [], wdly := []
    result0 := 0, result1 := 0, repair0 := 0, repair1 := 0, run := none, autoPc := false, waiting := [] }

/-- A flit that a port sends (R246). -/
structure Flit where
  version : Nat
  /-- Flit type. -/
  kind : Nat
  seq : BitVec 12
  ack : BitVec 12
  /-- The acknowledgement is negative. -/
  nack : Bool
  payload : List Byte
deriving DecidableEq, Repr

/-- A Finven port (R246, R247). -/
structure Port where
  up : Bool
  version : Nat
  /-- Next sequence number to send and to receive. -/
  sendSeq : BitVec 12
  recvSeq : BitVec 12
  /-- The last 512 flits sent, oldest first. -/
  replay : List (BitVec 12 × List Byte)
  /-- Payloads delivered in order. -/
  received : List (List Byte)
  /-- Flits that the port has put on the link. -/
  wire : List Flit
  /-- The partner has asked for a replay from this sequence number. -/
  wanted : Option (BitVec 12)
deriving DecidableEq, Repr

/-- A Finven port at reset. -/
def Port.initial : Port := ⟨false, 0, 0, 0, [], [], [], none⟩

/-- A host port that has trained: by CXL or by PCIe, and its width in lanes (R241). -/
structure HostPort where
  cxl : Bool
  width : Nat
deriving DecidableEq, Repr

/-- An Ethernet frame with its direction and timestamp (R248). -/
structure Frame where
  port : Nat
  sent : Bool
  bytes : List Byte
  stamp : Option Word64
deriving DecidableEq, Repr

/-- An almanac entry (R250). -/
structure Almanac where
  step : Nat
  unit : Nat
  boot : Word32
  alternate : Bool
  /-- 0 started, 1 passed, 2 failed, 3 skipped. -/
  outcome : Nat
  temp : Int
  time : Word64
  detail : Word64
  /-- For step 3: the temperatures at its end, dies and stacks, and its duration (R252). -/
  ends : List Int := []
  lasted : Word64 := 0
deriving DecidableEq, Repr

/-- An attestation report (R251). -/
structure Attest where
  nonce : Word64
  boot : Word32
  /-- SHA-384 measurement of every image run in steps 1, 2 and 9. -/
  measurements : List (BitVec 384)
  /-- Digest of the current boot's almanac entries. -/
  digest : BitVec 384
  packetLow : Nat
  packetHigh : Nat
  finvenLow : Nat
  finvenHigh : Nat
  /-- P-384 signature by the device's identity key. -/
  signature : BitVec 768
deriving DecidableEq, Repr

/-- A corrected-error count with the time of the first counted error, in hours (R240). -/
structure EccCount where
  loc : EccLoc
  count : Nat
  first : Nat
deriving DecidableEq, Repr

/-- A page request that the host has not answered: the task, the copy job, the distributor, the prefetch or the matrix engine that waits (R239, R199, R337). -/
inductive PageReq where
  | task (t : TaskKey) (tid : Word32) (ptr : Word64) (page : Nat)
  | copy (k : ClusterId) (job : Word32) (core : Option CoreId) (page : Nat)
  | dist (io p : Nat) (ptr : Word64) (page : Nat)
  | pref (c : CoreId) (ptr : Word64) (page : Nat)
  | engine (k : ClusterId) (page : Nat)
deriving DecidableEq, Repr

/-- A saved context in shadow storage: its tasks, cores, fabric jobs and fabric slots (R226). -/
structure Saved where
  part : Nat
  ctx : Nat
  tasks : FMap Task
  cores : FMap Core
  jobs : FMap (List CopyJob)
  graphs : FMap (FMap Graph)
  /-- Forwarding tables of the Gleaners that serve it, where they are not empty (R45). -/
  forward : FMap (List (Word64 × Word64)) := []
deriving DecidableEq, Repr

/-- What the image of a context holds (R236, R291): the context, and its header's halt count and block count. -/
structure Image where
  context : Saved
  count : Word32
  blocks : Nat
deriving DecidableEq, Repr

/-- Everything else of the package: boot, host side, links. -/
structure Platform where
  /-- Package number, and whether the package belongs to a domain (R9, R247). -/
  package : BitVec 6
  inDomain : Bool
  /-- Fused-off clusters (R10). -/
  fused : BitVec 64
  windows : FMap (Word64 × Word64)
  routes : FMap Word32
  ports : FMap Port
  frames : List Frame
  /-- IEEE 1588 time in ns. -/
  time : Word64
  /-- AtomicOp Requester Enable of functions 0–15 (virtual), 16 (physical, `io0`) and 17 (physical, `io1`) (R241, R243). -/
  atomicOps : BitVec 18
  /-- The host ports that have trained, by I/O die (R241). -/
  hostPorts : FMap HostPort
  /-- Frames of host-managed device memory: partition, region and frame of the region (R244). -/
  frameMap : FMap (Nat × Nat × Nat)
  pages : List PageReq
  /-- Host pages whose translation the host has granted. -/
  grantedPages : List Nat
  boot : Word32
  almanac : List Almanac
  booted : Bool
  recovery : Bool
  /-- A boot has begun and has not ended (R249). -/
  booting : Bool
  warming : Bool
  temps : List Int
  stackTemps : List Int
  mailboxVersion : Option Nat
  mailboxReply : Option (Nat × Nat)
  firmware : List Byte
  reports : List Attest
  interrupts : List (Nat × Nat)
deriving DecidableEq, Repr

/-- The platform at reset. -/
def Platform.initial : Platform :=
  { package := 0, inDomain := false, fused := 0, windows := [], routes := [], ports := [], frames := [], time := 0
    atomicOps := 0, hostPorts := [], frameMap := [], pages := [], grantedPages := [], boot := 0, almanac := [], booted := false
    recovery := false, booting := false, warming := false, temps := [], stackTemps := [], mailboxVersion := none, mailboxReply := none
    firmware := [], reports := [], interrupts := [] }

/-! ## The machine -/

/-- The state of the package. -/
structure State where
  /-- The task that an instruction acts for (log entry 1). -/
  cur : TaskKey
  /-- Events that are due (log entry 1). -/
  agenda : List Instr
  /-- Counter of free values (log entry 2). -/
  free : Nat
  /-- Counter of arrivals (log entry 1). -/
  order : Nat
  tasks : FMap Task
  cores : FMap Core
  clusters : FMap Cluster
  dies : FMap Die
  /-- Instruction stores of the M-cores (R262). -/
  mcode : FMap (List CodeRange)
  /-- Messages in the mesh (R101, R110). -/
  mesh : List Message
  mem : Memory
  /-- Full sync words, by physical address, with the scope of the release that filled them (R38, R211). -/
  fe : FMap Nat
  /-- Poisoned 64-byte blocks (R240). -/
  poison : List Nat
  ecc : List EccCount
  /-- Rows and lanes retired to spares (R240). -/
  spared : List EccLoc
  pads : FMap PadAlloc
  gleaners : FMap Gleaner
  /-- Region tables, keyed 2^20·partition + region (R239). -/
  regions : FMap Word64
  regionAllocs : FMap RegionAlloc
  /-- Current region of each partition, die and colour, keyed 16·partition + 4·die + colour (R49). -/
  current : FMap Nat
  nbQueues : FMap (List NbJob)
  colls : List CollJob
  leaves : List Leave
  parts : FMap Partition
  queues : FMap Queue
  launches : FMap Launch
  dists : FMap Dist
  halts : FMap HaltCtl
  shadow : List Saved
  channels : FMap Channel
  plat : Platform
  /-- What each image written by CTXSV holds, by the number of its free bytes (R236, log entry 30). -/
  images : FMap Image
  /-- Findings of the Vigil, reported to the supervisor (R238). -/
  findings : List (List Word32)
deriving DecidableEq, Repr

/-- The package right after reset: no task, no code, every register at the value its rule gives. -/
def State.reset : State :=
  { cur := 0, agenda := [], free := 0, order := 0, tasks := [], cores := [], clusters := [], dies := [], mcode := []
    mesh := [], mem := [], fe := [], poison := [], ecc := [], spared := [], pads := [], gleaners := [], regions := []
    regionAllocs := [], current := [], nbQueues := [], colls := [], leaves := [], parts := [], queues := []
    launches := [], dists := [], halts := [], shadow := [], channels := [], plat := Platform.initial, images := [], findings := [] }

/-! ## Reasons for stopping -/

/-- Why a step ends the run. No path of this model raises it: the spec gives every fault of the package an effect (the
halt of R228), which is a next state. Kept as the closed type that the interface asks for; safe, since a fault only
ends a run. -/
inductive Fault where
  /-- Raised by nothing. -/
  | none
deriving DecidableEq, Repr

/-- Why a step has no meaning. -/
inductive Refusal where
  /-- Raised by an arm of `exec` whose instruction has no meaning yet; safe, since it only ends a run. -/
  | notModelled (mnemonic : String)
deriving DecidableEq, Repr

end Sys2Proof.Machine
end

