-- ==== Sys2Proof/Machine/Ops.lean ====
section
/-!
DEFINITION. The operations that the meanings share: maps, memory, places, registers, deferred results, guards, the issue
of an instruction, faults, handler entry and the return from it.
-/

namespace Sys2Proof.Machine

/-! ## Maps -/

/-- The entry at a key, or the default. -/
def FMap.find (m : FMap α) (k : Nat) (d : α) : α := (m.lookup k).getD d

/-- Replace or add the entry at a key. -/
def FMap.set : FMap α → Nat → α → FMap α
  | [], k, v => [(k, v)]
  | (j, w) :: m, k, v => if k < j then (k, v) :: (j, w) :: m else if k = j then (k, v) :: m else (j, w) :: FMap.set m k v

/-- Remove the entry at a key. -/
def FMap.del (m : FMap α) (k : Nat) : FMap α := m.filter (fun e => e.1 != k)

/-- Change every entry. -/
def FMap.mapVals (m : FMap α) (g : α → α) : FMap α := List.map (fun e => (e.1, g e.2)) m

/-- Change every entry, knowing its key. -/
def FMap.mapKeyed (m : FMap α) (g : Nat → α → α) : FMap α := List.map (fun e => (e.1, g e.1 e.2)) m

/-- Insert a value after every earlier one that may stand before it. -/
def insertBy (le : α → α → Bool) (x : α) : List α → List α
  | [] => [x]
  | y :: ys => if le x y then x :: y :: ys else y :: insertBy le x ys

/-- A list in order; equal values keep their order. -/
def sortBy (le : α → α → Bool) (xs : List α) : List α := xs.foldr (insertBy le) []

/-! ## Memory -/

/-- Addresses strictly rise and no listed byte is 0. -/
def Memory.wf : Memory → Bool
  | [] => true
  | [(_, b)] => b != 0
  | (a, b) :: (c, d) :: m => b != 0 && decide (a < c) && Memory.wf ((c, d) :: m)

/-- The byte at an address; an unlisted byte reads 0 (log entry 3). -/
def Memory.read (m : Memory) (a : Nat) : Byte := (m.lookup a).getD 0

/-- Write a byte, keeping the form: a byte of 0 is not listed. -/
def Memory.write : Memory → Nat → Byte → Memory
  | [], a, v => if v = 0 then [] else [(a, v)]
  | (c, w) :: m, a, v =>
    if a < c then (if v = 0 then (c, w) :: m else (a, v) :: (c, w) :: m)
    else if a = c then (if v = 0 then m else (a, v) :: m)
    else (c, w) :: Memory.write m a v

/-- `n` bytes from an address up. -/
def Memory.readN (m : Memory) (a n : Nat) : List Byte := (List.range n).map (fun i => m.read (a + i))

/-- Write bytes from an address up. -/
def Memory.writeN (m : Memory) (a : Nat) : List Byte → Memory
  | [] => m
  | b :: bs => Memory.writeN (m.write a b) (a + 1) bs

/-- The number that bytes hold, the first the least significant (R1). -/
def leNat : List Byte → Nat
  | [] => 0
  | b :: bs => b.toNat + 256 * leNat bs

/-- The `n` low bytes of a number, the least significant first. -/
def leBytes (n v : Nat) : List Byte := (List.range n).map (fun i => BitVec.ofNat 8 (v / 256 ^ i))

/-- A 64-bit word from bytes. -/
def leWord (bs : List Byte) : Word64 := BitVec.ofNat 64 (leNat bs)

/-- The bits `hi:lo` of a number. -/
def bits (v : Nat) (lo n : Nat) : Nat := v / 2 ^ lo % 2 ^ n

/-- Split a list into pieces of `n`, by fuel. -/
def chunksOf (n : Nat) : Nat → List α → List (List α)
  | 0, _ => []
  | fuel + 1, xs => if xs.isEmpty then [] else xs.take n :: chunksOf n fuel (xs.drop n)

/-! ## Places (R5 to R9, R262) -/

/-- The core that a task slot is on. -/
def coreOf (k : TaskKey) : CoreId := k / 8

/-- The cluster of a compute core. -/
def clusterOf (c : CoreId) : ClusterId := c / 8

/-- The core is an M-core. -/
def isM (c : CoreId) : Bool := 512 ≤ c

/-- The core is an A-core: cores 0 to 5 of a cluster (R8). -/
def isA (c : CoreId) : Bool := c < 512 && c % 8 < 6

/-- The compute die of a core; for M-core n of I/O die i, the associated die 2i + n (R262). -/
def dieOf (c : CoreId) : Nat := if c < 512 then c / 128 else c - 512

/-- The die of a cluster. -/
def dieOfCluster (k : ClusterId) : Nat := k / 16

/-- Mesh column of a cluster (R6). -/
def colOf (k : ClusterId) : Nat := 4 * (k / 16 % 2) + k % 4

/-- Mesh row of a cluster (R6). -/
def rowOf (k : ClusterId) : Nat := 4 * (k / 16 / 2) + k % 16 / 4

/-! ## Parts of the state -/

/-- A task slot. -/
def State.task (s : State) (k : TaskKey) : Task := s.tasks.find k Task.empty

/-- Replace a task slot. -/
def State.setTask (s : State) (k : TaskKey) (t : Task) : State := { s with tasks := s.tasks.set k t }

/-- The task that acts. -/
def State.me (s : State) : Task := s.task s.cur

/-- Replace the task that acts. -/
def State.setMe (s : State) (t : Task) : State := s.setTask s.cur t

/-- The core of the task that acts. -/
def State.myCore (s : State) : CoreId := coreOf s.cur

/-- A core. -/
def State.core (s : State) (c : CoreId) : Core := s.cores.find c Core.initial

/-- Replace a core. -/
def State.setCore (s : State) (c : CoreId) (v : Core) : State := { s with cores := s.cores.set c v }

/-- A cluster; 64 and 65 stand for the copy engines of `io0` and `io1`. -/
def State.cluster (s : State) (k : ClusterId) : Cluster := s.clusters.find k Cluster.initial

/-- Replace a cluster. -/
def State.setCluster (s : State) (k : ClusterId) (v : Cluster) : State := { s with clusters := s.clusters.set k v }

/-- A die. -/
def State.die (s : State) (d : Nat) : Die := s.dies.find d Die.initial

/-- Replace a die. -/
def State.setDie (s : State) (d : Nat) (v : Die) : State := { s with dies := s.dies.set d v }

/-- A partition. -/
def State.part (s : State) (p : Nat) : Partition := s.parts.find p Partition.initial

/-- Replace a partition. -/
def State.setPart (s : State) (p : Nat) (v : Partition) : State := { s with parts := s.parts.set p v }

/-- A halt controller. -/
def State.halt (s : State) (p : Nat) : HaltCtl := s.halts.find p HaltCtl.initial

/-- Replace a halt controller. -/
def State.setHalt (s : State) (p : Nat) (v : HaltCtl) : State := { s with halts := s.halts.set p v }

/-- The pad of a unit. -/
def padKey : PadUnit → Nat → Nat
  | .core c, colour => 4 * c + colour
  | .cluster k, colour => 4096 + 4 * k + colour
  | .die d, colour => 8192 + 4 * d + colour

/-- The allocation of a pad colour. -/
def State.pad (s : State) (u : PadUnit) (colour : Nat) : PadAlloc := s.pads.find (padKey u colour) PadAlloc.initial

/-- Replace the allocation of a pad colour. -/
def State.setPad (s : State) (u : PadUnit) (colour : Nat) (v : PadAlloc) : State :=
  { s with pads := s.pads.set (padKey u colour) v }

/-- Put an event on the agenda. -/
def State.post (s : State) (i : Instr) : State := { s with agenda := s.agenda ++ [i] }

/-- The next free value's number, and the state that has used it (log entry 2). -/
def State.fresh (s : State) : Nat × State := (s.free, { s with free := s.free + 1 })

/-- The next arrival number, and the state that has used it. -/
def State.arrive (s : State) : Nat × State := (s.order, { s with order := s.order + 1 })

/-- Every resident task, with its slot. -/
def State.residents (s : State) : List (TaskKey × Task) := s.tasks.filter (fun e => e.2.status != .free)

/-- Core address of a core (R9). -/
def State.coreAddr (s : State) (c : CoreId) : BitVec 16 :=
  if isM c then BitVec.ofNat 16 (0xFFFC + (c - 512)) else BitVec.ofNat 16 (s.plat.package.toNat * 512 + c)

/-- The core of this package that a core address names. -/
def State.coreAt (s : State) (a : BitVec 16) : Option CoreId :=
  if a.toNat / 512 = 127 then (if 0xFFFC ≤ a.toNat then some (512 + (a.toNat - 0xFFFC)) else none)
  else if a.toNat / 512 = s.plat.package.toNat then some (a.toNat % 512) else none

/-- The resident task with a task id. -/
def State.taskWithId (s : State) (id : Word32) : Option TaskKey :=
  (s.residents.find? (fun e => e.2.tid == id)).map (·.1)

/-! ## Partitions (R222, R10) -/

/-- The cluster lies in the partition's rectangle. -/
def Partition.holds (p : Partition) (k : ClusterId) : Bool :=
  let w := p.part.toNat
  let row0 := bits w 15 3
  let col0 := bits w 12 3
  row0 ≤ rowOf k && rowOf k ≤ row0 + bits w 21 3 && col0 ≤ colOf k && colOf k ≤ col0 + bits w 18 3

/-- Number of contexts of the partition. -/
def Partition.contexts (p : Partition) : Nat := bits p.part.toNat 0 2 + 1

/-- Tenant group of the partition. -/
def Partition.group (p : Partition) : Nat := bits p.part.toNat 28 10

/-- The cluster is not fused off. -/
def State.available (s : State) (k : ClusterId) : Bool := k < 64 && !s.plat.fused.getLsbD k

/-- The configured partition whose rectangle holds a cluster (log entry 14). -/
def State.partOf (s : State) (k : ClusterId) : Option Nat :=
  (List.range 16).find? (fun p => (s.part p).configured && (s.part p).holds k)

/-- The context is the one that its partition runs; what belongs to no partition always runs (R224, R226). -/
def State.runs (s : State) (p ctx : Nat) : Bool := 16 ≤ p || (s.part p).ctx == ctx

/-- The available clusters of a partition, ascending. -/
def State.clustersOf (s : State) (p : Nat) : List ClusterId :=
  (List.range 64).filter (fun k => s.available k && (s.part p).holds k)

/-- The supervisor's tenant id (R262). -/
def superTenant : BitVec 16 := 0xFFFF

/-- The router test of R223 for a message of a tenant toward a cluster. -/
def State.routerPasses (s : State) (tenant : BitVec 16) (k : ClusterId) : Bool :=
  tenant == superTenant ||
    match s.partOf k with
    | none => false
    | some p => tenant.toNat / 64 == (s.part p).group && (s.part p).member.getLsbD (tenant.toNat % 64)

/-- The partition whose tables are used for a partition number: its own, or for an M-core's task or job, which has none, the free choice
of log entry 13. -/
def tablesOf (p : Nat) : Nat := if p < 16 then p else Config.mCorePart.val

/-- The partition whose tables a task uses. -/
def State.tablePart (_ : State) (t : Task) : Nat := tablesOf t.part

/-! ## Registers (R55, R88) -/

/-- An x register; `x0` reads 0. -/
def Task.getX (t : Task) (n : BitVec 6) : Word64 := if n = 0 then 0 else t.x[n.toNat]?.getD 0

/-- Write an x register; writes to `x0` are discarded. -/
def Task.setX (t : Task) (n : BitVec 6) (v : Word64) : Task :=
  if n = 0 then t else { t with x := t.x.setIfInBounds n.toNat v }

/-- An o register; `o0` reads null (R22). -/
def Task.getO (t : Task) (n : BitVec 6) : BitVec 128 := if n = 0 then 0 else t.o[n.toNat]?.getD 0

/-- Write an o register; writes to `o0` are discarded. -/
def Task.setO (t : Task) (n : BitVec 6) (v : BitVec 128) : Task :=
  if n = 0 then t else { t with o := t.o.setIfInBounds n.toNat v }

/-- Task width in bits (R92). -/
def Task.bits (t : Task) : Nat := 256 * 2 ^ t.width.toNat

/-- The bits of a vector register that the width has. -/
def Task.vMask (t : Task) : BitVec 2048 := BitVec.ofNat 2048 (2 ^ t.bits - 1)

/-- The bits of a predicate that the width has. -/
def Task.pMask (t : Task) : BitVec 256 := BitVec.ofNat 256 (2 ^ (t.bits / 8) - 1)

/-- A vector register, at the task's width. -/
def Task.getV (t : Task) (n : BitVec 6) : BitVec 2048 := t.v[n.toNat]?.getD 0

/-- Write a vector register. -/
def Task.setV (t : Task) (n : BitVec 6) (v : BitVec 2048) : Task :=
  { t with v := t.v.setIfInBounds n.toNat (v &&& t.vMask) }

/-- A predicate; `p0` reads all true. -/
def Task.getP (t : Task) (n : BitVec 6) : BitVec 256 := if n = 0 then t.pMask else t.p[n.toNat]?.getD 0

/-- Write a predicate. -/
def Task.setP (t : Task) (n : BitVec 6) (v : BitVec 256) : Task :=
  { t with p := t.p.setIfInBounds n.toNat (v &&& t.pMask) }

/-- A g register. -/
def Task.getG (t : Task) (n : BitVec 6) : BitVec 384 := t.g[n.toNat]?.getD 0

/-- Write a g register. -/
def Task.setG (t : Task) (n : BitVec 6) (v : BitVec 384) : Task := { t with g := t.g.setIfInBounds n.toNat v }

/-- A w register. -/
def Task.getW (t : Task) (n : BitVec 6) : BitVec 4096 := t.w[n.toNat]?.getD 0

/-- Write a w register. -/
def Task.setW (t : Task) (n : BitVec 6) (v : BitVec 4096) : Task := { t with w := t.w.setIfInBounds n.toNat v }

/-- Write an x register of the task that acts. -/
def State.setX (s : State) (n : BitVec 6) (v : Word64) : State := s.setMe (s.me.setX n v)

/-- Write an o register of the task that acts. -/
def State.setO (s : State) (n : BitVec 6) (v : BitVec 128) : State := s.setMe (s.me.setO n v)

/-- Write a vector register of the task that acts. -/
def State.setV (s : State) (n : BitVec 6) (v : BitVec 2048) : State := s.setMe (s.me.setV n v)

/-- Write a predicate of the task that acts. -/
def State.setP (s : State) (n : BitVec 6) (v : BitVec 256) : State := s.setMe (s.me.setP n v)

/-- Set flags of the task that acts; a flag stays set until MTC clears it (R123). -/
def State.raiseFlags (s : State) (fl : BitVec 6) : State :=
  if fl = 0 then s else s.setMe { s.me with fflags := s.me.fflags ||| fl.setWidth 64 }

/-- Access of a loop register by its number (R55). -/
def Task.getLoop (t : Task) (n : BitVec 6) : Word64 :=
  match n.toNat with
  | 0 => t.ls0
  | 1 => t.le0
  | 2 => t.lc0
  | 3 => t.ls1
  | 4 => t.le1
  | _ => t.lc1

/-- Write a loop register by its number. -/
def Task.setLoop (t : Task) (n : BitVec 6) (v : Word64) : Task :=
  match n.toNat with
  | 0 => { t with ls0 := v }
  | 1 => { t with le0 := v }
  | 2 => { t with lc0 := v }
  | 3 => { t with ls1 := v }
  | 4 => { t with le1 := v }
  | _ => { t with lc1 := v }

/-! ## Faults (R227 to R230) -/

/-- R227: the number of a fault code. -/
def faultNum : FaultCode → Nat
  | .illegalEncoding => 0x01
  | .illegalOpcode => 0x02
  | .noExtension => 0x03
  | .branchTarget => 0x04
  | .bounds => 0x05
  | .alignment => 0x06
  | .kind => 0x07
  | .nullPointer => 0x08
  | .sealedStore => 0x09
  | .packOverflow => 0x0A
  | .escapeOverflow => 0x0B
  | .maskProgram => 0x0C
  | .handle => 0x0D
  | .allocExhausted => 0x0E
  | .softwareTrap => 0x0F
  | .waitAbort => 0x10
  | .privilege => 0x11
  | .region => 0x12
  | .hostTranslation => 0x13
  | .remotePermission => 0x14
  | .atomicResultLost => 0x15
  | .uncorrectable => 0x16
  | .saveIntegrity => 0x17
  | .hostAtomic => 0x18
  | .streamLength => 0x19
  | .engineLoop => 0x1A

/-- R227, column H: a handler can be entered. -/
def faultHandled : FaultCode → Bool
  | .bounds | .alignment | .kind | .nullPointer | .sealedStore | .packOverflow | .escapeOverflow | .maskProgram
  | .handle | .allocExhausted | .softwareTrap | .engineLoop => true
  | _ => false

/-- The partition, or 16 for a task of an M-core, whose halt controller a task's faults go to (R228, R403). -/
def Task.controller (t : Task) : Nat := if t.part < 16 then t.part else 16

/-- Report a fault of an agent to a halt controller (R229). -/
def State.report (s : State) (p : Nat) (r : Report) : State :=
  s.setHalt p { s.halt p with reports := (s.halt p).reports ++ [r] }

/-- A task stops at a parcel address with a fault, and the report is sent; a task that has stopped raises nothing more (R63,
R228, R403). -/
def State.stopAt (s : State) (k : TaskKey) (f : Flt) (pos epc : Word32) (atIssue : Bool) : State :=
  let t := s.task k
  if t.status == .stopped then s else
  let info : StopInfo :=
    { code := some f.code, ptr := f.ptr, offset := f.offset, progress := f.progress, eval := f.eval, pos := pos, epc := epc
      handler := t.cause.getLsbD 63, lost := f.lost, atIssue := atIssue }
  (s.setTask k { t with status := .stopped, wait := none, stop := some info }).report t.controller { agent := .task k, info := info, tid := t.tid }

/-! ## Deferred results (R60 to R62) -/

/-- A mask of `n` units of `w` bits each, from one bit for each unit. -/
def spread (n w : Nat) (m : Nat) : Nat :=
  (List.range n).foldl (fun acc i => if m.testBit i then acc ||| ((2 ^ w - 1) <<< (i * w)) else acc) 0

/-- The units of a result that a choice of elements takes: an element is written whole. -/
def Pend.chosen (p : Pend) (choice : BitVec 256) : BitVec 256 :=
  BitVec.ofNat 256 ((List.range 256).foldl (fun acc i => if choice.getLsbD (i / p.unit * p.unit) then acc ||| (1 <<< i) else acc) 0)
    &&& p.mask

/-- `new` where the mask has a 1, `old` elsewhere. -/
def blend (old new mask : BitVec w) : BitVec w := (old &&& ~~~mask) ||| (new &&& mask)

/-- Write the units `m` of a deferred result to its destination. -/
def State.land (s : State) (k : TaskKey) (p : Pend) (m : BitVec 256) : State :=
  if m = 0 then s else
  let t := s.task k
  let c := s.core (coreOf k)
  match p.dest with
  | .x n => s.setTask k (t.setX n (p.val.setWidth 64))
  | .o n => s.setTask k (t.setO n (p.val.setWidth 128))
  | .v n => s.setTask k (t.setV n (blend (t.getV n) (p.val.setWidth 2048) (BitVec.ofNat 2048 (spread 256 8 m.toNat))))
  | .p n => s.setTask k (t.setP n (blend (t.getP n) (p.val.setWidth 256) m))
  | .g n => s.setTask k (t.setG n (p.val.setWidth 384))
  | .w n => s.setTask k (t.setW n (blend (t.getW n) p.val (BitVec.ofNat 4096 (spread 128 32 m.toNat))))
  | .el n => s.setCore (coreOf k) { c with el := c.el.setIfInBounds n.toNat (p.val.setWidth 64) }
  | .scale false b => s.setCore (coreOf k) { c with scaleA := b }
  | .scale true b => s.setCore (coreOf k) { c with scaleB := b }
  | .tab b => s.setCore (coreOf k) { c with tab := b }
  | .codebook false cb => s.setCore (coreOf k) { c with slot0 := cb, codebook := cb }
  | .codebook true cb => s.setCore (coreOf k) { c with slot1 := cb, codebook := cb }
  | .mask false prog => s.setCore (coreOf k) { c with mask0 := { c.mask0 with prog := some prog } }
  | .mask true prog => s.setCore (coreOf k) { c with mask1 := { c.mask1 with prog := some prog } }
  | .graph slot g =>
    let cl := clusterOf (coreOf k)
    s.setCluster cl { s.cluster cl with graphs := (s.cluster cl).graphs.set slot g }

/-- The flags of the elements of a result that the units `m` take (R123, R364). -/
def Pend.flagsOf (p : Pend) (m : BitVec 256) : BitVec 6 :=
  (List.range p.flags.length).foldl (fun acc i => if m.getLsbD (i * p.unit) then acc ||| p.flags[i]?.getD 0 else acc) 0

/-- Set the flags of the elements of a result that have been written: each element sets its own (R123, R364). -/
def State.landFlags (s : State) (k : TaskKey) (p : Pend) (m : BitVec 256) : State :=
  if p.flagsOf m = 0 then s
  else s.setTask k { s.task k with fflags := (s.task k).fflags ||| (p.flagsOf m).setWidth 64 }

/-- The units `m` of an outstanding result arrive: they are written with their flags; or the fault that came instead of the
result strikes, at the deferred instruction (R63). -/
def State.arrives (s : State) (k : TaskKey) (p : Pend) (m : BitVec 256) : State :=
  match p.fault with
  | some f => s.stopAt k f p.pc p.pc false
  | none => (s.land k p m).landFlags k p m

/-- The result is not there yet: the message that gives it has not entered its inbox (R101). -/
def Pend.awaited (p : Pend) : Bool := p.msg.isSome

/-- The result may still change before it arrives: it is awaited, or an element of its load may be performed later (R101, R208, R370). -/
def Pend.late (p : Pend) : Bool := p.awaited || !p.src.isEmpty

/-- A task parked at a switch point goes on once nothing is outstanding (R61, R90). -/
def State.unpark (s : State) (k : TaskKey) : State :=
  let t := s.task k
  if t.status == .parked && t.wait.isNone && t.pend.isEmpty then s.setTask k { t with status := .ready } else s

/-- Write every outstanding deferred result of a task that is there (R61). -/
def State.landAll (s : State) (k : TaskKey) : State :=
  (((s.task k).pend.filter (fun p => !p.awaited)).foldl (fun s p => s.arrives k p p.mask)
    (s.setTask k { s.task k with pend := (s.task k).pend.filter (·.awaited) })).unpark k

/-- A switch point after an instruction: the outstanding results are written at once, or, where one of them may still change, the task
parks until all have been written (R61, R90). -/
def State.switchAt (s : State) (k : TaskKey) : State :=
  let t := s.task k
  if t.status == .ready && t.pend.any (·.late) then s.setTask k { t with status := .parked, wait := none } else s.landAll k

/-- Write the chosen elements of the `i`-th outstanding result of a task (R62). -/
def State.landSome (s : State) (k : TaskKey) (i : Nat) (choice : BitVec 256) : State :=
  match (s.task k).pend[i]? with
  | none => s
  | some p =>
    if p.awaited then s else
    let m := p.chosen choice
    let left := p.mask &&& ~~~m
    let s := s.setTask k { s.task k with pend :=
      if left = 0 then (s.task k).pend.eraseIdx i else (s.task k).pend.set i { p with mask := left } }
    if m = 0 then s
    else if p.fault.isSome then (s.arrives k p m).landAll k
    else (s.arrives k p m).unpark k

/-- Add a deferred result of the task that acts. -/
def State.defer (s : State) (p : Pend) : State :=
  s.setMe { s.me with pend := s.me.pend ++ [{ p with pc := s.me.pc }] }

/-- `Deferred(xD) ← v` (R4). -/
def State.deferX (s : State) (n : BitVec 6) (v : Word64) : State := s.defer { dest := .x n, val := v.setWidth 4096 }

/-- `Deferred(oD) ← v`. -/
def State.deferO (s : State) (n : BitVec 6) (v : BitVec 128) : State := s.defer { dest := .o n, val := v.setWidth 4096 }

/-- `Deferred(vD) ← v` on the bytes `m`, in elements of `unit` bytes. -/
def State.deferV (s : State) (n : BitVec 6) (v : BitVec 2048) (m : BitVec 256) (unit : Nat) (fl : List (BitVec 6) := []) : State :=
  s.defer { dest := .v n, val := v.setWidth 4096, mask := m, unit := unit, flags := fl }

/-! ## Instruction stores (R51, R64, R65) -/

/-- The instruction store that a core fetches from. -/
def State.codeOf (s : State) (c : CoreId) : List CodeRange :=
  if isM c then s.mcode.find c [] else (s.cluster (clusterOf c)).code

/-- The loaded range that holds a parcel address. -/
def rangeAt (rs : List CodeRange) (a : Nat) : Option CodeRange :=
  rs.find? (fun r => r.base ≤ a && a < r.base + r.parcels.length)

/-- Length in parcels that the loader's length decode gives: LEN = 11 counts as one (R64). -/
def lenOf (p : Word32) : Nat := if p.toNat % 4 = 3 then 1 else p.toNat % 4 + 1

/-- Offsets of the parcels at which an instruction begins (R64), counting from `i`; `skip` parcels belong to the last one. -/
def startOffsets : List Word32 → Nat → Nat → List Nat
  | [], _, _ => []
  | p :: ps, i, 0 => i :: startOffsets ps (i + 1) (lenOf p - 1)
  | _ :: ps, i, skip + 1 => startOffsets ps (i + 1) skip

/-- The parcel address has a start bit inside the loaded code. -/
def startBit (rs : List CodeRange) (a : Nat) : Bool :=
  match rangeAt rs a with
  | none => false
  | some r => (startOffsets r.parcels 0 0).contains (a - r.base)

/-- The parcels from an address to the end of its range. -/
def parcelsAt (rs : List CodeRange) (a : Nat) : List Word32 :=
  match rangeAt rs a with
  | none => []
  | some r => r.parcels.drop (a - r.base)

/-- A transfer target is legal: within the 65,536 parcels of a store, loaded and with a start bit (R65, R277). -/
def State.targetOk (s : State) (t : Word64) : Bool := t.toNat < 65536 && startBit (s.codeOf s.myCore) t.toNat

/-! ## What an instruction comes to -/

/-- What becomes of an instruction: it completes and falls through, transfers control, faults, parks, waits invisibly to
be tried again, or leaves its task without the next instruction. -/
inductive Res where
  | ok (s : State)
  | jump (s : State) (t : Word32)
  | fault (s : State) (f : Flt)
  | park (s : State) (w : Wait)
  | retry (s : State)
  | gone (s : State)

/-- A part of an instruction: a value, or what ends the instruction early. -/
abbrev Act (α : Type) := Except Res α

/-- The result of an instruction written as parts. -/
def Act.run (a : Act Res) : Res :=
  match a with
  | .ok r => r
  | .error r => r

/-- End with a fault unless the condition holds. -/
def need (c : Bool) (s : State) (f : Flt) : Act Unit := if c then .ok () else .error (.fault s f)

/-- End with what is given unless the condition holds. -/
def needOr (c : Bool) (r : Res) : Act Unit := if c then .ok () else .error r

/-- A switch point inside an instruction: the outstanding deferred results are written, and a fault that came instead of one ends the
instruction; one that is still awaited is waited for (R61, R63, R101). -/
def landed (s : State) : Act State :=
  if s.me.pend.any (·.awaited) then .error (.retry s)
  else
    let s := s.landAll s.cur
    if s.me.status == .stopped then .error (.gone s) else .ok s

/-- The agent has raised a fault or has written its stop record in a halt of a controller, and does nothing until the
partition resumes. -/
def State.stopped (s : State) (a : Agent) (p : Nat) : Bool :=
  (s.halt p).reports.any (fun r => r.agent == a) || ((s.halt p).halted && (s.halt p).records.any (fun r => r.who == a))

/-- A task raises a fault: its outstanding deferred results are written, it stops at the instruction, and the report is
sent (R63, R228, R403); a task that has stopped raises nothing more. `epc` is what a handler's entry puts in `c.epc`. -/
def State.raiseAt (s : State) (k : TaskKey) (f : Flt) (pos epc : Word32) (atIssue : Bool := true) : State :=
  (s.landAll k).stopAt k f pos epc atIssue

/-- A task raises a fault at the instruction it is at. -/
def State.raise (s : State) (k : TaskKey) (f : Flt) : State := s.raiseAt k f (s.task k).pc (s.task k).pc

/-- Handler entry (R232): the switch point, the saved registers, and the transfer to `c.tvec`. It is the one operation by
which a task takes an exception. -/
def State.enterHandler (s : State) (k : TaskKey) (code : FaultCode) (epc : Word32) (eval : Word64) : State :=
  let s := s.landAll k
  let t := s.task k
  s.setTask k { t with
    cause := BitVec.ofNat 64 (2 ^ 63 + faultNum code), epc := epc.setWidth 64, eval := eval, pc := t.tvec.setWidth 32, past := false
    status := if t.pend.isEmpty then .ready else .parked, stop := none, wait := none, agx := none }

/-- The return from a handler (R293): the flag is cleared and control goes to `c.epc`. -/
def eretBody (s : State) : Res :=
  if !s.me.cause.getLsbD 63 then .fault s { code := .illegalEncoding }
  else if s.me.pend.any (·.awaited) then .retry s else
  let s := s.landAll s.cur
  -- a fault that came instead of a deferred result has struck (R63)
  if s.me.status == .stopped then .gone s
  else if !s.targetOk s.me.epc then .fault s { code := .branchTarget, offset := s.me.epc }
  else .jump (s.setMe { s.me with cause := s.me.cause &&& 0x7FFFFFFFFFFFFFFF#64 }) (s.me.epc.setWidth 32)

/-! ## Parking and waking (R90, R237) -/

/-- Read a die's reference counter, after the free time that has passed since it was last read (R14, log entry 7). -/
def State.readCycle (s : State) (d : Nat) : Word64 × State :=
  let (n, s) := s.fresh
  let c := (s.die d).cycle + (Config.elapsed n).setWidth 64 + 1
  (c, s.setDie d { s.die d with cycle := c })

/-- Park a task; one that a fault has just stopped does not park. -/
def State.parkTask (s : State) (k : TaskKey) (w : Wait) : State :=
  if (s.task k).status == .stopped then s else
  let (c, s) := s.readCycle (dieOf (coreOf k))
  let (n, s) := s.arrive
  s.setTask k { s.task k with status := .parked, wait := some { w with since := c, order := n } }

/-- A parked task becomes ready to issue its instruction again. -/
def State.wake (s : State) (k : TaskKey) : State :=
  if (s.task k).status == .parked then s.setTask k { s.task k with status := .ready, wait := none } else s

/-- Wake every task that is parked on a kind of wait and a resource, to try again. -/
def State.wakeAll (s : State) (kind : WaitKind) (aux : Nat) : State :=
  s.tasks.foldl (fun s e =>
    match e.2.wait with
    | some w => if w.kind == kind && w.aux == aux then s.wake e.1 else s
    | none => s) s

/-- The tasks parked on a kind of wait and a resource, in order of arrival. -/
def State.waiters (s : State) (kind : WaitKind) (aux : Nat) : List (TaskKey × Wait) :=
  let ws := s.tasks.filterMap (fun e =>
    match e.2.wait with
    | some w => if e.2.status == .parked && w.kind == kind && w.aux == aux then some (e.1, w) else none
    | none => none)
  sortBy (fun a b => a.2.order ≤ b.2.order) ws

/-! ## Completing an instruction -/

/-- Go on at the next instruction, after the loop-end check (R258, R312): the next parcel address, whether it was reached by a
wrap, and the task with its loop counts. -/
def Task.fallThrough (t : Task) (len : Nat) : Task × Bool :=
  let a : Word64 := t.pc.setWidth 64
  let next := t.pc + BitVec.ofNat 32 len
  if a == t.le1 && t.lc1 != 0 then
    if 1 < t.lc1.toNat then ({ t with lc1 := t.lc1 - 1, pc := t.ls1.setWidth 32 }, true)
    else
      let t := { t with lc1 := 0 }
      if a == t.le0 && t.lc0 != 0 then
        if 1 < t.lc0.toNat then ({ t with lc0 := t.lc0 - 1, pc := t.ls0.setWidth 32 }, true)
        else ({ t with lc0 := 0, pc := next }, false)
      else ({ t with pc := next }, false)
  else if a == t.le0 && t.lc0 != 0 then
    if 1 < t.lc0.toNat then ({ t with lc0 := t.lc0 - 1, pc := t.ls0.setWidth 32 }, true)
    else ({ t with lc0 := 0, pc := next }, false)
  else ({ t with pc := next }, false)

/-- The parcel address just past the loaded code that holds a parcel address. -/
def endOfCode (rs : List CodeRange) (a : Nat) : Option Nat := (rangeAt rs a).map (fun r => r.base + r.parcels.length)

/-- An instruction has completed: fall through with the loop-end check, noting a fall past the end of the loaded code (R65), and
wait for deferred results at a marked instruction or a wrap (R61). -/
def State.complete (s : State) (k : TaskKey) (f : Fields) : State :=
  let a := (s.task k).pc.toNat
  let (t, wrapped) := (s.task k).fallThrough f.form.parcels
  let s := s.setTask k { t with past := !wrapped && endOfCode (s.codeOf (coreOf k)) a == some t.pc.toNat, refused := none }
  if f.m || wrapped then s.switchAt k else s

/-- Settle what an instruction of a task came to. -/
def State.settle (k : TaskKey) (f : Fields) : Res → State
  | .ok s => s.complete k f
  | .jump s t => (s.switchAt k).setTask k { (s.switchAt k).task k with pc := t, past := false, refused := none }
  | .fault s flt =>
    s.raiseAt k flt (s.task k).pc
      (if flt.code == .softwareTrap then (s.task k).pc + BitVec.ofNat 32 f.form.parcels else (s.task k).pc)
  | .park s w => s.parkTask k w
  | .retry s => s
  | .gone s => s

/-! ## Issue (R59) -/

/-- The extensions that a core lists (R66). -/
def hasExt (c : CoreId) : Ext → Bool
  | .base | .vec | .bit => true
  | .graph => !isM c
  | .mat | .mask | .sbp => isA c
  | .mgmt => isM c

/-- Bits of a lane of an instruction's lanes: group 3 takes f32, f16 and bf16, the others the integer widths. -/
def laneBits (o : Op) (f : Fields) : Nat :=
  let g := o.row.code.toNat / 64
  if g = 3 then (match o with
    | .vcvt | .vcvti | .vscacc => 32
    | _ => if f.z = 0 then 32 else 16)
  else 8 * 2 ^ f.z.toNat

/-- The number of a control register in {A,B} of MFC and MTC (R75). -/
def controlNumber (f : Fields) : Nat := (f.a ++ f.b).toNat

/-- The number names a control register (R316). -/
def controlKnown (n : Nat) : Bool := (1 ≤ n && n ≤ 0x11) || (0x100 ≤ n && n ≤ 0x104)

/-- The instruction names a control register. -/
def namesControl (o : Op) : Bool := o == .mfc || o == .mtc

/-- What is left of check 5 of R59 at issue: a source modifier's segment holds no more elements than the task's register (R58), and the
number of a control register names one (R316). -/
def modFits (o : Op) (f : Fields) (t : Task) : Bool :=
  (f.smClass == 0 || 2 ^ f.smSeg.toNat ≤ t.bits / laneBits o f) && (!namesControl o || controlKnown (controlNumber f))

/-- The instruction is privileged, or reaches a privileged control register (R59 check 7, R316). -/
def needsPriv (o : Op) (f : Fields) : Bool := o.row.priv || (namesControl o && 0x100 ≤ controlNumber f)

/-- The guard as predicate bits: a predicate register, inverted if the guard is negated (R54). -/
def Task.guard (t : Task) (f : Fields) : BitVec 256 :=
  let p := t.getP ((f.g.setWidth 3).setWidth 6)
  if f.g.getLsbD 3 then ~~~p &&& t.pMask else p

/-- A task that meets an extension its core lacks: first a switch point, then a wait for its move to an A-core, or a fault
when no core of the cluster lists it (R66, R108). -/
def migrateRes (s : State) (o : Op) (f : Fields) : Res :=
  if o.row.ext == .mgmt || isM s.myCore then .fault s { code := .noExtension }
  else if s.me.pend.any (·.awaited) then .retry s
  else .park (s.landAll s.cur) { kind := .migration, op := o, f := f }

/-- The instructions after which a task runs on while a fault of their access is still to arise: the deferred ones of R60 that access
memory or send (R63, R344), and the stores and write-backs, whose entries list the same faults after issue (R330, R339, R347, R391, R393). -/
def runsOn : Op → Bool
  | .ld | .ldc | .ldo | .okind | .hdl | .vld | .vlds | .vgath | .vldpk | .gld | .send | .sendSpawn
  | .amo | .cas | .cas2 | .fld | .ftake | .mread | .cbld | .mkld | .sgld
  | .fork | .recv | .jwait | .jpoll | .coll | .nbmv | .agx | .cpy | .mscale | .mtab
  | .st | .stc | .sto | .vst | .vsts | .vscat | .gst | .vstpk | .osync | .rel => true
  | _ => false

/-- The codes that arise after issue in an access (R63, R227). -/
def arisesLate : FaultCode → Bool
  | .region | .hostTranslation | .remotePermission | .uncorrectable => true
  | _ => false

/-- A fault that arises after the issue of a deferred read is outstanding like its result, and strikes at a free moment up to the
task's next switch point: later instructions of the segment may have issued (R63). -/
def Res.postponed (o : Op) : Res → Res
  | .fault s f => if runsOn o && arisesLate f.code then .ok (s.defer { dest := .x 0, fault := some f }) else .fault s f
  | r => r

/-- An instruction that its guard turns off has no effect; YIELD keeps its switch point (R54, R399). -/
def guardedOff (o : Op) (s : State) : Res := if o == .yield then Act.run ((landed s).map .ok) else .ok s

/-- Issue an instruction for the task that acts: checks 5 to 8 of R59, the instruction's own effect, and what follows. -/
def issue (o : Op) (f : Fields) (body : State → Res) (s : State) : State :=
  let t := s.me
  State.settle s.cur f
    (if !modFits o f t then .fault s { code := .illegalEncoding }
    else if !hasExt s.myCore o.row.ext then migrateRes s o f
    else if needsPriv o f && !t.priv then .fault s { code := .privilege }
    else if !o.row.lanes && !(t.guard f).getLsbD 0 then guardedOff o s
    else (body s).postponed o)

/-- Checks 5 to 8 of R59 let the instruction have its own effect: it fits the task's width, the core has its extension, the task has
its privilege, and its guard is true where the guard does not select elements. -/
def State.issues (s : State) (o : Op) (f : Fields) : Bool :=
  modFits o f s.me && hasExt s.myCore o.row.ext && (!needsPriv o f || s.me.priv) && (o.row.lanes || (s.me.guard f).getLsbD 0)

/-- The outcome of an instruction: the state that its issue leads to. -/
def run (o : Op) (f : Fields) (body : State → Res) (s : State) : Host.Outcome State Fault Refusal :=
  .next (issue o f body s)

/-- The outcome of an event. -/
def happen (f : State → State) (s : State) : Host.Outcome State Fault Refusal := .next (f s)

end Sys2Proof.Machine
end

