-- ==== Sys2Proof/Machine/Objects.lean ====
section
/-!
DEFINITION. Pointers, headers, translation, canonical accesses with their store buffer, scopes, releases, and the copy map
(spec/02_objects.md, spec/13_consistency.md, R239, R245).
-/

namespace Sys2Proof.Machine

/-! ## Pointers (R19, R20) -/

/-- Level tag of a pointer. -/
def tagOf (p : Word64) : Nat := p.toNat / 2 ^ 60

/-- Size of the pad that a tag names. -/
def padSize (tag : Nat) : Nat := if tag = 1 then 0x40000 else if tag = 2 then 0x600000 else 0x4000000

/-- The pointer is malformed (R20). -/
def malformed (p : Word64) : Bool :=
  let n := p.toNat
  match tagOf p with
  | 0 => n != 0
  | 1 => bits n 32 19 != 0 || bits n 0 4 != 0 || padSize 1 ≤ bits n 0 32
  | 2 => bits n 32 19 != 0 || bits n 51 3 != 0 || bits n 0 4 != 0 || padSize 2 ≤ bits n 0 32
  | 3 => bits n 32 19 != 0 || bits n 51 3 != 0 || bits n 0 4 != 0 || padSize 3 ≤ bits n 0 32
  | 4 | 5 => bits n 0 4 != 0
  | 6 => false
  | _ => true

/-- An access through the pointer raises `null-pointer`: null, malformed or tag 6 (R20). -/
def badPtr (p : Word64) : Bool := p == 0 || malformed p || tagOf p == 6

/-- Pointer to an offset of a pad. -/
def padPtr : PadUnit → Nat → Word64
  | .core c, off => BitVec.ofNat 64 (2 ^ 60 + c / 128 * 2 ^ 58 + c / 8 % 16 * 2 ^ 54 + c % 8 * 2 ^ 51 + off)
  | .cluster k, off => BitVec.ofNat 64 (2 * 2 ^ 60 + k / 16 * 2 ^ 58 + k % 16 * 2 ^ 54 + off)
  | .die d, off => BitVec.ofNat 64 (3 * 2 ^ 60 + d * 2 ^ 58 + off)

/-- The pad that a pad pointer names. -/
def padOf (p : Word64) : Option PadUnit :=
  let n := p.toNat
  match tagOf p with
  | 1 => some (.core (bits n 58 2 * 128 + bits n 54 4 * 8 + bits n 51 3))
  | 2 => some (.cluster (bits n 58 2 * 16 + bits n 54 4))
  | 3 => some (.die (bits n 58 2))
  | _ => none

/-- Offset of a pad pointer. -/
def padOff (p : Word64) : Nat := bits p.toNat 0 32

/-- Pointer to an offset of a heap region. -/
def heapPtr (region off : Nat) : Word64 := BitVec.ofNat 64 (4 * 2 ^ 60 + region * 2 ^ 40 + off)

/-! ## Object registers (R21) -/

/-- Canonical pointer of an o register. -/
def oCanon (r : BitVec 128) : Word64 := r.extractLsb' 0 64

/-- Length of an o register. -/
def oLen (r : BitVec 128) : Nat := (r.extractLsb' 64 32).toNat

/-- Start of the view, in bytes of the payload. -/
def oView (r : BitVec 128) : Nat := 16 * (r.extractLsb' 96 28).toNat

/-- The touched bit. -/
def oTouched (r : BitVec 128) : Bool := r.getLsbD 127

/-- An o register. -/
def oMake (touched view : Bool) (viewOff : Nat) (len : Nat) (canon : Word64) : BitVec 128 :=
  BitVec.ofBool touched ++ BitVec.ofBool view ++ (0 : BitVec 2) ++ BitVec.ofNat 28 (viewOff / 16) ++ BitVec.ofNat 32 len
    ++ canon

/-- The register with another canonical pointer. -/
def oSetCanon (r : BitVec 128) (p : Word64) : BitVec 128 := r.extractLsb' 64 64 ++ p

/-- The register with the touched bit as given. -/
def oSetTouched (r : BitVec 128) (b : Bool) : BitVec 128 := BitVec.ofBool b ++ r.extractLsb' 0 127

/-! ## Headers (R24, R25, R402) -/

/-- Payload length. -/
def hLen (h : Word64) : Nat := bits h.toNat 0 32

/-- Object kind. -/
def hKind (h : Word64) : Nat := bits h.toNat 32 4

/-- Staged state. -/
def hState (h : Word64) : Nat := bits h.toNat 36 4

/-- Pinned flag. -/
def hPinned (h : Word64) : Bool := h.getLsbD 40

/-- Sealed flag. -/
def hSealed (h : Word64) : Bool := h.getLsbD 41

/-- Staged flag. -/
def hStaged (h : Word64) : Bool := h.getLsbD 42

/-- Bank-spread flag. -/
def hSpread (h : Word64) : Bool := h.getLsbD 43

/-- The state bits of a header word replaced. -/
def hSetState (h : Word64) (st : BitVec 4) : Word64 :=
  (h &&& ~~~(0xF#64 <<< 36)) ||| (st.setWidth 64 <<< 36)

/-- Word 0 is a valid header word (R402). -/
def validHeader (h : Word64) : Bool :=
  bits h.toNat 45 19 == 0 && hKind h < 8 && hState h < 4 && hLen h != 0 && hLen h % 16 == 0
    && (h.getLsbD 44 == (hKind h == 2))

/-- The header word that ALLOC writes (R24). -/
def newHeader (len kind : Nat) (staged spread : Bool) : Word64 :=
  BitVec.ofNat 64 (len + kind * 2 ^ 32 + (if staged then 0 else 2) * 2 ^ 36 + staged.toNat * 2 ^ 42 + spread.toNat * 2 ^ 43
    + (if kind = 2 then 2 ^ 44 else 0))

/-- The object may be copied: a kind that touches, not staged (R31). -/
def touchable (h : Word64) : Bool := hKind h ≤ 2 && !hStaged h

/-! ## Translation (R239, R245) -/

/-- Where an access leads. -/
inductive Reach where
  | ok (addr : Nat)
  | fault (c : FaultCode)
  /-- A window page whose translation the host has not given. -/
  | page (n : Nat)
  /-- A channel of the stack is quiesced or is retraining (R405). -/
  | stall

/-- A region-table entry. -/
def State.region (s : State) (p r : Nat) : Word64 := s.regions.find (2 ^ 20 * p + r) 0

/-- The entry is valid. -/
def rgValid (e : Word64) : Bool := e.getLsbD 63

/-- Stack of an entry. -/
def rgStack (e : Word64) : Nat := bits e.toNat 60 3

/-- Size of an entry's region in bytes. -/
def rgSize (e : Word64) : Nat := (bits e.toNat 48 6 + 1) * 2 ^ 28

/-- Physical address of a stack's byte. -/
def stackAddr (stack a : Nat) : Nat := 2 ^ 62 + stack * 2 ^ 36 + a

/-- The channel of a stack. -/
def State.channel (s : State) (ch : Nat) : Channel := s.channels.find ch Channel.initial

/-- A byte of a stack lies on a channel that stalls its accesses (R256, R257, R405). -/
def State.byteStalled (s : State) (stack a : Nat) : Bool :=
  let c := s.channel (32 * stack + a / 256 % 32)
  c.ctl.getLsbD 1 || (c.auto && c.autoPc == (a / 8192 % 2 == 1))

/-- Some byte of a range of a stack is stalled. -/
def State.stackStalled (s : State) (stack a n : Nat) : Bool :=
  s.channels.any (fun e => e.1 / 32 == stack && (e.2.ctl.getLsbD 1 || e.2.auto))
    && (List.range (n / 256 + 2)).any (fun i => a / 256 * 256 + 256 * i < a + n && s.byteStalled stack (a / 256 * 256 + 256 * i))

/-- A window's two words. -/
def State.window (s : State) (p w : Nat) : Word64 × Word64 := s.plat.windows.find (4096 * p + w) (0, 0)

/-- A port. -/
def State.port (s : State) (n : Nat) : Port := s.plat.ports.find n Port.initial

/-- Replace a port. -/
def State.setPort (s : State) (n : Nat) (v : Port) : State := { s with plat := { s.plat with ports := s.plat.ports.set n v } }

/-- A port number of a route entry exists and the port is up. -/
def State.portUp (s : State) (n : Nat) : Bool := n < 18 && (s.port n).up

/-- The port by which the route table of an I/O die reaches another package: the primary one if it is up, else the alternate one (R247). -/
def State.routePort (s : State) (io pkg : Nat) : Option Nat :=
  let e := s.plat.routes.find (64 * io + pkg) 0
  let prim := bits e.toNat 0 5
  let alt := bits e.toNat 8 5
  if !s.plat.inDomain || 64 ≤ pkg || pkg = s.plat.package.toNat || !e.getLsbD 31 || 18 ≤ prim || (e.getLsbD 15 && 18 ≤ alt) then none
  else if s.portUp prim then some prim
  else if e.getLsbD 15 && s.portUp alt then some alt
  else none

/-- The route table of an I/O die reaches another package. -/
def State.routeOk (s : State) (io pkg : Nat) : Bool := (s.routePort io pkg).isSome

/-- A port sends a flit, and keeps the last 512 (R246). -/
def State.sendFlit (s : State) (n : Nat) (payload : List Byte) : State :=
  let p := s.port n
  let kept := p.replay ++ [(p.sendSeq, payload)]
  s.setPort n { p with
    sendSeq := p.sendSeq + 1, replay := kept.drop (kept.length - 512)
    wire := p.wire ++ [{ version := p.version, kind := Config.flitKind true, seq := p.sendSeq, ack := p.recvSeq, nack := false, payload := payload }] }

/-- A request toward another package goes out on the port of its route, in a flit whose payload is a free value (R246, R247). -/
def State.requestOver (s : State) (io pkg : Nat) : State :=
  match s.routePort io pkg with
  | none => s
  | some n =>
    let (m, s) := s.fresh
    s.sendFlit n ((List.range 240).map (Config.flitByte m))

/-- The package that a physical address lies in, if it is another one (R245). -/
def peerOf (a : Nat) : Option Nat := if 2 ^ 68 ≤ a && a < 2 ^ 72 then some (a / 2 ^ 64 - 16) else none

/-- The I/O die that a window goes through (R245). -/
def State.windowIo (s : State) (p : Nat) (ptr : Word64) : Nat := bits (s.window p (bits ptr.toNat 48 12)).1.toNat 60 1

/-- An access through a window pointer to a physical address of another package sends its request; every other access sends none
(R245, R247). -/
def State.requestTo (s : State) (p : Nat) (ptr : Word64) (a : Nat) : State :=
  match peerOf a with
  | some pkg => s.requestOver (s.windowIo p ptr) pkg
  | none => s

/-- The way on which a request over an I/O die to another package goes out now. -/
def State.viaOver (s : State) (io pkg : Nat) : Option Via := (s.routePort io pkg).map (fun n => ⟨pkg, io, n⟩)

/-- The way of a request for an access through a window pointer to a physical address; none for one that stays in the package. -/
def State.via (s : State) (p : Nat) (ptr : Word64) (a : Nat) : Option Via := (peerOf a).bind (s.viaOver (s.windowIo p ptr))

/-- Physical address of a byte of host memory: the I/O virtual addresses of each partition, which is the PASID, are apart (R242, R245). -/
def hostAddr (p v : Nat) : Nat := 2 ^ 72 + 2 ^ 64 * p + v % 2 ^ 64

/-- The physical address lies in host memory or in CXL memory behind the host. -/
def isHost (a : Nat) : Bool := 2 ^ 72 ≤ a

/-- The physical address of the header at `ptr`, for the tables of partition `p`, when the first `last` bytes of the
object lie inside its pad, region or window. -/
def State.place (s : State) (p : Nat) (ptr : Word64) (last : Nat) : Except FaultCode Nat :=
  let v := ptr.toNat
  match tagOf ptr with
  | 1 | 2 | 3 => if padOff ptr + last ≤ padSize (tagOf ptr) then .ok v else .error .region
  | 4 =>
    let e := s.region p (bits v 40 20)
    let off := bits v 0 40
    if !rgValid e || rgSize e < off + last then .error .region
    else .ok (stackAddr (rgStack e) (bits e.toNat 0 8 * 2 ^ 28 + off))
  | 5 =>
    let (w, base) := s.window p (bits v 48 12)
    let off := bits v 0 48
    let ty := bits w.toNat 61 2
    if !w.getLsbD 63 || ty = 3 || bits w.toNat 0 48 < off + last then .error .region
    else if ty = 2 then
      if s.routeOk (bits w.toNat 60 1) (bits w.toNat 54 6) then
        .ok (2 ^ 68 + bits w.toNat 54 6 * 2 ^ 64 + (base.toNat + off) % 2 ^ 64)
      else .error .region
    else .ok (hostAddr p (base.toNat + off))
  | _ => .error .region

/-- What an access to `n` bytes at a physical address meets: an ungranted page of host memory, or a stalled channel. -/
def State.reachAt (s : State) (a n : Nat) : Reach :=
  if isHost a then
    match ((List.range ((a + n - 1) / 4096 - a / 4096 + 1)).map (fun i => a / 4096 + i)).find?
        (fun pg => !s.plat.grantedPages.contains pg) with
    | some pg => .page pg
    | none => .ok a
  else if 2 ^ 62 ≤ a && a < 2 ^ 63 && s.stackStalled (bits a 36 3) (bits a 0 36) n then .stall
  else .ok a

/-- Bytes of a chunk of 256 weights of the bank-spread object at a header, by the format code of its shape prefix: CB4 takes half
a byte for each weight, the others one (R157, R158). DESIGN CHOICE (log entry 49): for a code that R157 does not list, as before the prefix is
written, the spec states no size, and the model takes 256 bytes. -/
def State.chunkBytes (s : State) (a : Nat) : Nat := if (s.mem.read (a + 24)).toNat = 9 then 128 else 256

/-- Channel of a stack that a chunk of weights lies on (R158). -/
def chunkChannel (q : Nat) : Nat := q % 32

/-- Bank of its channel that a chunk lies in (R158). -/
def chunkBank (q : Nat) : Nat := q / 32 % 4

/-- Position of a chunk within its bank's part of the object (R158). -/
def chunkPosition (q : Nat) : Nat := q / 128

/-- The chunk that payload offset `off`, at or past 64, of a bank-spread object lies in (R158). -/
def State.chunkAt (s : State) (a off : Nat) : Nat := (off - 64) / s.chunkBytes a

/-- Some row byte among `n` payload bytes from `off` of a bank-spread object lies on a channel that is quiesced or is retraining. The
pseudo-channel of a chunk is not stated, so a retraining channel stalls its chunks whole (log entry 49). -/
def State.rowsStalled (s : State) (a off n : Nat) : Bool :=
  let st := bits a 36 3
  64 < off + n && s.channels.any (fun e => e.1 / 32 == st && (e.2.ctl.getLsbD 1 || e.2.auto) &&
    (let lo := s.chunkAt a (max 64 off)
     let hi := s.chunkAt a (off + n - 1)
     -- some chunk from lo to hi lies on this channel
     32 ≤ hi + 1 - lo || (List.range (hi + 1 - lo)).any (fun i => chunkChannel (lo + i) == e.1 % 32)))

/-- What an access to `n` bytes from `lo` after the header at a physical address meets: the rows of a bank-spread object lie as R158
says, every other byte at its stack address (R405). -/
def State.reachObj (s : State) (a lo n : Nat) : Reach :=
  if 2 ^ 62 ≤ a && a < 2 ^ 63 && hSpread (leWord (s.mem.readN a 8)) && validHeader (leWord (s.mem.readN a 8)) && 80 < lo + n then
    if s.rowsStalled a (max lo 80 - 16) (lo + n - max lo 80) then .stall
    else if lo < 80 then s.reachAt (a + lo) (80 - lo)
    else .ok a
  else s.reachAt (a + lo) n

/-- Where `n` bytes from offset `lo` after a header lead: the physical address of the header. -/
def State.reach (s : State) (p : Nat) (ptr : Word64) (lo n : Nat) : Reach :=
  match s.place p ptr (max 16 (lo + n)) with
  | .error c => .fault c
  | .ok a =>
    match s.reachObj a lo n with
    | .ok _ => .ok a
    | r => r

/-- Home of a physical address: the compute die, or 4 for host memory and other packages (R11). -/
def homeOf (a : Nat) : Nat :=
  if a < 2 ^ 62 then bits a 58 2 else if a < 2 ^ 63 then bits a 36 3 / 2 else 4

/-- The cluster whose router guards a pad of tag 1 or 2 (R223). -/
def guardCluster (ptr : Word64) : Option ClusterId :=
  if tagOf ptr = 1 || tagOf ptr = 2 then some (bits ptr.toNat 58 2 * 16 + bits ptr.toNat 54 4) else none

/-- A tenant is a member of a partition, or its traffic is always delivered (R222, R223, R262). -/
def State.memberOf (s : State) (tenant : BitVec 16) (p : Nat) : Bool :=
  tenant == superTenant || (tenant.toNat / 64 == (s.part p).group && (s.part p).member.getLsbD (tenant.toNat % 64))

/-- The routers on the way to the object at a pointer admit traffic of a tenant and its partition, which comes from a cluster or, as
none, from an I/O die or a unit of a die (R223): the test is that of the cluster of a core or cluster pad; for a die pad, the heap, and a
pad of the cluster itself, it is the tenant's membership of its own partition, if that is configured (R350). -/
def State.passes (s : State) (tenant : BitVec 16) (part : Nat) (source : Option ClusterId) (ptr : Word64) : Bool :=
  let own := 16 ≤ part || !(s.part part).configured || s.memberOf tenant part
  match guardCluster ptr with
  | none => (tagOf ptr != 3 && tagOf ptr != 4) || own
  | some cl => if source == some cl then own else s.routerPasses tenant cl

/-- The routers on the way to the object at a pointer admit a task. -/
def State.admits (s : State) (k : TaskKey) (ptr : Word64) : Bool :=
  s.passes (s.task k).tenant (s.task k).part (if isM (coreOf k) then none else some (clusterOf (coreOf k))) ptr

/-- Ask the host for a page, once (R239). -/
def State.askPage (s : State) (q : PageReq) : State :=
  if s.plat.pages.contains q then s else { s with plat := { s.plat with pages := s.plat.pages ++ [q] } }

/-- A store of the acting task to a die, with a full fence below pkg scope after it, is still in its buffer: a later access to that die
waits for it (R209, R212). -/
def State.fencedTo (s : State) (a : Nat) : Bool := s.me.sb.any (fun st => st.fenced && st.home == homeOf a)

/-- Where an access of the acting task leads: the physical address of the header. The router is asked unless the access belongs to a
store that is posted. An access that stalls is tried again; a page that the host has refused to the instruction raises
`host-translation` (R239). -/
def accessVia (asks : Bool) (s : State) (ptr : Word64) (lo n : Nat) : Act Nat :=
  let at_ (c : FaultCode) : Flt := { code := c, ptr := ptr, offset := BitVec.ofNat 64 (lo - 16) }
  if asks && !s.admits s.cur ptr then .error (.fault s (at_ .remotePermission))
  else
    match s.reach (s.tablePart s.me) ptr lo n with
    | .ok a => if s.fencedTo a then .error (.retry s) else .ok a
    | .fault c => .error (.fault s (at_ c))
    | .stall => .error (.retry s)
    | .page pg =>
      if s.me.refused == some pg then .error (.fault (s.setMe { s.me with refused := none }) (at_ .hostTranslation))
      else .error (.retry (s.askPage (.task s.cur s.me.tid ptr pg)))

/-- Where an access of the acting task leads, with the router's test. -/
def access (s : State) (ptr : Word64) (lo n : Nat) : Act Nat := accessVia true s ptr lo n

/-- A store of the acting task to the object goes to another die, and is posted (R233). -/
def State.posts (s : State) (ptr : Word64) : Bool :=
  match s.place (s.tablePart s.me) ptr 16 with
  | .ok a => homeOf a < 4 && homeOf a != dieOf s.myCore
  | .error _ => false

/-! ## Canonical loads and stores (R205, R208, R209, R233, R240) -/

/-- Bytes that a store writes. -/
def Store.size (st : Store) : Nat := st.bytes.length + st.zero

/-- The newest byte that a task's store buffer holds for an address, of the stores up to a place in its program order. -/
def Task.forwarded (t : Task) (upTo a : Nat) : Option Byte :=
  t.sb.foldl (fun acc st =>
    if st.seq ≤ upTo && st.addr ≤ a && a < st.addr + st.size then some (st.bytes[a - st.addr]?.getD 0) else acc) none

/-- Bytes as a canonical load at a place of its task's program order sees them: its own earlier buffered stores, else memory. -/
def State.loadAt (s : State) (k : TaskKey) (upTo a n : Nat) : List Byte :=
  if (s.task k).sb.isEmpty then s.mem.readN a n
  else (List.range n).map (fun i => ((s.task k).forwarded upTo (a + i)).getD (s.mem.read (a + i)))

/-- Bytes as a task's canonical load sees them now. -/
def State.loadBytes (s : State) (k : TaskKey) (a n : Nat) : List Byte := s.loadAt k (s.task k).seq a n

/-- A range meets a poisoned block. -/
def State.poisoned (s : State) (a n : Nat) : Bool := s.poison.any (fun b => b < a + n && a < b + 64)

/-- Write bytes to memory: a poisoned block that is written whole is cleared (R240). -/
def State.poke (s : State) (a : Nat) (bs : List Byte) : State :=
  { s with
    mem := s.mem.writeN a bs
    poison := s.poison.filter (fun b => !(a ≤ b && b + 64 ≤ a + bs.length)) }

/-- Write a 64-bit word to memory. -/
def State.pokeWord (s : State) (a : Nat) (w : Word64) : State := s.poke a (leBytes 8 w.toNat)

/-- A 64-bit word of memory. -/
def State.peekWord (s : State) (a : Nat) : Word64 := leWord (s.mem.readN a 8)

/-- Zero a range of memory. -/
def State.clear (s : State) (a n : Nat) : State :=
  { s with
    mem := s.mem.filter (fun c => c.1 < a || a + n ≤ c.1)
    poison := s.poison.filter (fun b => !(a ≤ b && b + 64 ≤ a + n)) }

/-- Canonical load of the acting task: `n` bytes at payload offset `lo - 16` of the object at `ptr`. -/
def loadAct (s : State) (ptr : Word64) (lo n : Nat) : Act (List Byte) := do
  let a ← access s ptr lo n
  need (!s.poisoned (a + lo) n) s { code := .uncorrectable, ptr := ptr, offset := BitVec.ofNat 64 (lo - 16) }
  return s.loadBytes s.cur (a + lo) n

/-- The header address and word 0 of the object at a pointer (R402), asking the router or not. -/
def headerVia (asks : Bool) (s : State) (ptr : Word64) : Act (Nat × Word64) := do
  let a ← accessVia asks s ptr 0 16
  need (!s.poisoned a 16) s { code := .uncorrectable, ptr := ptr }
  let h := leWord (s.loadBytes s.cur a 8)
  need (validHeader h) s { code := .kind, eval := h, ptr := ptr }
  return (a, h)

/-- The header address and word 0 of the object at a pointer (R402). -/
def header (s : State) (ptr : Word64) : Act (Nat × Word64) := headerVia true s ptr

/-- A store of a task that its destination's router refuses: memory is unchanged, the refusal is logged and the source's
partition halts, naming the instruction from the source log (R233). -/
def State.refuseStore (s : State) (k : TaskKey) (st : Store) : State :=
  let t := s.task k
  let d := s.die st.home
  let s := s.setDie st.home { d with refusals := d.refusals ++ [(t.tenant, s.coreAddr (coreOf k), st.ptr)] }
  let logged := (s.core (coreOf k)).storeLog.any (fun e => e.num == st.log)
  let pos : Word32 := if logged then st.pc else 0xFFFFFFFF
  s.raiseAt k { code := .remotePermission, ptr := st.ptr, lost := !logged } pos pos false

/-- An element of a load of task `k` comes before a store of the task: earlier in program order, and of the store's die, of its bytes, or
before a release fence that the store comes after; a store to the core's own pad takes its place among the core's private accesses as well
(R205, R208, R209, R212). -/
def Store.after (st : Store) (k : TaskKey) (p : Pend) (e : Elem) : Bool :=
  if e.priv then p.seq < st.seq && padOf st.ptr == some (.core (coreOf k))
  else (p.seq < st.seq && ((st.home < 4 && homeOf e.addr == st.home) || (e.addr < st.addr + st.size && st.addr < e.addr + e.size)))
    || (p.seq ≤ st.pkgBar && homeOf e.addr < 4) || p.seq ≤ st.sysBar

/-- The elements of a load that meet `hit` are performed: what they have read stands. A pointer's and a tile's are read together. -/
def Pend.fix (p : Pend) (hit : Pend → Elem → Bool) : Pend :=
  match p.how with
  | .pointer | .tile _ _ _ => if p.src.any (hit p) then { p with src := [] } else p
  | _ => { p with src := p.src.filter (fun e => !hit p e) }

/-- The elements of a task's outstanding loads that meet `hit` are performed. -/
def State.fixLoads (s : State) (k : TaskKey) (hit : Pend → Elem → Bool) : State :=
  if (s.task k).pend.all (·.src.isEmpty) then s
  else s.setTask k { s.task k with pend := (s.task k).pend.map (·.fix hit) }

/-- The bytes of a store, and the zeroes that follow them, in memory. -/
def State.pokeStore (s : State) (st : Store) : State :=
  (if st.zero = 0 then s else s.clear st.addr st.size).poke st.addr st.bytes

/-- A store of the buffer reaches its home: the loads that come before it are performed, then the router's test for a posted store (R233),
the sealed flag (R342), and the bytes. -/
def State.performStore (s : State) (k : TaskKey) (st : Store) : State :=
  let s := s.fixLoads k (st.after k)
  if st.posted && !s.admits k st.ptr then s.refuseStore k st
  else if st.hdr + 16 ≤ st.addr && hSealed (s.peekWord st.hdr) && validHeader (s.peekWord st.hdr) then
    s.raiseAt k { code := .sealedStore, eval := st.ptr, ptr := st.ptr } st.pc st.pc false
  else (s.requestTo (s.tablePart (s.task k)) st.ptr st.addr).pokeStore st

/-- A buffered store meets a channel that stalls accesses (R256, R257, R405). -/
def State.storeStalls (s : State) (st : Store) : Bool :=
  match s.reachObj st.hdr (st.addr - st.hdr) st.size with
  | .stall => true
  | _ => false

/-- Two stores meet in a byte. -/
def Store.meets (a b : Store) : Bool := a.addr < b.addr + b.size && b.addr < a.addr + a.size

/-- A store waits for an earlier one in the buffer: one to its die by an earlier instruction, one of the same bytes, or one before a release
fence that it comes after (R205, R208, R209, R212). The elements of one instruction wait for no other element but that of the same bytes
(R392). -/
def Store.waits (st x : Store) : Bool :=
  (st.home < 4 && x.home == st.home && x.seq != st.seq) || x.meets st
    || (x.seq ≤ st.pkgBar && x.home < 4 && st.home < 4) || x.seq ≤ st.sysBar

/-- The buffered store that a number of STORE_BUFFER_DRAIN names, if it may become visible now: for 0 to 3 the oldest to that die, from 4 on
the stores in the order of the buffer. -/
def Task.drainable (t : Task) (n : Nat) : Option Store :=
  match (if n < 4 then t.sb.findIdx? (fun st => st.home == n) else some (n - 4)) with
  | none => none
  | some i =>
    match t.sb[i]? with
    | none => none
    | some st => if (t.sb.take i).any st.waits then none else some st

/-- A buffered store becomes visible, unless its channel stalls it. -/
def State.drainOne (s : State) (k : TaskKey) (n : Nat) : State :=
  match (s.task k).drainable n with
  | none => s
  | some st => if s.storeStalls st then s else (s.setTask k { s.task k with sb := (s.task k).sb.erase st }).performStore k st

/-- The chosen stores of a buffer with the earlier ones that they wait for. -/
def neededStores (sel : Store → Bool) : List Store → List Store
  | [] => []
  | st :: rest =>
    let r := neededStores sel rest
    if sel st || r.any (·.waits st) then st :: r else r

/-- Take a buffered store to its home if it is needed, or keep it in the buffer: also when its channel stalls it or it waits for a store that
is kept. -/
def State.drainStore (k : TaskKey) (needed : List Store) (s : State) (st : Store) : State :=
  if !needed.contains st || s.storeStalls st || (s.task k).sb.any st.waits then s.setTask k { s.task k with sb := (s.task k).sb ++ [st] }
  else s.performStore k st

/-- The chosen stores of a task become visible, with those they wait for, oldest first; what a channel stalls stays. -/
def State.drainSel (s : State) (k : TaskKey) (sel : Store → Bool) : State :=
  (s.task k).sb.foldl (State.drainStore k (neededStores sel (s.task k).sb)) (s.setTask k { s.task k with sb := [] })

/-- Every buffered store becomes visible. -/
def State.drainAll (s : State) (k : TaskKey) : State := s.drainSel k (fun _ => true)

/-- The buffered stores to one home become visible. -/
def State.drainHome (s : State) (k : TaskKey) (home : Nat) : State := s.drainSel k (fun st => st.home == home)

/-! ### The moment of a load (R205, R208, R209, R370)

A load is performed between its issue and its landing. Its issue reads it once; until it lands, or something comes that must come after it,
it may be read again (log entry 6). -/

/-- An address lies in a core's own pad. -/
def inOwnPad (c : CoreId) (a : Nat) : Bool := a < 2 ^ 62 && padOf (BitVec.ofNat 64 a) == some (.core c)

/-- An element of a load of a core must be performed no later than an access, private or not, of `m` bytes at `a` that comes after it:
accesses to one die, to the same bytes, and those to the core's copies and its own pad keep their order (R205, R208, R209). -/
def keepsOrder (c : CoreId) (e : Elem) (priv : Bool) (a m : Nat) : Bool :=
  (!e.priv && !priv && ((homeOf a < 4 && homeOf e.addr == homeOf a) || (e.addr < a + m && a < e.addr + e.size)))
    || ((e.priv || inOwnPad c e.addr) && (priv || inOwnPad c a))

/-- Before a canonical access of the acting task to `n` bytes at an address that takes effect now, its earlier loads that keep their order
with it are performed. -/
def State.fixAt (s : State) (a n : Nat) : State :=
  s.fixLoads s.cur (fun _ e => keepsOrder s.myCore e false a n)

/-- Before an access of the acting task to a copy that takes effect now, its earlier loads of the core's copies and pad are performed
(R205). -/
def State.fixPrivate (s : State) : State := s.fixLoads s.cur (fun _ e => keepsOrder s.myCore e true 0 0)

/-- The earlier canonical loads of the acting task from the dies are performed. -/
def State.fixDies (s : State) : State := s.fixLoads s.cur (fun _ e => !e.priv && homeOf e.addr < 4)

/-- Every earlier canonical load of the acting task is performed. -/
def State.fixAll (s : State) : State := s.fixLoads s.cur (fun _ e => !e.priv)

/-- As `fixAt`, for `n` bytes from `lo` after the header of the object at a pointer. -/
def State.fixObj (s : State) (ptr : Word64) (lo n : Nat) : State :=
  match s.place (s.tablePart s.me) ptr (max 16 (lo + n)) with
  | .ok a => s.fixAt (a + lo) n
  | .error _ => s

/-- What a release comes to once it has taken stores to their homes: an earlier store that is refused stops the task here, and one that
stalls stalls the instruction. -/
def drained (sel : Store → Bool) (s : State) : Act State :=
  if s.me.status == .stopped then .error (.gone s) else if s.me.sb.any sel then .error (.retry s) else .ok s

/-- The acting task's earlier accesses are performed, whatever their home: a release at dom or sys (R206, R209). -/
def released (s : State) : Act State := drained (fun _ => true) (s.fixAll.drainAll s.cur)

/-- The acting task's earlier accesses to the dies are performed: a release at pkg (R206, R209). -/
def releasedDies (s : State) : Act State :=
  drained (fun st => st.home < 4) ((s.fixDies).drainSel s.cur (fun st => st.home < 4))

/-- An access of the acting task to a home that takes effect now comes after an earlier one to home `h` at place `seq`: one to the same home,
or one before a release fence (R208, R212). -/
def Task.before (t : Task) (home h seq : Nat) : Bool :=
  h == home || (seq ≤ t.pkgBar && h < 4 && home < 4) || seq ≤ t.sysBar

/-- The acting task's earlier accesses to one home are performed, and those that a release fence has before them. -/
def releasedHome (s : State) (home : Nat) : Act State :=
  let t := s.me
  let sel (st : Store) : Bool := t.before home st.home st.seq
  drained sel ((s.fixLoads s.cur (fun p e => !e.priv && t.before home (homeOf e.addr) p.seq)).drainSel s.cur sel)

/-- The home of the object at a pointer; 4 when it has none. -/
def State.homeAt (s : State) (ptr : Word64) : Nat :=
  match s.place (s.tablePart s.me) ptr 16 with
  | .ok a => homeOf a
  | .error _ => 4

/-- `ReleaseAt` at a scope, before a write to a home: below pkg it orders the accesses to that home alone, at pkg those to every die, and at
dom and sys all (R206, R209). -/
def releasedAt (scope home : Nat) (s : State) : Act State :=
  if scope < 3 then releasedHome s home else if scope = 3 then releasedDies s >>= fun s => releasedHome s home else released s

/-- `ReleaseAt` before an engine reads or writes the objects at the pointers given: the acting task's earlier accesses to their homes are
performed (R153, R206, R209). -/
def releasedFor (ptrs : List Word64) (s : State) : Act State :=
  ((ptrs.map s.homeAt).eraseDups).foldlM releasedHome s

/-- The acting task comes to its next memory instruction: its place in program order. -/
def State.stampSeq (s : State) : State := s.setMe { s.me with seq := s.me.seq + 1 }

/-- Put a canonical store of the acting task into its buffer, at the task's place in program order; a store to another die is posted and
logged (R207, R208, R233). A store to the core's own pad is performed at once, with what stands before it for that die: the tasks of one
core see one another's stores to the pad in one order (R205). -/
def State.storeOf (s : State) (st : Store) : State :=
  let home := homeOf st.addr
  let posted := home < 4 && home != dieOf s.myCore
  let (n, s) := if posted then s.arrive else (0, s)
  let t := s.me
  let s := s.setMe { t with sb := t.sb ++ [{ st with
    home := home, posted := posted, pc := t.pc, seq := t.seq, pkgBar := t.pkgBar, sysBar := t.sysBar, log := n }] }
  if posted then
    let c := s.core s.myCore
    let log := c.storeLog ++ [⟨t.pc, t.tid, st.ptr, n⟩]
    s.setCore s.myCore { c with storeLog := log.drop (log.length - 64) }
  else if padOf st.ptr == some (.core s.myCore) then s.drainHome s.cur home
  else s

/-- A canonical store of bytes at an address of the object at a header. -/
def State.store (s : State) (hdr : Nat) (ptr : Word64) (addr : Nat) (bs : List Byte) (isPtr : Bool := false) : State :=
  s.storeOf { addr := addr, hdr := hdr, bytes := bs, home := 0, posted := false, ptr := ptr, pc := 0, isPtr := isPtr }

/-! ## Scopes (R17, R206, R211) -/

/-- The smallest scope that holds a core and a pointer's home: clus for the home cluster, die for the home die, else pkg;
sys for windows. -/
def scopeTo (c : CoreId) (ptr : Word64) (addr : Nat) : Nat :=
  if homeOf addr = 4 then 5
  else if isM c || homeOf addr != dieOf c then 3
  else match guardCluster ptr with
    | some cl => if cl == clusterOf c then 1 else 2
    | none => 2

/-- The smallest scope that holds two cores (R101). -/
def scopeCores (a b : CoreId) : Nat :=
  if a = b then 0
  else if isM a || isM b then 3
  else if clusterOf a = clusterOf b then 1
  else if dieOf a = dieOf b then 2
  else 3

/-! ## The copy map (R32 to R35) -/

/-- The copy that a core holds of a canonical object. -/
def State.copyOf (s : State) (c : CoreId) (canon : Word64) : Option Copy :=
  (s.core c).copies.find? (fun e => e.canon == canon)

/-- Replace the copy-map entry of a canonical object. -/
def State.setCopy (s : State) (c : CoreId) (v : Copy) : State :=
  s.setCore c { s.core c with copies := (s.core c).copies.map (fun e => if e.canon == v.canon then v else e) }

/-- The current pointer of an o register of the acting task, and whether it is a copy (R21). -/
def State.current? (s : State) (r : BitVec 128) : Word64 × Bool :=
  if oTouched r then
    match s.copyOf s.myCore (oCanon r) with
    | some e => (e.copy, true)
    | none => (oCanon r, false)
  else (oCanon r, false)

/-- `Check(o, off, n, align)` of R4. -/
def check (s : State) (r : BitVec 128) (off : Int) (n align : Nat) : Act Unit := do
  let p := oCanon r
  need (!badPtr p) s { code := .nullPointer, eval := p, ptr := p }
  let e := BitVec.ofInt 64 off
  need (0 ≤ off && off + n ≤ oLen r) s { code := .bounds, eval := e, ptr := p, offset := e }
  need (off % align == 0) s { code := .alignment, eval := e, ptr := p, offset := e }

/-- `null-pointer` for a null, malformed or tag-6 register. -/
def checkPtr (s : State) (r : BitVec 128) : Act Unit :=
  need (!badPtr (oCanon r)) s { code := .nullPointer, eval := oCanon r, ptr := oCanon r }

/-- End with `kind` unless the condition holds; `c.eval` takes header word 0; `off` is the payload offset. -/
def needKind (c : Bool) (s : State) (r : BitVec 128) (h : Word64) (off : Int := 0) : Act Unit :=
  need c s { code := .kind, eval := h, ptr := oCanon r, offset := BitVec.ofInt 64 off }

/-- End with `sealed-store` if the object is sealed (R39). -/
def needOpen (s : State) (r : BitVec 128) (h : Word64) (off : Int := 0) : Act Unit :=
  need (!hSealed h) s { code := .sealedStore, eval := oCanon r, ptr := oCanon r, offset := BitVec.ofInt 64 off }

/-- Loads may read an object of this header: not a sync object, a handle table only at privileged level, and no staged
object that is empty or filling (R26, R27, R309). -/
def loadable (priv : Bool) (h : Word64) : Bool :=
  hKind h != 3 && (hKind h != 7 || priv) && !(hStaged h && hState h ≤ 1)

/-- The records that a queue command holds bound (R150). -/
def MCmd.holds (c : MCmd) : List Word64 := [c.scaleA, c.scaleB, c.tab].filterMap (·.map (fun b => oCanon b.reg))

/-- A core's bindings and its queue commands, as canonical pointers. -/
def Core.bindings (c : Core) : List Word64 :=
  [c.scaleA, c.scaleB, c.tab].filterMap (·.map (fun b => oCanon b.reg)) ++ c.queue.flatMap (·.holds)

/-- The bindings that a task's MSCALE and MTAB have issued and that are still to land (R60, R150). -/
def Task.binds (t : Task) : List Word64 :=
  t.pend.filterMap (fun p => match p.dest with
    | .scale _ b | .tab b => b.map (fun b => oCanon b.reg)
    | _ => none)

/-- A pointer of partition `q` and the same pointer of partition `p` name one object: a pad is the package's, while heap regions and windows
are each partition's own (R239, R245). -/
def sameObject (p q : Nat) (canon : Word64) : Bool := tagOf canon ≤ 3 || tablesOf p == tablesOf q

/-- An engine of the package has bound the table at a pointer of partition `p`, for a context that is in or one that is swapped out (R26,
R150, R226). -/
def State.bound (s : State) (p : Nat) (canon : Word64) : Bool :=
  let of (c : CoreId) : Nat := if isM c then 16 else (s.partOf (clusterOf c)).getD 16
  s.cores.any (fun e => sameObject p (of e.1) canon && e.2.bindings.contains canon)
    || s.tasks.any (fun e => sameObject p e.2.part canon && e.2.binds.contains canon)
    || s.shadow.any (fun v => sameObject p v.part canon
        && (v.cores.any (fun e => e.2.bindings.contains canon) || v.tasks.any (fun e => e.2.binds.contains canon)))

/-- Stores of the acting task may write `off` of an object of this header (R26, R27, R347). -/
def storable (s : State) (canon : Word64) (priv : Bool) (h : Word64) (off : Nat) : Bool :=
  let k := hKind h
  !(k == 1 || k == 3 || k == 5 || (k == 2 && off % 16 < 8) || (k == 6 && s.bound s.me.part canon) || (k == 7 && !priv)
    || (hStaged h && (hState h == 1 || hState h == 3)))

/-- A range meets a poisoned block that it does not cover: a write of the range leaves the block poisoned, and reads it (R240). -/
def State.poisonedEdge (s : State) (a n : Nat) : Bool :=
  s.poison.any (fun b => b < a + n && a < b + 64 && !(a ≤ b && b + 64 ≤ a + n))

/-- Write the dirty blocks `bs` of a core's copy to the canonical payload at the header address `a`, one after the other, each marked
clean as it is written; a poisoned block of the copy, or one of the canonical payload that is written in part, ends it (R45, R330, R240;
log entry 54). -/
def State.writeBlocks (s : State) (c : CoreId) (e : Copy) (a : Nat) : List Nat → State × Option FaultCode
  | [] => (s, none)
  | b :: bs =>
    let n := min 64 (e.size - 16 - 64 * b)
    let src := e.copy.toNat + 16 + 64 * b
    if s.poisoned src n || s.poisonedEdge (a + 16 + 64 * b) n then (s, some .uncorrectable)
    else
      let e := { e with dirty := e.dirty.filter (· != b) }
      ((s.poke (a + 16 + 64 * b) (s.mem.readN src n)).setCopy c e).writeBlocks c e a bs

/-- Write back the dirty blocks of a core's copy to the canonical payload, in ascending order; the sealed flag refuses them, and what
was written before a fault stays (R34, R39, R330). -/
def State.writeBack (s : State) (p : Nat) (c : CoreId) (e : Copy) : State × Option FaultCode :=
  if e.dirty.isEmpty then (s, none) else
  match s.place p e.canon e.size with
  | .ok a => if hSealed (s.peekWord a) then (s, some .sealedStore) else s.writeBlocks c e a (sortBy (· ≤ ·) e.dirty)
  | .error f => (s, some f)

/-- A pad write through a copy marks the 64-byte payload blocks it meets as dirty (R34). -/
def Copy.touchBlocks (e : Copy) (lo n : Nat) : Copy :=
  if n = 0 then e else
  let new := (List.range (n / 64 + 2)).filterMap (fun i =>
    let b := lo / 64 + i
    if 64 * b < lo + n && !e.dirty.contains b then some b else none)
  { e with dirty := e.dirty ++ new }

end Sys2Proof.Machine
end

