-- ==== Sys2Proof/Machine/Channels.lean ====
section
/-!
DEFINITION. The PHY of an HBM channel: its registers, pattern runs and automatic retraining (spec/16_platform.md R255 to R257,
spec/21_prog_hbmtrain.md R263). A channel is numbered 32 · stack + channel.
-/

namespace Sys2Proof.Machine

/-- Replace a channel. -/
def State.setChannel (s : State) (ch : Nat) (v : Channel) : State := { s with channels := s.channels.set ch v }

/-- The pseudo-channel that CTL bit 3 selects. -/
def Channel.sel (c : Channel) : Bool := c.ctl.getLsbD 3

/-- Train mode. -/
def Channel.train (c : Channel) : Bool := c.ctl.getLsbD 0

/-- Key of a lane of the selected pseudo-channel. -/
def Channel.laneKey (c : Channel) (lane : Nat) : Nat := 64 * c.sel.toNat + lane

/-- RESULT0 and RESULT1 of the selected pseudo-channel. -/
def Channel.result (c : Channel) : BitVec 37 := if c.sel then c.result1 else c.result0

/-- REPAIR of the selected pseudo-channel. -/
def Channel.repair (c : Channel) : BitVec 8 := if c.sel then c.repair1 else c.repair0

/-- Replace the results of a pseudo-channel. -/
def Channel.setResult (c : Channel) (pc : Bool) (v : BitVec 37) : Channel :=
  if pc then { c with result1 := v } else { c with result0 := v }

/-! ## CTL (R255 to R257) -/

/-- A CTL write takes effect: train mode, quiesce, pc and pattern first; clearing train mode sets trained to current; a run
starts only with train mode and quiesce both 1, and a reserved pattern ends at once with every pass bit 0 (R256). -/
def Channel.take (c : Channel) (v : Word32) : Channel :=
  let old := c.train
  let c := { c with ctl := v.setWidth 8 &&& 0xFB }
  let c := if old && !c.train then { c with trained := c.current } else c
  if v.toNat % 8 != 7 then c
  else if 5 ≤ bits v.toNat 4 4 then { c.setResult c.sel 0 with done := true }
  else { c with done := false, busy := true, run := some (c.sel, c.repair) }

/-- A CTL write, made by a task or by 0: it waits while the channel is busy (R257). -/
def State.ctlWrite (s : State) (ch : Nat) (tid : Word32) (v : Word32) : State :=
  let c := s.channel ch
  if c.busy || !c.waiting.isEmpty then s.setChannel ch { c with waiting := c.waiting ++ [(tid, v)] }
  else s.setChannel ch (c.take v)

/-- CTL_RUN (R256): a write with run = 1. -/
def execCtlRun (ch : Nat) (v : Word32) (s : State) : Host.Outcome State Fault Refusal :=
  happen (fun s => if v.getLsbD 2 then s.ctlWrite ch 0 v else s) s

/-- CTL_QUIESCE (R256): a write with run = 0 sets or clears quiesce with the fields beside it. -/
def execCtlQuiesce (ch : Nat) (v : Word32) (s : State) : Host.Outcome State Fault Refusal :=
  happen (fun s => if v.getLsbD 2 then s else s.ctlWrite ch 0 v) s

/-- CTL_TRAIN_MODE (R256): a write with run = 0 takes or releases the channel. -/
def execCtlTrainMode (ch : Nat) (v : Word32) (s : State) : Host.Outcome State Fault Refusal :=
  happen (fun s => if v.getLsbD 2 then s else s.ctlWrite ch 0 v) s

/-- The pseudo-channel being retrained is done: pseudo-channel 1 follows 0, and after it trained takes the current temperature (R257). -/
def Channel.retrained (c : Channel) : Channel :=
  if c.autoPc then { c with auto := false, busy := false, autoPc := false, trained := c.current } else { c with autoPc := true }

/-- Waiting CTL writes take effect in order, as long as none of them has started a run; one that sets train mode ends the automatic
retraining, with trained unchanged (R257). -/
def Channel.takeAll (c : Channel) : List (Word32 × Word32) → Channel
  | [] => { c with waiting := [] }
  | (t, v) :: rest =>
    if c.run.isSome then { c with waiting := (t, v) :: rest }
    else (if v.getLsbD 0 then { c with auto := false, busy := false, autoPc := false }.take v else c.take v).takeAll rest

/-- CTL_WRITE_APPLY: the writes that wait for automatic retraining take effect when the pseudo-channel being retrained finishes, and the
retraining goes on unless one of them has set train mode; of those that wait for a run, the oldest takes effect when it has ended (R257). -/
def State.ctlApply (s : State) (ch : Nat) : State :=
  let c := s.channel ch
  match c.waiting with
  | [] => s
  | (_, v) :: rest =>
    if c.auto then s.setChannel ch (if (c.takeAll c.waiting).auto then (c.takeAll c.waiting).retrained else c.takeAll c.waiting)
    else if c.busy then s
    else s.setChannel ch ({ c with waiting := rest }.take v)

/-- CTL_WRITE_APPLY (R257). -/
def execCtlWriteApply (ch : Nat) (s : State) : Host.Outcome State Fault Refusal := happen (fun s => s.ctlApply ch) s

/-- PATTERN_RUN_DONE: a run ends with the lanes that passed; with REPAIR enabled, the named lane's bits travelled on lane 36,
and both pass bits report that (R256, R263). -/
def State.runDone (s : State) (ch : Nat) (good : BitVec 37) : State :=
  let c := s.channel ch
  match c.run with
  | none => s
  | some (pc, rep) =>
    let lane := rep.toNat % 128
    let bit := 1#37 <<< lane
    let pass := if rep.getLsbD 7 then (good &&& ~~~bit) ||| (if good.getLsbD 36 then bit else 0) else good
    s.setChannel ch { c.setResult pc pass with done := true, busy := false, run := none }

/-- PATTERN_RUN_DONE (R256). -/
def execPatternRunDone (ch : Nat) (good : BitVec 37) (s : State) : Host.Outcome State Fault Refusal :=
  happen (fun s => s.runDone ch good) s

/-! ## Lane registers (R255, R256) -/

/-- RDLY_WRITE: lanes 0 to 36 of the selected pseudo-channel, in train mode only. -/
def State.rdlyWrite (s : State) (ch lane : Nat) (v : Word32) : State :=
  let c := s.channel ch
  if c.train && lane ≤ 36 then s.setChannel ch { c with rdly := c.rdly.set (c.laneKey lane) (v.setWidth 6) } else s

/-- RDLY_WRITE (R256). -/
def execRdlyWrite (ch lane : Nat) (v : Word32) (s : State) : Host.Outcome State Fault Refusal :=
  happen (fun s => s.rdlyWrite ch lane v) s

/-- WDLY_WRITE: as for the read delay. -/
def State.wdlyWrite (s : State) (ch lane : Nat) (v : Word32) : State :=
  let c := s.channel ch
  if c.train && lane ≤ 36 then s.setChannel ch { c with wdly := c.wdly.set (c.laneKey lane) (v.setWidth 6) } else s

/-- WDLY_WRITE (R256). -/
def execWdlyWrite (ch lane : Nat) (v : Word32) (s : State) : Host.Outcome State Fault Refusal :=
  happen (fun s => s.wdlyWrite ch lane v) s

/-- REPAIR_WRITE: in train mode, unless it enables a lane above 35. -/
def State.repairWrite (s : State) (ch : Nat) (v : Word32) : State :=
  let c := s.channel ch
  if !c.train || (v.getLsbD 7 && 35 < v.toNat % 128) then s
  else s.setChannel ch (if c.sel then { c with repair1 := v.setWidth 8 } else { c with repair0 := v.setWidth 8 })

/-- REPAIR_WRITE (R256). -/
def execRepairWrite (ch : Nat) (v : Word32) (s : State) : Host.Outcome State Fault Refusal :=
  happen (fun s => s.repairWrite ch v) s

/-! ## Automatic retraining (R257) -/

/-- AUTO_RETRAIN: the temperature is now `temp`; a drift of 8 °C from the last training starts retraining with
pseudo-channel 0, unless firmware owns the channel or it is busy. -/
def State.autoRetrain (s : State) (ch : Nat) (temp : BitVec 8) : State :=
  let c := { s.channel ch with current := temp }
  s.setChannel ch
    (if !c.train && !c.busy && c.waiting.isEmpty && 8 ≤ (temp.toInt - c.trained.toInt).natAbs then
      { c with auto := true, busy := true, autoPc := false }
    else c)

/-- AUTO_RETRAIN (R257). -/
def execAutoRetrain (ch : Nat) (temp : BitVec 8) (s : State) : Host.Outcome State Fault Refusal :=
  happen (fun s => s.autoRetrain ch temp) s

/-- AUTO_RETRAIN_DONE: a pseudo-channel has been retrained with no CTL write waiting. -/
def State.retrainDone (s : State) (ch : Nat) : State :=
  let c := s.channel ch
  if !c.auto || !c.waiting.isEmpty then s else s.setChannel ch c.retrained

/-- AUTO_RETRAIN_DONE (R257). -/
def execAutoRetrainDone (ch : Nat) (s : State) : Host.Outcome State Fault Refusal := happen (fun s => s.retrainDone ch) s

/-! ## The registers of a channel (R255) -/

/-- A register of a channel, by its offset. -/
def Channel.reg (c : Channel) (off : Nat) : Word32 :=
  if off = 0x000 then c.ctl.setWidth 32
  else if off = 0x004 then BitVec.ofNat 32 (4 * c.auto.toNat + 2 * c.busy.toNat + c.done.toNat)
  else if off = 0x008 then (c.trained ++ c.current).setWidth 32
  else if 0x100 ≤ off && off ≤ 0x190 then (c.rdly.find (c.laneKey ((off - 0x100) / 4)) 32).setWidth 32
  else if 0x200 ≤ off && off ≤ 0x290 then (c.wdly.find (c.laneKey ((off - 0x200) / 4)) 32).setWidth 32
  else if off = 0x300 then c.result.setWidth 32
  else if off = 0x304 then (c.result.extractLsb' 32 5).setWidth 32
  else if off = 0x400 then c.repair.setWidth 32
  else 0

/-- A write to a register of a channel, by its offset. -/
def State.channelWrite (s : State) (ch off : Nat) (tid : Word32) (v : Word32) : State :=
  if off = 0x000 then s.ctlWrite ch tid v
  else if 0x100 ≤ off && off ≤ 0x190 then s.rdlyWrite ch ((off - 0x100) / 4) v
  else if 0x200 ≤ off && off ≤ 0x290 then s.wdlyWrite ch ((off - 0x200) / 4) v
  else if off = 0x400 then s.repairWrite ch v
  else s

end Sys2Proof.Machine
end

