-- ==== Sys2Proof/Machine/Gleaner.lean ====
section
/-!
DEFINITION. Allocation in pads and in the heap, the collection of a pad colour, region evacuation, promotion, and the touch
of an object (spec/03_gleaner.md, R29 to R37, R224). A collection that an instruction starts is one step with it (log entry 20).
-/

namespace Sys2Proof.Machine

/-! ## Pad colours (R48, R224) -/

/-- The context count that divides a pad: that of the cluster's partition; for a die pad the largest of the partitions that
hold a cluster of the die (log entry 15). -/
def State.padContexts (s : State) : PadUnit → Nat
  | .core c => match s.partOf (clusterOf c) with
    | some p => (s.part p).contexts
    | none => 1
  | .cluster k => match s.partOf k with
    | some p => (s.part p).contexts
    | none => 1
  | .die d => ((List.range 16).map (fun k => match s.partOf (16 * d + k) with
    | some p => (s.part p).contexts
    | none => 1)).foldl max 1

/-- Bytes in a bank of a pad. -/
def bankSize : PadUnit → Nat
  | .core _ => 0x400
  | .cluster _ => 0x18000
  | .die _ => 0x40000

/-- Banks of a pad that are not reserved, with `k` contexts (R224). -/
def openBanks (u : PadUnit) (k : Nat) : Nat :=
  match u with
  | .core _ => 256 - 8 * k
  | .cluster _ => 64 - (514 * k + 95) / 96
  | .die _ => 256

/-- First bank of a colour and the bank after its last. -/
def State.colourBanks (s : State) (u : PadUnit) (colour : Nat) : Nat × Nat :=
  let k := s.padContexts u
  let n := openBanks u k
  let each := n / k
  let extra := n % k
  if colour = 0 then (0, each + extra) else (extra + colour * each, extra + (colour + 1) * each)

/-- Byte range of a colour. -/
def State.colourRange (s : State) (u : PadUnit) (colour : Nat) : Nat × Nat :=
  let (lo, hi) := s.colourBanks u colour
  (lo * bankSize u, hi * bankSize u)

/-- The first place at or after `at` where `size` bytes meet no retired bank. -/
def skipRetired (u : PadUnit) (banks : List Nat) (size start : Nat) : Nat :=
  (sortBy (· ≤ ·) banks).foldl (fun p b =>
    if p < (b + 1) * bankSize u && b * bankSize u < p + size then (b + 1) * bankSize u else p) start

/-- The offset at which the bump pointer of a colour stands. -/
def State.bumpOf (s : State) (u : PadUnit) (colour : Nat) : Nat :=
  (s.pad u colour).bump.getD (s.colourRange u colour).1

/-- Where an object of `size` bytes goes in a pad colour, if its bump range has room (R30). -/
def State.padRoom (s : State) (u : PadUnit) (colour size : Nat) : Option Nat :=
  let p := skipRetired u (s.pad u colour).retired size (s.bumpOf u colour)
  if p + size ≤ (s.colourRange u colour).2 then some p else none

/-- Take `size` bytes at an offset of a pad colour, for a partition. -/
def State.padTake (s : State) (u : PadUnit) (colour off size : Nat) (cp : Option (CoreId × Word64)) (p : Nat := 0) : State :=
  let a := s.pad u colour
  s.setPad u colour { a with bump := some (off + size), objs := a.objs ++ [⟨off, size, cp, p⟩] }

/-! ## Heap regions (R49) -/

/-- Allocation of a region of a partition. -/
def State.regionAlloc (s : State) (p r : Nat) : RegionAlloc := s.regionAllocs.find (2 ^ 20 * p + r) ⟨0, []⟩

/-- Replace the allocation of a region. -/
def State.setRegionAlloc (s : State) (p r : Nat) (v : RegionAlloc) : State :=
  { s with regionAllocs := s.regionAllocs.set (2 ^ 20 * p + r) v }

/-- Regions of a partition that lie on a die, ascending. -/
def State.regionsOn (s : State) (p d : Nat) : List Nat :=
  s.regions.filterMap (fun e =>
    if e.1 / 2 ^ 20 == p && rgValid e.2 && rgStack e.2 / 2 == d then some (e.1 % 2 ^ 20) else none)

/-- The current region of a colour of a die. -/
def State.currentRegion (s : State) (p d colour : Nat) : Option Nat := s.current.lookup (16 * p + 4 * d + colour)

/-- A region holds no object and is no colour's current region. DESIGN CHOICE (log entry 20): the objects that count are those that its
allocator has placed; R49 does not say whether bytes that the host has written there are objects. -/
def State.regionFree (s : State) (p r : Nat) : Bool :=
  (s.regionAlloc p r).objs.isEmpty && !s.current.any (fun e => e.1 / 16 == p && e.2 == r)

/-- Take `size` bytes of a region. -/
def State.regionTake (s : State) (p r size : Nat) : State × Word64 :=
  let a := s.regionAlloc p r
  (s.setRegionAlloc p r ⟨a.bump + size, a.objs ++ [⟨a.bump, size, none, p⟩]⟩, heapPtr r a.bump)

/-- Take `size` bytes of the heap of a die for a colour: the current region, else the lowest-numbered free region with
room. DESIGN CHOICE (log entry 20): R49 takes the lowest-numbered free region and does not say what happens when it is too small for
the request; it is passed over for a later one that fits. -/
def State.heapTake (s : State) (p d colour size : Nat) : Option (State × Word64) :=
  let fits (r : Nat) : Bool := (s.regionAlloc p r).bump + size ≤ rgSize (s.region p r)
  match s.currentRegion p d colour with
  | some r =>
    if rgValid (s.region p r) && fits r then some (s.regionTake p r size)
    else
      match (s.regionsOn p d).find? (fun r => s.regionFree p r && fits r) with
      | some r => some ({ s with current := s.current.set (16 * p + 4 * d + colour) r }.regionTake p r size)
      | none => none
  | none =>
    match (s.regionsOn p d).find? (fun r => s.regionFree p r && fits r) with
    | some r => some ({ s with current := s.current.set (16 * p + 4 * d + colour) r }.regionTake p r size)
    | none => none

/-! ## Pointers in the state -/

/-- Apply a map to the pointers of a task record. -/
def Record.mapPtrs (r : Record) (f : Word64 → Word64) : Record := { r with arg := f r.arg, join := f r.join }

/-- Apply a map to the canonical pointer of an o register. -/
def oMap (f : Word64 → Word64) (r : BitVec 128) : BitVec 128 := oSetCanon r (f (oCanon r))

/-- Apply a map to the record that a binding names. -/
def Binding.mapPtrs (b : Binding) (f : Word64 → Word64) : Binding := { b with reg := oMap f b.reg }

/-- Apply a map to the operands of a queue command and to the records it holds bound. -/
def MCmd.mapPtrs (c : MCmd) (f : Word64 → Word64) : MCmd :=
  { c with
    oa := oMap f c.oa
    ob := oMap f c.ob
    scaleA := c.scaleA.map (·.mapPtrs f)
    scaleB := c.scaleB.map (·.mapPtrs f)
    tab := c.tab.map (·.mapPtrs f) }

/-- Apply a map to the operands of a copy job. -/
def CopyJob.mapPtrs (j : CopyJob) (f : Word64 → Word64) : CopyJob := { j with src := oMap f j.src, dst := oMap f j.dst }

/-- Apply a map to the operands of a near-bank job. -/
def NbJob.mapPtrs (j : NbJob) (f : Word64 → Word64) : NbJob := { j with oa := oMap f j.oa, ob := oMap f j.ob, oc := oMap f j.oc }

/-- Apply a map to an outstanding result: a pointer register's, or a binding's. A load is performed before the object that it reads moves
(R46). -/
def Pend.mapPtrs (p : Pend) (f : Word64 → Word64) : Pend :=
  let p := { p with src := [] }
  match p.dest with
  | .o _ => { p with val := (oMap f (p.val.setWidth 128)).setWidth 4096 }
  | .scale opB b => { p with dest := .scale opB (b.map (·.mapPtrs f)) }
  | .tab b => { p with dest := .tab (b.map (·.mapPtrs f)) }
  | _ => p

/-- Apply a map to what a parked task waits on or waits with. -/
def Wait.mapPtrs (w : Wait) (f : Word64 → Word64) : Wait :=
  { w with
    object := f w.object
    record := w.record.map (·.mapPtrs f)
    copy := w.copy.map (·.mapPtrs f)
    near := w.near.map (·.mapPtrs f) }

/-- Apply a map to the pointers of a task: registers, outstanding results, join object, wait and pins. -/
def Task.mapPtrs (t : Task) (f : Word64 → Word64) : Task :=
  { t with
    o := t.o.map (oMap f)
    join := f t.join
    pins := t.pins.map f
    agx := t.agx.map (fun g => { g with join := f g.join })
    wait := t.wait.map (·.mapPtrs f)
    pend := t.pend.map (·.mapPtrs f) }

/-- A buffered store to a moved object goes to its new place: the store parks until the object has moved, and then reaches it there
(R47). A pointer that STO stores follows its object as well (R43). -/
def State.follow (s : State) (p : Nat) (f : Word64 → Word64) (st : Store) : Store :=
  let st := if st.isPtr then { st with bytes := leBytes 8 (f (leWord st.bytes)).toNat } else st
  if f st.ptr == st.ptr then st
  else
    match s.place p (f st.ptr) 16 with
    | .ok a => { st with ptr := f st.ptr, hdr := a, addr := a + (st.addr - st.hdr) }
    | .error _ => st

/-- Apply a map to the pointers of a task and to its buffered stores. -/
def State.mapTask (s : State) (f : Word64 → Word64) (t : Task) : Task :=
  let t := t.mapPtrs f
  { t with sb := t.sb.map (s.follow (s.tablePart t) f) }

/-- Apply a map to the pointers of a core: records, spawn messages, bindings, queue commands, logged stores and the canonical side of
the copy map. -/
def Core.mapPtrs (c : Core) (f : Word64 → Word64) : Core :=
  { c with
    deque := c.deque.map (·.mapPtrs f)
    spill := c.spill.map (·.mapPtrs f)
    inbox := c.inbox.map (fun m => { m with record := m.record.map (·.mapPtrs f) })
    copies := c.copies.map (fun e => { e with canon := f e.canon })
    queue := c.queue.map (·.mapPtrs f)
    scaleA := c.scaleA.map (·.mapPtrs f)
    scaleB := c.scaleB.map (·.mapPtrs f)
    tab := c.tab.map (·.mapPtrs f)
    storeLog := c.storeLog.map (fun e => { e with ptr := f e.ptr }) }

/-- Offsets of an object's payload words that hold pointers: every word of a ref object, the first of every slot of a vref
object (R26). -/
def pointerOffsets (h : Word64) : List Nat :=
  if hKind h = 1 then (List.range (hLen h / 8)).map (8 * ·)
  else if hKind h = 2 then (List.range (hLen h / 16)).map (16 * ·)
  else []

/-- The pointers that a task's buffered stores are to write among `n` bytes at an address. -/
def Task.storing (t : Task) (a n : Nat) : List Word64 :=
  t.sb.filterMap (fun st => if st.isPtr && a ≤ st.addr && st.addr < a + n then some (leWord st.bytes) else none)

/-- The pointers that an object at a physical address holds, or that a store on its way is to put there. -/
def State.pointersIn (s : State) (a : Nat) : List Word64 :=
  (pointerOffsets (s.peekWord a)).map (fun o => s.peekWord (a + 16 + o))
  ++ s.tasks.flatMap (fun e => if e.2.sb.isEmpty then [] else e.2.storing (a + 16) (hLen (s.peekWord a)))

/-- Apply a map to the pointer words of an object. -/
def State.mapObject (s : State) (a : Nat) (f : Word64 → Word64) : State :=
  (pointerOffsets (s.peekWord a)).foldl (fun s o =>
    let w := s.peekWord (a + 16 + o)
    if f w == w then s else s.pokeWord (a + 16 + o) (f w)) s

/-- The pad of a key of `State.pads`, and its colour. -/
def padOfKey (k : Nat) : PadUnit × Nat :=
  if k < 4096 then (.core (k / 4), k % 4)
  else if k < 8192 then (.cluster ((k - 4096) / 4), (k - 4096) % 4)
  else (.die ((k - 8192) / 4), (k - 8192) % 4)

/-- The partition whose tables a pad's pointers use: for a die pad, that of the lowest cluster of the die that lies in one (log entry 15). -/
def State.collector (s : State) : PadUnit → Nat
  | .core c => (s.partOf (clusterOf c)).getD 0
  | .cluster k => (s.partOf k).getD 0
  | .die d => ((List.range 16).findSome? (fun k => s.partOf (16 * d + k))).getD 0

/-- The partition whose tables the pad's Gleaner uses; for a die pad, the one that asks for the collection (log entry 15). -/
def State.padPart (s : State) (u : PadUnit) (acting : Nat) : Nat :=
  match u with
  | .core c => (s.partOf (clusterOf c)).getD acting
  | .cluster k => (s.partOf k).getD acting
  | .die _ => acting

/-- Apply a map of moved objects to every pointer: registers, buffered stores, records, messages, nodes, held roots, copy maps, engine
commands, jobs, bindings, launches, handle tables, incoming lists, the pointer words of every pad object, and those of every heap object
that an incoming list names (R43, R36). -/
def State.mapPtrs (s : State) (f : Word64 → Word64) : State :=
  let s : State := { s with
    tasks := s.tasks.mapVals (s.mapTask f)
    cores := s.cores.mapVals (·.mapPtrs f)
    clusters := s.clusters.mapVals (fun k => { k with jobs := k.jobs.map (·.mapPtrs f) })
    nbQueues := s.nbQueues.mapVals (fun q => q.map (·.mapPtrs f))
    colls := s.colls.map (fun j => { j with buf := oMap f j.buf, object := f j.object })
    mesh := s.mesh.map (fun m => { m with record := m.record.map (·.mapPtrs f) })
    dies := s.dies.mapVals (fun d => { d with
      held := d.held.map (·.mapPtrs f)
      heldKicks := d.heldKicks.map (fun e => (e.1, e.2.mapPtrs f))
      nodes := d.nodes.mapVals (fun n => { n with arg := f n.arg, join := f n.join }) })
    dists := s.dists.mapVals (fun d => { d with held := d.held.map (fun r => (r.1.mapPtrs f, r.2)) })
    launches := s.launches.mapVals (fun l => { l with code := f l.code, mailbox := f l.mailbox, root := l.root.mapPtrs f })
    parts := s.parts.mapVals (fun q => { q with htab := f q.htab, save := f q.save, slical := f q.slical })
    queues := s.queues.mapVals (fun q => { q with base := f q.base })
    shadow := s.shadow.map (fun v => { v with
      tasks := v.tasks.mapVals (s.mapTask f)
      cores := v.cores.mapVals (·.mapPtrs f)
      jobs := v.jobs.mapVals (fun js => js.map (·.mapPtrs f)) })
    pads := s.pads.mapVals (fun a => { a with
      incoming := a.incoming.map f
      objs := a.objs.map (fun o => { o with copyOf := o.copyOf.map (fun c => (c.1, f c.2)) }) }) }
  let s := s.pads.foldl (fun s e =>
    e.2.objs.foldl (fun s o => s.mapObject ((padPtr (padOfKey e.1).1 o.off).toNat) f) s) s
  s.pads.foldl (fun s e => e.2.incoming.foldl (fun s q =>
    if tagOf q == 4 then
      match s.place (s.collector (padOfKey e.1).1) q 16 with
      | .ok a => s.mapObject a f
      | .error _ => s
    else s) s) s

/-! ## Roots and liveness (R41) -/

/-- The core lies in the extent that a collection of a pad concerns. -/
def padConcerns (u : PadUnit) (c : CoreId) : Bool :=
  match u with
  | .core d => c == d
  | .cluster k => c < 512 && clusterOf c == k
  | .die d => c < 512 && dieOf c == d

/-- A pad's object, or a task of its extent, belongs to a partition: a core or cluster pad serves one, while the partitions that share a die
share its die pad (log entry 15). -/
def padServes (u : PadUnit) (p q : Nat) : Bool :=
  match u with
  | .die _ => p == q
  | _ => true

/-- The task slot holds a task that a collection of a pad colour for a partition concerns: on a core of the pad's extent, of the context of
that colour (R41, R48). -/
def concerned (u : PadUnit) (colour p : Nat) (k : TaskKey) (t : Task) : Bool :=
  t.status != .free && t.ctx == colour && padConcerns u (coreOf k) && padServes u p t.part

/-- Pointers of a task record. -/
def Record.ptrs (r : Record) : List Word64 := [r.arg, r.join]

/-- The pointers of a task that are roots: its o registers, its join object, the pointers that it is storing, and what it waits with: the
record of a FORK or the operands of a CPY or an NBMV (R41, R93, R191, R324). -/
def Task.rootPtrs (t : Task) : List Word64 :=
  t.o.toList.map oCanon ++ [t.join] ++ t.sb.filterMap (fun st => if st.isPtr then some (leWord st.bytes) else none) ++ (match t.wait with
    | some w => (w.record.map (·.ptrs)).getD [] ++ (w.copy.map (fun j => [oCanon j.src, oCanon j.dst])).getD []
        ++ (w.near.map (fun j => [oCanon j.oa, oCanon j.ob, oCanon j.oc])).getD []
    | none => [])

/-- Objects that a core's queued or running engine commands and its bindings name. -/
def Core.held (c : Core) : List Word64 := c.queue.flatMap (fun m => [oCanon m.oa, oCanon m.ob]) ++ c.bindings

/-- Objects that queued or running engine commands, jobs and bindings name, those of contexts that are swapped out included (R41). -/
def State.engineHeld (s : State) : List Word64 :=
  let jobs (js : List CopyJob) : List Word64 := js.flatMap (fun j => [oCanon j.src, oCanon j.dst])
  s.cores.flatMap (·.2.held) ++ s.clusters.flatMap (fun e => jobs e.2.jobs) ++ s.dies.flatMap (fun e => jobs (e.2.heldKicks.map (·.2)))
  ++ s.shadow.flatMap (fun v => v.cores.flatMap (·.2.held) ++ v.jobs.flatMap (fun e => jobs e.2))
  ++ s.nbQueues.flatMap (fun e => e.2.flatMap (fun j => [oCanon j.oa, oCanon j.ob, oCanon j.oc]))
  ++ s.colls.map (fun j => oCanon j.buf)

/-- Pads above a pad, whose ref and vref objects are roots of it. -/
def above (u : PadUnit) (v : PadUnit) : Bool :=
  match u, v with
  | .cluster k, .core c => clusterOf c == k
  | .die d, .core c => dieOf c == d
  | .die d, .cluster k => dieOfCluster k == d
  | _, _ => false

/-- Pointers of a core that are roots: records in its deque and spill area, spawn messages in its inbox, its copy map (R41). -/
def Core.rootPtrs (c : Core) : List Word64 :=
  (c.deque ++ c.spill).flatMap (·.ptrs)
  ++ c.inbox.flatMap (fun m => match m.record with
    | some r => r.ptrs
    | none => [])
  ++ c.copies.map (·.canon)

/-- The pointers that the object at a canonical pointer holds, by the tables of partition p; none when it is out of reach. -/
def State.pointersOf (s : State) (p : Nat) (q : Word64) : List Word64 :=
  match s.place p q 16 with
  | .ok a => s.pointersIn a
  | .error _ => []

/-- The pointers of a spawn message that has taken an entry of an inbox (R41, R101). -/
def Message.rootPtrs (m : Message) : List Word64 := if m.held then (m.record.map (·.ptrs)).getD [] else []

/-- The root pointers of a collection of a pad colour for a partition (R41, R48). -/
def State.roots (s : State) (u : PadUnit) (colour p : Nat) : List Word64 :=
  (s.tasks.filter (fun e => concerned u colour p e.1 e.2)).flatMap (·.2.rootPtrs)
  ++ (s.cores.filter (fun e => padConcerns u e.1)).flatMap (·.2.rootPtrs)
  ++ (s.mesh.filter (fun m => padConcerns u m.target)).flatMap (·.rootPtrs)
  ++ (match u with
      | .die d => (s.die d).held.flatMap (·.ptrs)
          ++ (s.die d).nodes.flatMap (fun n => if n.2.state == .finished || n.2.state == .running then [] else [n.2.arg, n.2.join])
          ++ s.dists.flatMap (fun e => e.2.held.flatMap (fun r => r.1.ptrs))
      | _ => [])
  ++ s.engineHeld
  ++ (s.pads.filter (fun e => (padOfKey e.1).2 == colour)).flatMap (fun e =>
      let v := (padOfKey e.1).1
      -- of the collected pad itself, the copies of its extent's cores
      (e.2.objs.filter (fun o => above u v || (v == u && o.copyOf.isSome))).flatMap (fun o => s.pointersIn (padPtr v o.off).toNat))
  ++ (s.pad u colour).incoming.flatMap (s.pointersOf p)

/-- Offsets reachable from `front` through pointer words within a set of canonical objects, by fuel. -/
def State.trace (s : State) (u : PadUnit) (offs : List Nat) : Nat → List Nat → List Nat → List Nat
  | 0, _, seen => seen
  | fuel + 1, front, seen =>
    let new := front.filter (fun o => offs.contains o && !seen.contains o)
    if new.isEmpty then seen
    else
      let next := new.flatMap (fun o => (s.pointersIn (padPtr u o).toNat).filterMap (fun p =>
        if padOf p == some u then some (padOff p) else none))
      s.trace u offs fuel next.eraseDups (seen ++ new.eraseDups)

/-! ## The collection of one pad colour (R40 to R45) -/

/-- What a collection came to. -/
inductive GcOut where
  /-- It ran; the flag says that its survivors found room below (R43). -/
  | done (s : State) (moved : Bool)
  /-- The Gleaner met a fault and its partition halts (R45). -/
  | halted (s : State)
  /-- A stalled channel makes it wait (R256, R257). -/
  | waits (s : State)

/-- Go on with another part of a collection, if it has run so far; survivors find room when those of every part do. -/
def GcOut.andThen (g : GcOut) (f : State → GcOut) : GcOut :=
  match g with
  | .done s moved =>
    match f s with
    | .done s' moved' => .done s' (moved && moved')
    | out => out
  | out => out

/-- Pause the tasks of a pad colour's extent: their deferred results return and their stores are performed (R46, R214). -/
def State.quiet (s : State) (u : PadUnit) (colour p : Nat) : State :=
  s.tasks.foldl (fun s e => if concerned u colour p e.1 e.2 then (s.landAll e.1).drainAll e.1 else s) s

/-- Pause every task of a partition (R49). -/
def State.quietPart (s : State) (p : Nat) : State :=
  s.tasks.foldl (fun s e => if e.2.status != .free && e.2.part == p then (s.landAll e.1).drainAll e.1 else s) s

/-- A paused task of a pad colour's extent still has a store that its channel stalls: the collection waits for it (R46, R257). -/
def State.unquiet (s : State) (u : PadUnit) (colour p : Nat) : Bool :=
  s.tasks.any (fun e => concerned u colour p e.1 e.2 && !e.2.sb.isEmpty)

/-- Clear the touched bit of every o register of a core that holds a canonical pointer (R35, R43). -/
def State.untouch (s : State) (c : CoreId) (canon : Word64) : State :=
  { s with tasks := s.tasks.mapKeyed (fun k t =>
      if coreOf k == c then
        { t with o := t.o.map (fun r => if oCanon r == canon then oSetTouched r false else r) }
      else t) }

/-- The loads of a core's tasks from a copy are performed. -/
def State.fixCopy (s : State) (c : CoreId) (e : Copy) : State :=
  s.tasks.foldl (fun s x => if coreOf x.1 == c then
      s.fixLoads x.1 (fun _ l => l.priv && e.copy.toNat ≤ l.addr && l.addr < e.copy.toNat + e.size)
    else s) s

/-- Remove a copy from a core's copy map and from its pad. -/
def State.dropCopy (s : State) (c : CoreId) (e : Copy) : State :=
  let s := s.fixCopy c e
  let s := s.setCore c { s.core c with copies := (s.core c).copies.filter (fun x => x.canon != e.canon) }
  let s := s.untouch c e.canon
  { s with pads := s.pads.mapVals (fun a => { a with objs := a.objs.filter (fun o => o.copyOf != some (c, e.canon)) }) }

/-- The Gleaner that serves a pad (R40): its die and its unit. -/
def gleanerOf : PadUnit → Nat × Nat
  | .core c => (dieOf c, clusterOf c % 16)
  | .cluster k => (dieOfCluster k, k % 16)
  | .die d => (d, 16)

/-- A Gleaner's registers. -/
def State.gleaner (s : State) (d unit : Nat) : Gleaner := s.gleaners.find (17 * d + unit) Gleaner.initial

/-- Replace a Gleaner's registers. -/
def State.setGleaner (s : State) (d unit : Nat) (g : Gleaner) : State :=
  { s with gleaners := s.gleaners.set (17 * d + unit) g }

/-- Bytes of the object at a header lie on a channel that stalls accesses (R256, R257, R405). -/
def State.stalls (s : State) (a lo n : Nat) : Bool :=
  match s.reachObj a lo n with
  | .stall => true
  | _ => false

/-- The write-back of a core's copy would meet a stalled channel. -/
def State.writeBackStalls (s : State) (p : Nat) (e : Copy) : Bool :=
  !e.dirty.isEmpty && match s.place p e.canon e.size with
    | .ok a => s.stalls a 0 e.size
    | .error _ => false

/-- What ends the treatment of copies early: a fault with the canonical pointer, or, as none, a stalled channel. -/
abbrev Retired := State × Option (Option (FaultCode × Word64))

/-- Write a core's copy back, then drop it unless a retain HALT pinned it (R43). -/
def State.retireCopy (s : State) (p : Nat) (c : CoreId) (canon : Word64) : Retired :=
  match s.copyOf c canon with
  | none => (s, none)
  | some e =>
    if s.writeBackStalls p e then (s, some none)
    else
      match s.writeBack p c e with
      | (s, some f) => (s, some (some (f, canon)))
      | (s, none) => (if e.pins.isEmpty then s.dropCopy c { e with dirty := [] } else s, none)

/-- Treat some copies, up to the first that ends it (R43, R45). -/
def State.retireCopies (s : State) (p : Nat) : List (CoreId × Word64) → Retired
  | [] => (s, none)
  | (c, canon) :: cs =>
    match s.retireCopy p c canon with
    | (s, some f) => (s, some f)
    | (s, none) => s.retireCopies p cs

/-- The copies in a pad colour. -/
def State.copiesIn (s : State) (u : PadUnit) (colour : Nat) : List (CoreId × Word64) := (s.pad u colour).objs.filterMap (·.copyOf)

/-- Take out of a pad colour the space of copies that no copy map lists any more. -/
def State.dropStale (s : State) (u : PadUnit) (colour : Nat) : State :=
  let a := s.pad u colour
  s.setPad u colour { a with objs := a.objs.filter (fun o => match o.copyOf with
    | some (c, canon) => (s.copyOf c canon).isSome
    | none => true) }

/-- The pad below a pad. -/
def below : PadUnit → Option PadUnit
  | .core c => some (.cluster (clusterOf c))
  | .cluster k => some (.die (dieOfCluster k))
  | .die _ => none

/-- The words of a range become empty (R29, R38). -/
def State.forget (s : State) (a n : Nat) : State :=
  { s with fe := s.fe.filter (fun e => e.1 < a || a + n ≤ e.1) }

/-- The map of moved pointers. -/
def movedPtr (moved : List (Word64 × Word64)) (p : Word64) : Word64 := (moved.lookup p).getD p

/-- What moving a set of objects came to. -/
inductive MoveOut where
  /-- The pad, or the heap, has no room for all of them. -/
  | noRoom (pad : Option PadUnit)
  /-- An uncorrectable error in a block that was read, or written in part: the moves before it are committed (R45). -/
  | failed (s : State) (moved : List (Word64 × Word64)) (at_ : Word64)
  /-- A channel stalls a place that an object is to move to (R256, R257). -/
  | stalled
  | moved (s : State) (moved : List (Word64 × Word64))

/-- Space of `size` bytes in a pad or on a die's heap: the state that has taken it, its pointer and its physical address. -/
def State.takeSpace (s : State) (p colour size : Nat) (below : Option PadUnit) (d : Nat) : Option (State × Word64 × Nat) :=
  match below with
  | some v => (s.padRoom v colour size).map (fun off => (s.padTake v colour off size none p, padPtr v off, (padPtr v off).toNat))
  | none =>
    match s.heapTake p d colour size with
    | none => none
    | some (s, new) =>
      match s.place p new size with
      | .ok a => some (s, new, a)
      | .error _ => none

/-- Move one object of a pad: the first phase of R45 copies its bytes to its new place, the second enters it in the list of moves. `dest`
gives the pad below, or none for the heap of the object's die. -/
def moveOne (p colour : Nat) (dest : Word64 → Option PadUnit) (acc : MoveOut × Option MoveOut) (o : Word64 × Nat) : MoveOut × Option MoveOut :=
  match acc.1 with
  | .moved s moved =>
    match s.takeSpace p colour o.2 (dest o.1) (bits o.1.toNat 58 2) with
    | none => (.noRoom (dest o.1), none)
    | some (s', new, a) =>
      if s.stalls a 0 o.2 then (.stalled, none) else
      (.moved ((s'.clear a o.2).poke a (s.mem.readN o.1.toNat o.2)) (moved ++ [(o.1, new)]),
        match acc.2 with
        | some f => some f
        | none => if s.poisoned o.1.toNat o.2 || s.poisonedEdge a o.2 then some (.failed s moved o.1) else none)
  | m => (m, acc.2)

/-- Move objects, given as pointer and size, in the order given. None moves unless all find room; the first block that cannot be read ends
the moves (R37, R43, R45). -/
def State.moveAll (s : State) (p colour : Nat) (dest : Word64 → Option PadUnit) (objs : List (Word64 × Nat)) : MoveOut :=
  match objs.foldl (moveOne p colour dest) (.moved s [], none) with
  | (.moved _ _, some f) => f
  | (m, _) => m

/-- Remove moved objects from their old pads. -/
def State.leavePads (s : State) (olds : List Word64) : State :=
  { s with pads := s.pads.mapKeyed (fun k a => { a with
      objs := a.objs.filter (fun o => o.copyOf.isSome || !olds.contains (padPtr (padOfKey k).1 o.off)) }) }

/-- Every pointer to a moved object follows it, those inside the moved objects included (R43, R45). -/
def State.patch (s : State) (p : Nat) (moved : List (Word64 × Word64)) : State :=
  moved.foldl (fun s m => match s.place p m.2 16 with
    | .ok a => s.mapObject a (movedPtr moved)
    | .error _ => s) ((s.leavePads (moved.map (·.1))).mapPtrs (movedPtr moved))

/-- Move objects of a pad colour, given as offset and size, to the pad below or the heap, ascending (R43). -/
def State.moveDown (s : State) (p : Nat) (u : PadUnit) (colour : Nat) (objs : List (Nat × Nat)) : MoveOut :=
  s.moveAll p colour (fun _ => below u) (objs.map (fun o => (padPtr u o.1, o.2)))

/-- The canonical objects of a pad colour that a collection for a partition treats, ascending. -/
def State.collected (s : State) (u : PadUnit) (colour p : Nat) : List PadObj :=
  sortBy (fun a b => a.off ≤ b.off) ((s.pad u colour).objs.filter (fun o => o.copyOf.isNone && padServes u p o.part))

/-- The offsets of the objects of a pad colour that are live (R41). -/
def State.liveIn (s : State) (u : PadUnit) (colour p : Nat) : List Nat :=
  let offs := (s.collected u colour p).map (·.off)
  let front := (s.roots u colour p).filterMap (fun q => if padOf q == some u then some (padOff q) else none)
  s.trace u offs (offs.length + 1) (front ++ offs.filter (fun o => hPinned (s.peekWord (padPtr u o).toNat))) []

/-- What tracing reads of the object at a canonical pointer has a poisoned block: its header, or a pointer word (R45, R240). -/
def State.untraceable (s : State) (p : Nat) (q : Word64) : Bool :=
  match s.place p q 16 with
  | .ok a => !s.poison.isEmpty && (s.poisoned a 16 || (pointerOffsets (s.peekWord a)).any (fun o => s.poisoned (a + 16 + o) 8))
  | .error _ => false

/-- The first object that the tracing of a pad colour cannot read: among those above it, those its incoming list names, and its own live ones
(R41, R45). -/
def State.traceFault (s : State) (u : PadUnit) (colour p : Nat) : Option Word64 :=
  if s.poison.isEmpty then none
  else
    ((s.pads.filter (fun e => (padOfKey e.1).2 == colour && above u (padOfKey e.1).1)).flatMap (fun e =>
        e.2.objs.map (fun o => padPtr (padOfKey e.1).1 o.off))
      ++ (s.pad u colour).incoming ++ (s.liveIn u colour p).map (padPtr u)).find? (s.untraceable p)

/-- The live canonical objects of a pad colour that stay, and those that can move, as offset and size (R43). -/
def State.gcSplit (s : State) (u : PadUnit) (colour p : Nat) : List (Nat × Nat) × List (Nat × Nat) :=
  let canon := s.collected u colour p
  let offs := canon.map (·.off)
  let hdr (o : Nat) : Word64 := s.peekWord (padPtr u o).toNat
  let live := s.liveIn u colour p
  let held := s.engineHeld
  let fixed := live.filter (fun o => hPinned (hdr o) || hKind (hdr o) == 3 || held.contains (padPtr u o))
  let stays := live.filter (fun o => (s.trace u offs (offs.length + 1) [o] []).any fixed.contains)
  let sz (o : PadObj) : Nat × Nat := (o.off, o.size)
  ((canon.filter (fun o => stays.contains o.off)).map sz,
   (canon.filter (fun o => live.contains o.off && !stays.contains o.off)).map sz)

/-- Of the canonical objects that a collection for a partition treats, only those given, as offset and size, stay in a pad colour; the
copies stay, and another partition's objects. -/
def State.keepOnly (s : State) (u : PadUnit) (colour p : Nat) (ls : List (Nat × Nat)) : State :=
  let a := s.pad u colour
  s.setPad u colour { a with
    objs := ls.map (fun o => (⟨o.1, o.2, none, p⟩ : PadObj)) ++ a.objs.filter (fun o => o.copyOf.isSome || !padServes u p o.part) }

/-- Incoming entries that no longer point into the pad leave its list (R42). -/
def State.pruneIncoming (s : State) (u : PadUnit) (colour p : Nat) : State :=
  s.setPad u colour { s.pad u colour with
    incoming := (s.pad u colour).incoming.filter (fun q => (s.pointersOf p q).any (fun w => padOf w == some u)) }

/-- The colour's bump pointer is set just past the highest object that stayed, or to the colour's base (R44). -/
def State.resetBump (s : State) (u : PadUnit) (colour : Nat) : State :=
  let a := s.pad u colour
  let top := a.objs.foldl (fun m o => max m (o.off + o.size)) (s.colourRange u colour).1
  s.setPad u colour { a with bump := if a.objs.isEmpty then none else some top }

/-- Banks that wait to be retired and hold no object now leave the colour (R48, R240). -/
def State.retireBanks (s : State) (u : PadUnit) (colour : Nat) : State :=
  let a := s.pad u colour
  let empty (b : Nat) : Bool := !a.objs.any (fun o => o.off < (b + 1) * bankSize u && b * bankSize u < o.off + o.size)
  s.setPad u colour { a with
    retired := a.retired ++ a.retiring.filter empty
    retiring := a.retiring.filter (fun b => !empty b) }

/-! ## Region evacuation (R49) -/

/-- Offsets of the words of a heap object that an evacuation follows: its pointer words, and of a handle table the directory of each entry
(R49, R179). -/
def heapOffsets (h : Word64) : List Nat :=
  if hKind h = 7 then (List.range (hLen h / 32)).map (32 * · + 8) else pointerOffsets h

/-- The pointers that an evacuation finds in the heap object at a canonical pointer. -/
def State.heapPointers (s : State) (p : Nat) (q : Word64) : List Word64 :=
  match s.place p q 16 with
  | .ok a => s.pointersIn a ++ (if hKind (s.peekWord a) = 7 then (heapOffsets (s.peekWord a)).map (fun o => s.peekWord (a + 16 + o)) else [])
  | .error _ => []

/-- The pointer leads to an object in a region of a partition's heap, which its allocator or the host has put there. -/
def State.inHeap (s : State) (p : Nat) (q : Word64) : Bool :=
  tagOf q == 4 && match s.place p q 16 with
    | .ok a => validHeader (s.peekWord a)
    | .error _ => false

/-- Objects of a partition's heap reachable from the pads and tasks of the package, by fuel. -/
def State.heapLive (s : State) (p : Nat) : Nat → List Word64 → List Word64 → List Word64
  | 0, _, seen => seen
  | fuel + 1, front, seen =>
    let new := front.filter (fun q => s.inHeap p q && !seen.contains q)
    if new.isEmpty then seen
    else s.heapLive p fuel (new.flatMap (s.heapPointers p)).eraseDups (seen ++ new.eraseDups)

/-- Every root pointer of the package, for an evacuation: registers, records, messages, copy maps, nodes, engine operands, launches, handle
tables, those of contexts that are swapped out, and the pointer words of every pad object (R49). DESIGN CHOICE (log entry 20): the
registers of a partition, of a launch and of a launch queue that name objects count as roots. -/
def State.allRoots (s : State) : List Word64 :=
  let tasks (m : FMap Task) : List Word64 := m.flatMap (fun e => if e.2.status == .free then [] else e.2.rootPtrs)
  tasks s.tasks ++ s.cores.flatMap (·.2.rootPtrs)
  ++ s.mesh.flatMap (fun m => match m.record with
    | some r => r.ptrs
    | none => [])
  ++ s.dies.flatMap (fun e => e.2.held.flatMap (·.ptrs) ++ e.2.nodes.flatMap (fun n => [n.2.arg, n.2.join]))
  ++ s.dists.flatMap (fun e => e.2.held.flatMap (fun r => r.1.ptrs))
  ++ s.launches.flatMap (fun e => [e.2.code, e.2.mailbox] ++ e.2.root.ptrs)
  ++ s.parts.flatMap (fun e => [e.2.htab, e.2.save, e.2.slical]) ++ s.queues.map (·.2.base)
  ++ s.engineHeld
  ++ s.shadow.flatMap (fun v => tasks v.tasks ++ v.cores.flatMap (·.2.rootPtrs))
  ++ s.pads.flatMap (fun e => e.2.objs.flatMap (fun o => s.pointersIn (padPtr (padOfKey e.1).1 o.off).toNat))

/-- The live heap objects of partition p: those its roots reach. -/
def State.liveHeap (s : State) (p : Nat) : List Word64 := s.heapLive p 65536 s.allRoots []

/-- Copy n bytes of a heap object of partition p to its new place, where both lie in HBM, and list the move. -/
def State.moveBytes (s : State) (p : Nat) (old new : Word64) (n : Nat) (moves : List (Word64 × Word64)) : State × List (Word64 × Word64) :=
  match s.place p old n, s.place p new n with
  | .ok a, .ok b => ((s.clear b n).poke b (s.mem.readN a n), moves ++ [(old, new)])
  | _, _ => (s, moves)

/-- Move one object of region r behind the objects of region cur. -/
def moveObject (p r cur : Nat) (acc : State × List (Word64 × Word64)) (o : PadObj) : State × List (Word64 × Word64) :=
  let t := acc.1.regionTake p cur o.size
  t.1.moveBytes p (heapPtr r o.off) t.2 o.size acc.2

/-- Move objects of region r behind the objects of region cur; the moves made are listed (R49). -/
def State.moveObjects (s : State) (p r cur : Nat) (objs : List PadObj) : State × List (Word64 × Word64) :=
  objs.foldl (moveObject p r cur) (s, [])

/-- Apply a map to the words of a heap object that an evacuation follows. -/
def State.mapHeapObject (s : State) (a : Nat) (f : Word64 → Word64) : State :=
  (heapOffsets (s.peekWord a)).foldl (fun s o =>
    let w := s.peekWord (a + 16 + o)
    if f w == w then s else s.pokeWord (a + 16 + o) (f w)) s

/-- Every pointer to a moved object follows it: those of registers and pads, and those in the heap's objects that are live, at their new
places (R49). -/
def State.followMoves (s : State) (p : Nat) (live : List Word64) (moves : List (Word64 × Word64)) : State :=
  live.foldl (fun s q =>
    match s.place p (movedPtr moves q) 16 with
    | .ok a => s.mapHeapObject a (movedPtr moves)
    | .error _ => s) (s.mapPtrs (movedPtr moves))

/-- A heap object has a block that cannot be read. -/
def State.unreadable (s : State) (p : Nat) (q : Word64) (n : Nat) : Bool :=
  match s.place p q n with
  | .ok a => s.poisoned a n
  | .error _ => false

/-- The space behind the objects of a region has a poisoned block that `n` bytes would write in part. -/
def State.unwritable (s : State) (p r n : Nat) : Bool :=
  match s.place p (heapPtr r (s.regionAlloc p r).bump) n with
  | .ok a => s.poisonedEdge a n
  | .error _ => false

/-- Empty a region whose live objects are given, when they fit behind the current region's objects and every block can be read and
written; the flag of the result says that a region became free, and the live objects of the heap follow (R49). -/
def evacuateInto (p : Nat) (acc : State × Bool × List Word64) (r : Nat) (objs : List PadObj) : Option Nat → State × Bool × List Word64
  | none => if objs.isEmpty then (acc.1.setRegionAlloc p r ⟨0, []⟩, true, acc.2.2) else acc
  | some cur =>
    let total := (objs.map (·.size)).foldl (· + ·) 0
    if (acc.1.regionAlloc p cur).bump + total ≤ rgSize (acc.1.region p cur)
        && !objs.any (fun o => acc.1.unreadable p (heapPtr r o.off) o.size) && !acc.1.unwritable p cur total then
      let m := acc.1.moveObjects p r cur objs
      ((m.1.followMoves p acc.2.2 m.2).setRegionAlloc p r ⟨0, []⟩, true, acc.2.2.map (movedPtr m.2))
    else acc

/-- Evacuate one region on die d for a colour. -/
def evacuateRegion (p d colour : Nat) (acc : State × Bool × List Word64) (r : Nat) : State × Bool × List Word64 :=
  evacuateInto p acc r
    (sortBy (fun a b => a.off ≤ b.off) ((acc.1.regionAlloc p r).objs.filter (fun o => acc.2.2.contains (heapPtr r o.off))))
    (acc.1.currentRegion p d colour)

/-- Evacuate the regions of a die for a colour, while the whole partition pauses: the live objects of each region that is no colour's
current one, fullest first, move into the current region while it has room, and the regions left without objects are free (R49). DESIGN
CHOICE (log entry 20): R49 says neither what the fresh space is nor how fullest is measured; the fresh space is what is left of the colour's
current region, the fullest region is the one with the highest bump pointer, and a region stays that has a live object that cannot be read
or written whole. -/
def State.evacuate (s : State) (p d colour : Nat) : State × Bool :=
  let s := s.quietPart p
  let usage (r : Nat) : Nat := (s.regionAlloc p r).bump
  let victims := sortBy (fun a b => usage b ≤ usage a) ((s.regionsOn p d).filter (fun r =>
    !(s.regionAlloc p r).objs.isEmpty && !s.current.any (fun e => e.1 / 16 == p && e.2 == r)))
  let out := victims.foldl (evacuateRegion p d colour) (s, false, s.liveHeap p)
  (out.1, out.2.1)

/-- A channel of a die's stacks stalls accesses, or one holds back a store of the partition, so that an evacuation waits (R49, R256,
R257). -/
def State.evacuationStalls (s : State) (p d : Nat) : Bool :=
  s.channels.any (fun e => e.1 / 64 == d && (e.2.ctl.getLsbD 1 || e.2.auto))
    || (s.quietPart p).tasks.any (fun e => e.2.status != .free && e.2.part == p && !e.2.sb.isEmpty)

/-- Take heap space, running an evacuation once when no region is free (R49). -/
def State.heapAlloc (s : State) (p d colour size : Nat) : State × Option Word64 :=
  match s.heapTake p d colour size with
  | some (s, q) => (s, some q)
  | none =>
    let (s, freed) := s.evacuate p d colour
    if freed then
      match s.heapTake p d colour size with
      | some (s, q) => (s, some q)
      | none => (s, none)
    else (s, none)

/-! ## Running a collection -/

/-- Exchange a partition's context for another that is in shadow storage, as far as a collection of that context's colour needs: its tasks
and cores stand in the state while the collection runs (R48). The fabric jobs stay where they are. -/
def State.exchange (s : State) (p ctx : Nat) : State :=
  let cur := (s.part p).ctx
  if cur == ctx then s
  else
    let mine (c : CoreId) : Bool := c < 512 && (s.part p).holds (clusterOf c)
    let inn := (s.shadow.find? (fun v => v.part == p && v.ctx == ctx)).getD
      { part := p, ctx := ctx, tasks := [], cores := [], jobs := [], graphs := [] }
    let out : Saved :=
      { part := p, ctx := cur, tasks := s.tasks.filter (fun e => mine (coreOf e.1)), cores := s.cores.filter (fun e => mine e.1)
        jobs := inn.jobs, graphs := inn.graphs }
    { s with
      shadow := s.shadow.filter (fun v => !(v.part == p && v.ctx == ctx)) ++ [out]
      tasks := inn.tasks.foldl (fun m e => m.set e.1 e.2) (s.tasks.filter (fun e => !mine (coreOf e.1)))
      cores := inn.cores.foldl (fun m e => m.set e.1 e.2) (s.cores.filter (fun e => !mine e.1))
      parts := s.parts.set p { s.part p with ctx := ctx } }

/-- Partitions that a pad serves. -/
def State.padParts (s : State) (u : PadUnit) : List Nat :=
  match u with
  | .core c => (s.partOf (clusterOf c)).toList
  | .cluster k => (s.partOf k).toList
  | .die d => ((List.range 16).filterMap (fun k => s.partOf (16 * d + k))).eraseDups

/-- The pads that a Gleaner serves lie in a partition: for a die Gleaner, in every partition that has a cluster of the die. -/
def State.gleanerServes (s : State) (d unit p : Nat) : Bool := (s.padParts (if unit < 16 then .cluster (16 * d + unit) else .die d)).contains p

/-- The partitions a pad serves, with the context that each runs. -/
def State.padContextsNow (s : State) (u : PadUnit) : List (Nat × Nat) := (s.padParts u).map (fun p => (p, (s.part p).ctx))

/-- Bring the colour's context of every partition that a pad serves into the state. -/
def State.bringIn (s : State) (u : PadUnit) (colour : Nat) : State := (s.padParts u).foldl (fun s p => s.exchange p colour) s

/-- Bring back the contexts that were running. -/
def State.bringBack (s : State) (was : List (Nat × Nat)) : State := was.foldl (fun s e => s.exchange e.1 e.2) s

/-- The end of a collection: bump pointers, retired banks, the Gleaner's counters (R44, R48, R50). The pause's length is a
free value. -/
def State.collectEnd (s : State) (u : PadUnit) (colour : Nat) : State :=
  let (d, unit) := gleanerOf u
  let (n, s) := s.fresh
  let g := s.gleaner d unit
  let t := Config.pauseTime n
  let s := s.setGleaner d unit { g with count := g.count + 1, pause := if g.pause.toNat < t.toNat then t else g.pause }
  (s.resetBump u colour).retireBanks u colour

/-- The Gleaner of pad `top`, whose collection this is, holds the tasks of a pad colour paused for a partition (R46). -/
def State.hold (s : State) (top u : PadUnit) (colour p : Nat) : State :=
  let (d, unit) := gleanerOf top
  let g := s.gleaner d unit
  if g.paused.contains (u, colour, p) then s else s.setGleaner d unit { g with paused := g.paused ++ [(u, colour, p)] }

/-- The tasks that a pad's Gleaner holds paused go on (R46). -/
def State.unhold (s : State) (u : PadUnit) : State :=
  let (d, unit) := gleanerOf u
  s.setGleaner d unit { s.gleaner d unit with paused := [] }

/-- The Gleaner of a pad meets a fault: its report names the canonical pointer and, as progress, the moves that are committed and not yet
patched, which its forwarding table keeps; the tasks stay paused (R45, R46). -/
def State.gleanerFault (s : State) (p : Nat) (u : PadUnit) (f : FaultCode) (ptr : Word64) (moved : List (Word64 × Word64)) : State :=
  let (d, unit) := gleanerOf u
  let s := s.setGleaner d unit { s.gleaner d unit with forward := moved }
  s.report p { agent := .gleaner d unit, info := { code := some f, ptr := ptr, eval := ptr, progress := BitVec.ofNat 64 moved.length }, tid := 0 }

/-- The pad that a command names, for a Gleaner that serves its level. -/
def glPad (d unit : Nat) (cmd : Nat) : Option PadUnit :=
  match cmd % 4 with
  | 1 => if unit < 16 then some (.core (8 * (16 * d + unit) + bits cmd 3 3)) else none
  | 2 => if unit < 16 then some (.cluster (16 * d + unit)) else none
  | 3 => if unit = 16 then some (.die d) else none
  | _ => none

/-- The Gleaner of a pad runs a command of the supervisor for the pad and colour. -/
def State.commanded (s : State) (u : PadUnit) (colour : Nat) : Bool :=
  let g := s.gleaner (gleanerOf u).1 (gleanerOf u).2
  g.busy && glPad (gleanerOf u).1 (gleanerOf u).2 g.cmd.toNat == some u && bits g.cmd.toNat 6 2 == colour

/-- The collection of a pad colour ends, and the supervisor's command, if it was one, with it. -/
def State.close (s : State) (u : PadUnit) (colour : Nat) : State :=
  let (d, unit) := gleanerOf u
  let met := s.commanded u colour
  let s := s.collectEnd u colour
  if met then (s.setGleaner d unit { s.gleaner d unit with busy := false, traced := false }).unhold u else s

/-- What meets a commanded collection of a pad colour that has treated its objects waits for its end (R40, R47). -/
def State.meet (s : State) (u : PadUnit) (colour : Nat) : State :=
  if s.commanded u colour && (s.gleaner (gleanerOf u).1 (gleanerOf u).2).traced then s.close u colour else s

/-- The partitions that a collection of a pad is for: a command's is for every one that the pad serves, a request's for the one that asks
(log entry 15). -/
def State.collectParts (s : State) (u : PadUnit) (colour acting : Nat) : List Nat :=
  if s.commanded u colour && !(s.padParts u).isEmpty then s.padParts u else [s.padPart u acting]

/-- The survivors of a pad colour move to the level below, and what leads to them follows; none when they do not fit there (R43). -/
def State.sweep (s : State) (p : Nat) (u : PadUnit) (colour : Nat) : Option GcOut :=
  let (stay, move) := s.gcSplit u colour p
  match s.moveDown p u colour move with
  | .moved s' moved => some (.done ((((s'.keepOnly u colour p stay).patch p moved).pruneIncoming u colour p).resetBump u colour) true)
  | .failed s' moved ptr => some (.halted (s'.gleanerFault p u .uncorrectable ptr moved))
  | .stalled => some (.waits s)
  | .noRoom _ => none

/-- The survivors of a pad colour that found no room below stay, the dead go (R43). -/
def State.keepLive (s : State) (p : Nat) (u : PadUnit) (colour : Nat) : State :=
  let (stay, move) := s.gcSplit u colour p
  ((s.keepOnly u colour p (stay ++ move)).pruneIncoming u colour p).resetBump u colour

/-- The collection of one pad colour for a partition, with cascades into the pads below by fuel (R40 to R46); `top` is the pad whose
collection started it, and whose Gleaner holds the tasks. The colour's bump pointer is reset by the end of the collection. A cascade that
meets a commanded collection of the pad below waits for it to treat its objects and to end (R40). -/
def State.collect (s : State) (top : PadUnit) (p colour : Nat) : Nat → PadUnit → GcOut
  | 0, _ => .done s false
  | fuel + 1, u =>
    let s := (s.hold top u colour p).quiet u colour p
    if s.unquiet u colour p then .waits s
    else
      match s.retireCopies p (s.copiesIn u colour) with
      | (s, some none) => .waits s
      | (s, some (some (f, canon))) => .halted (s.gleanerFault p u f canon [])
      | (s, none) =>
        let s := s.dropStale u colour
        match s.traceFault u colour p with
        | some q => .halted (s.gleanerFault p u .uncorrectable q [])
        | none =>
          match s.sweep p u colour with
          | some out => out
          | none =>
            let cascaded (s : State) : State :=
              let (d, unit) := gleanerOf u
              s.setGleaner d unit { s.gleaner d unit with cascaded := true }
            let lower : GcOut := match u, below u with
              -- below the die pad the heap runs an evacuation
              | .die d, _ => if s.evacuationStalls p d then .waits s else .done (s.evacuate p d colour).1 true
              | _, none => .done s false
              | _, some v =>
                if s.commanded v colour && (s.gleaner (gleanerOf v).1 (gleanerOf v).2).traced then .done (cascaded (s.close v colour)) true
                else
                  let was := s.padContextsNow v
                  let ps := s.collectParts v colour p
                  let s := (s.setGleaner (gleanerOf v).1 (gleanerOf v).2
                    { s.gleaner (gleanerOf v).1 (gleanerOf v).2 with cascaded := false }).bringIn v colour
                  match ps.foldl (fun acc q => acc.andThen (fun s => State.collect s top q colour fuel v)) (GcOut.done s true) with
                  | .halted s => .halted (s.bringBack was)
                  | .waits s => .waits (s.bringBack was)
                  | .done s moved => .done (cascaded ((s.bringBack was).close v colour)) moved
            match lower with
            | .done s _ => (s.sweep p u colour).getD (.done (s.keepLive p u colour) false)
            | out => out

/-- The collection of a colour for the partitions that it is for, whose contexts may be swapped out (R48). -/
def State.collectColour (s : State) (acting colour : Nat) (u : PadUnit) : GcOut :=
  let was := s.padContextsNow u
  let s' := (s.setGleaner (gleanerOf u).1 (gleanerOf u).2
    { s.gleaner (gleanerOf u).1 (gleanerOf u).2 with cascaded := false }).bringIn u colour
  match (s.collectParts u colour acting).foldl (fun acc q => acc.andThen (fun s => s.collect u q colour 3 u)) (GcOut.done s' true) with
  | .halted s => .halted (s.bringBack was)
  | .waits s => .waits (s.bringBack was)
  | .done s moved => .done (s.bringBack was) moved

/-- A whole collection that a request starts (R30): it runs and ends, and says whether its survivors found room; none when
the Gleaner has stopped in a halt, when a stalled channel makes it wait, or when the acting task has stopped in the pause. A request that
meets a collection of the same pad colour, which the supervisor started, waits for that one, which runs to its end, and starts no other
(R40). -/
def State.collectNow (s : State) (acting colour : Nat) (u : PadUnit) : State × Option Bool :=
  let (d, unit) := gleanerOf u
  if s.stopped (.gleaner d unit) acting then (s, none)
  else if s.commanded u colour && (s.gleaner d unit).traced then (s.close u colour, some true)
  else
    match s.collectColour acting colour u with
    | .halted s => (s, none)
    | .waits s => (if s.commanded u colour then s else s.unhold u, none)
    | .done s moved =>
      let s := (s.close u colour).unhold u
      (s, if s.me.status == .stopped then none else some moved)

/-- After a halt the moves of a pad's Gleaner that were committed before it are patched, before any task of the affected set issues, and a
collection that a request had started begins again from tracing (R45, R46). -/
def State.finishMoves (s : State) (p d unit : Nat) : State :=
  let g := s.gleaner d unit
  let s := if g.forward.isEmpty then s else (s.patch p g.forward).setGleaner d unit { g with forward := [] }
  match g.busy, g.paused with
  | false, (u, colour, q) :: _ => (s.collectNow q colour u).1
  | _, _ => s

/-- Room in a pad for an explicit allocation or a copy-in: at once, or after one collection (R30). A collection that halts
ends the instruction, which is tried again on resume; one of the pad colour that is still to end is waited for (R33, R40). -/
def padGet (s : State) (u : PadUnit) (colour size : Nat) : Act (State × Option Nat) :=
  let s := s.meet u colour
  match s.padRoom u colour size with
  | some off => .ok (s, some off)
  | none =>
    match s.collectNow (s.tablePart s.me) colour u with
    | (s, none) => .error (.retry s)
    | (s, some moved) => .ok (s, if moved then s.padRoom u colour size else none)

/-! ## Touch (R31 to R33) -/

/-- The pad in which a copy of an object is made, if any (R31). -/
def copyPad (c : CoreId) (canon : Word64) (h : Word64) : Option PadUnit :=
  let whole := 16 + hLen h
  let l := tagOf canon
  if isM c || !touchable h || l < 2 || 5 < l then none
  else if whole ≤ 0x10000 then some (.core c)
  else if whole ≤ 0x100000 && 3 ≤ l then some (.cluster (clusterOf c))
  else none

/-- Enter a copy of a canonical object in the copy map, in space of a pad colour that starts with the bytes given; its payload is still to be
read, block by block, for the acting task (R32, R33). -/
def State.copyIn (s : State) (c : CoreId) (u : PadUnit) (colour off size : Nat) (canon : Word64) (bytes : List Byte) (pref : Bool) : State :=
  let q := padPtr u off
  let s := s.padTake u colour off size (some (c, canon))
  let s := (s.clear q.toNat size).poke q.toNat bytes
  s.setCore c { s.core c with
    copies := (s.core c).copies ++ [{ canon := canon, copy := q, size := size, dirty := [], pins := [], complete := false
                                      reader := some (s.me.tid, s.me.seq), pref := pref }] }

/-- 64-byte payload blocks of a copy, the last of which may be partial. -/
def Copy.blocks (e : Copy) : Nat := (e.size - 16 + 63) / 64

/-- Bytes of a payload block of a copy. -/
def Copy.blockSize (e : Copy) (b : Nat) : Nat := min 64 (e.size - 16 - 64 * b)

/-- The slot of the task for which a copy is made, while the task is there. -/
def State.readerOf (s : State) (e : Copy) : Option (TaskKey × Nat) :=
  e.reader.bind (fun r => (s.taskWithId r.1).map (fun k => (k, r.2)))

/-- Read the next payload block of a copy from the canonical object at a header address: a canonical load of the task for which the copy is
made (R33, R204). -/
def State.readBlock (s : State) (c : CoreId) (e : Copy) (a : Nat) : State :=
  let lo := 16 + 64 * e.next
  let n := e.blockSize e.next
  let s' := match s.readerOf e with
    | some (k, seq) => (s.fixLoads k (fun p l => p.seq ≤ seq && keepsOrder c l false (a + lo) n)).poke (e.copy.toNat + lo) (s.loadAt k seq (a + lo) n)
    | none => s.poke (e.copy.toNat + lo) (s.mem.readN (a + lo) n)
  s'.setCopy c { e with next := e.next + 1, complete := e.blocks ≤ e.next + 1 }

/-- The acting task's touch reads the next `n` blocks of a copy that is being made, each at one moment, in ascending order (R33). -/
def readBlocks (canon : Word64) : Nat → State → Act State
  | 0, s => .ok s
  | n + 1, s =>
    match s.copyOf s.myCore canon with
    | none => .error (.retry s)
    | some e => do
      let lo := 16 + 64 * e.next
      let a ← access s canon lo (e.blockSize e.next)
      need (!s.poisoned (a + lo) (e.blockSize e.next)) s { code := .uncorrectable, ptr := canon, offset := BitVec.ofNat 64 (lo - 16) }
      readBlocks canon n (s.readBlock s.myCore e a)

/-- The blocks that are read before something else may happen: a free number of those that are left. -/
def State.someBlocks (s : State) (e : Copy) : Nat × State :=
  let left := e.blocks - e.next
  if left ≤ 1 then (left, s)
  else
    let (i, s) := s.fresh
    (1 + Config.touchBlocks i % left, s)

/-- A touch goes on with the copy that is being made, and marks register `n` once it is complete; until then the task waits, as every
other task of the core that touches the object. What a prefetch makes is waited for (R33, R337). -/
def makeCopy (s : State) (n : BitVec 6) (e : Copy) : Act State := do
  needOr (!e.pref) (.retry s)
  let (k, s) := s.someBlocks e
  let s ← readBlocks e.canon k s
  needOr (((s.copyOf s.myCore e.canon).map (·.complete)).getD false) (.retry s)
  return s.setO n (oSetTouched (s.me.getO n) true)

/-- A copy map that is full is emptied for a touch: the core's copies are written back and, unless pinned, dropped, wherever they lie, and
the core pad is collected (R33); none when the Gleaner has stopped in a halt or must wait for a stalled channel. -/
def State.emptyMap (s : State) (c : CoreId) (part colour : Nat) : State × Option Bool :=
  if s.stopped (.gleaner (gleanerOf (.core c)).1 (gleanerOf (.core c)).2) part then (s, none)
  else
    let s := s.quiet (.core c) colour part
    if s.unquiet (.core c) colour part then (s, none)
    else
      match s.retireCopies part ((s.core c).copies.map (fun e => (c, e.canon))) with
      | (s, some (some (f, canon))) => ((s.hold (.core c) (.core c) colour part).gleanerFault part (.core c) f canon [], none)
      | (s, some none) => (s, none)
      | (s, none) => s.collectNow part colour (.core c)

/-- `Touch(o)` of R4 for o register `n` of the acting task, whose canonical header is `h`. -/
def touch (s : State) (n : BitVec 6) (h : Word64) : Act State := do
  let canon := oCanon (s.me.getO n)
  match s.copyOf s.myCore canon with
  | some e =>
    if e.complete then return (if oTouched (s.me.getO n) then s else s.setO n (oSetTouched (s.me.getO n) true))
    else makeCopy s n e
  | none =>
    match copyPad s.myCore canon h with
    | none => return s
    | some u =>
      let whole := 16 + hLen h
      let full := 512 ≤ (s.core s.myCore).copies.length
      let s ← if full then (do
          let (s, ok) := s.emptyMap s.myCore (s.tablePart s.me) s.me.ctx
          needOr ok.isSome (.retry s)
          return s) else pure s
      let (s, room) ← padGet s u s.me.ctx whole
      match room with
      | none => return s
      | some off =>
        -- the map holds 512 entries; at most 56 are pinned, so that one is free here (R33, R95)
        if 512 ≤ (s.core s.myCore).copies.length then return s else
        -- a collection may have moved the object; the register holds its present pointer
        let canon := oCanon (s.me.getO n)
        let bytes ← loadAct s canon 0 16
        let s := s.copyIn s.myCore u s.me.ctx off whole canon bytes false
        match s.copyOf s.myCore canon with
        | some e => makeCopy s n e
        | none => return s

/-! ## Accesses through an o register -/

/-- The object that an o register reaches: the header through the current pointer. -/
structure Obj where
  /-- Current pointer. -/
  cur : Word64
  /-- The current pointer is the core's copy. -/
  isCopy : Bool
  hdr : Word64

/-- The header of oA's object through its current pointer. -/
def objOf (s : State) (r : BitVec 128) : Act Obj := do
  let (cur, isCopy) := s.current? r
  let (_, h) ← header s cur
  return ⟨cur, isCopy, h⟩

/-- The canonical header of oA's object. -/
def canonOf (s : State) (r : BitVec 128) : Act Obj := do
  let (_, h) ← header s (oCanon r)
  return ⟨oCanon r, false, h⟩

/-- The header of oA's object for a store, through its current pointer or canonical: the router of a posted store answers only when the
store arrives (R233). -/
def storeObj (s : State) (r : BitVec 128) (canonical : Bool) : Act Obj := do
  let (cur, isCopy) := if canonical then (oCanon r, false) else s.current? r
  let (_, h) ← headerVia (!s.posts cur) s cur
  return ⟨cur, isCopy, h⟩

/-- `n` bytes at payload offset `off` of register `r`, through its current pointer: a private load when that is a copy,
else a canonical load. -/
def readThrough (s : State) (r : BitVec 128) (off n : Nat) : Act (List Byte) := do
  let (cur, isCopy) := s.current? r
  let lo := 16 + oView r + off
  if isCopy then
    needOr (((s.copyOf s.myCore (oCanon r)).map (·.complete)).getD true) (.retry s)
    need (!s.poisoned (cur.toNat + lo) n) s { code := .uncorrectable, ptr := oCanon r, offset := BitVec.ofNat 64 off }
    return s.mem.readN (cur.toNat + lo) n
  else loadAct s cur lo n

/-- The elements of a load of `n` bytes each through register `r`, given as number and payload offset: of the core's copy when the register
leads there, else canonical (R204). -/
def State.elems (s : State) (r : BitVec 128) (n : Nat) (offs : List (Nat × Nat)) : List Elem :=
  match s.current? r with
  | (cur, true) =>
    offs.map (fun e => { idx := e.1, hdr := cur.toNat, addr := cur.toNat + 16 + oView r + e.2, size := n, priv := true })
  | (cur, false) =>
    match s.place (s.tablePart s.me) cur 16 with
    | .ok a => offs.map (fun e => { idx := e.1, hdr := a, addr := a + 16 + oView r + e.2, size := n })
    | .error _ => []

/-- The deferred result of a load of the elements given, through a pointer: a request toward another package goes out, and until it
arrives each element may be performed at a later moment (R205, R208, R209, R370; log entry 6). -/
def State.deferElems (s : State) (ptr : Word64) (es : List Elem) (p : Pend) : State :=
  let s := s.stampSeq
  let s := match es.find? (fun e => !e.priv) with
    | some e => s.requestTo (s.tablePart s.me) ptr e.addr
    | none => s
  s.defer { p with
    src := es, seq := s.me.seq, peer := (es.find? (fun e => !e.priv)).bind (fun e => s.via (s.tablePart s.me) ptr e.addr) }

/-- A load of elements of `n` bytes through register `r`, given as number and payload offset, with its result. -/
def State.deferLoad (s : State) (r : BitVec 128) (n : Nat) (offs : List (Nat × Nat)) (p : Pend) : State :=
  s.deferElems (oCanon r) (s.elems r n offs) p

/-- Write bytes at payload offset `off` of register `r` at the acting task's place in its program order, through its current pointer: into
the copy, whose blocks become dirty, or as a canonical store. -/
def putThrough (s : State) (r : BitVec 128) (off : Nat) (bs : List Byte) (isPtr : Bool := false) : Act State := do
  let (cur, isCopy) := s.current? r
  let lo := oView r + off
  match s.copyOf s.myCore (oCanon r), isCopy with
  | some e, true =>
    needOr e.complete (.retry s)
    -- the core's tasks see the store to the copy at once, after the task's earlier loads there (R205)
    return (s.fixPrivate.poke (cur.toNat + 16 + lo) bs).setCopy s.myCore (e.touchBlocks lo bs.length)
  | _, _ =>
    -- a store to another die's pad is posted: its router answers when it arrives (R233)
    match s.place (s.tablePart s.me) cur (16 + lo + bs.length) with
    | .error c => .error (.fault s { code := c, ptr := cur, offset := BitVec.ofNat 64 off })
    | .ok a =>
      if homeOf a < 4 && homeOf a != dieOf s.myCore then
        match s.reachObj a (16 + lo) bs.length with
        | .ok _ => return s.store a cur (a + 16 + lo) bs isPtr
        | _ => .error (.retry s)
      else do
        let a ← access s cur (16 + lo) bs.length
        return s.store a cur (a + 16 + lo) bs isPtr

/-- Write bytes at payload offset `off` of register `r`, through its current pointer. -/
def writeThrough (s : State) (r : BitVec 128) (off : Nat) (bs : List Byte) (isPtr : Bool := false) : Act State :=
  putThrough s.stampSeq r off bs isPtr

/-- Accesses of one instruction that are made together: when one of them must wait, none has been made, and only the request for its page
stands. -/
def together (s : State) (a : Act State) : Act State :=
  match a with
  | .error (.retry t) => .error (.retry { s with plat := { s.plat with pages := t.plat.pages } })
  | r => r

/-- The bytes at payload offset `off` of the canonical object in `r`, past any copy. -/
def readCanon (s : State) (r : BitVec 128) (off n : Nat) : Act (List Byte) := loadAct s (oCanon r) (16 + oView r + off) n

/-- A canonical store at payload offset `off` of the object in `r`, past any copy. -/
def writeCanon (s : State) (r : BitVec 128) (off : Nat) (bs : List Byte) : Act State :=
  writeThrough s (oSetTouched r false) off bs

/-! ## Promotion (R36, R37, R42) -/

/-- The pad objects above level `l` reachable from `front`, in the order met, with their sizes; stops past 256 objects. -/
def State.promoteSet (s : State) (l : Nat) : Nat → List Word64 → List Word64 → List Word64
  | 0, _, seen => seen
  | fuel + 1, front, seen =>
    let new := (front.filter (fun p => p != 0 && tagOf p < l && 1 ≤ tagOf p && tagOf p ≤ 3 && !seen.contains p)).eraseDups
    if new.isEmpty || 256 < seen.length then seen
    else s.promoteSet l fuel (new.flatMap (fun p => s.pointersIn p.toNat)) (seen ++ new)

/-- Whole size of a pad object: what its allocation took, or what its header says. -/
def State.objectSize (s : State) (q : Word64) : Nat :=
  ((s.pads.findSome? (fun e => (e.2.objs.find? (fun o => padPtr (padOfKey e.1).1 o.off == q && o.copyOf.isNone)).map (·.size)))).getD
    (16 + hLen (s.peekWord q.toNat))

/-- The pad at level `l` below a pad pointer, or none for the heap. -/
def lowerPad (l : Nat) (p : Word64) : Option PadUnit :=
  match padOf p with
  | some (.core c) => if l = 2 then some (.cluster (clusterOf c)) else if l = 3 then some (.die (dieOf c)) else none
  | some (.cluster k) => if l = 3 then some (.die (dieOfCluster k)) else none
  | _ => none

/-- The pads that a promotion of a set to level `l` concerns: those of the objects, and those below them (R47). -/
def promotePads (l : Nat) (set : List Word64) : List PadUnit := (set.filterMap padOf ++ set.filterMap (lowerPad l)).eraseDups

/-- A promotion of a set to level `l` waits for a collection of a pad that it concerns to end; then the tasks of every cluster whose pad
holds an object of the set pause, as for a collection of that pad (R37, R46, R47). -/
def State.quietFor (s : State) (colour p l : Nat) (set : List Word64) : State :=
  let s := (promotePads l set).foldl (fun s u => s.meet u colour) s
  (set.filterMap (fun q => match padOf q with
    | some (.cluster k) => some (PadUnit.cluster k)
    | _ => none)).eraseDups.foldl (fun s u => s.quiet u colour p) s

/-- Room for a set of promoted objects at level 4, as R49 gives: an evacuation of each die that holds one. -/
def State.evacuateFor (s : State) (p colour : Nat) (set : List Word64) : State :=
  ((set.map (fun q => bits q.toNat 58 2)).eraseDups).foldl (fun s d => (s.evacuate p d colour).1) s

/-- Promote the object at `p` and what it reaches to level `l` (R37); or the pad at `l`, which had no room and has been
collected for it. Objects traced and their bytes go to `c.eval` when the set is too large or holds a sync object. `collected` lists the pads
that were collected for this promotion, each once; the heap is evacuated once, which stands as none in the list. -/
def promote (collected : List (Option PadUnit)) (s : State) (p : Word64) (l : Nat) : Act (State × List (Option PadUnit)) := do
  let part := s.tablePart s.me
  -- what is to move pauses before it is traced, after the task's own earlier stores (R46, R205)
  let s := (s.drainAll s.cur).quietFor s.me.ctx part l (s.promoteSet l 260 [p] [])
  needOr (s.me.status != .stopped) (.gone s)
  let set := s.promoteSet l 260 [p] []
  let total := (set.map s.objectSize).foldl (· + ·) 0
  need (set.length ≤ 256 && total ≤ 0x400000 && !set.any (fun q => hKind (s.peekWord q.toNat) == 3)) s
    { code := .escapeOverflow, eval := BitVec.ofNat 32 (total / 16) ++ BitVec.ofNat 32 set.length, ptr := p }
  match set.find? (s.untraceable part) with
  | some q => .error (.fault s { code := .uncorrectable, ptr := q })
  | none =>
  let full (s : State) : Res := .fault s { code := .allocExhausted, eval := BitVec.ofNat 64 (hLen (s.peekWord p.toNat)), ptr := p }
  -- in ascending order of their old addresses, as a collection moves its survivors (R43)
  match s.moveAll part s.me.ctx (lowerPad l)
      ((sortBy (fun a b => a.toNat ≤ b.toNat) set).map (fun q => (q, s.objectSize q))) with
  | .moved s' moved => return (s'.patch part moved, collected)
  | .failed s' moved ptr => .error (.fault (s'.patch part moved) { code := .uncorrectable, ptr := ptr })
  | .stalled => .error (.retry s)
  | .noRoom pad => do
    needOr (!collected.contains pad) (full s)
    match pad with
    | none => do
      needOr (!set.any (fun q => s.evacuationStalls part (bits q.toNat 58 2))) (.retry s)
      return (s.evacuateFor part s.me.ctx set, collected ++ [none])
    | some v =>
      match s.collectNow part s.me.ctx v with
      | (s', none) => .error (.retry s')
      | (s', some false) => .error (full s')
      | (s', some true) => return (s', collected ++ [some v])

/-- The escape rule for storing the pointer of register `rp` into the object of register `rd` (R36, R42): what must be promoted is,
until the pointer may stand where it is stored; the destination may move as well, so that each try reads the registers afresh. DESIGN
CHOICE (log entry 42): a destination in a window has level 5, and the spec names no place of that level; a pad pointer stored into it moves
its objects to the heap, the lowest level there is, and then raises `escape-overflow` as R36 has it for a pointer of no pad level. -/
def escape (rd rp : BitVec 6) : Nat → List (Option PadUnit) → State → Act State
  | 0, _, s => .ok s
  | fuel + 1, collected, s =>
    let dest := oCanon (s.me.getO rd)
    let p := oCanon (s.me.getO rp)
    let l := tagOf dest
    let q := tagOf p
    if p = 0 || l < q then .ok s
    else if q < l then do
      need (q ≤ 3) s { code := .escapeOverflow, ptr := p }
      let (s, c) ← promote collected s p l
      escape rd rp fuel c s
    else
      match padOf p with
      | none => .ok s
      | some u =>
        let a := s.pad u s.me.ctx
        if padOf dest == some u || a.incoming.contains dest then .ok s
        else if a.incoming.length < 64 then .ok (s.setPad u s.me.ctx { a with incoming := a.incoming ++ [dest] })
        else do
          let (s, c) ← promote collected s p (l + 1)
          escape rd rp fuel c s

end Sys2Proof.Machine
end

