-- ==== Sys2Proof/Machine/Flags.lean ====
section
/-!
DEFINITION. Number formats, rounding, overflow, NaN, signed zero and the flags of `c.fflags` (spec/07_numbers.md R112 to
R126), and integer arithmetic at a width (R139, R140).
-/

namespace Sys2Proof.Machine

/-! ## Integers at a width -/

/-- The unsigned value as a signed one, in two's complement at width `w`. -/
def toSigned (w v : Nat) : Int := if v % 2 ^ w < 2 ^ (w - 1) then (v % 2 ^ w : Nat) else (v % 2 ^ w : Nat) - (2 ^ w : Nat)

/-- An integer cut to width `w`. -/
def wrap (w : Nat) (v : Int) : Nat := (v % (2 ^ w : Nat)).toNat

/-- An integer clamped to the signed range of width `w` (R139). -/
def clampS (w : Nat) (v : Int) : Int := max (-(2 ^ (w - 1) : Nat)) (min v ((2 ^ (w - 1) : Nat) - 1))

/-- A wrapped or, with `.s`, clamped result. -/
def satOr (sat : Bool) (w : Nat) (v : Int) : Nat := wrap w (if sat then clampS w v else v)

/-- Quotient truncated toward zero; all ones for a zero divisor (R140). -/
def divW (n : Bool) (w a b : Nat) : Nat :=
  if b = 0 then 2 ^ w - 1 else if n then a / b else wrap w ((toSigned w a).tdiv (toSigned w b))

/-- Remainder with the dividend's sign; the dividend for a zero divisor (R140). -/
def remW (n : Bool) (w a b : Nat) : Nat :=
  if b = 0 then a else if n then a % b else wrap w ((toSigned w a).tmod (toSigned w b))

/-- High half of the double-width product (R139). -/
def mulhW (n : Bool) (w a b : Nat) : Nat :=
  if n then a * b / 2 ^ w else wrap w ((toSigned w a * toSigned w b) / (2 ^ w : Nat))

/-- `a < b`, signed, or unsigned under `.n`. -/
def ltW (n : Bool) (w a b : Nat) : Bool := if n then a < b else toSigned w a < toSigned w b

/-- The cond codes of R284. -/
def condW (n : Bool) (w c a b : Nat) : Bool :=
  match c with
  | 0 => a == b
  | 1 => a != b
  | 2 => ltW n w a b
  | 3 => !ltW n w b a
  | 4 => ltW n w b a
  | _ => !ltW n w a b

/-- Arithmetic right shift at a width. -/
def sraW (w a k : Nat) : Nat := wrap w (toSigned w a / (2 ^ k : Nat))

/-- Rotate right at a width. -/
def rorW (w a k : Nat) : Nat := (a / 2 ^ k + a * 2 ^ (w - k)) % 2 ^ w

/-- Bits of `a` placed at the set positions of the mask (R133). -/
def pdepW (w a m : Nat) : Nat :=
  ((List.range w).foldl (fun (acc : Nat × Nat) i =>
    if m.testBit i then ((if a.testBit acc.2 then acc.1 + 2 ^ i else acc.1), acc.2 + 1) else acc) (0, 0)).1

/-- Bits of `a` gathered from the set positions of the mask (R133). -/
def pextW (w a m : Nat) : Nat :=
  ((List.range w).foldl (fun (acc : Nat × Nat) i =>
    if m.testBit i then ((if a.testBit i then acc.1 + 2 ^ acc.2 else acc.1), acc.2 + 1) else acc) (0, 0)).1

/-- Number of set bits. -/
def popW (w a : Nat) : Nat := ((List.range w).filter (fun i => a.testBit i)).length

/-- Leading zero bits at a width (R280). -/
def clzW (w a : Nat) : Nat := w - (if a = 0 then 0 else a.log2 + 1)

/-- Trailing zero bits at a width (R280). -/
def ctzW (w a : Nat) : Nat := ((List.range w).find? (fun i => a.testBit i)).getD w

/-- Bits reversed at a width (R280). -/
def brevW (w a : Nat) : Nat := (List.range w).foldl (fun acc i => if a.testBit i then acc + 2 ^ (w - 1 - i) else acc) 0

/-- The product of two 8 × 8 bit matrices over GF(2) (R132). -/
def gfm64 (a b : Nat) : Nat :=
  (List.range 64).foldl (fun acc ij =>
    let i := ij / 8
    let j := ij % 8
    if popW 8 (bits a (8 * j) 8 &&& bits b (8 * i) 8) % 2 = 1 then acc + 2 ^ (8 * i + j) else acc) 0

/-- Bits permuted through a g register (R134). -/
def bperm64 (a : Nat) (g : BitVec 384) : Nat :=
  (List.range 64).foldl (fun acc i => if a.testBit (bits g.toNat (6 * i) 6) then acc + 2 ^ i else acc) 0

/-! ## Formats (R112, R113, R115) -/

/-- How a format spends its all-ones exponent. -/
inductive Special where
  | ieee | e4m3 | none
deriving DecidableEq, Repr

/-- A floating format: exponent bits, mantissa bits, bias. -/
structure Fmt where
  eb : Nat
  mb : Nat
  bias : Nat
  special : Special
deriving DecidableEq, Repr

/-- FP32. -/
def fp32 : Fmt := ⟨8, 23, 127, .ieee⟩

/-- The floating format of a code. -/
def fmtOf : Nat → Fmt
  | 0 => ⟨8, 7, 127, .ieee⟩
  | 1 => ⟨5, 10, 15, .ieee⟩
  | 2 => ⟨4, 3, 7, .e4m3⟩
  | 3 => ⟨5, 2, 15, .ieee⟩
  | 4 => ⟨3, 2, 3, .none⟩
  | 5 => ⟨2, 3, 1, .none⟩
  | 6 => ⟨2, 1, 1, .none⟩
  | _ => fp32

/-- Bits that an element of a format code takes in storage (R112). -/
def storeBits : Nat → Nat
  | 0 | 1 | 13 => 16
  | 6 | 8 | 9 | 10 => 4
  | 12 | 14 => 32
  | _ => 8

/-- Bits of an integer format. -/
def intBits : Nat → Nat
  | 7 => 8
  | 8 => 4
  | 13 => 16
  | _ => 32

/-- The format of Z in group 3: f32, f16, bf16 (R71). -/
def fmtZ (z : BitVec 2) : Nat := if z = 0 then 12 else if z = 1 then 1 else 0

/-! ## Exact values -/

/-- An exact value: NaN, an infinity, or ±m·2^e. -/
inductive Val where
  | nan
  | inf (neg : Bool)
  | fin (neg : Bool) (m : Nat) (e : Int)
deriving DecidableEq, Repr

/-- The value of a pattern (R114). -/
def Fmt.value (f : Fmt) (b : Nat) : Val :=
  let neg := b.testBit (f.eb + f.mb)
  let ef := bits b f.mb f.eb
  let m := bits b 0 f.mb
  let top := 2 ^ f.eb - 1
  if f.special = .ieee && ef = top then (if m = 0 then .inf neg else .nan)
  else if f.special = .e4m3 && ef = top && m = 2 ^ f.mb - 1 then .nan
  else if ef = 0 then .fin neg m (1 - f.bias - f.mb)
  else .fin neg (m + 2 ^ f.mb) (ef - f.bias - f.mb)

/-- The value of an integer. -/
def Val.ofInt (v : Int) : Val := .fin (v < 0) v.natAbs 0

/-- The value of an element of any format code: floating, integer, or an unsigned difference (R112, R115). -/
def valueOf (code b : Nat) : Val :=
  match code with
  | 7 | 8 | 13 | 14 => Val.ofInt (toSigned (intBits code) b)
  | 10 => .fin false (b % 16) 0
  | 11 => .fin false (b % 256) 0
  | 15 => if b % 256 = 255 then .nan else .fin false 1 ((b % 256 : Nat) - 127)
  | c => (fmtOf c).value b

/-- A UE4M3 scale: bit 7 set reads as NaN (R115). -/
def ue4m3 (b : Nat) : Val := if b.testBit 7 then .nan else (fmtOf 2).value (b % 128)

/-- The negated value. -/
def Val.neg : Val → Val
  | .nan => .nan
  | .inf n => .inf !n
  | .fin n m e => .fin (!n) m e

/-- The exact product (R116). -/
def Val.mul : Val → Val → Val
  | .nan, _ => .nan
  | _, .nan => .nan
  | .inf a, .inf b => .inf (a != b)
  | .inf a, .fin b m _ => if m = 0 then .nan else .inf (a != b)
  | .fin a m _, .inf b => if m = 0 then .nan else .inf (a != b)
  | .fin a m e, .fin b n f => .fin (a != b) (m * n) (e + f)

/-- The exact sum of finite parts: a zero sum is −0 only if every term is (R117). -/
def addFin (a : Bool) (m : Nat) (e : Int) (b : Bool) (n : Nat) (f : Int) : Val :=
  if m = 0 && n = 0 then .fin (a && b) 0 0
  else if m = 0 then .fin b n f
  else if n = 0 then .fin a m e
  else
    let g := min e f
    let x : Int := (m * 2 ^ (e - g).toNat : Nat)
    let y : Int := (n * 2 ^ (f - g).toNat : Nat)
    let s : Int := (if a then -x else x) + (if b then -y else y)
    .fin (s < 0) s.natAbs g

/-- The exact sum (R116, R117). -/
def Val.add : Val → Val → Val
  | .nan, _ => .nan
  | _, .nan => .nan
  | .inf a, .inf b => if a = b then .inf a else .nan
  | .inf a, .fin _ _ _ => .inf a
  | .fin _ _ _, .inf b => .inf b
  | .fin a m e, .fin b n f => addFin a m e b n f

/-- The exact sum of a list: NaN and infinities as R116 gives, a zero −0 only if every term is −0 (R117). -/
def Val.sum : List Val → Val
  | [] => .fin false 0 0
  | v :: vs => vs.foldl Val.add v

/-- Is a NaN. -/
def Val.isNan : Val → Bool
  | .nan => true
  | _ => false

/-- Order of two values, −0 equal to +0; none when either is NaN (R117). -/
def Val.lt : Val → Val → Bool
  | .nan, _ => false
  | _, .nan => false
  | .inf a, .inf b => a && !b
  | .inf a, .fin _ _ _ => a
  | .fin _ _ _, .inf b => !b
  | x, y => match x.add y.neg with
    | .fin n m _ => n && m != 0
    | _ => false

/-! ## Rounding (R118, R119) -/

/-- Rounding modes: to nearest even, toward zero, and away from zero (only for R364's choice). -/
inductive Mode where
  | ne | z | up
deriving DecidableEq, Repr

/-- `m·2^e` as a multiple of `2^q`, and whether it is inexact. -/
def roundTo (mode : Mode) (m : Nat) (e q : Int) : Nat × Bool :=
  if q ≤ e then (m * 2 ^ (e - q).toNat, false)
  else
    let d := 2 ^ (q - e).toNat
    let n := m / d
    let r := m % d
    (match mode with
      | .ne => if d < 2 * r || (2 * r = d && n % 2 = 1) then n + 1 else n
      | .z => n
      | .up => if r = 0 then n else n + 1, r != 0)

/-- The flags of R123. -/
def fInvalid : BitVec 6 := 1
def fDivZero : BitVec 6 := 2
def fOverflow : BitVec 6 := 4
def fUnderflow : BitVec 6 := 8
def fInexact : BitVec 6 := 16
def fSaturated : BitVec 6 := 32

/-- Pattern of the largest finite magnitude. -/
def Fmt.maxFin (f : Fmt) : Nat :=
  match f.special with
  | .ieee => (2 ^ f.eb - 1) * 2 ^ f.mb - 1
  | .e4m3 => 2 ^ (f.eb + f.mb) - 2
  | .none => 2 ^ (f.eb + f.mb) - 1

/-- The canonical NaN (R116); a format without NaN takes +maximum (R118). -/
def Fmt.qnan (f : Fmt) : Nat :=
  match f.special with
  | .ieee => (2 ^ f.eb - 1) * 2 ^ f.mb + 2 ^ (f.mb - 1)
  | .e4m3 => 2 ^ (f.eb + f.mb) - 1
  | .none => f.maxFin

/-- The pattern that an overflow of a sign takes, with the saturated flag (R118). -/
def Fmt.over (f : Fmt) (neg sat : Bool) : Nat × BitVec 6 :=
  let sgn := if neg then 2 ^ (f.eb + f.mb) else 0
  if sat || f.special = .none then (sgn + f.maxFin, fSaturated)
  else if f.special = .ieee then (sgn + (2 ^ f.eb - 1) * 2 ^ f.mb, 0)
  else (f.qnan, 0)

/-- A value rounded to a floating format: the pattern and the flags that a conversion sets (R118, R123). -/
def Fmt.round (f : Fmt) (mode : Mode) (sat : Bool) (v : Val) : Nat × BitVec 6 :=
  match v with
  | .nan => (f.qnan, if f.special = .none then fSaturated else 0)
  | .inf neg =>
    let r := f.over neg sat
    (r.1, if f.special = .e4m3 && !sat then fInvalid else r.2)
  | .fin neg m e =>
    let sgn := if neg then 2 ^ (f.eb + f.mb) else 0
    if m = 0 then (sgn, 0)
    else
      let top : Int := e + m.log2
      let emin : Int := 1 - f.bias
      let q := max top emin - f.mb
      let (n, inexact) := roundTo mode m e q
      let pat := ((q + f.mb + f.bias - 1).toNat) * 2 ^ f.mb + n
      if f.maxFin < pat then
        let r := f.over neg sat
        (r.1, r.2 ||| fOverflow ||| fInexact)
      else
        let u := (roundTo mode m e (top - f.mb)).1
        let tiny := top < emin && !(top = emin - 1 && u = 2 ^ (f.mb + 1))
        (sgn + pat, if inexact then (if tiny then fInexact ||| fUnderflow else fInexact) else 0)

/-- A value rounded to an integer format (R118, R120): the pattern and its flags. DEDUCED (log entry 50): a clamped infinity sets
only saturated, as R118 says, though R123 lists an infinite source of a float-to-integer conversion under invalid. -/
def roundInt (w : Nat) (mode : Mode) (sat : Bool) (v : Val) : Nat × BitVec 6 :=
  let low : Int := -(2 ^ (w - 1) : Nat)
  let high : Int := (2 ^ (w - 1) : Nat) - 1
  match v with
  | .nan => if sat then (0, fInvalid ||| fSaturated) else (wrap w low, fInvalid)
  | .inf neg => if sat then (wrap w (if neg then low else high), fSaturated) else (wrap w low, fInvalid)
  | .fin neg m e =>
    let (n, inexact) := roundTo mode m e 0
    let x : Int := if neg then -(n : Int) else n
    if x < low || high < x then
      (wrap w (if sat then (if neg then low else high) else low),
        fInvalid ||| fOverflow ||| fInexact ||| (if sat then fSaturated else 0))
    else (wrap w x, if inexact then fInexact else 0)

/-- A value rounded to any format code (R112: the spare bits of a byte are written as zero). -/
def roundCode (code : Nat) (mode : Mode) (sat : Bool) (v : Val) : Nat × BitVec 6 :=
  match code with
  | 7 | 8 | 13 | 14 => roundInt (intBits code) mode sat v
  | c => (fmtOf c).round mode sat v

/-- `RoundNE(v, fmt)` of an arithmetic result: invalid when a NaN came of operands that are not NaN (R123). -/
def roundArith (f : Fmt) (nanIn : Bool) (v : Val) : Nat × BitVec 6 :=
  let r := f.round .ne false v
  (r.1, if v.isNan && !nanIn then fInvalid else r.2)

/-- A sum rounded to nearest even in a format. -/
def fadd (f : Fmt) (a b : Nat) : Nat × BitVec 6 :=
  let x := f.value a
  let y := f.value b
  roundArith f (x.isNan || y.isNan) (x.add y)

/-- A difference. -/
def fsub (f : Fmt) (a b : Nat) : Nat × BitVec 6 :=
  let x := f.value a
  let y := f.value b
  roundArith f (x.isNan || y.isNan) (x.add y.neg)

/-- A product. -/
def fmul (f : Fmt) (a b : Nat) : Nat × BitVec 6 :=
  let x := f.value a
  let y := f.value b
  roundArith f (x.isNan || y.isNan) (x.mul y)

/-- A pattern with a NaN made canonical (R116). -/
def Fmt.canon (f : Fmt) (a : Nat) : Nat := if (f.value a).isNan then f.qnan else a

/-- A product and a sum, rounded once. DESIGN CHOICE (log entry 50): a product of 0 and an infinity whose addend is a NaN sets no invalid
flag, since R123 names invalid operations on operands that are no NaN. -/
def ffma (f : Fmt) (a b c : Nat) : Nat × BitVec 6 :=
  let x := f.value a
  let y := f.value b
  let z := f.value c
  roundArith f (x.isNan || y.isNan || z.isNan) ((x.mul y).add z)

/-- `RoundNE(v + x, FP32)` of a pattern and a value, without flags (the engines set none). -/
def add32 (a : Nat) (v : Val) : Nat := (fp32.round .ne false ((fp32.value a).add v)).1

/-- `RoundNE(a · b, FP32)` of values. -/
def mul32 (a b : Val) : Nat := (fp32.round .ne false (a.mul b)).1

/-- The smaller or larger of two patterns, unrounded: −0 below +0, canonical NaN for a NaN (R117). -/
def fminmax (f : Fmt) (isMax : Bool) (a b : Nat) : Nat :=
  let x := f.value a
  let y := f.value b
  if x.isNan || y.isNan then f.qnan
  else
    let less := x.lt y || (!y.lt x && a.testBit (f.eb + f.mb) && !b.testBit (f.eb + f.mb))
    if isMax then (if less then b else a) else (if less then a else b)

/-- The cond codes of VFCMP and whether an ordered one met a NaN (R366). -/
def fcond (f : Fmt) (c a b : Nat) : Bool × BitVec 6 :=
  let x := f.value a
  let y := f.value b
  if x.isNan || y.isNan then (c = 1 || c = 6, if 2 ≤ c && c ≤ 5 then fInvalid else 0)
  else (match c with
    | 0 => !x.lt y && !y.lt x
    | 1 => x.lt y || y.lt x
    | 2 => x.lt y
    | 3 => !y.lt x
    | 4 => y.lt x
    | 5 => !x.lt y
    | _ => false, 0)

/-! ## Special functions (R122, R364) -/

/-- Integer square root by digits, `k` bits of result. -/
def isqrt (n : Nat) (k : Nat) : Nat :=
  (List.range k).foldl (fun r i =>
    let c := r + 2 ^ (k - 1 - i)
    if c * c ≤ n then c else r) 0

/-- A positive value strictly above `m·2^e` and below `(m + 1)·2^e`, or equal to it when exact. -/
def sticky (exact : Bool) (m : Nat) (e : Int) : Val := .fin false (2 * m + (if exact then 0 else 1)) (e - 1)

/-- 1/(m·2^e). -/
def rcpVal (m : Nat) (e : Int) : Val :=
  let k := m.log2 + 130
  sticky (2 ^ k % m = 0) (2 ^ k / m) (-e - k)

/-- 1/√(m·2^e). -/
def rsqVal (m : Nat) (e : Int) : Val :=
  let m' := if e % 2 = 0 then m else 2 * m
  let e' := if e % 2 = 0 then e else e - 1
  let n := 2 ^ 320 / m'
  let y := isqrt n 161
  sticky (2 ^ 320 % m' = 0 && y * y = n) y (-(e' / 2) - 160)

/-- 2^(k/2^j) for 0 ≤ k < 2^j, in units of 2^-96: the product of the square roots of 2 that the bits of k name. -/
def exp2Frac (k j : Nat) : Nat :=
  ((List.range j).foldl (fun (acc : Nat × Nat) i =>
    let root := isqrt (acc.2 * 2 ^ 96) 98
    ((if k.testBit (j - 1 - i) then acc.1 * root / 2 ^ 96 else acc.1), root)) (2 ^ 96, 2 ^ 97)).1

/-- 2^(±m·2^e), m ≠ 0. -/
def exp2Val (neg : Bool) (m : Nat) (e : Int) : Val :=
  let top : Int := e + m.log2
  if top < -30 then (if neg then sticky false (2 ^ 96 - 1) (-96) else sticky false (2 ^ 96) (-96))
  else if 12 < top then .fin false 1 (if neg then -5000 else 5000)
  else if 0 ≤ e then .fin false 1 (if neg then -((m * 2 ^ e.toNat : Nat) : Int) else (m * 2 ^ e.toNat : Nat))
  else
    let j := (-e).toNat
    let x : Int := if neg then -(m : Int) else m
    let n := x / (2 ^ j : Nat)
    let k := (x % (2 ^ j : Nat)).toNat
    if k = 0 then .fin false 1 n else sticky false (exp2Frac k j) (n - 96)

/-- Binary digits of log2 of y/2^160, 1 ≤ y/2^160 < 2, `b` of them. -/
def log2Frac : Nat → Nat → Nat → Nat
  | 0, _, acc => acc
  | b + 1, y, acc =>
    let y2 := y * y / 2 ^ 160
    if 2 ^ 161 ≤ y2 then log2Frac b (y2 / 2) (2 * acc + 1) else log2Frac b y2 (2 * acc)

/-- log2(m·2^e), m ≠ 0. -/
def log2Val (m : Nat) (e : Int) : Val :=
  let t := m.log2
  let n : Int := e + t
  if m = 2 ^ t then .fin (n < 0) n.natAbs 0
  else
    let l : Int := n * (2 ^ 90 : Nat) + log2Frac 90 (m * 2 ^ (160 - t)) 0
    if 0 ≤ l then .fin false (2 * l.toNat + 1) (-91)
    else .fin true (2 * (-l - 1).toNat + 1) (-91)

/-- The four special functions. -/
inductive Sfu where
  | rcp | rsq | exp2 | log2
deriving DecidableEq, Repr

/-- Number of a special function, for the choice of R364. -/
def Sfu.num : Sfu → Nat
  | .rcp => 0
  | .rsq => 1
  | .exp2 => 2
  | .log2 => 3

/-- A special function of a pattern, and its flags (R122, R123, R364). For FP32 which neighbour of the exact value is taken
is a fixed function of the pattern that the spec leaves open (log entry 8). -/
def sfu (op : Sfu) (code b : Nat) : Nat × BitVec 6 :=
  let f := fmtOf code
  let mode : Mode := if code = 12 then (if Config.sfuUpper op.num (BitVec.ofNat 32 b) then .up else .z) else .ne
  let minN := 2 ^ f.mb
  let sub := b % 2 ^ (f.eb + f.mb) < minN && b % 2 ^ (f.eb + f.mb) != 0
  let v := if sub then Val.fin (b.testBit (f.eb + f.mb)) 0 0 else f.value b
  let pre : BitVec 6 := if sub then fUnderflow else 0
  let finish (v : Val) (fl : BitVec 6) : Nat × BitVec 6 :=
    let r := f.round mode false v
    let mag := r.1 % 2 ^ (f.eb + f.mb)
    if mag < minN && mag != 0 then (r.1 - mag, pre ||| fl ||| r.2 ||| fUnderflow ||| fInexact) else (r.1, pre ||| fl ||| r.2)
  match v with
  | .nan => (f.qnan, 0)
  | .inf neg =>
    match op with
    | .rcp => finish (.fin neg 0 0) 0
    | .rsq => if neg then (f.qnan, fInvalid) else finish (.fin false 0 0) 0
    | .exp2 => if neg then finish (.fin false 0 0) 0 else finish (.inf false) 0
    | .log2 => if neg then (f.qnan, fInvalid) else finish (.inf false) 0
  | .fin neg m e =>
    if m = 0 then
      match op with
      | .rcp | .rsq => finish (.inf neg) fDivZero
      | .exp2 => finish (.fin false 1 0) 0
      | .log2 => finish (.inf true) fDivZero
    else
      match op with
      | .rcp => finish (if neg then (rcpVal m e).neg else rcpVal m e) 0
      | .rsq => if neg then (f.qnan, fInvalid) else finish (rsqVal m e) 0
      | .exp2 => finish (exp2Val neg m e) 0
      | .log2 => if neg then (f.qnan, fInvalid) else finish (log2Val m e) 0

/-! ## Summation by parts (R115, R125, R126) -/

/-- Entry of a codebook: a BF16 pattern. -/
def Codebook.entry (cb : Codebook) (code : Nat) : Nat := bits cb.entries.toNat (16 * code) 16

/-- The code at a rank. -/
def Codebook.rank (cb : Codebook) (k : Nat) : Nat := bits cb.ranks.toNat (4 * k) 4

/-- Epact value at a rank: an FP32 pattern. -/
def Codebook.delta (cb : Codebook) (k : Nat) : Nat := bits cb.epact.toNat (32 * k) 32

/-- The codes in rank order: ascending values, ties and NaN by ascending code, NaN last (R115). -/
def rankOrder (entries : BitVec 256) : List Nat :=
  let v (c : Nat) : Val := (fmtOf 0).value (bits entries.toNat (16 * c) 16)
  sortBy (fun a b =>
    if (v a).isNan then (v b).isNan && a ≤ b
    else (v b).isNan || (v a).lt (v b) || (!(v b).lt (v a) && a ≤ b)) (List.range 16)

/-- A codebook from its 16 entries: rank order and epact table (R125 step 1). -/
def Codebook.make (entries : BitVec 256) : Codebook :=
  let r := rankOrder entries
  let v (k : Nat) : Val := (fmtOf 0).value (bits entries.toNat (16 * r.getD k 0) 16)
  let d (k : Nat) : Nat := if k = 0 then (fp32.round .ne false (v 0)).1 else (fp32.round .ne false ((v k).add (v (k - 1)).neg)).1
  { entries := entries
    ranks := BitVec.ofNat 64 ((List.range 16).foldl (fun acc k => acc + r.getD k 0 * 16 ^ k) 0)
    epact := BitVec.ofNat 512 ((List.range 16).foldl (fun acc k => acc + d k * 2 ^ (32 * k)) 0) }

/-- Sum by parts of one group: 64 activations with their codes, in the order of R125 steps 2 to 5, as an FP32 pattern with
the flags of its roundings. -/
def sbpGroup (cb : Codebook) (acts : List Val) (codes : List Nat) : Nat × BitVec 6 :=
  let step (acc : Nat × BitVec 6) (x : Val) : Nat × BitVec 6 :=
    let y := fp32.value acc.1
    let r := roundArith fp32 (x.isNan || y.isNan) (y.add x)
    (r.1, acc.2 ||| r.2)
  let bucket (k : Nat) : Nat × BitVec 6 :=
    match (acts.zip codes).filterMap (fun p => if p.2 == cb.rank k then some p.1 else none) with
    | [] => (0, 0)
    | x :: xs => xs.foldl step ((fp32.round .ne false x).1, 0)
  let us := (List.range 15).foldl (fun (acc : List Nat × BitVec 6) i =>
    let b := bucket (14 - i)
    let r := step (acc.1.headD 0, acc.2 ||| b.2) (fp32.value b.1)
    (r.1 :: acc.1, r.2)) ([(bucket 15).1], (bucket 15).2)
  let prod (k : Nat) (u : Nat) : Nat × BitVec 6 := fmul fp32 (cb.delta k) u
  let p0 := prod 0 (us.1.headD 0)
  (us.1.drop 1).zipIdx.foldl (fun acc uk =>
    let p := prod (uk.2 + 1) uk.1
    step (acc.1, acc.2 ||| p.2) (fp32.value p.1)) (p0.1, us.2 ||| p0.2)

/-- Sorted-group sum of D4 or D8 (R126): activations in table order, differences, base and step. -/
def sortedGroup (acts : List Val) (diffs : List Nat) (base step : Val) : Nat :=
  let us := (acts.reverse.drop 1).foldl (fun (acc : List Nat) a => add32 (acc.headD 0) a :: acc)
    [match acts.reverse with
      | [] => 0
      | a :: _ => (fp32.round .ne false a).1]
  let terms := ((us.zip diffs).drop 1).map (fun p => (Val.fin false p.2 0).mul (fp32.value p.1))
  let t := (fp32.round .ne false (Val.sum terms)).1
  add32 (mul32 base (fp32.value (us.headD 0))) (fp32.value (mul32 step (fp32.value t)))

end Sys2Proof.Machine
end

