-- ==== Sys2Proof/Machine/Operands.lean ====
section
/-!
DEFINITION. Operand forms: scalar operand B, offsets of memory and branch instructions, vector lanes, source modifiers and
active elements (spec/04_encoding.md R54 to R58, spec/08_vector.md R127 to R130).
-/

namespace Sys2Proof.Machine

/-! ## Scalars (R267) -/

/-- The width in bits that Z selects. -/
def widthZ (z : BitVec 2) : Nat := 64 / 2 ^ z.toNat

/-- The immediate of an ALU instruction: the sign-extended {B,C} in F2, the literal in F3. -/
def immB (f : Fields) : Int :=
  match f.form with
  | .f3 => f.lit.toInt
  | _ => (f.b ++ f.c).toInt

/-- The low `w` bits of xA. -/
def operandA (t : Task) (f : Fields) (w : Nat) : Nat := (t.getX f.a).toNat % 2 ^ w

/-- The low `w` bits of operand B: xB, or the immediate when X bit 9 is 1. -/
def operandB (t : Task) (f : Fields) (w : Nat) : Nat :=
  if f.x.getLsbD 9 then wrap w (immB f) else (t.getX f.b).toNat % 2 ^ w

/-- A `w`-bit value sign-extended to 64 bits. -/
def signW (w v : Nat) : Word64 := BitVec.ofInt 64 (toSigned w v)

/-! ## Offsets -/

/-- Offset of a scalar memory instruction with accesses of `n` bytes (R309), exact and signed: the base register counts as signed, since
`Check` gives a negative offset its own case (R4; DEDUCED, log entry 33). -/
def memOffset (t : Task) (f : Fields) (n : Nat) : Int :=
  (t.getX f.b).toInt +
    match f.form with
    | .f1 => 0
    | .f2 => n * (f.x.extractLsb' 0 8).toInt
    | .f3 => f.lit.toInt

/-- Offset that is 0 but in F3 (R272, R300, R307). -/
def litOffset (f : Fields) : Int :=
  match f.form with
  | .f3 => f.lit.toInt
  | _ => 0

/-- Branch offset in {D,A,B} or the literal (R277). -/
def offDAB (f : Fields) : Int :=
  match f.form with
  | .f3 => f.lit.toInt
  | _ => (f.d ++ f.a ++ f.b).toInt

/-- Branch offset in {D,B} or the literal (R277, R311). -/
def offDB (f : Fields) : Int :=
  match f.form with
  | .f3 => f.lit.toInt
  | _ => (f.d ++ f.b).toInt

/-- The parcel address an offset leads to, as a 64-bit value. -/
def relTarget (t : Task) (off : Int) : Word64 := BitVec.ofInt 64 (t.pc.toNat + off)

/-- The parcel address after the instruction. -/
def nextPc (t : Task) (f : Fields) : Word32 := t.pc + BitVec.ofNat 32 f.form.parcels

/-- The entry that FORK and TGNODE name: relative in F3, absolute in xB otherwise (R298, R351). -/
def entryOf (t : Task) (f : Fields) : Word32 :=
  match f.form with
  | .f3 => (relTarget t f.lit.toInt).setWidth 32
  | _ => (t.getX f.b).setWidth 32

/-! ## Vectors (R127 to R130) -/

/-- Elements of `eb` bits in a register of the task's width. -/
def Task.lanes (t : Task) (eb : Nat) : Nat := t.bits / eb

/-- Element `i` of `eb` bits of a register. -/
def getLane (v : BitVec n) (eb i : Nat) : Nat := bits v.toNat (eb * i) eb

/-- A register made of elements of `eb` bits, element 0 lowest. -/
def makeLanes (n eb : Nat) (es : List Nat) : BitVec n :=
  BitVec.ofNat n (es.foldr (fun e acc => e % 2 ^ eb + acc * 2 ^ eb) 0)

/-- `Active(guard, i)` for elements of `eb` bits: the predicate bit of the element's lowest byte (R127). -/
def Task.active (t : Task) (f : Fields) (eb i : Nat) : Bool := (t.guard f).getLsbD (i * (eb / 8))

/-- The numbers of the active elements of `eb` bits. -/
def Task.actives (t : Task) (f : Fields) (eb : Nat) : List Nat := (List.range (t.lanes eb)).filter (fun i => t.active f eb i)

/-- Bytes of the active elements of `eb` bits. -/
def Task.activeBytes (t : Task) (f : Fields) (eb : Nat) : BitVec 256 :=
  BitVec.ofNat 256 (spread (t.lanes eb) (eb / 8) ((t.actives f eb).foldl (fun acc i => acc + 2 ^ i) 0))

/-- The element that a source modifier takes for element `i` (R58, R128). -/
def modIndex (f : Fields) (i : Nat) : Nat :=
  let n := 2 ^ f.smSeg.toNat
  let d := f.smDist.toNat
  let base := i / n * n
  match f.smClass.toNat with
  | 1 => base + (i % n + d) % n
  | 2 => base + ((i % n) ^^^ d)
  | 3 => base + d
  | _ => i

/-- The scalar that replaces vB when X bit 9 is 1: the literal in F3, else xB (R56). -/
def scalarB (t : Task) (f : Fields) (eb : Nat) : Nat :=
  match f.form with
  | .f3 => wrap eb f.lit.toInt
  | _ => (t.getX f.b).toNat % 2 ^ eb

/-- Element `i` of operand B: a scalar, or vB through its source modifier. -/
def Task.laneB (t : Task) (f : Fields) (eb i : Nat) : Nat :=
  if f.x.getLsbD 9 then scalarB t f eb else getLane (t.getV f.b) eb (modIndex f i)

/-- Write vD at once where elements are active (class I). -/
def State.putV (s : State) (n : BitVec 6) (v : BitVec 2048) (m : BitVec 256) : State :=
  s.setV n (blend (s.me.getV n) v (BitVec.ofNat 2048 (spread 256 8 m.toNat)))

/-- Write the predicate bits `m` of pD. -/
def State.putP (s : State) (n : BitVec 6) (v m : BitVec 256) : State := s.setP n (blend (s.me.getP n) v m)

/-- Write elements of `eb` bits to vD where the guard is active, at once, with flags. -/
def putLanes (s : State) (f : Fields) (eb : Nat) (g : Nat → Nat × BitVec 6) : State :=
  let t := s.me
  let es := (List.range (t.lanes eb)).map (fun i => if t.active f eb i then g i else (0, 0))
  (s.putV f.d (makeLanes 2048 eb (es.map (·.1))) (t.activeBytes f eb)).raiseFlags (es.foldl (fun acc e => acc ||| e.2) 0)

/-- As `putLanes`, for a deferred result. -/
def deferLanes (s : State) (f : Fields) (eb : Nat) (g : Nat → Nat × BitVec 6) : State :=
  let t := s.me
  let es := (List.range (t.lanes eb)).map (fun i => if t.active f eb i then g i else (0, 0))
  s.deferV f.d (makeLanes 2048 eb (es.map (·.1))) (t.activeBytes f eb) (eb / 8) (es.map (·.2))

end Sys2Proof.Machine
end

