-- ==== Sys2Proof/Machine/Memory.lean ====
section
/-!
DEFINITION. Meanings of the object and scalar memory instructions (R69; R265, R266, R270, R271, R297, R309, R310, R326 to R331,
R335, R337, R339, R342, R347, R348; R179 to R181 for HDL).
-/

namespace Sys2Proof.Machine

/-! ## Loads and stores -/

/-- Access size in bytes of LD, LDC, ST and STC. -/
def accessSize (f : Fields) : Nat := 8 / 2 ^ f.z.toNat

/-- A loaded value, sign-extended, or zero-extended when X bit 8 is 1. -/
def loadValue (f : Fields) (bs : List Byte) : Word64 :=
  if f.x.getLsbD 8 then leWord bs else signW (8 * accessSize f) (leNat bs)

/-- The deferred result of LD and LDC. -/
def loadPend (f : Fields) (bs : List Byte) : Pend :=
  { dest := .x f.d, val := (loadValue f bs).setWidth 4096, how := .word (f.x.getLsbD 8) }

/-- LD, through the copy, and LDC, canonical (R309). -/
def loadBody (canonical : Bool) (f : Fields) (s : State) : Res := Act.run do
  let n := accessSize f
  let r := s.me.getO f.a
  let off := memOffset s.me f n
  check s r off n n
  let ob ← if canonical then canonOf s r else objOf s r
  needKind (loadable s.me.priv ob.hdr) s r ob.hdr off
  if canonical then do
    let bs ← readCanon s r off.toNat n
    return .ok (s.deferLoad (oSetTouched r false) n [(0, off.toNat)] (loadPend f bs))
  else do
    let s ← touch s f.a ob.hdr
    let bs ← readThrough s (s.me.getO f.a) off.toNat n
    return .ok (s.deferLoad (s.me.getO f.a) n [(0, off.toNat)] (loadPend f bs))

/-- LD (R309). -/
def execLd (f : Fields) (s : State) : Host.Outcome State Fault Refusal := run .ld f (loadBody false f) s

/-- LDC (R309). -/
def execLdc (f : Fields) (s : State) : Host.Outcome State Fault Refusal := run .ldc f (loadBody true f) s

/-- ST, through the copy, and STC, canonical (R347). -/
def storeBody (canonical : Bool) (f : Fields) (s : State) : Res := Act.run do
  let n := accessSize f
  let r := s.me.getO f.a
  let off := memOffset s.me f n
  check s r off n n
  let ob ← storeObj s r canonical
  needKind (storable s (oCanon r) s.me.priv ob.hdr off.toNat) s r ob.hdr off
  needOpen s r ob.hdr off
  let bs := leBytes n (s.me.getX f.d).toNat
  if canonical then do
    let s ← writeCanon s r off.toNat bs
    return .ok s
  else do
    let s ← touch s f.a ob.hdr
    let s ← writeThrough s (s.me.getO f.a) off.toNat bs
    return .ok s

/-- ST (R347). -/
def execSt (f : Fields) (s : State) : Host.Outcome State Fault Refusal := run .st f (storeBody false f) s

/-- STC (R347). -/
def execStc (f : Fields) (s : State) : Host.Outcome State Fault Refusal := run .stc f (storeBody true f) s

/-- The address of the canonical header of the object at a pointer, and the length that LDO gives the pointer: word 0's, or 0 when it is no
header; none for a null, malformed or tag-6 pointer, whose length is 0 (R22, R310). -/
def pointerHead (s : State) (p : Word64) : Act (Option (Nat × Nat)) := do
  if badPtr p then return none
  let a ← access s p 0 16
  need (!s.poisoned a 16) s { code := .uncorrectable, ptr := p }
  let h := leWord (s.loadBytes s.cur a 8)
  return some (a, if validHeader h then hLen h else 0)

/-- Length that LDO gives a pointer (R22, R310). -/
def headLen (h : Option (Nat × Nat)) : Nat := (h.map (·.2)).getD 0

/-- The element of a load that reads a pointer's header (R310). -/
def headElem (h : Option (Nat × Nat)) : List Elem := (h.map (fun x => { idx := 1, hdr := x.1, addr := x.1, size := 16 })).toList

/-- LDO (R310). -/
def ldoBody (f : Fields) (s : State) : Res := Act.run do
  let r := s.me.getO f.a
  let off := memOffset s.me f 8
  check s r off 8 8
  let ob ← objOf s r
  needKind ((hKind ob.hdr == 1 || hKind ob.hdr == 2) && !(hStaged ob.hdr && hState ob.hdr ≤ 1)) s r ob.hdr off
  need (hKind ob.hdr != 2 || off % 16 == 0) s
    { code := .alignment, eval := BitVec.ofInt 64 off, ptr := oCanon r, offset := BitVec.ofInt 64 off }
  let s ← touch s f.a ob.hdr
  let bs ← readThrough s (s.me.getO f.a) off.toNat 8
  let p := leWord bs
  let h ← pointerHead s p
  return .ok (s.deferElems (oCanon (s.me.getO f.a)) (s.elems (s.me.getO f.a) 8 [(0, off.toNat)] ++ headElem h)
    { dest := .o f.d, val := (oMake false false 0 (headLen h) p).setWidth 4096, how := .pointer })

/-- LDO (R310). -/
def execLdo (f : Fields) (s : State) : Host.Outcome State Fault Refusal := run .ldo f (ldoBody f) s

/-- STO (R348). -/
def stoBody (f : Fields) (s : State) : Res := Act.run do
  let r := s.me.getO f.a
  let off := memOffset s.me f 8
  check s r off 8 8
  let ob ← storeObj s r false
  needKind ((hKind ob.hdr == 1 || hKind ob.hdr == 2) && !(hStaged ob.hdr && (hState ob.hdr == 1 || hState ob.hdr == 3))) s r ob.hdr off
  need (hKind ob.hdr != 2 || off % 16 == 0) s
    { code := .alignment, eval := BitVec.ofInt 64 off, ptr := oCanon r, offset := BitVec.ofInt 64 off }
  needOpen s r ob.hdr off
  let p := oCanon (s.me.getO f.d)
  need (!malformed p && tagOf p != 6) s { code := .nullPointer, eval := p, ptr := p }
  let s ← escape f.a f.d 400 [] s
  let s ← touch s f.a ob.hdr
  -- a promotion or a collection has patched oD with every other register
  let s ← writeThrough s (s.me.getO f.a) off.toNat (leBytes 8 (oCanon (s.me.getO f.d)).toNat) true
  return .ok s

/-- STO (R348). -/
def execSto (f : Fields) (s : State) : Host.Outcome State Fault Refusal := run .sto f (stoBody f) s


/-! ## ALLOC (R29, R30, R271) -/

/-- The die that a home hint names, when it applies; else the executing core's (R29). -/
def hintDie (s : State) (f : Fields) : Nat :=
  let d := f.c.toNat % 4
  if 4 ≤ f.c.toNat && (isM s.myCore || (s.clustersOf s.me.part).any (fun k => dieOfCluster k == d)) then d else dieOf s.myCore

/-- Take `size` bytes in the first of some pads with room, without collecting. -/
def firstPad (s : State) (size : Nat) : List PadUnit → Option (State × Word64)
  | [] => none
  | u :: us =>
    match (s.meet u s.me.ctx).padRoom u s.me.ctx size with
    | some off => some ((s.meet u s.me.ctx).padTake u s.me.ctx off size none (s.tablePart s.me), padPtr u off)
    | none => firstPad s size us

/-- Place `size` bytes at a level for an object of a kind: the space and its pointer, or `alloc-exhausted` (R29, R30, R49). -/
def placeObject (s : State) (f : Fields) (level kind size : Nat) : Act (State × Word64) :=
  let c := s.myCore
  let full (s : State) : Act (State × Word64) := .error (.fault s { code := .allocExhausted, eval := s.me.getX f.a })
  let inPad (u : PadUnit) : Act (State × Word64) := do
    let (s, room) ← padGet s u s.me.ctx size
    match room with
    | some off => return (s.padTake u s.me.ctx off size none (s.tablePart s.me), padPtr u off)
    | none => full s
  let heap (s : State) : Act (State × Word64) := do
    let p := s.tablePart s.me
    needOr ((s.heapTake p (hintDie s f) s.me.ctx size).isSome || !s.evacuationStalls p (hintDie s f)) (.retry s)
    match s.heapAlloc p (hintDie s f) s.me.ctx size with
    | (s, some q) => return (s, q)
    | (s, none) => full s
  match level with
  | 0 =>
    let near : List PadUnit := if isM c then [] else if kind = 3 then [.cluster (clusterOf c)] else [.core c, .cluster (clusterOf c)]
    match firstPad s size (near ++ [.die (hintDie s f)]) with
    | some r => .ok r
    | none => if kind = 3 then full s else heap s
  | 1 => inPad (.core c)
  | 2 => inPad (.cluster (clusterOf c))
  | 3 => inPad (.die (hintDie s f))
  | _ => heap s

/-- The header and the zero payload of a new object of `n` bytes at a header address: one store of the task, in its program order, which
becomes visible as any other does (R24, R29, R271). -/
def State.initObject (s : State) (a n : Nat) (ptr h : Word64) : State :=
  (s.forget a (16 + n)).stampSeq.storeOf
    { addr := a, hdr := a, bytes := leBytes 8 h.toNat, zero := 8 + n, home := 0, posted := false, ptr := ptr, pc := 0 }

/-- ALLOC (R271). -/
def allocBody (f : Fields) (s : State) : Res := Act.run do
  let level := f.x.toNat % 8
  let kind := f.x.toNat / 8 % 16
  let staged := f.x.getLsbD 7
  let wide := f.x.getLsbD 8
  let size := (s.me.getX f.a).toNat
  let bad : Flt := { code := .kind }
  need (kind < 8 && (kind != 7 || s.me.priv)) s bad
  need (!staged || kind == 0 || kind == 4) s bad
  need (kind != 3 || level == 0 || level == 2 || level == 3) s bad
  need (!wide || level == 4) s bad
  need (!(isM s.myCore && (level == 1 || level == 2))) s bad
  need (size != 0 && size ≤ 0xFFFFFFF0) s { code := .bounds, eval := s.me.getX f.a, offset := s.me.getX f.a }
  let n := (size + 15) / 16 * 16
  let (s, q) ← placeObject s f level kind (16 + n)
  match s.place (s.tablePart s.me) q (16 + n) with
  | .error c => .error (.fault s { code := c, ptr := q })
  | .ok a => return .ok ((s.initObject a n q (newHeader n kind staged wide)).setO f.d (oMake false false 0 n q))

/-- ALLOC (R271). -/
def execAlloc (f : Fields) (s : State) : Host.Outcome State Fault Refusal := run .alloc f (allocBody f) s


/-! ## Object registers (R327 to R331) -/

/-- OLEN (R327). -/
def execOlen (f : Fields) (s : State) : Host.Outcome State Fault Refusal := run .olen f (fun s => .ok (s.setX f.d (BitVec.ofNat 64 (oLen (s.me.getO f.a))))) s

/-- OMOV (R327). -/
def execOmov (f : Fields) (s : State) : Host.Outcome State Fault Refusal := run .omov f (fun s => .ok (s.setO f.d (s.me.getO f.a))) s

/-- OVIEW (R329). -/
def oviewBody (f : Fields) (s : State) : Res := Act.run do
  let r := s.me.getO f.a
  let b := s.me.getX f.b
  let c := s.me.getX f.c
  checkPtr s r
  need (b.toNat % 16 == 0) s { code := .alignment, eval := b, ptr := oCanon r, offset := b }
  need (b.toNat < oLen r && c != 0 && c.toNat ≤ oLen r - b.toNat) s { code := .bounds, eval := b, ptr := oCanon r, offset := b }
  return .ok (s.setO f.d (oMake (oTouched r) true (oView r + b.toNat) c.toNat (oCanon r)))

/-- OVIEW (R329). -/
def execOview (f : Fields) (s : State) : Host.Outcome State Fault Refusal := run .oview f (oviewBody f) s

/-- OEQ (R327). -/
def execOeq (f : Fields) (s : State) : Host.Outcome State Fault Refusal := run .oeq f (fun s => .ok (s.setX f.d (if oCanon (s.me.getO f.a) == oCanon (s.me.getO f.b) then 1 else 0))) s

/-- OKIND (R328). -/
def okindBody (f : Fields) (s : State) : Res := Act.run do
  let r := s.me.getO f.a
  checkPtr s r
  let (a, h) ← header s (oCanon r)
  return .ok (((s.fixAt a 8).requestTo (s.tablePart s.me) (oCanon r) a).defer
    { dest := .x f.d, val := h.setWidth 4096, peer := s.via (s.tablePart s.me) (oCanon r) a })

/-- OKIND (R328). -/
def execOkind (f : Fields) (s : State) : Host.Outcome State Fault Refusal := run .okind f (okindBody f) s


/-! ## Header instructions (R25, R210, R243, R265, R339, R342, R335) -/

/-- The pointer names an object behind a window of type 00 or 01 (R243, R245). -/
def State.hostWindow (s : State) (ptr : Word64) : Bool :=
  tagOf ptr == 5 && match s.place (s.tablePart s.me) ptr 16 with
    | .ok a => isHost a
    | .error _ => false

/-- The PCIe function that a task's access through a window uses: by the I/O die of the window, the partition's virtual function or the
physical function 16 of the port of `io0`, or the physical function 17 of that of `io1`, which has no other (R241, R243, R245). -/
def State.windowFunction (s : State) (ptr : Word64) : Nat :=
  if (s.window (s.tablePart s.me) (bits ptr.toNat 48 12)).1.getLsbD 60 then 17 else if s.me.part < 16 then s.me.part else 16

/-- AtomicOp Requester Enable holds for the function of a window access (R243). -/
def State.atomicOpsOn (s : State) (ptr : Word64) : Bool := s.plat.atomicOps.getLsbD (s.windowFunction ptr)

/-- `host-atomic` on a host window whose function may not send AtomicOps. -/
def needAtomicOps (s : State) (ptr : Word64) : Act Unit :=
  need (!s.hostWindow ptr || s.atomicOpsOn ptr) s { code := .hostAtomic, ptr := ptr }

/-- The exclusive bit of header word 1. -/
def lockEx (w : Word64) : Bool := w.getLsbD 31

/-- The shared count of header word 1. -/
def lockShared (w : Word64) : Nat := bits w.toNat 16 15

/-- Word 1 after an exclusive or a shared acquire. -/
def lockTake (ex : Bool) (w : Word64) : Word64 := if ex then w ||| 0x80000000#64 else w + 0x10000#64

/-- Word 1 after a REL: counts, not owners (R210, R266). -/
def lockDrop (w : Word64) : Word64 :=
  if lockEx w then (w &&& ~~~(0x80000000#64)) + 0x100000000#64
  else if lockShared w != 0 then w - 0x10000#64
  else w

/-- Re-read the blocks `bs` of a core's copy from the canonical payload at header address `a`; the first that cannot be read ends it
(R210, R240). -/
def State.refreshBlocks (s : State) (e : Copy) (a : Nat) : List Nat → State × Bool
  | [] => (s, true)
  | b :: bs =>
    let n := min 64 (e.size - 16 - 64 * b)
    let src := a + 16 + 64 * b
    if s.poisoned src n then (s, false)
    else (s.poke (e.copy.toNat + 16 + 64 * b) (s.mem.readN src n)).refreshBlocks e a bs

/-- Re-read every clean block of a core's copy, in ascending order (R210). -/
def State.refresh (s : State) (e : Copy) (a : Nat) : State × Bool :=
  s.refreshBlocks e a ((List.range ((e.size - 16 + 63) / 64)).filter (fun b => !e.dirty.contains b))

/-- The copy that an ACQ of a register re-reads, once it is complete and its object can be reached (R265). -/
def acquiredCopy (s : State) (r : BitVec 128) : Act (Option Copy) := do
  if !oTouched r then return none
  match s.copyOf s.myCore (oCanon r) with
  | none => return none
  | some e =>
    needOr e.complete (.retry s)
    let _ ← access s (oCanon r) 0 e.size
    return some e

/-- ACQ (R265): what can stall it comes before the test and set, and the re-read after it. -/
def acqBody (f : Fields) (s : State) : Res := Act.run do
  let r := s.me.getO f.a
  let ex := f.x.getLsbD 3
  checkPtr s r
  let (a, h) ← header s (oCanon r)
  needKind (hKind h != 3 && (hKind h != 7 || s.me.priv)) s r h
  needAtomicOps s (oCanon r)
  let w := s.peekWord (a + 8)
  needOr (!lockEx w && (if ex then lockShared w == 0 else lockShared w < 32767))
    (.park s { kind := .acq, op := .acq, f := f, object := oCanon r, aux := a })
  let e ← acquiredCopy s r
  -- the task's own earlier stores come before the update and the re-read (R205, R208)
  let s ← releasedHome s (homeOf a)
  let s := s.pokeWord (a + 8) (lockTake ex w)
  match e with
  | none => return .ok s
  | some e =>
    -- the re-read follows the task's earlier loads of the copy (R205)
    match s.fixPrivate.refresh e a with
    | (s, true) => return .ok s
    | (s, false) => return .fault s { code := .uncorrectable, ptr := oCanon r }

/-- ACQ (R265, R266). -/
def execAcq (f : Fields) (s : State) : Host.Outcome State Fault Refusal := run .acq f (acqBody f) s

/-- Write back the core's copy of the object in `r`, if the copy map holds one, after the task's earlier stores to that home (R330,
R205, R208). -/
def flush (s : State) (r : BitVec 128) : Act State := do
  match s.copyOf s.myCore (oCanon r) with
  | none => return s
  | some e =>
    needOr e.complete (.retry s)
    if e.dirty.isEmpty then return s
    let a ← access s (oCanon r) 16 (e.size - 16)
    let s ← releasedHome s (homeOf a)
    match s.writeBack (s.tablePart s.me) s.myCore e with
    | (s, none) => return s
    | (s, some c) => .error (.fault s { code := c, eval := oCanon r, ptr := oCanon r })

/-- REL (R339, R210). -/
def relBody (f : Fields) (s : State) : Res := Act.run do
  let r := s.me.getO f.a
  checkPtr s r
  let (a, h) ← header s (oCanon r)
  needKind (hKind h != 3 && (hKind h != 7 || s.me.priv)) s r h
  needAtomicOps s (oCanon r)
  let s ← flush s r
  let s ← releasedAt (f.x.toNat % 8) (homeOf a) s
  return .ok (s.pokeWord (a + 8) (lockDrop (s.peekWord (a + 8))))

/-- REL (R339). -/
def execRel (f : Fields) (s : State) : Host.Outcome State Fault Refusal := run .rel f (relBody f) s

/-- OSYNC (R330): on an untouched register it is only its release (R34). -/
def osyncBody (f : Fields) (s : State) : Res := Act.run do
  let r := s.me.getO f.a
  checkPtr s r
  let s ← if oTouched r then flush s r else pure s
  -- its write is the write-back, at the object's home
  let s ← releasedAt (f.x.toNat % 8) (s.homeAt (oCanon r)) s
  return .ok s

/-- OSYNC (R330). -/
def execOsync (f : Fields) (s : State) : Host.Outcome State Fault Refusal := run .osync f (osyncBody f) s

/-- ODROP (R331, R35): no effect on an untouched register. -/
def odropBody (f : Fields) (s : State) : Res :=
  let r := s.me.getO f.a
  if oTouched r then
    match s.copyOf s.myCore (oCanon r) with
    | some e => .ok (s.dropCopy s.myCore e)
    | none => .ok (s.untouch s.myCore (oCanon r))
  else .ok s

/-- ODROP (R331). -/
def execOdrop (f : Fields) (s : State) : Host.Outcome State Fault Refusal := run .odrop f (odropBody f) s

/-- PIN and UNPIN: one update of the pinned flag of the canonical header (R335). -/
def pinBody (on : Bool) (f : Fields) (s : State) : Res := Act.run do
  let r := s.me.getO f.a
  checkPtr s r
  let (a, h) ← header s (oCanon r)
  needKind (hKind h != 7 || s.me.priv) s r h
  -- the update takes its place after the task's earlier stores to that home (R208)
  let s ← releasedHome s (homeOf a)
  return .ok (s.pokeWord a (if on then h ||| (1#64 <<< 40) else h &&& ~~~(1#64 <<< 40)))

/-- PIN (R335). -/
def execPin (f : Fields) (s : State) : Host.Outcome State Fault Refusal := run .pin f (pinBody true f) s

/-- UNPIN (R335). -/
def execUnpin (f : Fields) (s : State) : Host.Outcome State Fault Refusal := run .unpin f (pinBody false f) s

/-- SEAL (R39, R342). -/
def sealBody (f : Fields) (s : State) : Res := Act.run do
  let r := s.me.getO f.a
  checkPtr s r
  let (a, h) ← header s (oCanon r)
  needKind (hKind h == 0 || hKind h == 4) s r h
  if hSealed h then return .ok s
  let s ← flush s r
  let s ← releasedAt (f.x.toNat % 8) (homeOf a) s
  return .ok (s.pokeWord a (s.peekWord a ||| (1#64 <<< 41)))

/-- SEAL (R342). -/
def execSeal (f : Fields) (s : State) : Host.Outcome State Fault Refusal := run .seal f (sealBody f) s


/-! ## KV handles, prefetch, fence -/

/-- A fault `handle` with the handle's value. -/
def needHandle (c : Bool) (s : State) (v : Word64) : Act Unit := need c s { code := .handle, eval := v }

/-- The handle table of the task's partition, `c.htab` (R179). -/
def State.htab (s : State) : Word64 := (s.part (s.tablePart s.me)).htab

/-- `n` bytes at payload offset `lo - 16` of the object at a pointer, by a canonical load that is performed at once: the task's earlier loads
that keep their order with it are performed (R205, R208). -/
def loadNow (s : State) (ptr : Word64) (lo n : Nat) : Act (State × List Byte) := do
  let bs ← loadAct s ptr lo n
  return (s.fixObj ptr lo n, bs)

/-- HDL (R181). -/
def hdlBody (f : Fields) (s : State) : Res := Act.run do
  let h := s.me.getX f.a
  let b := (s.me.getX f.b).toNat
  let tab := s.htab
  needHandle (tagOf h == 6 && tab != 0) s h
  needHandle (bits h.toNat 52 8 == s.me.tenant.toNat % 256) s h
  let (_, th) ← header s tab
  let i := bits h.toNat 36 16
  needHandle (i < hLen th / 32) s h
  let (s, e) ← loadNow s tab (16 + 32 * i) 16
  let e0 := leNat (e.take 8)
  let dir := leWord (e.drop 8)
  needHandle (bits e0 32 16 == s.me.tenant.toNat && bits e0 48 16 == bits h.toNat 20 16) s h
  needHandle (b < bits h.toNat 0 20 && b < bits e0 0 20) s h
  needHandle (bits e0 28 4 == 0) s h
  let (s, bs) ← loadNow s dir (16 + 8 * (b / 64)) 8
  let blk := leWord bs
  needHandle (!badPtr blk) s h
  let a ← access s blk 0 16
  need (!s.poisoned a 16) s { code := .uncorrectable, ptr := blk }
  let bh := leWord (s.loadBytes s.cur a 8)
  let s := s.fixAt a 16
  needHandle (validHeader bh && hKind bh == 0 && 36864 ≤ hLen bh) s h
  return .ok (s.deferO f.d (oMake false true (576 * (b % 64)) 576 blk))

/-- HDL (R181). -/
def execHdl (f : Fields) (s : State) : Host.Outcome State Fault Refusal := run .hdl f (hdlBody f) s

/-- The pad that PREF copies into, when its conditions hold (R337). -/
def prefPad (s : State) (f : Fields) (canon h : Word64) : Option PadUnit :=
  let whole := 16 + hLen h
  if isM s.myCore || !touchable h || tagOf canon < 2 || 5 < tagOf canon || (copyPad s.myCore canon h).isNone then none
  else if f.x.toNat % 8 = 1 then (if whole ≤ 0x10000 then some (.core s.myCore) else none)
  else if whole ≤ 0x100000 && 3 ≤ tagOf canon then some (.cluster (clusterOf s.myCore))
  else none

/-- PREF (R337): the copy is entered, and filled by PREF_COPY_COMPLETE. A header behind a page that is still to be granted, or on a channel
that stalls, is waited for; one that cannot be read leaves PREF without effect, since it raises no fault of its own. -/
def prefBody (f : Fields) (s : State) : Res :=
  let canon := oCanon (s.me.getO f.a)
  if badPtr canon || (s.copyOf s.myCore canon).isSome || 512 ≤ (s.core s.myCore).copies.length then .ok s
  else
    match header s canon with
    | .error (.retry s) => .retry s
    | .error _ => .ok s
    | .ok (_, h) =>
      match prefPad s f canon h with
      | none => .ok s
      | some u =>
        let whole := 16 + hLen h
        match s.padRoom u s.me.ctx whole with
        | none => .ok s
        | some off =>
          .ok (s.copyIn s.myCore u s.me.ctx off whole canon (leBytes 8 h.toNat) true)

/-- PREF (R337). -/
def execPref (f : Fields) (s : State) : Host.Outcome State Fault Refusal := run .pref f (prefBody f) s

/-- The task has an outstanding result that a fault is to strike instead of (R63). -/
def Task.faulting (t : Task) : Bool := t.pend.any (·.fault.isSome)

/-- A CTL write of the task still waits for its channel (R261, R297). -/
def State.ctlHeld (s : State) (tid : Word32) : Bool := s.channels.any (fun e => e.2.waiting.any (fun w => w.1 == tid))

/-- Kind full of FENCE: below pkg, later accesses to a die wait for the stores to it that are in the buffer now; at pkg the earlier accesses
to the dies are performed, and at dom and sys all (R209, R212). -/
def fenceFull (scope : Nat) (s : State) : Act State :=
  if scope < 3 then .ok (s.setMe { s.me with sb := s.me.sb.map (fun st => { st with fenced := true }) })
  else if scope = 3 then releasedDies s
  else released s

/-- Kind rel of FENCE: later stores come after every earlier access to the dies at pkg, and after every earlier access at dom and sys; below
pkg every store does so for its own die as it is (R208, R209, R212). -/
def State.fenceRel (s : State) (scope : Nat) : State :=
  if scope < 3 then s
  else if scope = 3 then s.setMe { s.me with pkgBar := s.me.seq }
  else s.setMe { s.me with pkgBar := s.me.seq, sysBar := s.me.seq }

/-- Kind acq of FENCE: the earlier loads from the dies are performed at pkg, and every earlier load at dom and sys; below pkg every load
comes before what follows on its own die as it is (R208, R209, R212). -/
def State.fenceAcq (s : State) (scope : Nat) : State := if scope < 3 then s else if scope = 3 then s.fixDies else s.fixAll

/-- FENCE (R212) at its scope, or the fault that an earlier load of the task met. At sys scope kinds full and rel order the task's earlier
management writes as well (R261, R297). -/
def fenceBody (f : Fields) (s : State) : Res := Act.run do
  let scope := f.x.toNat % 8
  needOr (!s.me.faulting) (.gone (s.landAll s.cur))
  match f.x.toNat / 8 % 4 with
  | 2 => return .ok (s.fenceAcq scope)
  | k => do
    let s ← if k = 0 then fenceFull scope s else pure (s.fenceRel scope)
    needOr (scope != 5 || !s.ctlHeld s.me.tid) (.retry s)
    return .ok s

/-- FENCE (R212, R297). -/
def execFence (f : Fields) (s : State) : Host.Outcome State Fault Refusal := run .fence f (fenceBody f) s


/-! ## Events -/

/-- A prefetch reads the next `n` payload blocks of its copy, in ascending order (R337): an uncorrectable error, a lost translation or a
refusal abandons the copy, and a page that is not yet granted is asked for. -/
def State.prefBlocks (c : CoreId) (ptr : Word64) : Nat → State → State
  | 0, s => s
  | n + 1, s =>
    match s.copyOf c ptr with
    | none => s
    | some e =>
      match s.reach ((s.partOf (clusterOf c)).getD 0) ptr (16 + 64 * e.next) (e.blockSize e.next) with
      | .ok a =>
        if s.poisoned (a + 16 + 64 * e.next) (e.blockSize e.next) then s.dropCopy c e
        else (s.readBlock c e a).prefBlocks c ptr n
      | .fault _ => s.dropCopy c e
      | .page pg => s.askPage (.pref c ptr pg)
      | .stall => s

/-- A background prefetch goes on: some of the blocks that are left are read (R337). -/
def State.prefComplete (s : State) (c : CoreId) (ptr : Word64) : State :=
  match s.copyOf c ptr with
  | none => s
  | some e =>
    if e.complete || !e.pref then s
    else
      let (k, s) := s.someBlocks e
      s.prefBlocks c ptr k

/-- PREF_COPY_COMPLETE (R337). -/
def execPrefCopyComplete (c : CoreId) (ptr : Word64) (s : State) : Host.Outcome State Fault Refusal :=
  happen (fun s => s.prefComplete c ptr) s

/-- A parked task tries its instruction again; nothing changes while it must still wait. -/
def State.reissue (s : State) (k : TaskKey) (kind : WaitKind) (body : Fields → State → Res) : State :=
  let t := s.task k
  match t.wait with
  | none => s
  | some w =>
    if t.status != .parked || w.kind != kind then s
    else
      let s' : State := { s with cur := k }
      match body w.f (s'.setTask k { t with status := .ready, wait := none }) with
      | .park _ _ => s
      | r => State.settle k w.f r

/-- ACQ_GRANT (R210): a parked ACQ tries the header again. -/
def execAcqGrant (t : TaskKey) (s : State) : Host.Outcome State Fault Refusal := happen (fun s => s.reissue t .acq acqBody) s

/-- STORE_BUFFER_DRAIN (R208, R209). -/
def execStoreBufferDrain (t : TaskKey) (home : Nat) (s : State) : Host.Outcome State Fault Refusal :=
  happen (fun s => s.drainOne t home) s

/-- REMOTE_STORE_REFUSED (R233): the oldest posted store that its home's router refuses reaches it. -/
def State.refuseOldest (s : State) (k : TaskKey) : State :=
  match (s.task k).sb.find? (fun st => st.posted && !s.admits k st.ptr) with
  | none => s
  | some st =>
    if ((s.task k).sb.find? (fun x => x.home == st.home)) == some st then s.drainOne k st.home else s

/-- REMOTE_STORE_REFUSED (R233). -/
def execRemoteStoreRefused (t : TaskKey) (s : State) : Host.Outcome State Fault Refusal := happen (fun s => s.refuseOldest t) s

/-! ### Loads that are performed after their issue (R205, R207, R208, R209, R370) -/

/-- The descriptor of a packed payload: tile count, size code, zero bits, used bytes (R202). -/
structure PackDesc where
  tiles : Nat
  size : Nat
  used : Nat
  /-- Start of the data area. -/
  start : Nat
deriving DecidableEq, Repr

/-- The descriptor in a packed payload's first 8 bytes. -/
def packDesc (w : Nat) : PackDesc :=
  { tiles := bits w 0 16, size := bits w 16 4, used := bits w 32 32, start := (8 + 4 * bits w 0 16 + 7) / 8 * 8 }

/-- Bytes of a record with `count` nonzero elements of `es` bytes. -/
def recordSize (count es : Nat) : Nat := 8 + (count * es + 7) / 8 * 8

/-- Element `j` of a record (R202). -/
def recordElem (es : Nat) (rec' : List Byte) (j : Nat) : Nat :=
  let mask := leNat (rec'.take 8)
  if mask.testBit j then leNat (((rec'.drop 8).drop (es * popW j mask)).take es) else 0

/-- An element of a load with its value, read again. -/
def Pend.reload (p : Pend) (idx size v : Nat) : Pend :=
  match p.how with
  | .word zext => { p with val := (if zext then BitVec.ofNat 64 v else signW (8 * size) v).setWidth 4096 }
  | _ =>
    let w := 8 * size
    { p with val := blend p.val (BitVec.ofNat 4096 (v <<< (idx * w))) (BitVec.ofNat 4096 ((2 ^ w - 1) <<< (idx * w))) }

/-- What a load of a task, at a place in its program order, reads of an element now; none when it cannot be read now. -/
def State.readElem (s : State) (k : TaskKey) (seq : Nat) (e : Elem) : Option (List Byte) :=
  if s.poisoned e.addr e.size then none
  else if e.priv then some (s.mem.readN e.addr e.size)
  else
    match s.reachObj e.hdr (e.addr - e.hdr) e.size with
    | .ok _ => some (s.loadAt k seq e.addr e.size)
    | _ => none

/-- LDO's word and the header of its pointer, read again at one moment (R310). -/
def State.reloadPointer (s : State) (k : TaskKey) (p : Pend) (e : Elem) : Option Pend := do
  let q := leWord (← s.readElem k p.seq e)
  let put (len : Nat) (es : List Elem) : Pend := { p with val := (oMake false false 0 len q).setWidth 4096, src := es }
  if badPtr q then return put 0 [e]
  if !s.admits k q then none
  match s.place (s.tablePart (s.task k)) q 16 with
  | .error _ => none
  | .ok a =>
    let e' : Elem := { idx := 1, hdr := a, addr := a, size := 16 }
    let h := leWord ((← s.readElem k p.seq e').take 8)
    return put (if validHeader h then hLen h else 0) [e, e']

/-- Tile `i` of the packed view that is element `e`, read again whole (R203, R375). -/
def State.reloadTile (s : State) (k : TaskKey) (p : Pend) (e : Elem) (i es : Nat) (lanes : List Nat) : Option Pend := do
  let rd (off n : Nat) : Option (List Byte) := s.readElem k p.seq { e with addr := e.addr + off, size := n }
  let d := packDesc (leNat (← rd 0 8))
  let t ← rd (8 + 4 * i) 4
  let n := recordSize (leNat (t.drop 3)) es
  if e.size < d.start + leNat (t.take 3) + n then none
  let rec' ← rd (d.start + leNat (t.take 3)) n
  return lanes.foldl (fun q j => q.reload j es (recordElem es rec' j)) p

/-- The elements of a load that are read again with those of `sel`: of a pointer or a tile, all. -/
def Pend.chosenElems (p : Pend) (sel : Elem → Bool) : List Elem :=
  match p.how with
  | .pointer | .tile _ _ _ => if p.src.any sel then p.src else []
  | _ => p.src.filter sel

/-- Elements of an outstanding load of a task are read now, each whole; none when one of them cannot be (R370). -/
def State.readAgain (s : State) (k : TaskKey) (p : Pend) (es : List Elem) : Option Pend :=
  match p.how, es with
  | _, [] => some p
  | .pointer, e :: _ => s.reloadPointer k p e
  | .tile i n lanes, e :: _ => s.reloadTile k p e i n lanes
  | _, es => es.foldlM (fun q e => (s.readElem k p.seq e).map (fun bs => q.reload e.idx e.size (leNat bs))) p

/-- The later loads of a task, once the elements in `done` have been read again: those of their elements that keep their order with one of
these are read again after it (R205, R208, R209). -/
def State.readLater (s : State) (k : TaskKey) : List Elem → List Pend → Option (List Pend)
  | _, [] => some []
  | done, p :: ps => do
    let es := p.chosenElems (fun e => done.any (fun d => keepsOrder (coreOf k) d e.priv e.addr e.size))
    let p' ← s.readAgain k p es
    return p' :: (← s.readLater k (done ++ es) ps)

/-- Elements of the `i`-th outstanding load of a task are read now, and after them the later loads that must follow; nothing is read again
when one of them cannot be (log entry 6). -/
def State.reread (s : State) (k : TaskKey) (i : Nat) : State :=
  match (s.task k).pend[i]? with
  | none => s
  | some p =>
    if p.src.isEmpty then s else
    let (n, s) := s.fresh
    let es := p.chosenElems (fun e => (Config.rereads n).getLsbD e.idx)
    match s.readAgain k p es, s.readLater k es ((s.task k).pend.drop (i + 1)) with
    | some p', some ps => s.setTask k { s.task k with pend := (s.task k).pend.take i ++ p' :: ps }
    | _, _ => s

/-- The elements of a load that arrive with the units `m` of its result: of a pointer or a tile, all. -/
def Pend.arriving (p : Pend) (m : BitVec 256) : List Elem :=
  p.chosenElems (fun e => match p.how with
    | .lanes => m.getLsbD (e.idx * p.unit)
    | _ => m != 0)

/-- Before units of the `i`-th outstanding result of a task arrive, what comes before the elements of its load that arrive is performed, and
they themselves are (R205, R208). -/
def State.fixArriving (s : State) (k : TaskKey) (i : Nat) (choice : BitVec 256) : State :=
  match (s.task k).pend[i]? with
  | none => s
  | some p =>
    let es := p.arriving (p.chosen choice)
    if es.isEmpty then s
    else s.fixLoads k (fun q e => (q.seq < p.seq && es.any (fun x => keepsOrder (coreOf k) e x.priv x.addr x.size)) || (q.seq == p.seq && es.contains e))

/-- DEFERRED_RESULT_WRITE (R60, R62): elements of a task's outstanding load may be performed, and the chosen elements of the result
arrive. -/
def execDeferredResultWrite (t : TaskKey) (i : Nat) (lanes : BitVec 256) (s : State) : Host.Outcome State Fault Refusal :=
  happen (fun s => ((s.reread t i).fixArriving t i lanes).landSome t i lanes) s

/-- UNDECODABLE_PARCEL (R59 checks 1 to 5, R67): the task that issues raises the fault. -/
def execUndecodableParcel (code : FaultCode) (s : State) : Host.Outcome State Fault Refusal :=
  happen (fun s => s.raise s.cur { code := code }) s

/-- REFERENCE_CLOCK_TICK (R14). -/
def execReferenceClockTick (d : Nat) (s : State) : Host.Outcome State Fault Refusal :=
  happen (fun s => s.setDie d { s.die d with cycle := (s.die d).cycle + 1 }) s

end Sys2Proof.Machine
end

