-- ==== Sys2Proof/Machine/Jobs.lean ====
section
/-!
DEFINITION. Jobs of the engines: job ids, mailboxes, power leave, the agents that a halt stops (R156, R184 to R187, R308).
-/

namespace Sys2Proof.Machine

/-! ## Agents that have stopped (R228 to R231) -/

/-- The partition is halted. -/
def State.partHalted (s : State) (p : Nat) : Bool := p < 16 && (s.halt p).halted

/-- What a unit's fault reports. -/
def Flt.unitInfo (f : Flt) (pos : Word32) : StopInfo :=
  { code := some f.code, ptr := f.ptr, offset := f.offset, progress := f.progress, eval := f.eval, pos := pos, atIssue := false }

/-- A unit raises a fault after issue: its partition's halt controller takes the report. -/
def State.unitFault (s : State) (a : Agent) (p : Nat) (f : Flt) (id pos : Word32) : State :=
  if s.stopped a p then s else s.report p { agent := a, info := f.unitInfo pos, tid := id }

/-- A halt holds a job of a unit: that of its partition, once the unit has stopped for it; an M-core's job, named by its issuing core,
stops alone (R228, R403). -/
def State.workStopped (s : State) (a : Agent) (p : Nat) (id : Word32) (core : Option CoreId) : Bool :=
  if p < 16 then s.stopped a p
  else (s.halt 16).reports.any (fun r => r.agent == a && r.tid == id && r.owner == core)
    || (s.halt 16).records.any (fun r => r.who == a && r.id == id && r.owner == core)

/-- A job of a unit raises a fault: the controller of its partition, or the supervisor's for an M-core's job, takes the report (R403). -/
def State.workFault (s : State) (a : Agent) (p : Nat) (f : Flt) (id : Word32) (core : Option CoreId) (pos : Word32) : State :=
  if s.workStopped a p id core then s
  else s.report (if p < 16 then p else 16) { agent := a, info := f.unitInfo pos, tid := id, owner := if p < 16 then none else core }

/-! ## Distributors (R220, R404) -/

/-- A distributor. -/
def State.dist (s : State) (io : Nat) : Dist := s.dists.find io ⟨0, 0, [], []⟩

/-- Replace a distributor. -/
def State.setDist (s : State) (io : Nat) (v : Dist) : State := { s with dists := s.dists.set io v }

/-! ## Mailboxes (R185, R186) -/

/-- Mailbox `m` of a core. -/
def State.mailbox (s : State) (c : CoreId) (m : Nat) : Mailbox := (s.core c).mailboxes[m]?.getD .free

/-- Where the word of mailbox `m` of a core stands for a context: in the mailbox range of its cluster pad (R186, R224; log entry 15). R186
places no word of an M-core, whose boxes have numbers of their own (log entry 3). -/
def State.boxAddr (s : State) (c : CoreId) (ctx m : Nat) : Nat :=
  if isM c then 2 ^ 78 + 8 * (32 * c + m)
  else
    let u := PadUnit.cluster (clusterOf c)
    (padPtr u (openBanks u (s.padContexts u) * bankSize u + ctx * 0x80800 + 0x80000 + 8 * (32 * (c % 8) + m))).toNat

/-- Mailbox numbers of a core that a task holds, full or not. -/
def State.boxesOf (s : State) (c : CoreId) (tid : Word32) (full : Bool) : List Nat :=
  (List.range 32).filter (fun m => (s.mailbox c m).taken && (s.mailbox c m).owner == tid && (s.mailbox c m).full == full)

/-- A task that has reserved a slot of a core holds the mailbox number for its full mailbox, which moves with it (R186). -/
def State.promised (s : State) (c : CoreId) (m : Nat) : Bool :=
  s.tasks.any (fun e => match e.2.wait with
    | some w => w.kind == .migration && w.aux != 0 && coreOf (w.aux - 1) == c && (s.boxesOf (coreOf e.1) e.2.tid true).contains m
    | none => false)

/-- The lowest free mailbox of a core. -/
def State.freeMailbox (s : State) (c : CoreId) : Option Nat :=
  (List.range 32).find? (fun m => !(s.mailbox c m).taken && !s.promised c m)

/-- Replace mailbox `m` of a core. -/
def State.setMailbox (s : State) (c : CoreId) (m : Nat) (v : Mailbox) : State :=
  s.setCore c { s.core c with mailboxes := (s.core c).mailboxes.setIfInBounds m v }

/-- The job counter after a job: 1 to 2^24 − 1, never 0 (R185). -/
def nextJob (n : BitVec 24) : BitVec 24 := if n = 0xFFFFFF then 1 else n + 1

/-- A job id (R185). -/
def jobId (seq kind box : Nat) : Word32 := BitVec.ofNat 32 (seq * 256 + kind * 32 + box)

/-- Engine kind of a job id. -/
def jobKind (j : Word32) : Nat := bits j.toNat 5 3

/-- Take the lowest free mailbox for a job of an engine kind, or park while none is free. -/
def takeMailbox (s : State) (o : Op) (f : Fields) (kind : Nat) : Act (State × Word32) :=
  let c := s.myCore
  match s.freeMailbox c with
  | none => .error (.park s { kind := .mailbox, op := o, f := f, aux := c })
  | some m =>
    let seq := nextJob (s.core c).jobSeq
    let s := s.setCore c { s.core c with jobSeq := seq }
    .ok (s.setMailbox c m { taken := true, seq := seq, owner := s.me.tid, full := false, scope := 0 },
      jobId seq.toNat kind m)

/-- A mailbox becomes free, and tasks that wait for one try again. -/
def State.releaseMailbox (s : State) (c : CoreId) (m : Nat) : State :=
  (s.setMailbox c m .free).wakeAll .mailbox c

/-- What ends the IDLEs of some tasks has happened: each goes on at its IDLE_WAKE, whatever stands then (R96, R304). -/
def State.endIdle (s : State) (sel : TaskKey → Task → Bool) : State :=
  { s with tasks := s.tasks.mapKeyed (fun k t =>
      match t.wait with
      | some w => if t.status == .parked && w.kind == .idle && sel k t then { t with wait := some { w with aux := 1 } } else t
      | none => t) }

/-- Fill the mailbox of a job of a context: status and dropped count in its word, with the scope of the release (R186); a mailbox whose task
has halted is freed at once. A fill ends the IDLEs of the core (R96). -/
def State.fillMailbox (s : State) (c : CoreId) (ctx : Nat) (job : Word32) (status dropped scope : Nat) : State :=
  let m := job.toNat % 32
  let b := s.mailbox c m
  if b.taken && b.seq.toNat == job.toNat / 256 && !b.full then
    let s := s.endIdle (fun k _ => coreOf k == c)
    if b.owner == 0 then s.releaseMailbox c m
    else (s.setMailbox c m { b with full := true, scope := scope }).pokeWord (s.boxAddr c ctx m)
      (BitVec.ofNat 64 ((min dropped 0xFFFFFFFF) * 2 ^ 32 + b.seq.toNat * 256 + status))
  else s

/-- Fill the mailbox of a job that belongs to a context: while the context is out, its mailboxes are in shadow storage, and
the jobs that run on fill them there, the words in the context's own range (R224, R226). -/
def State.fillBox (s : State) (p ctx : Nat) (c : CoreId) (job : Word32) (status dropped scope : Nat) : State :=
  if s.runs p ctx then s.fillMailbox c ctx job status dropped scope
  else
    match s.shadow.find? (fun v => v.part == p && v.ctx == ctx) with
    | none => s
    | some v =>
      let t := ({ s with cores := v.cores, tasks := v.tasks } : State).fillMailbox c ctx job status dropped scope
      { s with
        mem := t.mem, poison := t.poison
        shadow := s.shadow.map (fun w => if w.part == p && w.ctx == ctx then { w with cores := t.cores, tasks := t.tasks } else w) }

/-- A HALT without retain: the task's full mailboxes are freed, the others when they fill (R186). -/
def State.leaveMailboxes (s : State) (c : CoreId) (tid : Word32) : State :=
  (List.range 32).foldl (fun s m =>
    let b := s.mailbox c m
    if b.taken && b.owner == tid then (if b.full then s.releaseMailbox c m else s.setMailbox c m { b with owner := 0 }) else s) s

/-- JWAIT and JPOLL (R308): a load of a sync word of the cluster pad, after the task's earlier loads from that die (R186, R208). -/
def jobTest (poll : Bool) (o : Op) (f : Fields) (s : State) : Res :=
  let a := (s.me.getX f.a).toNat
  let c := s.myCore
  let m := a % 32
  let b := s.mailbox c m
  let w := s.boxAddr c s.me.ctx m
  let s := s.fixAt w 8
  if a / 2 ^ 32 != 0 || bits a 5 3 == 4 || bits a 5 3 == 7 then .ok (s.deferX f.d 3)
  else if s.poisoned w 8 then .fault s { code := .uncorrectable }
  else if !b.taken || b.seq.toNat != a / 256 then .ok (s.deferX f.d 3)
  else if !b.full then
    if poll then .ok (s.deferX f.d 0)
    else .park s { kind := .jwait, op := o, f := f, aux := 32 * c + m }
  else .ok ((s.deferX f.d (BitVec.ofNat 64 ((s.peekWord w).toNat % 256))).releaseMailbox c m)

/-- JWAIT (R308). -/
def execJwait (f : Fields) (s : State) : Host.Outcome State Fault Refusal := run .jwait f (jobTest false .jwait f) s

/-- JPOLL (R308). -/
def execJpoll (f : Fields) (s : State) : Host.Outcome State Fault Refusal := run .jpoll f (jobTest true .jpoll f) s

/-- JWAIT_WAKE (R308): a parked JWAIT tests its mailbox again. -/
def execJwaitWake (t : TaskKey) (s : State) : Host.Outcome State Fault Refusal :=
  happen (fun s => s.reissue t .jwait (jobTest false .jwait)) s

/-! ## Staged states (R27) -/

/-- Set the staged state of the canonical object at a physical address. -/
def State.setStaged (s : State) (a : Nat) (st : Nat) : State :=
  let h := s.peekWord a
  if hStaged h then s.pokeWord a (hSetState h (BitVec.ofNat 4 st)) else s

/-- The scope of a fill: the smallest that holds an engine of a die and a home (R153, R163, R186); `k` is the engine's
cluster, or none for a unit of the die. -/
def fillScope (die : Nat) (k : Option ClusterId) (ptr : Word64) (a : Nat) : Nat :=
  if homeOf a = 4 then 5
  else if homeOf a != die then 3
  else match guardCluster ptr, k with
    | some g, some k => if g == k then 1 else 2
    | _, _ => 2

/-! ## Engine accesses -/

/-- The physical address of an object for an engine of a partition, with `n` bytes from the header in place; else the fault. -/
def State.enginePlace (s : State) (p : Nat) (ptr : Word64) (n : Nat) : Except FaultCode Nat :=
  match s.reach (tablesOf p) ptr 0 n with
  | .ok a => .ok a
  | .fault c => .error c
  | _ => s.place (tablesOf p) ptr n

/-- An engine of a partition waits invisibly for an object: a page of host memory or a stalled channel. -/
def State.engineWaits (s : State) (p : Nat) (ptr : Word64) (n : Nat) : Bool :=
  match s.reach (tablesOf p) ptr 0 n with
  | .page _ => true
  | .stall => true
  | _ => false

/-- Where a failing block stands in a unit's stop record (R155, R164, R199): its payload offset, from the payload offset and the address of
the operand's view. DEDUCED (log entry 53): of the payload offset and the address that R230 allows, the offset; a block that begins
before the payload counts from the payload. -/
def blockOffset (off view block : Nat) : Word64 := BitVec.ofNat 64 (off + block - view)

/-- Bytes `off` to `off + n` of the view in an o register, for an engine. -/
def State.engineRead (s : State) (a : Nat) (r : BitVec 128) (off n : Nat) : List Byte := s.mem.readN (a + 16 + oView r + off) n

/-! ## Power leave (R156) -/

/-- Ask for leave. -/
def State.askLeave (s : State) (w : LeaveFor) (c : CoreId) : State := { s with leaves := s.leaves ++ [⟨w, c⟩] }

/-- The die whose power controller a request goes to: of the stack for an NBMV, else of the core that issued it. -/
def Leave.die (l : Leave) : Nat :=
  match l.what with
  | .nearBank _ st => st / 2
  | _ => dieOf l.core

/-- The power controller grants a request, by its free value: while the die's projected power stays within its budget, and an engine at
least one pass in every 10 µs (R156, R254). -/
def State.leaveFits (s : State) (l : Leave) (n : Nat) : Bool :=
  Config.projected n ≤ (s.die l.die).budget || (Config.floorDue n && (match l.what with
    | .engine _ => true
    | _ => false))

/-- What was granted may go on. -/
def State.leaveGiven (s : State) (l : Leave) : State :=
  match l.what with
  | .engine k => s.setCluster k { s.cluster k with leave := true }
  | .copy job k => s.setCluster k { s.cluster k with
      jobs := (s.cluster k).jobs.map (fun j => if j.job == job && (j.core == some l.core || j.core.isNone) then { j with waitsLeave := false } else j) }
  | .nearBank job st => { s with nbQueues := s.nbQueues.set st ((s.nbQueues.find st []).map (fun j =>
      if j.job == job && j.core == l.core then { j with waitsLeave := false } else j)) }
  | .collective job => { s with colls := s.colls.map (fun j => if j.job == job && j.core == l.core then { j with waitsLeave := false } else j) }

/-- POWER_LEAVE_GRANT: the `i`-th request is granted if the budget lets it; its wait, a free value, goes to the core's `c.grant` and the die's
`PWAIT` (R156, R254). -/
def State.grantLeave (s : State) (i : Nat) : State :=
  match s.leaves[i]? with
  | none => s
  | some l =>
    let (n, s) := s.fresh
    if !s.leaveFits l n then s
    else
      let s : State := { s with leaves := s.leaves.eraseIdx i }
      let s := s.setDie l.die { s.die l.die with pwait := (s.die l.die).pwait + Config.leaveWait n }
      let s := if isM l.core then s
        else s.setCore l.core { s.core l.core with grant := (s.core l.core).grant + (Config.leaveWait n).setWidth 64 }
      s.leaveGiven l

/-- POWER_LEAVE_GRANT (R156). -/
def execPowerLeaveGrant (i : Nat) (s : State) : Host.Outcome State Fault Refusal := happen (fun s => s.grantLeave i) s

end Sys2Proof.Machine
end

