-- ==== Sys2Proof/Machine/Tasks.lean ====
section
/-!
DEFINITION. Task records, deques and stealing, starting and ending tasks, migration (spec/06_tasks.md R88 to R99, R108 to R111;
R298, R302, R304, R307, R399).
-/

namespace Sys2Proof.Machine

/-! ## Slots (R90, R97, R99, R108) -/

/-- A slot that a waiting migration has reserved, kept as the slot plus one (R108). -/
def State.reserved (s : State) (k : TaskKey) : Bool :=
  s.tasks.any (fun e => match e.2.wait with
    | some w => w.kind == .migration && w.aux == k + 1
    | none => false)

/-- The free slots of a core that no migration has reserved, ascending. -/
def State.freeSlots (s : State) (c : CoreId) : List TaskKey :=
  ((List.range 8).map (fun i => 8 * c + i)).filter (fun k => (s.task k).status == .free && !s.reserved k)

/-- The lowest free slot of the A-core of a cluster with the most free slots, ties to the lowest core (R108). -/
def State.freeASlot (s : State) (cl : ClusterId) : Option TaskKey :=
  ((List.range 6).foldl (fun (acc : List TaskKey) i =>
    let fs := s.freeSlots (8 * cl + i)
    if acc.length < fs.length then fs else acc) []).head?

/-- The oldest migration of a cluster that has no slot yet and whose jobs have all filled their mailboxes (R108, R186). -/
def State.nextMigrant (s : State) (cl : ClusterId) : Option TaskKey :=
  ((s.waiters .migration 0).find? (fun e =>
    clusterOf (coreOf e.1) == cl && (s.boxesOf (coreOf e.1) (s.task e.1).tid false).isEmpty)).map (·.1)

/-- The slot that a migration can take now: its full mailboxes must find their numbers free there (R186). -/
def State.canReserve (s : State) (k : TaskKey) : Option TaskKey :=
  match s.freeASlot (clusterOf (coreOf k)) with
  | none => none
  | some d =>
    if (s.boxesOf (coreOf k) (s.task k).tid true).all (fun m =>
        !(s.mailbox (coreOf d) m).taken && !s.promised (coreOf d) m) then some d else none

/-- The slot in which a core starts a popped, stolen or placed record: its lowest free one, when no migration has precedence
(R97, R99, R108). -/
def State.slotFor (s : State) (c : CoreId) : Option TaskKey :=
  if isA c && (match s.nextMigrant (clusterOf c) with
      | some k => (s.canReserve k).isSome
      | none => false) then none
  else (s.freeSlots c).head?

/-- The partition of a core is halted. -/
def State.haltedAt (s : State) (c : CoreId) : Bool :=
  match s.partOf (clusterOf c) with
  | some p => (s.halt p).halted
  | none => false

/-! ## Records (R92, R93) -/

/-- A core can host a record. -/
def canHost (c : CoreId) (r : Record) : Bool := !isM c && (isA c || (!r.acore && r.width == 0))

/-- A core's deque and spill area in logical order, bottom first (R97). -/
def State.logical (s : State) (c : CoreId) : List Record := (s.core c).deque ++ (s.core c).spill

/-- The deque or its spill area has room. -/
def State.dequeRoom (s : State) (c : CoreId) : Bool := (s.core c).deque.length < 256 || (s.core c).spill.length < 1024

/-- Record counter after a record: 1 to 65,535 (R92). -/
def nextCount (n : BitVec 16) : BitVec 16 := if n = 0xFFFF then 1 else n + 1

/-- A record with the record id of core `c`, whose counter advances (R92). -/
def State.stamp (s : State) (c : CoreId) (r : Record) : State × Record :=
  let n := nextCount (s.core c).recCount
  (s.setCore c { s.core c with recCount := n }, { r with recCore := s.coreAddr c, recCount := n })

/-- A record that has no record id yet takes one from the core that receives it (R92). -/
def State.received (s : State) (c : CoreId) (r : Record) : State × Record :=
  if r.recCount = 0 then s.stamp c r else (s, r)

/-- Push a record on the bottom of a deque with room; a full deque first moves the records at its top end to the spill area
(R97). -/
def State.push (s : State) (c : CoreId) (r : Record) : State :=
  let (s, r) := s.received c r
  let k := s.core c
  if k.deque.length < 256 then s.setCore c { k with deque := r :: k.deque }
  else
    let keep := 256 - min 64 (1024 - k.spill.length)
    s.setCore c { k with deque := r :: k.deque.take keep, spill := k.deque.drop keep ++ k.spill }

/-- The core of a list with the fewest records, ties to the first. DESIGN CHOICE (log entry 52): R93 does not say whether spilled records
count; the hardware deque and its spill area are one logical deque (R97), and the records of both count. -/
def State.fewest (s : State) : List CoreId → Option CoreId
  | [] => none
  | c :: cs => some (cs.foldl (fun b x => if (s.logical x).length < (s.logical b).length then x else b) c)

/-- Push a record in a cluster, as FORK placement 01 does; none while there is no room (R93). -/
def State.pushCluster (s : State) (cl : ClusterId) (r : Record) : Option State :=
  match s.fewest (((List.range 8).map (8 * cl + ·)).filter (fun c => canHost c r)) with
  | some c => if s.dequeRoom c then some (s.push c r) else none
  | none => none

/-- Push a record on core `c`, or in its cluster when `c` cannot host it. -/
def State.pushAt (s : State) (c : CoreId) (r : Record) : Option State :=
  if canHost c r then (if s.dequeRoom c then some (s.push c r) else none) else s.pushCluster (clusterOf c) r

/-! ## Starting a task (R88, R89) -/

/-- Generation after a start: 1 to 8,191 (R89). -/
def nextGen (g : BitVec 13) : BitVec 13 := if g = 0x1FFF then 1 else g + 1

/-- Task id of a slot with a generation (R89). -/
def State.taskId (s : State) (k : TaskKey) (g : BitVec 13) : Word32 := s.coreAddr (coreOf k) ++ g ++ BitVec.ofNat 3 (k % 8)

/-- The o register of an argument or of a pointer that the hardware places: length from the header, or 0 where there is none. -/
def State.argReg (s : State) (p : Nat) (ptr : Word64) : BitVec 128 :=
  let len := if badPtr ptr then 0 else match s.place p ptr 16 with
    | .ok a => if validHeader (s.peekWord a) then hLen (s.peekWord a) else 0
    | .error _ => 0
  oMake false false 0 len ptr

/-- Start a record in a free slot: the initial state of R88. -/
def State.startRecord (s : State) (k : TaskKey) (r : Record) : State :=
  let (s, r) := s.received (coreOf k) r
  let g := nextGen (s.task k).gen
  let t : Task := { Task.empty with
    status := .ready, gen := g, tid := s.taskId k g, pc := r.entry
    width := r.width, acore := r.acore, tenant := r.tenant, domain := r.domain, part := r.part, ctx := r.ctx
    join := r.join, node := r.node, launch := r.launch }
  let t := ((((t.setX 1 r.x1).setX 2 r.x2).setX 3 r.x3).setX 4 r.x4).setX 7 r.x7
  let t := (t.setX 5 (if r.origin = 0 || r.origin = 3 then 0 else r.creator.setWidth 64)).setX 6 ((r.recCore ++ r.recCount).setWidth 64)
  s.setTask k (t.setO 1 (s.argReg r.part r.arg))

/-! ## Deque events (R97, R98) -/

/-- DEQUE_POP: a free slot starts the bottom record; a fused-off cluster hosts no task (R10). -/
def State.pop (s : State) (c : CoreId) : State :=
  match (s.core c).deque, s.slotFor c with
  | r :: rest, some k =>
    if s.haltedAt c || !s.available (clusterOf c) || !canHost c r then s
    else (s.setCore c { s.core c with deque := rest }).startRecord k r
  | _, _ => s

/-- DEQUE_POP (R97). -/
def execDequePop (c : CoreId) (s : State) : Host.Outcome State Fault Refusal := happen (fun s => s.pop c) s

/-- The hardware reads a record or a spawn message of a core that an uncorrectable error has struck. DESIGN CHOICE (log entry 3): R240 raises
`uncorrectable` in the agent that consumes the block, and R230 has no agent for a core's deque; the die's task graph unit reports it. -/
def State.badRecord (s : State) (c : CoreId) : State :=
  match s.partOf (clusterOf c) with
  | some p => s.unitFault (.taskGraph (dieOf c)) p { code := .uncorrectable } 0 0
  | none => s

/-- SPILL_RETURN: records return to a deque that holds fewer than 64, in order. -/
def State.unspill (s : State) (c : CoreId) : State :=
  let k := s.core c
  if k.deque.length < 64 then
    let n := 64 - k.deque.length
    if (k.spill.take n).any (·.bad) then s.badRecord c
    else s.setCore c { k with deque := k.deque ++ k.spill.take n, spill := k.spill.drop n }
  else s

/-- SPILL_RETURN (R97). -/
def execSpillReturn (c : CoreId) (s : State) : Host.Outcome State Fault Refusal := happen (fun s => s.unspill c) s

/-- The stealing domain of a record reaches a thief from its victim (R98). -/
def reaches (dom : BitVec 2) (victim thief : CoreId) : Bool :=
  match dom.toNat with
  | 0 => false
  | 1 => clusterOf victim == clusterOf thief
  | 2 => dieOf victim == dieOf thief
  | _ => true

/-- Compute cores of a partition, ascending. -/
def State.coresOf (s : State) (p : Nat) : List CoreId :=
  (s.clustersOf p).flatMap (fun k => (List.range 8).map (8 * k + ·))

/-- The values of a list after `n`, then those up to it. -/
def after (n : Nat) (xs : List Nat) : List Nat := xs.filter (n < ·) ++ xs.filter (· ≤ n)

/-- The victim of an idle core's next steal, with the record it takes. -/
def State.victim (s : State) (c : CoreId) : Option (CoreId × Record) :=
  match s.partOf (clusterOf c) with
  | none => none
  | some p =>
    (after ((s.core c).lastVictim.getD c) (s.coresOf p)).findSome? (fun v =>
      match (s.logical v).getLast? with
      | some r => if v != c && canHost c r && reaches r.domain v c then some (v, r) else none
      | none => none)

/-- A core without the top record of its logical deque. -/
def Core.dropTop (k : Core) : Core :=
  if k.spill.isEmpty then { k with deque := k.deque.dropLast } else { k with spill := k.spill.dropLast }

/-- STEAL: an idle core of an available cluster takes the top record of a victim and starts it. -/
def State.stealBy (s : State) (c : CoreId) : State :=
  if s.haltedAt c || isM c || !s.available (clusterOf c) || !(s.logical c).isEmpty then s else
  match s.slotFor c, s.victim c with
  | some k, some (v, r) =>
    if r.bad then s.badRecord v else
    let s := s.setCore v (s.core v).dropTop
    (s.setCore c { s.core c with lastVictim := some v }).startRecord k r
  | _, _ => s

/-- STEAL (R98). -/
def execSteal (c : CoreId) (s : State) : Host.Outcome State Fault Refusal := happen (fun s => s.stealBy c) s

/-! ## Join words (R93 to R95) -/

/-- The address of a join word, once the acting task's own stores to its home are performed. -/
def joinPlace (s : State) (ptr : Word64) : Act (State × Nat) := do
  let a ← access s ptr 16 8
  need (!s.poisoned (a + 16) 8) s { code := .uncorrectable, ptr := ptr }
  let s ← releasedHome s (homeOf a)
  return (s, a + 16)

/-- Add to a join word, indivisibly at pkg scope. -/
def State.joinAdd (s : State) (a : Nat) (n : Word64) : State := s.pokeWord a (s.peekWord a + n)

/-! ## FORK (R93, R298) -/

/-- The clusters over which an M-core's FORK places records: the available ones of configured partitions (R298). -/
def State.openClusters (s : State) : List ClusterId :=
  (List.range 64).filter (fun k => s.available k && (s.partOf k).isSome)

/-- Where a FORK's record goes, and the state with the choice kept: 0 for the core's own deque, else a cluster plus one. -/
def State.forkTarget (s : State) (f : Fields) (r : Record) : Nat × State :=
  let c := s.myCore
  let k := s.core c
  if isM c then
    match (after (k.forkPos.getD 64) s.openClusters).head? with
    | some cl => (cl + 1, s.setCore c { k with forkPos := some cl })
    | none => (0, s)
  else
    match f.x.toNat / 16 % 4 with
    | 0 => if canHost c r then (0, s) else (clusterOf c + 1, s)
    | 1 => (clusterOf c + 1, s)
    | _ =>
      match (after (k.dieChoice.getD (clusterOf c)) ((s.clustersOf s.me.part).filter (fun x => dieOfCluster x == dieOf c))).head? with
      | some cl => (cl + 1, s.setCore c { k with dieChoice := some cl })
      | none => (clusterOf c + 1, s)

/-- A record in the partition and context that a cluster runs; a record of a partition's own task keeps them (R298). -/
def State.inCluster (s : State) (cl : ClusterId) (r : Record) : Record :=
  if r.part < 16 then r
  else match s.partOf cl with
    | some p => { r with part := p, ctx := (s.part p).ctx }
    | none => r

/-- Place a FORK's record at its target, if there is room. -/
def State.forkPut (s : State) (c : CoreId) (target : Nat) (r : Record) : Option State :=
  if target = 0 then (if isM c then none else s.pushAt c r) else s.pushCluster (target - 1) (s.inCluster (target - 1) r)

/-- The record that a FORK builds, without its record id. -/
def forkRecord (t : Task) (f : Fields) : Record :=
  { tenant := t.tenant, origin := 1, domain := if t.part < 16 then t.domain else 0
    acore := f.x.getLsbD 3 || f.x.toNat % 4 != 0, width := BitVec.ofNat 2 f.x.toNat, entry := entryOf t f
    arg := oCanon (t.getO f.a), join := oCanon (t.getO f.c), creator := t.tid
    x1 := t.getX 1, x2 := t.getX 2, x3 := t.getX 3, x4 := t.getX 4, launch := t.launch, part := t.part, ctx := t.ctx }

/-- The checks of a join object (R93). -/
def needJoin (s : State) (r : BitVec 128) : Act Unit := do
  check s r 0 8 8
  let (_, h) ← header s (oCanon r)
  needKind (hKind h == 0 && !hStaged h) s r h
  needOpen s r h

/-- A FORK whose join word has been counted makes and places its record, or waits with it for room (R93). -/
def forkGo (f : Fields) (s : State) : Res :=
  let (s, r) := s.stamp s.myCore (forkRecord s.me f)
  let s := s.deferX f.d ((r.recCore ++ r.recCount).setWidth 64)
  let (target, s) := s.forkTarget f r
  match s.forkPut s.myCore target r with
  | some s => .ok s
  | none => .park s { kind := .room, op := .fork, f := f, aux := target, record := some r }

/-- FORK (R93, R298): the checks, then the join word, and only then the record. -/
def forkBody (f : Fields) (s : State) : Res := Act.run do
  let arg := oCanon (s.me.getO f.a)
  need (!malformed arg) s { code := .nullPointer, eval := arg, ptr := arg }
  let j := s.me.getO f.c
  if oCanon j = 0 then return forkGo f s
  needJoin s j
  let (s, a) ← joinPlace s (oCanon j)
  return forkGo f (s.joinAdd a 1)

/-- FORK (R298). -/
def execFork (f : Fields) (s : State) : Host.Outcome State Fault Refusal := run .fork f (forkBody f) s

/-- FORK_PLACE (R93): a parked FORK's record is placed; an M-core's that had no open cluster chooses one now. -/
def State.forkPlaced (s : State) (k : TaskKey) : State :=
  match (s.task k).wait with
  | none => s
  | some w =>
    match w.record with
    | none => s
    | some r =>
      if (s.task k).status != .parked || w.kind != .room || w.op != .fork || s.haltedAt (coreOf k) then s
      else
        let s' : State := { s with cur := k }
        let (target, s') := if isM (coreOf k) && w.aux = 0 then s'.forkTarget w.f r else (w.aux, s')
        match s'.forkPut (coreOf k) target r with
        | some s' => (s'.wake k).complete k w.f
        | none => s

/-- FORK_PLACE (R93). -/
def execForkPlace (t : TaskKey) (s : State) : Host.Outcome State Fault Refusal := happen (fun s => s.forkPlaced t) s

/-! ## JOIN (R94, R307) -/

/-- JOIN (R94, R307). -/
def joinBody (f : Fields) (s : State) : Res := Act.run do
  let r := s.me.getO f.a
  let off := litOffset f
  check s r off 8 8
  let (_, h) ← header s (oCanon r)
  needKind (hKind h == 0 && !hStaged h) s r h off
  let bs ← readCanon s r off.toNat 8
  needOr (leNat bs == 0)
    (.park s { kind := .join, op := .join, f := f, object := oCanon r, offset := BitVec.ofInt 32 off })
  return .ok (s.fixObj (oCanon r) (16 + oView r + off.toNat) 8)

/-- JOIN (R307). -/
def execJoin (f : Fields) (s : State) : Host.Outcome State Fault Refusal := run .join f (joinBody f) s

/-- JOIN_WAKE (R94): a parked JOIN reads its word again. -/
def execJoinWake (t : TaskKey) (s : State) : Host.Outcome State Fault Refusal := happen (fun s => s.reissue t .join joinBody) s

/-! ## Ending a task (R95, R186, R353) -/

/-- The graph node of a task has finished (R105, R106). -/
def State.finishNode (s : State) (n : Word32) : State :=
  let d := bits n.toNat 16 2
  let die := s.die d
  s.setDie d { die with nodes := List.map (fun e => if e.1 == n.toNat % 65536 then (e.1, { e.2 with state := NodeState.finished }) else e) die.nodes }

/-- Release the building nodes that a task created (R106, R353): those whose count is 0 become ready at one moment. -/
def State.releaseNodes (s : State) (tid : Word32) : State :=
  let (at_, s) := s.arrive
  { s with dies := s.dies.mapVals (fun d => { d with
      nodes := d.nodes.mapVals (fun n =>
        if n.state == .building && n.creator == tid then { n with state := .released, readyAt := at_ } else n) }) }

/-- The pins of a slot end (R95); a copy may stand on another core than the slot after a migration. -/
def State.unpin (s : State) (k : TaskKey) : State :=
  { s with cores := s.cores.mapVals (fun c => { c with copies := c.copies.map (fun e => { e with pins := e.pins.filter (· != k) }) }) }

/-- The pins of a slot pass to another slot (R95, R109). -/
def State.passPins (s : State) (k d : TaskKey) : State :=
  { s with cores := s.cores.mapVals (fun c => { c with
      copies := c.copies.map (fun e => { e with pins := e.pins.map (fun x => if x == k then d else x) }) }) }

/-- A task ends as by HALT without retain: its node finishes, its building nodes are released, its mailboxes are left, and
its slot is free. -/
def State.endTask (s : State) (k : TaskKey) : State :=
  let t := s.task k
  let s := match t.node with
    | some n => s.finishNode n
    | none => s
  let s := (s.releaseNodes t.tid).leaveMailboxes (coreOf k) t.tid
  (s.unpin k).setTask k { Task.empty with gen := t.gen }

/-- HALT (R95, R302). -/
def haltBody (s : State) : Res := Act.run do
  let s ← landed s
  let s ← released s
  if s.me.join = 0 then return .gone (s.endTask s.cur)
  let (s, a) ← joinPlace s s.me.join
  return .gone ((s.joinAdd a (-1)).endTask s.cur)

/-- HALT (R302). -/
def execHalt (f : Fields) (s : State) : Host.Outcome State Fault Refusal := run .halt f (fun s => haltBody s) s

/-- The canonical pointers of the copies that touched registers among o1 to o7 name (R95). -/
def State.pinnable (s : State) (k : TaskKey) : List Word64 :=
  ([1, 2, 3, 4, 5, 6, 7].filterMap (fun n =>
    let r := (s.task k).getO (BitVec.ofNat 6 n)
    if oTouched r && (s.copyOf (coreOf k) (oCanon r)).isSome then some (oCanon r) else none)).eraseDups

/-- HALT with retain (R95, R302): the checks, then the successor in the same slot. -/
def haltRetainBody (f : Fields) (s : State) : Res := Act.run do
  let s ← landed s
  let k := s.cur
  let r := s.me.getO f.a
  check s r 0 64 16
  let ob ← objOf s r
  needKind (hKind ob.hdr == 0 && loadable s.me.priv ob.hdr) s r ob.hdr
  let s ← touch s f.a ob.hdr
  let bs ← readThrough s (s.me.getO f.a) 0 64
  let s ← released s
  let t := s.me
  let w (i : Nat) : Word64 := leWord ((bs.drop (8 * i)).take 8)
  let g := nextGen t.gen
  let tid := s.taskId k g
  let n : Task := { Task.empty with
    status := .ready, gen := g, tid := tid, pc := (t.getX f.b).setWidth 32
    width := t.width, acore := t.acore, tenant := t.tenant, domain := t.domain, part := t.part, ctx := t.ctx
    priv := t.priv, join := t.join, launch := t.launch, pins := s.pinnable k }
  let n := ((((n.setX 1 (w 4)).setX 2 (w 5)).setX 3 (w 6)).setX 4 (w 7)).setX 5 (t.tid.setWidth 64)
  let n := (List.range 7).foldl (fun (n : Task) i => n.setO (BitVec.ofNat 6 (i + 1)) (t.getO (BitVec.ofNat 6 (i + 1)))) n
  let s := match t.node with
    | some nd => s.finishNode nd
    | none => s
  let s := (s.releaseNodes t.tid).unpin k
  let c := s.core (coreOf k)
  let s := s.setCore (coreOf k) { c with
    copies := c.copies.map (fun e => if n.pins.contains e.canon then { e with pins := e.pins ++ [k] } else e)
    mailboxes := c.mailboxes.map (fun b => if b.taken && b.owner == t.tid then { b with owner := tid } else b) }
  return .gone (s.setTask k n)

/-- HALT with retain (R302). -/
def execHaltRetain (f : Fields) (s : State) : Host.Outcome State Fault Refusal := run .haltRetain f (haltRetainBody f) s


/-! ## YIELD and IDLE (R96, R304, R399) -/

/-- YIELD: a switch point, then the next pass of the rotation skips the slot. -/
def yieldBody (s : State) : Res := Act.run do
  let s ← landed s
  return .ok (s.setMe { s.me with skip := true })

/-- YIELD (R399). -/
def execYield (f : Fields) (s : State) : Host.Outcome State Fault Refusal := run .yield f (fun s => yieldBody s) s

/-- A task is resident on a core under an id, or an intercalary entry of the core names the id (R103). -/
def State.knows (s : State) (c : CoreId) (id : Word32) : Bool :=
  (List.range 8).any (fun i => (s.task (8 * c + i)).status != .free && (s.task (8 * c + i)).tid == id)
    || (s.core c).forward.toList.any (fun e => e.1 == id && id != 0)

/-- A message that a task of its core may receive: a data message with tag 0, with the task's id, or with an id that the core
no longer knows (R102, R103). -/
def State.mayTake (s : State) (c : CoreId) (tid : Word32) (m : Message) : Bool :=
  !m.spawn && (m.tag == 0 || m.tag == tid || !s.knows c m.tag)

/-- What is there for an IDLE at its switch point: a message that the task may receive, or a full mailbox of the core. -/
def State.idleEnds (s : State) (k : TaskKey) : Bool :=
  let c := coreOf k
  (s.core c).inbox.any (s.mayTake c (s.task k).tid) || (s.core c).mailboxes.toList.any (fun b => b.taken && b.full)

/-- IDLE (R96, R304). -/
def idleBody (f : Fields) (s : State) : Res := Act.run do
  let s ← landed s
  return if s.idleEnds s.cur then .ok s else .park s { kind := .idle, op := .idle, f := f }

/-- IDLE (R304). -/
def execIdle (f : Fields) (s : State) : Host.Outcome State Fault Refusal := run .idle f (idleBody f) s

/-- A parked IDLE goes on. -/
def State.idleWoken (s : State) (k : TaskKey) : State :=
  match (s.task k).wait with
  | none => s
  | some w =>
    if (s.task k).status == .parked && w.kind == .idle && (w.aux == 1 || s.idleEnds k) then
      (s.wake k).complete k w.f
    else s

/-- IDLE_WAKE (R96). -/
def execIdleWake (t : TaskKey) (s : State) : Host.Outcome State Fault Refusal := happen (fun s => s.idleWoken t) s

/-! ## Migration (R108 to R110) -/

/-- Another task of a core holds a canonical pointer in an o register (R109). -/
def State.heldByOther (s : State) (k : TaskKey) (canon : Word64) : Bool :=
  s.tasks.any (fun e => e.1 != k && coreOf e.1 == coreOf k && e.2.status != .free && e.2.o.toList.any (fun r => oCanon r == canon))

/-- A task's registers that hold a canonical pointer become untouched. -/
def State.untouchTask (s : State) (k : TaskKey) (canon : Word64) : State :=
  s.setTask k { s.task k with o := (s.task k).o.map (fun r => if oCanon r == canon then oSetTouched r false else r) }

/-- What stops the treatment of a moving task's copies: a fault, or a Gleaner that has stopped in a halt or a stalled channel. -/
abbrev Moving (α : Type) := Except (State × Option Flt) α

/-- A copy stays behind: its dirty blocks are written back, the moving task's registers become untouched, and the copy is dropped unless
another task of the old core holds its object (R109). -/
def State.leaveCopy (s : State) (k : TaskKey) (canon : Word64) : Moving State :=
  match s.copyOf (coreOf k) canon with
  | none => .ok s
  | some e =>
    if s.writeBackStalls (s.tablePart (s.task k)) e then .error (s, none) else
    match s.writeBack (s.tablePart (s.task k)) (coreOf k) e with
    | (s, some f) => .error (s, some { code := f, eval := canon, ptr := canon })
    | (s, none) =>
      let s := s.untouchTask k canon
      .ok (if s.heldByOther k canon then s else s.dropCopy (coreOf k) { e with dirty := [] })

/-- A free entry of a core's copy map, after one collection where the map is full. DESIGN CHOICE (log entry 43): R109 names no full map; it
is emptied as for a touch (R33), and where no entry comes free the copy stays behind. -/
def State.moveEntry (s : State) (p colour : Nat) (c : CoreId) : Moving (State × Bool) :=
  if (s.core c).copies.length < 512 then .ok (s, true)
  else
    match s.emptyMap c p colour with
    | (s, none) => .error (s, none)
    | (s, some _) => .ok (s, (s.core c).copies.length < 512)

/-- Room in a core's pad for a copy that moves there, after one collection if need be (R109). -/
def State.moveRoom (s : State) (p colour : Nat) (c : CoreId) (size : Nat) : Moving (State × Option Nat) :=
  match s.padRoom (.core c) colour size with
  | some off => .ok (s, some off)
  | none =>
    match s.collectNow p colour (.core c) with
    | (s, none) => .error (s, none)
    | (s, some _) => .ok (s, s.padRoom (.core c) colour size)

/-- A copy in the old core pad moves to the new core pad with its dirty marks and its pins (R109, R95). -/
def State.carryCopy (s : State) (k : TaskKey) (c : CoreId) (e : Copy) (off : Nat) : Moving State :=
  let old := coreOf k
  let s' := s.copyIn c (.core c) (s.task k).ctx off e.size e.canon (s.mem.readN e.copy.toNat e.size) false
  let s' := s'.setCopy c { e with copy := padPtr (.core c) off }
  let s' := s'.setCore old { s'.core old with copies := (s'.core old).copies.filter (fun x => x.canon != e.canon) }
  if s.poisoned e.copy.toNat e.size then .error (s, some { code := .uncorrectable, ptr := e.canon })
  else .ok { s' with pads := s'.pads.mapVals (fun a => { a with objs := a.objs.filter (fun o => o.copyOf != some (old, e.canon)) }) }

/-- A copy in the cluster pad is reassigned to the new core in place; registers of other tasks of the old core resolve through the
canonical object (R109). -/
def State.reassignCopy (s : State) (k : TaskKey) (c : CoreId) (e : Copy) : State :=
  let old := coreOf k
  let s : State := { s with pads := s.pads.mapVals (fun a => { a with
    objs := a.objs.map (fun o => if o.copyOf == some (old, e.canon) then { o with copyOf := some (c, e.canon) } else o) }) }
  let s := s.setCore old { s.core old with copies := (s.core old).copies.filter (fun x => x.canon != e.canon) }
  let s := s.setCore c { s.core c with copies := (s.core c).copies ++ [e] }
  s.tasks.foldl (fun s x => if coreOf x.1 == old && x.1 != k then s.untouchTask x.1 e.canon else s) s

/-- Treat the copy that o register `n` of a task that moves from `k` to a slot of core `c` names, whether the register is touched or not
(R109). A collection may move an object, so that the register is read again after one. -/
def State.moveCopy (k : TaskKey) (c : CoreId) (s : State) (n : BitVec 6) : Moving State := do
  let canon (s : State) : Word64 := oCanon ((s.task k).getO n)
  match s.copyOf (coreOf k) (canon s) with
  | none => return s
  | some e =>
    let inPad := padOf e.copy == some (.core (coreOf k))
    if (s.copyOf c (canon s)).isSome || (inPad && s.heldByOther k (canon s)) then s.leaveCopy k (canon s)
    else
      let p := s.tablePart (s.task k)
      let (s, entry) ← s.moveEntry p (s.task k).ctx c
      let (s, room) ← if entry && inPad then s.moveRoom p (s.task k).ctx c e.size else pure (s, none)
      match s.copyOf (coreOf k) (canon s), room with
      | none, _ => return s
      | some e, some off => s.carryCopy k c e off
      | some e, none => if entry && !inPad then return s.reassignCopy k c e else s.leaveCopy k (canon s)

/-- Treat the copies of a moving task, register by register. -/
def State.moveCopies (k : TaskKey) (c : CoreId) (s : State) : List Nat → Moving State
  | [] => .ok s
  | n :: ns => do (← s.moveCopy k c (BitVec.ofNat 6 n)).moveCopies k c ns

/-- The task itself moves to its slot (R109, R110): its full mailboxes, its nodes and pins, an intercalary entry `e` on the old core,
and the messages for its old id. -/
def State.transfer (s : State) (k d : TaskKey) (e : Nat) : State :=
  let old := coreOf k
  let c := coreOf d
  let t := s.task k
  let g := nextGen (s.task d).gen
  let tid := s.taskId d g
  let boxes := s.boxesOf old t.tid true
  let s := boxes.foldl (fun s m =>
    ((s.pokeWord (s.boxAddr c t.ctx m) (s.peekWord (s.boxAddr old t.ctx m))).setMailbox c m { s.mailbox old m with owner := tid }).releaseMailbox
      old m) s
  let s : State := { s with dies := s.dies.mapVals (fun x => { x with
    nodes := x.nodes.mapVals (fun n => if n.creator == t.tid then { n with creator := tid } else n) }) }
  let s := (s.setTask d { t with status := .ready, wait := none, gen := g, tid := tid }).passPins k d
  let s := s.setTask k { Task.empty with gen := t.gen }
  let (n, s) := s.arrive
  let o := s.core old
  let moved := (o.inbox.filter (fun m => !m.spawn && m.tag == t.tid)).map (fun m =>
    { m with target := c, tag := tid, routed := false, held := false, seq := n })
  let s := s.setCore old { o with
    forward := o.forward.setIfInBounds e (t.tid, tid), entryMade := n
    inbox := o.inbox.filter (fun m => m.spawn || m.tag != t.tid) }
  { s with mesh := s.mesh ++ moved }

/-- A full mailbox of a task, whose word would move with it, stands in a block that an uncorrectable error has struck (R186, R240). -/
def State.boxStruck (s : State) (k : TaskKey) : Bool :=
  let t := s.task k
  (s.boxesOf (coreOf k) t.tid true).any (fun m => s.poisoned (s.boxAddr (coreOf k) t.ctx m) 8)

/-- Move a task to a reserved slot (R109, R110): its stores, then its copies, then the task, once a collection of either core's pad has
ended (R47); a fault stops it, a struck mailbox too, and a store or a write-back that a channel stalls, or a Gleaner that has stopped in a halt, makes it wait. -/
def State.moveTask (s : State) (k d : TaskKey) (e : Nat) : State :=
  let ctx := (s.task k).ctx
  let s := (((s.meet (.core (coreOf k)) ctx).meet (.core (coreOf d)) ctx)).drainAll k
  if !(s.task k).sb.isEmpty then s
  else
    match s.moveCopies k (coreOf d) (List.range 32) with
    | .error (s, some f) => s.raise k f
    | .error (s, none) => s
    | .ok s =>
      if (s.task k).status != .parked then s
      else if s.boxStruck k then s.raise k { code := .uncorrectable }
      else s.transfer k d e

/-- MIGRATION: a waiting task takes its slot, and moves once an intercalary entry of its old core is free. DESIGN CHOICE (log entry 52):
R110 does not say which free entry a migration takes; it takes the lowest-numbered one. -/
def State.migrate (s : State) (k : TaskKey) : State :=
  match (s.task k).wait with
  | none => s
  | some w =>
    if (s.task k).status != .parked || w.kind != .migration || s.haltedAt (coreOf k) then s
    else
      match if w.aux = 0 then (if s.nextMigrant (clusterOf (coreOf k)) == some k then s.canReserve k else none) else some (w.aux - 1) with
      | none => s
      | some d =>
        let s : State := { (s.setTask k { s.task k with wait := some { w with aux := d + 1 } }) with cur := k }
        match (List.range 16).find? (fun e => ((s.core (coreOf k)).forward[e]?.getD (1, 1)).1 == 0) with
        | some e => s.moveTask k d e
        | none => s

/-- MIGRATION (R108, R109). -/
def execMigration (t : TaskKey) (s : State) : Host.Outcome State Fault Refusal := happen (fun s => s.migrate t) s

/-- ICOLD_WRITE (R110): a write of 0 clears an intercalary entry; another value is ignored. -/
def execIcoldWrite (c : CoreId) (e : Nat) (v : Word32) (s : State) : Host.Outcome State Fault Refusal :=
  happen (fun s => if v = 0 then s.setCore c { s.core c with forward := (s.core c).forward.setIfInBounds e (0, 0) } else s) s

end Sys2Proof.Machine
end

