-- ==== Sys2Proof/Machine/Messages.lean ====
section
/-!
DEFINITION. Messages between cores (spec/06_tasks.md R100 to R104, R110; R223, R338, R344).
-/

namespace Sys2Proof.Machine

/-! ## Inboxes (R100, R101) -/

/-- Entries of an inbox that a message has taken: those that have arrived and those held for a message on its way. -/
def State.entries (s : State) (c : CoreId) : Nat :=
  (s.core c).inbox.length + (s.mesh.filter (fun m => m.target == c && m.held && s.runs m.part m.ctx)).length

/-- Senders parked on an inbox, in order of arrival; each waits with the number that its message has in the mesh. -/
def State.senders (s : State) (c : CoreId) : List (TaskKey × Wait) :=
  sortBy (fun a b => a.2.order ≤ b.2.order) (s.tasks.filterMap (fun e =>
    match e.2.wait with
    | some w => if e.2.status == .parked && w.kind == .send && s.mesh.any (fun m => m.seq == w.aux && m.target == c) then some (e.1, w) else none
    | none => none))

/-- The router of a message's destination delivers it (R101, R223, R262): the supervisor's traffic always; other traffic to a
compute core by the tenant test, and to an M-core never. -/
def State.delivers (s : State) (m : Message) : Bool :=
  m.tenant == superTenant || (!isM m.target && s.routerPasses m.tenant (clusterOf m.target))

/-- Where a target id leads (R101): a core of this package, another package, or nowhere. -/
inductive SendTo where
  | core (c : CoreId)
  | away
  | noRoute
  | refused

/-- The core that a SEND of the acting task reaches: one of its partition, in an available cluster, whose router admits it. -/
def State.sendTo (s : State) (addr : BitVec 16) : SendTo :=
  let pkg := addr.toNat / 512
  if pkg != 127 && pkg != s.plat.package.toNat then
    if s.routeOk (dieOf s.myCore / 2) pkg then .away else .noRoute
  else
    match s.coreAt addr with
    | none => .refused
    | some c =>
      let t := s.me
      if isM c then (if t.tenant == superTenant then .core c else .refused)
      else if !s.available (clusterOf c) then .refused
      else if t.tenant == superTenant then .core c
      else if s.partOf (clusterOf c) == some t.part && s.routerPasses t.tenant (clusterOf c) then .core c else .refused

/-! ## SEND (R101, R104, R344) -/

/-- The record in a spawn message's 64 bytes, with what the hardware sets (R92, R104). -/
def spawnRecord (t : Task) (bs : List Byte) : Record :=
  let w (i : Nat) : Word64 := leWord ((bs.drop (8 * i)).take 8)
  let w0 := (w 0).toNat
  { tenant := t.tenant, origin := 2, domain := t.domain, acore := w0.testBit 35 || bits w0 32 2 != 0
    width := BitVec.ofNat 2 (bits w0 32 2), entry := BitVec.ofNat 32 w0, arg := w 1, join := w 2, creator := t.tid
    x1 := w 4, x2 := w 5, x3 := w 6, x4 := w 7, launch := t.launch, part := t.part, ctx := t.ctx }

/-- SEND: the checks, the 64 bytes, and the message on its way; its result, the free entries after it, comes once it has entered its inbox.
A message that finds its inbox full waits in the mesh with its parked sender. -/
def sendBody (spawn : Bool) (o : Op) (f : Fields) (s : State) : Res := Act.run do
  let r := s.me.getO f.a
  let b := s.me.getX f.b
  check s r 0 64 8
  let ob ← objOf s r
  needKind (loadable s.me.priv ob.hdr) s r ob.hdr
  need (b.toNat / 2 ^ 32 == 0) s { code := .bounds, eval := b, ptr := oCanon r, offset := b }
  -- a spawn message's record is tested before the read that touches
  let rec0 ← readThrough s r 0 (if spawn then 64 else 0)
  let w0 := leNat (rec0.take 8)
  needKind (!spawn || (bits w0 40 8 == 0 && !w0.testBit 34 && bits w0 0 32 != 0)) s r ob.hdr
  let s ← touch s f.a ob.hdr
  let bs ← readThrough s (s.me.getO f.a) 0 64
  let addr : BitVec 16 := BitVec.ofNat 16 (b.toNat / 65536)
  let s ← match s.coreAt addr with
    | some c => releasedAt (scopeCores s.myCore c) (dieOf c) s
    | none => released s
  match s.sendTo addr with
  | .noRoute => .error (.fault s { code := .region, ptr := oCanon r })
  | .refused => .error (.fault s { code := .remotePermission, ptr := oCanon r })
  | .away =>
    let pkg := addr.toNat / 512
    let (n, s) := (s.requestOver (dieOf s.myCore / 2) pkg).fresh
    return .ok (s.defer { dest := .x f.d, val := (Config.word n &&& 0x3F).setWidth 4096, peer := s.viaOver (dieOf s.myCore / 2) pkg })
  | .core c =>
    let (s, rec) := if spawn then s.stamp s.myCore (spawnRecord s.me bs) else (s, spawnRecord s.me bs)
    let (n, s) := s.arrive
    let room := s.entries c < 64 && (s.senders c).isEmpty
    let m : Message :=
      { target := c, tag := if spawn || b.toNat % 65536 = 0 then 0 else b.setWidth 32, sender := s.me.tid, tenant := s.me.tenant
        spawn := spawn, orphan := false, bytes := bs, record := if spawn then some rec else none, held := room, seq := n
        pc := s.me.pc, part := s.me.part, ctx := s.me.ctx }
    let s : State := { s with mesh := s.mesh ++ [m] }
    if room then return .ok (s.defer { dest := .x f.d, msg := some n })
    else return .park s { kind := .send, op := o, f := f, object := addr.setWidth 64, aux := n }

/-- SEND (R344). -/
def execSend (f : Fields) (s : State) : Host.Outcome State Fault Refusal := run .send f (sendBody false .send f) s

/-- SEND of a spawn message (R104, R344). -/
def execSendSpawn (f : Fields) (s : State) : Host.Outcome State Fault Refusal := run .sendSpawn f (sendBody true .sendSpawn f) s

/-- SEND_INBOX_ENTRY (R101): the oldest parked sender of an inbox takes an entry that has become free. -/
def State.senderEnters (s : State) (c : CoreId) : State :=
  match s.senders c with
  | [] => s
  | (k, w) :: _ =>
    if s.entries c < 64 then
      let s : State := { s with mesh := s.mesh.map (fun m => if m.seq == w.aux && m.target == c then { m with held := true } else m) }
      let s : State := { s.wake k with cur := k }
      (s.defer { dest := .x w.f.d, msg := some w.aux }).complete k w.f
    else s

/-- SEND_INBOX_ENTRY (R101). -/
def execSendInboxEntry (c : CoreId) (s : State) : Host.Outcome State Fault Refusal := happen (fun s => s.senderEnters c) s

/-! ## On the way (R102, R110, R223) -/

/-- The id that a task has now, when an intercalary entry gives it a newer one, by fuel (R110). -/
def State.idNow (s : State) : Nat → Word32 → Word32
  | 0, id => id
  | fuel + 1, id =>
    match s.cores.findSome? (fun e => e.2.forward.toList.find? (fun x => x.1 == id && id != 0)) with
    | some x => s.idNow fuel x.2
    | none => id

/-- The slot that a task id names on this package. -/
def slotOfId (c : CoreId) (id : Word32) : TaskKey := 8 * c + id.toNat % 8

/-- The result of a SEND whose message has entered its inbox: the free entries there (R101); a task that waits for it goes on. -/
def Task.answer (t : Task) (n v : Nat) : Task :=
  { t with pend := t.pend.map (fun p => if p.msg == some n then { p with msg := none, val := BitVec.ofNat 4096 v } else p) }

/-- A message has entered an inbox: its sender's result is there, whether the sender is in or swapped out. -/
def State.answer (s : State) (n v : Nat) : State :=
  { s with
    tasks := s.tasks.mapVals (·.answer n v)
    shadow := s.shadow.map (fun w => { w with tasks := w.tasks.mapVals (·.answer n v) }) }

/-- A dropped message raises `remote-permission` in its sender, at its SEND, whose result is not written (R223, R233, R344): in a resident
task; of one that has stopped, is swapped out or has ended, a report goes to its partition. A task does not end before the messages that it
has sent have entered an inbox (R95, R101), so that only one sent on to a moved task is left without its sender. -/
def State.dropMessage (s : State) (m : Message) : State :=
  let id := s.idNow 16 m.sender
  let info : StopInfo := { code := some .remotePermission, pos := m.pc, epc := m.pc, atIssue := false }
  match s.taskWithId id with
  | some k =>
    if (s.task k).status == .stopped then s.report (s.task k).controller { agent := .task k, info := info, tid := id }
    else
      (s.setTask k { s.task k with pend := (s.task k).pend.filter (fun p => p.msg != some m.seq) }).raiseAt k { code := .remotePermission } m.pc m.pc false
  | none =>
    match s.shadow.findSome? (fun v => v.tasks.find? (fun e => e.2.status != .free && e.2.tid == id)) with
    | some e => s.report e.2.controller { agent := .task e.1, info := info, tid := id }
    | none =>
      match s.coreAt (BitVec.ofNat 16 (id.toNat / 65536)) with
      | some c => s.report (min m.part 16) { agent := .task (slotOfId c id), info := info, tid := id }
      | none => s

/-- ROUTER_DELIVERY (R223): the destination's router passes the message, or drops it. -/
def State.route (s : State) (i : Nat) : State :=
  match s.mesh[i]? with
  | none => s
  | some m =>
    if m.routed then s
    else if s.delivers m then { s with mesh := s.mesh.set i { m with routed := true } }
    else ({ s with mesh := s.mesh.eraseIdx i } : State).dropMessage m

/-- ROUTER_DELIVERY (R223). -/
def execRouterDelivery (i : Nat) (s : State) : Host.Outcome State Fault Refusal := happen (fun s => s.route i) s

/-- Message `i` of the mesh may arrive now: its router has passed it, it holds an entry or one is free for a forwarded one, and
no earlier message between the same cores, or for the same moved task, is still on its way (R102, R110). -/
def State.mayArrive (s : State) (i : Nat) : Bool :=
  match s.mesh[i]? with
  | none => false
  | some m =>
    m.routed && s.runs m.part m.ctx && (m.held || (!s.tasks.any (fun e => match e.2.wait with
        | some w => e.2.status == .parked && w.kind == .send && w.aux == m.seq && (s.task e.1).tid == m.sender
        | none => false) && s.entries m.target < 64))
      && !(s.mesh.take i).any (fun x => x.target == m.target && (x.sender.toNat / 65536 == m.sender.toNat / 65536 || (x.tag == m.tag && m.tag != 0)))

/-- A message stands in an inbox: the IDLEs of the core's tasks that may receive it end (R96). -/
def State.enterInbox (s : State) (m : Message) : State :=
  let s := s.setCore m.target { s.core m.target with inbox := (s.core m.target).inbox ++ [m] }
  s.endIdle (fun k t => coreOf k == m.target && s.mayTake m.target t.tid m)

/-- MESSAGE_ARRIVAL (R101, R110): a message takes its place in the inbox, or is sent on to the core that its task moved to; the result of its
SEND counts the entries that are free with it in the inbox. -/
def State.messageArrives (s : State) (i : Nat) : State :=
  match s.mesh[i]? with
  | none => s
  | some m =>
    if !s.mayArrive i then s
    else
      let s : State := { s with mesh := s.mesh.eraseIdx i }
      let s := s.answer m.seq (64 - min 64 (s.entries m.target + 1))
      let c := s.core m.target
      match (if m.spawn || m.tag == 0 then none else c.forward.toList.find? (fun e => e.1 == m.tag)) with
      | some e =>
        match s.coreAt (BitVec.ofNat 16 (e.2.toNat / 65536)) with
        | some d =>
          let (n, s) := s.arrive
          { s with mesh := s.mesh ++ [{ m with target := d, tag := e.2, routed := false, held := false, seq := n }] }
        | none => s.enterInbox m
      | none =>
        let stale := m.tag != 0 && !s.knows m.target m.tag
        s.enterInbox (if stale then { m with tag := 0, orphan := true } else m)

/-- MESSAGE_ARRIVAL (R101). -/
def execMessageArrival (i : Nat) (s : State) : Host.Outcome State Fault Refusal := happen (fun s => s.messageArrives i) s

/-- The count that INFLIGHT reads: messages for the core that entered the mesh before its newest intercalary entry was made (R110). -/
def State.inflight (s : State) (c : CoreId) : Nat :=
  (s.mesh.filter (fun m => m.target == c && m.seq < (s.core c).entryMade)).length

/-- SPAWN_PUSH (R104): the oldest spawn message of an inbox whose record finds room leaves its entry. -/
def State.spawnPushed (s : State) (c : CoreId) : State :=
  let box := (s.core c).inbox
  match box.zipIdx.findSome? (fun q => match q.1.record with
      | some r =>
        if q.1.spawn && !isM c then (s.pushAt c (s.inCluster (clusterOf c) r)).map (fun s' => (q.2, s')) else none
      | none => none) with
  | some (i, s') => if (box[i]?.map (·.bad)).getD false then s.badRecord c else s'.setCore c { s'.core c with inbox := (s'.core c).inbox.eraseIdx i }
  | none => s

/-- SPAWN_PUSH (R104). -/
def execSpawnPush (c : CoreId) (s : State) : Host.Outcome State Fault Refusal :=
  happen (fun s => if s.haltedAt c then s else s.spawnPushed c) s

/-! ## RECV (R102, R338) -/

/-- RECV: the checks of a store, then the oldest message that the task may take. -/
def recvBody (f : Fields) (s : State) : Res := Act.run do
  let r := s.me.getO f.d
  let c := s.myCore
  check s r 0 64 8
  let ob ← storeObj s r false
  needKind (storable s (oCanon r) s.me.priv ob.hdr 0) s r ob.hdr
  needOpen s r ob.hdr
  match (s.core c).inbox.findIdx? (s.mayTake c s.me.tid) with
  | none =>
    if f.x.getLsbD 0 then return .ok (s.deferX f.a 0)
    else return .park s { kind := .recv, op := .recv, f := f, object := (s.coreAddr c).setWidth 64 }
  | some i =>
    match (s.core c).inbox[i]? with
    | none => return .ok s
    | some m =>
      need (!m.bad) s { code := .uncorrectable }
      let orphan := m.orphan || (m.tag != 0 && m.tag != s.me.tid)
      let s ← touch s f.d ob.hdr
      let s ← writeThrough s (s.me.getO f.d) 0 m.bytes
      let s := s.setCore c { s.core c with inbox := (s.core c).inbox.erase m }
      return .ok (s.deferX f.a (if orphan then 2 else 1))

/-- RECV (R338). -/
def execRecv (f : Fields) (s : State) : Host.Outcome State Fault Refusal := run .recv f (recvBody f) s

/-- A message waits that a parked RECV comes first for, in order of parking (R338). -/
def State.recvTurn (s : State) (k : TaskKey) : Bool :=
  let c := coreOf k
  match (s.core c).inbox.find? (s.mayTake c (s.task k).tid) with
  | none => false
  | some m =>
    match (s.waiters .recv 0).find? (fun e => coreOf e.1 == c && s.mayTake c (s.task e.1).tid m) with
    | some e => e.1 == k
    | none => false

/-- RECV_DELIVERY (R102, R338). -/
def execRecvDelivery (t : TaskKey) (s : State) : Host.Outcome State Fault Refusal :=
  happen (fun s => if s.recvTurn t then s.reissue t .recv recvBody else s) s

end Sys2Proof.Machine
end

