-- ==== Sys2Proof/Machine/Matrix.lean ====
section
/-!
DEFINITION. The matrix engine: queues and arbiter, commands and bindings, tile passes, accumulators (R141 to R156; R283, R315,
R319 to R323).
-/

namespace Sys2Proof.Machine

/-! ## Formats (R124, R144) -/

/-- Bits of an element of a format code in storage: CB4 and D4 take 4, D8 takes 8. -/
def opBits (code : Nat) : Nat := storeBits code

/-- K per step of one format (R124). -/
def kStep (code : Nat) : Nat :=
  if code = 11 then 256 else
  match opBits code with
  | 16 | 32 => 64
  | 8 => 128
  | _ => 256

/-- Bits of an element's value, by which one operand of a product is wider than another: a byte holds 6 bits of E3M2 and E2M3 (R112). -/
def valueBits (code : Nat) : Nat := if code = 4 || code = 5 then 6 else opBits code

/-- K per step of a command: the wider operand's for MMA, 256 for MSBP (R144, R124). DESIGN CHOICE (log entry 40): D8 beside another
8-bit format is as wide as it, and R124 gives the two different steps; the smaller one holds. -/
def MCmd.ks (c : MCmd) : Nat :=
  if c.kind = .msbp then 256
  else if valueBits c.fb < valueBits c.fa then kStep c.fa
  else if valueBits c.fa < valueBits c.fb then kStep c.fb
  else min (kStep c.fa) (kStep c.fb)

/-- K of a command. -/
def MCmd.k (c : MCmd) : Nat := c.steps * c.ks

/-- The value of an element of an operand: a CB4 code stands for its codebook entry, differences are unsigned (R124). -/
def operandValue (cb : Codebook) (code b : Nat) : Val :=
  if code = 9 then (fmtOf 0).value (cb.entry b) else valueOf code b

/-- Elements `k` to `k + n` of row `i` of an operand of `K` elements a row, in storage bytes `bs` of that span. -/
def unpack (code n : Nat) (bs : List Byte) : List Nat :=
  let w := opBits code
  let v := leNat bs
  (List.range n).map (fun j => bits v (w * j) w)

/-- A span of a row (or column) of an operand. -/
def State.opSpan (s : State) (a : Nat) (r : BitVec 128) (code K i k n : Nat) : List Nat :=
  unpack code n (s.engineRead a r ((i * K + k) * opBits code / 8) (n * opBits code / 8))

/-! ## Bound records (R145) -/

/-- Bytes that a bound record takes for a command of K elements: a scale tile, or a base-and-step record. -/
def recordExtent (kind K : Nat) : Nat := if kind = 2 then 256 * (K / 64) else 64 * (64 * ((K + 2047) / 2048))

/-- The scale of row or column `r` and K block `b`. -/
def State.scaleOf (s : State) (bind : Option (Binding × Nat)) (K r b : Nat) : Val :=
  match bind with
  | none => .fin false 1 0
  | some (bd, a) =>
    let S := 64 * ((K + 2047) / 2048)
    let x := leNat (s.engineRead a bd.reg (r * S + b) 1)
    if bd.kind = 0 then valueOf 15 x else ue4m3 x

/-- The addresses of a command's operands and records, or the first fault among them. -/
structure Placed where
  a : Nat := 0
  b : Nat := 0
  sa : Option (Binding × Nat) := none
  sb : Option (Binding × Nat) := none
  tab : Option (Binding × Nat) := none

/-- Bytes of an operand. -/
def MCmd.extent (c : MCmd) (code : Nat) : Nat := 64 * c.k * opBits code / 8

/-- Place an object register of a command with `n` bytes of its view: its address, or a fault with the failing address. -/
def State.placeReg (s : State) (p : Nat) (r : BitVec 128) (n : Nat) : Except Flt Nat :=
  match s.enginePlace p (oCanon r) (16 + oView r + n) with
  | .error c => .error { code := c, ptr := oCanon r, offset := BitVec.ofNat 64 (oView r) }
  | .ok a => .ok a

/-- The first poisoned block among spans of memory that belong to registers (R155, R240); a span gives its register, the address of the
register's view, its own address and its length. -/
def State.poisonIn (s : State) (spans : List (BitVec 128 × Nat × Nat × Nat)) : Option Flt :=
  spans.findSome? (fun x => (s.poison.find? (fun b => b < x.2.2.1 + x.2.2.2 && x.2.2.1 < b + 64)).map (fun b =>
    { code := .uncorrectable, ptr := oCanon x.1, offset := blockOffset (oView x.1) x.2.1 b }))

/-- Place a bound record. -/
def State.placeBind (s : State) (p : Nat) (b : Option Binding) (n : Nat) : Except Flt (Option (Binding × Nat)) :=
  match b with
  | none => .ok none
  | some b => (s.placeReg p b.reg n).map (fun a => some (b, a))

/-- Place everything a command reads: a region that it needs is missing whichever step it is for. -/
def State.placeCmd (s : State) (c : MCmd) : Except Flt Placed := do
  let a ← s.placeReg c.part c.oa (c.extent c.fa)
  let b ← s.placeReg c.part c.ob (c.extent c.fb)
  let sa ← s.placeBind c.part (if c.scaled then c.scaleA else none) (recordExtent 0 c.k)
  let sb ← s.placeBind c.part (if c.scaled || c.kind = .msbp then c.scaleB else none)
    (recordExtent (if c.kind = .msbp then 2 else 0) c.k)
  let tab ← s.placeBind c.part c.tab (3072 * (c.k / 64))
  return { a := a, b := b, sa := sa, sb := sb, tab := tab }

/-! ## K steps (R124 to R126, R148, R320) -/

/-- A tile from its elements; +0 is not listed. -/
def makeTile (g : Nat → Nat → Word32) : FMap Word32 :=
  (List.range 4096).filterMap (fun k =>
    let v := g (k / 64) (k % 64)
    if v = 0 then none else some (k, v))

/-- Element (i, c) of a tile. -/
def tileAt (t : FMap Word32) (i c : Nat) : Word32 := t.find (64 * i + c) 0

/-- The dense sum of row `i` and column `c` over K step `t`, rounded to FP32. -/
def State.denseSum (s : State) (m : MCmd) (pl : Placed) (rows cols : List (List Val)) (t i c : Nat) : Nat :=
  let a := rows.getD i []
  let b := cols.getD c []
  let prods := (a.zip b).map (fun p => p.1.mul p.2)
  let total :=
    if m.scaled then
      Val.sum ((chunksOf 32 (m.ks + 1) prods).zipIdx.map (fun q =>
        let blk := t * m.ks / 32 + q.2
        (Val.sum q.1).mul ((s.scaleOf pl.sa m.k i blk).mul (s.scaleOf pl.sb m.k c blk))))
    else Val.sum prods
  (fp32.round .ne false total).1

/-- The sum of group `g` of row `i` and column `c` of an MSBP command (R125, R126). -/
def State.groupSum (s : State) (m : MCmd) (pl : Placed) (acts : List Val) (col : List Nat) (c g : Nat) : Nat :=
  if m.fb = 9 then (sbpGroup m.cb acts col).1
  else
    let G := m.k / 64
    let perm := match pl.tab with
      | some (b, a) => leNat (s.engineRead a b.reg (48 * (c * G + g)) 48)
      | none => 0
    let bs := match pl.sb with
      | some (b, a) => leNat (s.engineRead a b.reg (4 * (c * G + g)) 4)
      | none => 0
    let sorted := (List.range 64).map (fun j => acts.getD (bits perm (6 * j) 6) (.fin false 0 0))
    sortedGroup sorted col ((fmtOf 0).value (bs % 2 ^ 16)) ((fmtOf 0).value (bs / 2 ^ 16))

/-- One K step of a command on its accumulator: the whole working tile becomes the committed copy (R151). -/
def State.kStepRun (s : State) (m : MCmd) (pl : Placed) (acc : Acc) (t : Nat) : Acc :=
  let k0 := t * m.ks
  let work :=
    if m.kind = .mma then
      let rows := (List.range 64).map (fun i => (s.opSpan pl.a m.oa m.fa m.k i k0 m.ks).map (operandValue m.cb m.fa))
      let cols := (List.range 64).map (fun c => (s.opSpan pl.b m.ob m.fb m.k c k0 m.ks).map (operandValue m.cb m.fb))
      makeTile (fun i c =>
        BitVec.ofNat 32 (add32 (tileAt acc.work i c).toNat (fp32.value (s.denseSum m pl rows cols t i c))))
    else
      let rows := (List.range 64).map (fun i => (s.opSpan pl.a m.oa m.fa m.k i k0 m.ks).map (valueOf m.fa))
      let cols := (List.range 64).map (fun c => s.opSpan pl.b m.ob m.fb m.k c k0 m.ks)
      makeTile (fun i c => BitVec.ofNat 32 ((List.range 4).foldl (fun w g =>
        add32 w (fp32.value (s.groupSum m pl (((rows.getD i []).drop (64 * g)).take 64)
          (((cols.getD c []).drop (64 * g)).take 64) c (4 * t + g)))) (tileAt acc.work i c).toNat))
  { work := work, tile := work, count := acc.count + 1, bad := false }

/-- The spans of memory that K step `t` of a command reads: 64 rows of A, 64 columns of B, and the records' bytes for the step. -/
def MCmd.stepSpans (m : MCmd) (pl : Placed) (t : Nat) : List (BitVec 128 × Nat × Nat × Nat) :=
  let rows (r : BitVec 128) (a code : Nat) : List (BitVec 128 × Nat × Nat × Nat) := (List.range 64).map (fun i =>
    (r, a + 16 + oView r, a + 16 + oView r + (i * m.k + t * m.ks) * opBits code / 8, m.ks * opBits code / 8))
  let rec_ (b : Option (Binding × Nat)) (off : Nat → Nat) (n : Nat) : List (BitVec 128 × Nat × Nat × Nat) :=
    match b with
    | none => []
    | some (b, a) => (List.range 64).map (fun i => (b.reg, a + 16 + oView b.reg, a + 16 + oView b.reg + off i, n))
  let S := 64 * ((m.k + 2047) / 2048)
  let G := m.k / 64
  let scale (i : Nat) : Nat := i * S + t * m.ks / 32
  rows m.oa pl.a m.fa ++ rows m.ob pl.b m.fb
  ++ (if m.kind = .mma then rec_ pl.sa scale (m.ks / 32) ++ rec_ pl.sb scale (m.ks / 32)
      else rec_ pl.sb (fun c => 4 * (c * G + 4 * t)) 16 ++ rec_ pl.tab (fun c => 48 * (c * G + 4 * t)) 192)

/-- What a pass came to: the accumulator with the steps it committed, the next step, and the fault that ended it. -/
structure Pass where
  acc : Acc
  next : Nat
  fault : Option Flt := none

/-- The address that stands for an accumulator in an error and in the record of one (R240; the numbering is the model's, log entry 3). -/
def accAddr (c n : Nat) : Nat := 2 ^ 76 + 64 * (8 * c + n)

/-- Up to `n` K steps from step `t`: a step that meets a poisoned block, or a poisoned accumulator, is discarded and ends the pass; those
before it are committed (R155). -/
def State.runSteps (s : State) (c : CoreId) (m : MCmd) (pl : Placed) : Nat → Nat → Acc → Pass
  | 0, t, acc => { acc := acc, next := t }
  | n + 1, t, acc =>
    if acc.bad then { acc := acc, next := t, fault := some { code := .uncorrectable, offset := BitVec.ofNat 64 (accAddr c m.acc) } }
    else
      match s.poisonIn (m.stepSpans pl t) with
      | some f => { acc := acc, next := t, fault := some f }
      | none => s.runSteps c m pl n (t + 1) (s.kStepRun m pl acc t)

/-! ## The arbiter (R142, R156) -/

/-- The first core of a cluster. -/
def firstCore (k : ClusterId) : CoreId := 8 * k

/-- A queue of the cluster holds a command. -/
def State.queued (s : State) (k : ClusterId) (q : Nat) : Bool := !(s.core (firstCore k + q)).queue.isEmpty

/-- The engine asks for leave for its next pass. -/
def State.askPass (s : State) (k : ClusterId) : State :=
  let cl := s.cluster k
  (s.setCluster k { cl with asked := true }).askLeave (.engine k) (firstCore k + cl.queue)

/-- A command has arrived at core `c`'s queue: an idle engine takes it with credit 1. -/
def State.arrived (s : State) (c : CoreId) : State :=
  let k := clusterOf c
  let cl := s.cluster k
  if cl.asked then s else (s.setCluster k { cl with queue := c % 8, credit := 1 }).askPass k

/-- A pass has ended: the arbiter keeps the queue below its weight, else moves to the next one with a command. -/
def State.nextPass (s : State) (k : ClusterId) : State :=
  let cl : Cluster := { s.cluster k with leave := false, asked := false }
  let q := cl.queue
  if s.queued k q && cl.credit < (s.core (firstCore k + q)).weight.toNat then
    (s.setCluster k { cl with credit := cl.credit + 1 }).askPass k
  else
    match ((List.range 6).map (fun i => (q + 1 + i) % 6)).find? (s.queued k) with
    | some n => (s.setCluster k { cl with queue := n, credit := 1 }).askPass k
    | none => s.setCluster k cl

/-- The oldest command of a queue has completed: it leaves, and tasks that wait for an entry try again. -/
def State.popCmd (s : State) (c : CoreId) : State :=
  (s.setCore c { s.core c with queue := (s.core c).queue.drop 1, qhead := (s.core c).qhead + 1 }).wakeAll .queue c

/-- The accumulator of a command's core. -/
def State.accOf (s : State) (c : CoreId) (n : Nat) : Acc := (s.core c).acc[n]?.getD ⟨[], [], 0, false⟩

/-- Replace an accumulator. -/
def State.setAcc (s : State) (c : CoreId) (n : Nat) (v : Acc) : State :=
  s.setCore c { s.core c with acc := (s.core c).acc.setIfInBounds n v }

/-- The element bytes of a drained tile (R148, R112). -/
def drainBytes (code : Nat) (sat : Bool) (t : FMap Word32) : List Byte :=
  let w := storeBits code
  let vals := (List.range 4096).map (fun k => (roundCode code .z sat (fp32.value (t.find k 0).toNat)).1 % 2 ^ w)
  leBytes (4096 * w / 8) (vals.foldr (fun v acc => v + acc * 2 ^ w) 0)

/-- The operation of a command. -/
def MCmd.op (m : MCmd) : Op :=
  match m.kind with
  | .mma => .mma
  | .msbp => .msbp
  | .mzero => .mzero
  | .mdrain => .mdrain

/-- The engine raises a fault on the command it runs: the step is discarded, and the pass with its leave has ended (R155, R156). -/
def State.engineFault (s : State) (k : ClusterId) (m : MCmd) (f : Flt) : State :=
  (s.setCluster k { s.cluster k with leave := false }).unitFault (.engine k) m.part f (if m.job = 0 then m.tid else m.job) (m.op.row.code.setWidth 32)

/-- The address that stands for an entry of a core's matrix queue in an error (R240, log entry 3). -/
def queueAddr (c e : Nat) : Nat := 2 ^ 77 + 64 * (16 * c + e)

/-- MDRAIN at its turn (R148, R315): it reads the committed copy and only writes its destination. -/
def State.runDrain (s : State) (k : ClusterId) (c : CoreId) (m : MCmd) : State :=
  let acc := s.accOf c m.acc
  let bs := drainBytes m.fa m.sat acc.tile
  match s.placeReg m.part m.ob bs.length with
  | .error f => s.engineFault k m f
  | .ok a =>
    if acc.bad then s.engineFault k m { code := .uncorrectable, offset := BitVec.ofNat 64 (accAddr c m.acc) }
    else if hSealed (s.peekWord a) then s.engineFault k m { code := .sealedStore, eval := oCanon m.ob, ptr := oCanon m.ob }
    else
      let s := (s.poke (a + 16 + oView m.ob) bs).setStaged a 2
      let s := if m.clr then s.setAcc c m.acc ⟨[], [], 0, false⟩ else s
      let s := s.fillMailbox c (s.part m.part).ctx m.job 1 0 (fillScope (dieOf c) (some k) (oCanon m.ob) a)
      (s.popCmd c).nextPass k

/-- A pass of MMA or MSBP (R142, R155): what it committed stands, and a fault leaves the command in the queue at the failing step. DESIGN
CHOICE (log entry 55): R152 does not say when in the pass each block is read; all blocks of its steps are read in the pass's one step. -/
def State.runProduct (s : State) (k : ClusterId) (c : CoreId) (m : MCmd) : State :=
  match s.placeCmd m with
  | .error f => s.engineFault k m { f with progress := BitVec.ofNat 64 m.done }
  | .ok pl =>
    let r := s.runSteps c m pl (min 4 (m.steps - m.done)) m.done (s.accOf c m.acc)
    let s := s.setAcc c m.acc r.acc
    let m' := { m with done := r.next }
    match r.fault with
    | some f =>
      (s.setCore c { s.core c with queue := m' :: (s.core c).queue.drop 1 }).engineFault k m' { f with progress := BitVec.ofNat 64 r.next }
    | none =>
      (if m.steps ≤ r.next then s.popCmd c else s.setCore c { s.core c with queue := m' :: (s.core c).queue.drop 1 }).nextPass k

/-- The pass of the command at the head of the arbiter's queue (R142, R148); an entry that cannot be read runs nothing (R240). -/
def State.runPass (s : State) (k : ClusterId) (c : CoreId) (m : MCmd) : State :=
  if m.bad then s.engineFault k m { code := .uncorrectable, offset := BitVec.ofNat 64 (queueAddr c (s.core c).qhead.toNat), progress := BitVec.ofNat 64 m.done }
  else
    match m.kind with
    | .mzero => ((s.setAcc c m.acc ⟨[], [], 0, false⟩).popCmd c).nextPass k
    | .mdrain => s.runDrain k c m
    | _ => s.runProduct k c m

/-- The object registers of a command with the bytes of their views that it needs. -/
def MCmd.needs (m : MCmd) : List (BitVec 128 × Nat) :=
  match m.kind with
  | .mzero => []
  | .mdrain => [(m.ob, 4096 * storeBits m.fa / 8)]
  | _ => [(m.oa, m.extent m.fa), (m.ob, m.extent m.fb)]
    ++ [(m.scaleA, recordExtent 0 m.k), (m.scaleB, recordExtent (if m.kind = .msbp then 2 else 0) m.k), (m.tab, 3072 * (m.k / 64))].filterMap
      (fun b => b.1.map (fun x => (x.reg, b.2)))

/-- What the engine waits for before a command's pass: a page of host memory, or a channel that stalls (R239, R405). -/
def State.cmdWait (s : State) (m : MCmd) : Option Reach :=
  m.needs.findSome? (fun r =>
    match s.reach m.part (oCanon r.1) 0 (16 + oView r.1 + r.2) with
    | .page g => some (.page g)
    | .stall => some .stall
    | _ => none)

/-- What the routers say to a command's traffic: a partition's pads that its tenant may not reach (R223). -/
def State.cmdRefused (s : State) (k : ClusterId) (m : MCmd) : Option Flt :=
  (m.needs.find? (fun r => !s.passes m.tenant m.part (some k) (oCanon r.1))).map (fun r => { code := .remotePermission, ptr := oCanon r.1 })

/-- A tile pass, when leave has been granted and no halt holds the engine; a page that is still to be granted is asked for. -/
def State.tilePass (s : State) (k : ClusterId) : State :=
  let cl := s.cluster k
  let c := firstCore k + cl.queue
  match (s.core c).queue with
  | [] => s
  | m :: _ =>
    if !cl.leave || s.stopped (.engine k) m.part then s
    else
      match s.cmdRefused k m, s.cmdWait m with
      | some f, _ => s.engineFault k m { f with progress := BitVec.ofNat 64 m.done }
      | none, some (.page g) => s.askPage (.engine k g)
      | none, some _ => s
      | none, none => s.runPass k c m

/-- TILE_PASS (R142). -/
def execTilePass (k : ClusterId) (s : State) : Host.Outcome State Fault Refusal := happen (fun s => s.tilePass k) s

/-! ## The commands -/

/-- The queue is not full, or the task parks (R141). -/
def needEntry (s : State) (o : Op) (f : Fields) : Act Unit :=
  needOr ((s.core s.myCore).queue.length < 16) (.park s { kind := .queue, op := o, f := f, aux := s.myCore })

/-- Accept a command into the core's queue. -/
def State.accept (s : State) (m : MCmd) : State :=
  let c := s.myCore
  (s.setCore c { s.core c with queue := (s.core c).queue ++ [m] }).arrived c

/-- An operand of an engine command: of kind data, and not staged and empty or filling (R147). -/
def needOperand (s : State) (r : BitVec 128) (n : Nat) : Act Nat := do
  check s r 0 n 1
  let (a, h) ← header s (oCanon r)
  needKind (hKind h == 0 && !(hStaged h && hState h ≤ 1)) s r h
  return a

/-- A bound record is checked against its extent. -/
def needRecord (s : State) (b : Option Binding) (n : Nat) : Act Unit :=
  match b with
  | none => .ok ()
  | some b => check s b.reg 0 n 1

/-- The header word of a bound record's object, for the `kind` fault of a record of the wrong kind. -/
def kindFlt (s : State) (b : Option Binding) : Flt :=
  match b with
  | none => { code := .kind }
  | some b => match s.place (s.tablePart s.me) (oCanon b.reg) 16 with
    | .ok a => { code := .kind, eval := s.peekWord a, ptr := oCanon b.reg }
    | .error _ => { code := .kind, ptr := oCanon b.reg }

/-- The bound records a product takes: their presence and kinds, then their extents (R320, R321). -/
def needBound (s : State) (m : MCmd) (sorted : Bool) : Act Unit := do
  let core := s.core s.myCore
  if m.scaled then do
    need (core.scaleA.isSome || core.scaleB.isSome) s { code := .kind }
    need (!(core.scaleA.any (fun b => b.kind == 2))) s (kindFlt s core.scaleA)
    need (!(core.scaleB.any (fun b => b.kind == 2))) s (kindFlt s core.scaleB)
  if sorted then do
    need core.tab.isSome s { code := .kind }
    need (core.scaleB.any (fun b => b.kind == 2)) s (kindFlt s core.scaleB)
  needRecord s m.scaleA (recordExtent 0 m.k)
  needRecord s m.scaleB (recordExtent (if sorted then 2 else 0) m.k)
  needRecord s m.tab (3072 * (m.k / 64))

/-- MMA and MSBP (R147, R320). -/
def productBody (kind : MKind) (o : Op) (f : Fields) (s : State) : Res := Act.run do
  needEntry s o f
  let core := s.core s.myCore
  let steps := if f.x.getLsbD 9 then core.el[f.c.toNat]?.getD 0 else s.me.getX f.c
  need (steps.toNat ≤ 65535) s { code := .engineLoop, eval := steps }
  let fa := f.x.toNat % 16
  let fb := f.x.toNat / 16 % 16
  let oa := s.me.getO f.a
  let ob := s.me.getO f.b
  let scaled := kind == .mma && f.x.getLsbD 8
  let sorted := kind == .msbp && fb != 9
  let cb := if kind == .msbp && f.x.getLsbD 8 then core.slot1 else core.slot0
  let m : MCmd :=
    { kind := kind, acc := f.d.toNat, fa := fa, fb := fb, scaled := scaled, steps := steps.toNat, oa := oa, ob := ob
      scaleA := if scaled then core.scaleA else none
      scaleB := if scaled || sorted then core.scaleB else none
      tab := if sorted then core.tab else none
      cb := cb, tid := s.me.tid, part := s.me.part, tenant := s.me.tenant, launch := s.me.launch }
  let _ ← needOperand s oa (m.extent fa)
  let _ ← needOperand s ob (m.extent fb)
  needBound s m sorted
  let s ← releasedFor (m.needs.map (fun r => oCanon r.1)) s
  return .ok (if m.steps = 0 then s else s.accept m)

/-- MMA (R320). -/
def execMma (f : Fields) (s : State) : Host.Outcome State Fault Refusal := run .mma f (productBody .mma .mma f) s

/-- MSBP (R320). -/
def execMsbp (f : Fields) (s : State) : Host.Outcome State Fault Refusal := run .msbp f (productBody .msbp .msbp f) s

/-- MZERO (R323): it reads and writes no memory, so that its release at core has nothing to order (R153). -/
def mzeroBody (f : Fields) (s : State) : Res := Act.run do
  needEntry s .mzero f
  return .ok (s.accept { kind := .mzero, acc := f.d.toNat, tid := s.me.tid, part := s.me.part, tenant := s.me.tenant, launch := s.me.launch })

/-- MZERO (R323). -/
def execMzero (f : Fields) (s : State) : Host.Outcome State Fault Refusal := run .mzero f (mzeroBody f) s

/-- MDRAIN (R315): like every queue command it parks on a full queue before its checks (R141; DEDUCED, log entry 51); then a queue entry
and a mailbox. -/
def mdrainBody (f : Fields) (s : State) : Res := Act.run do
  needEntry s .mdrain f
  let fm := f.x.toNat % 16
  let ob := s.me.getO f.b
  let a ← needOperand s ob (4096 * storeBits fm / 8)
  needOpen s ob (s.peekWord a)
  let s ← releasedFor [oCanon ob] s
  let (s, job) ← takeMailbox s .mdrain f 1
  let s := s.setStaged a 1
  return .ok ((s.deferX f.d (job.setWidth 64)).accept
    { kind := .mdrain, acc := f.a.toNat, fa := fm, ob := ob, sat := f.x.getLsbD 8, clr := f.x.getLsbD 9, job := job
      tid := s.me.tid, part := s.me.part, tenant := s.me.tenant, launch := s.me.launch })

/-- MDRAIN (R315). -/
def execMdrain (f : Fields) (s : State) : Host.Outcome State Fault Refusal := run .mdrain f (mdrainBody f) s

/-- MREAD (R149, R322): both results come from one committed state. -/
def mreadBody (f : Fields) (s : State) : Res := Act.run do
  let l := s.me.bits / 32
  let row := s.me.getX f.b
  let n := f.x.toNat % 64
  need (row.toNat ≤ 63) s { code := .bounds, eval := row, offset := row }
  need (n * l < 64) s { code := .bounds, eval := BitVec.ofNat 64 n, offset := BitVec.ofNat 64 n }
  let acc := s.accOf s.myCore f.a.toNat
  need (!acc.bad) s { code := .uncorrectable, offset := BitVec.ofNat 64 (accAddr s.myCore f.a.toNat) }
  let s := deferLanes s f 32 (fun j => ((tileAt acc.tile row.toNat (n * l + j)).toNat, 0))
  return .ok (s.deferX f.c (acc.count.setWidth 64))

/-- MREAD (R322). -/
def execMread (f : Fields) (s : State) : Host.Outcome State Fault Refusal := run .mread f (mreadBody f) s

/-- MLOOP (R319). -/
def execMloop (f : Fields) (s : State) : Host.Outcome State Fault Refusal := run .mloop f (fun s => .ok (s.defer { dest := .el f.d, val := (s.me.getX f.a).setWidth 4096 })) s

/-- The record that MSCALE or MTAB binds; `o0` clears the binding (R150). -/
def bindingOf (s : State) (f : Fields) (kind : Nat) : Act (Option Binding) := do
  if f.a = 0 then return none
  let r := s.me.getO f.a
  checkPtr s r
  let (_, h) ← header s (oCanon r)
  needKind (hKind h == 0 || hKind h == 6) s r h
  return some ⟨r, kind⟩

/-- MSCALE (R319). -/
def mscaleBody (f : Fields) (s : State) : Res := Act.run do
  let b ← bindingOf s f (f.x.toNat / 2 % 8)
  return .ok (s.defer { dest := .scale (f.x.getLsbD 0) b })

/-- MSCALE (R319). -/
def execMscale (f : Fields) (s : State) : Host.Outcome State Fault Refusal := run .mscale f (mscaleBody f) s

/-- MTAB (R319). -/
def mtabBody (f : Fields) (s : State) : Res := Act.run do
  let b ← bindingOf s f 0
  return .ok (s.defer { dest := .tab b })

/-- MTAB (R319). -/
def execMtab (f : Fields) (s : State) : Host.Outcome State Fault Refusal := run .mtab f (mtabBody f) s

/-- CBLD (R283, R138). -/
def cbldBody (f : Fields) (s : State) : Res := Act.run do
  let r := s.me.getO f.a
  checkPtr s r
  let (_, h) ← header s (oCanon r)
  needKind ((hKind h == 0 || hKind h == 6) && !(hStaged h && hState h ≤ 1)) s r h
  check s r 0 32 2
  let s ← releasedFor [oCanon r] s
  let bs ← readCanon s r 0 32
  return .ok (s.defer { dest := .codebook (f.x.getLsbD 0) (Codebook.make (BitVec.ofNat 256 (leNat bs))) })

/-- CBLD (R283). -/
def execCbld (f : Fields) (s : State) : Host.Outcome State Fault Refusal := run .cbld f (cbldBody f) s


end Sys2Proof.Machine
end

