-- ==== Sys2Proof/Machine/Masks.lean ====
section
/-!
DEFINITION. Mask programs and the mask instructions (spec/11_attention.md R165 to R174; R318). AGX is in TaskGraph.lean.
-/

namespace Sys2Proof.Machine

/-! ## Mask programs (R165 to R167) -/

/-- A literal from its 8-byte word (R165). -/
def litOf (w : Nat) : MaskLit :=
  { op := BitVec.ofNat 3 w, term := BitVec.ofNat 3 (w / 8), neg := w.testBit 6
    lo := (BitVec.ofNat 24 (w / 256)).toInt, hi := (BitVec.ofNat 24 (w / 2 ^ 32)).toInt }

/-- A literal's word breaks R167 on its own, in a program of `terms` terms. -/
def litBad (terms w : Nat) : Bool :=
  let l := litOf w
  bits w 56 8 != 0 || w.testBit 7 || terms ≤ l.term.toNat ||
    match l.op.toNat with
    | 0 | 1 | 2 => !decide (l.lo ≤ l.hi)
    | 3 => l.lo != 0 || l.hi != 0
    | 4 => l.lo != 0 || !decide (0 ≤ l.hi)
    | _ => true

/-- Index of the first failing literal among `ws`, which begin at index `i`: one that breaks a rule of its own, or the
seventh of its term (R232); `seen` holds the terms of the earlier ones. -/
def firstBadLit (terms : Nat) : List Nat → Nat → List Nat → Option Nat
  | [], _, _ => none
  | w :: ws, i, seen =>
    if litBad terms w || 6 ≤ seen.count (litOf w).term.toNat then some i
    else firstBadLit terms ws (i + 1) ((litOf w).term.toNat :: seen)

/-- The document-start vector is lawful (R166). -/
def startsOk (xs : List Nat) : Bool :=
  xs.head? == some 0 && xs.length ≤ 4096 && xs.all (· < 2 ^ 24) && (xs.zip (xs.drop 1)).all (fun p => p.1 < p.2)

/-- The starts in the words of a vector: those before the first 0xFFFF_FFFF (R166). -/
def startsOf (ws : List Nat) : List Nat := ws.takeWhile (· != 0xFFFFFFFF)

/-- The little-endian words of `n` bytes in a list of bytes. -/
def wordsOf (n : Nat) (bs : List Byte) : List Nat :=
  ((chunksOf n (bs.length + 1) bs).filter (fun c => c.length == n)).map leNat

/-- A mask program from the bytes of its view and its starts, or the value that R232 gives `c.eval`. -/
def parseMask (bs : List Byte) (starts : List Nat) : Except Nat MaskProg :=
  let h := leNat (bs.take 8)
  let nlit := bits h 8 8
  let terms := bits h 0 4
  if bits h 16 48 != 0 || bits h 4 4 != 0 || leNat ((bs.drop 8).take 8) != 0 || terms = 0 || 8 < terms || nlit = 0 || 24 < nlit
      || bs.length < 16 + 8 * nlit then .error 0xFF
  else
    let ws := (wordsOf 8 (bs.drop 16)).take nlit
    match firstBadLit terms ws 0 [] with
    | some i => .error i
    | none =>
      let lits := ws.map litOf
      if !(List.range terms).all (fun n => lits.any (fun l => l.term.toNat == n)) || !startsOk starts then .error 0xFF
      else .ok { terms := terms, lits := lits, starts := starts }

/-! ## Visibility (R166) and tiles (R170) -/

/-- Document of a position: the largest index whose start is not above it. -/
def MaskProg.doc (p : MaskProg) (x : Nat) : Nat := (p.starts.takeWhile (· ≤ x)).length - 1

/-- First position of a document. -/
def MaskProg.start (p : MaskProg) (i : Nat) : Nat := p.starts.getD i 0

/-- A literal is true for a query and a key. -/
def MaskProg.litTrue (p : MaskProg) (l : MaskLit) (q k : Nat) : Bool :=
  l.neg ^^ match l.op.toNat with
    | 0 => decide (l.lo ≤ (k : Int) - q) && decide ((k : Int) - q ≤ l.hi)
    | 1 => decide (l.lo ≤ k) && decide ((k : Int) ≤ l.hi)
    | 2 => decide (l.lo ≤ q) && decide ((q : Int) ≤ l.hi)
    | 3 => p.doc k == p.doc q
    | _ => p.doc k == p.doc q && decide ((k : Int) - p.start (p.doc q) ≤ l.hi)

/-- The literals of a term. -/
def MaskProg.term (p : MaskProg) (n : Nat) : List MaskLit := p.lits.filter (fun l => l.term.toNat == n)

/-- The pair is visible (R166). -/
def MaskProg.visible (p : MaskProg) (q k : Nat) : Bool :=
  (List.range p.terms).any (fun n => (p.term n).all (fun l => p.litTrue l q k))

/-- How a literal, a term or a program classifies a tile (R170). -/
inductive Truth where
  | none | mixed | all
deriving DecidableEq, Repr

/-- All-true and none swapped. -/
def Truth.flip : Truth → Truth
  | .none => .all
  | .mixed => .mixed
  | .all => .none

/-- An interval against [lo, hi]. -/
def spanTruth (a b lo hi : Int) : Truth :=
  if lo ≤ a && b ≤ hi then .all else if b < lo || hi < a then .none else .mixed

/-- DOC on the tile at (q0, k0). -/
def MaskProg.docTruth (p : MaskProg) (q0 k0 : Nat) : Truth :=
  let dq0 := p.doc q0
  let dq1 := p.doc (q0 + 63)
  let dk0 := p.doc k0
  let dk1 := p.doc (k0 + 63)
  if dq0 == dq1 && dq1 == dk0 && dk0 == dk1 then .all
  else if dq1 < dk0 || dk1 < dq0 then .none else .mixed

/-- A literal on the tile at (q0, k0) (R170). -/
def MaskProg.litTile (p : MaskProg) (l : MaskLit) (q0 k0 : Nat) : Truth :=
  let r := match l.op.toNat with
    | 0 => spanTruth ((k0 : Int) - (q0 + 63)) ((k0 : Int) + 63 - q0) l.lo l.hi
    | 1 => spanTruth k0 (k0 + 63) l.lo l.hi
    | 2 => spanTruth q0 (q0 + 63) l.lo l.hi
    | 3 => p.docTruth q0 k0
    | _ =>
      let s := p.start (p.doc k0)
      let d := p.docTruth q0 k0
      if d == .all && decide ((k0 : Int) + 63 - s ≤ l.hi) then .all
      else if d == .none || (p.doc k0 == p.doc (k0 + 63) && decide (l.hi < (k0 : Int) - s)) then .none
      else .mixed
  if l.neg then r.flip else r

/-- A term on a tile. -/
def MaskProg.termTile (p : MaskProg) (n q0 k0 : Nat) : Truth :=
  let ts := (p.term n).map (fun l => p.litTile l q0 k0)
  if ts.all (· == .all) then .all else if ts.any (· == .none) then .none else .mixed

/-- Class of the tile at (q0, k0): 0 empty, 1 partial, 2 full (R170). -/
def MaskProg.classify (p : MaskProg) (q0 k0 : Nat) : Nat :=
  let ts := (List.range p.terms).map (fun n => p.termTile n q0 k0)
  if ts.any (· == .all) then 2 else if ts.all (· == .none) then 0 else 1

/-! ## Mask slots (R169, R173) -/

/-- A mask slot of a core. -/
def Core.maskSlot (c : Core) (one : Bool) : MaskSlot := if one then c.mask1 else c.mask0

/-- Replace a mask slot. -/
def Core.setMaskSlot (c : Core) (one : Bool) (v : MaskSlot) : Core := if one then { c with mask1 := v } else { c with mask0 := v }

/-- Add `n` to the counter of a class. -/
def MaskSlot.count (m : MaskSlot) (cls : Nat) (n : Nat) : MaskSlot :=
  let w := BitVec.ofNat 64 n
  match cls with
  | 0 => { m with empty := m.empty + w }
  | 1 => { m with partialTiles := m.partialTiles + w }
  | _ => { m with full := m.full + w }

/-- Add `n` to the counter of a class of a slot of the acting task's core. -/
def State.countTiles (s : State) (one : Bool) (cls n : Nat) : State :=
  let c := s.core s.myCore
  s.setCore s.myCore (c.setMaskSlot one ((c.maskSlot one).count cls n))

/-- The program of a slot, or `mask-program` when it is empty (R169, R318). -/
def needMask (s : State) (one : Bool) : Act MaskProg :=
  match ((s.core s.myCore).maskSlot one).prog with
  | some p => .ok p
  | none => .error (.fault s { code := .maskProgram, eval := 0xFF })

/-! ## The instructions -/

/-- MKLD (R169, R174): the checks, the reads after the task's own stores, and the program for the slot. DESIGN CHOICE (log entry 27): R169 does
not say how much MKLD reads; it reads the view of oA up to the longest program, 208 bytes, and that of oB up to the longest start vector, 4,097
words, so that poison or a page anywhere there acts. -/
def mkldBody (f : Fields) (s : State) : Res := Act.run do
  let ra := s.me.getO f.a
  let rb := s.me.getO f.b
  checkPtr s ra
  let (_, ha) ← header s (oCanon ra)
  needKind (hKind ha == 6) s ra ha
  check s ra 0 16 8
  if f.b != 0 then
    checkPtr s rb
    let (_, hb) ← header s (oCanon rb)
    needKind (hKind hb == 0 && !(hStaged hb && hState hb ≤ 1)) s rb hb
    check s rb 0 4 4
  let s ← releasedHome s (s.homeAt (oCanon ra))
  let s ← if f.b = 0 then pure s else releasedHome s (s.homeAt (oCanon rb))
  let bs ← readCanon s ra 0 (min (oLen ra) 208)
  let ws ← if f.b = 0 then pure [0] else do
    let vs ← readCanon s rb 0 (4 * min (oLen rb / 4) 4097)
    pure (wordsOf 4 vs)
  match parseMask bs (startsOf ws) with
  | .error e => .error (.fault s { code := .maskProgram, eval := BitVec.ofNat 64 e, ptr := oCanon ra })
  | .ok p => return .ok (s.defer { dest := .mask (f.x.getLsbD 0) p })

/-- MKLD (R169, R318). -/
def execMkld (f : Fields) (s : State) : Host.Outcome State Fault Refusal := run .mkld f (mkldBody f) s

/-- A position as MKCLS and MKAPP test it: signed, from 0 to `top` (R171, R172). -/
def needPosition (s : State) (v : Word64) (top : Int) : Act Nat := do
  need (decide (0 ≤ v.toInt) && decide (v.toInt ≤ top)) s { code := .bounds, eval := v, offset := v }
  return v.toNat

/-- MKCLS (R171). -/
def mkclsBody (f : Fields) (s : State) : Res := Act.run do
  let one := f.x.getLsbD 0
  let p ← needMask s one
  let q ← needPosition s (s.me.getX f.a) (2 ^ 24 - 64)
  let k ← needPosition s (s.me.getX f.b) (2 ^ 24 - 64)
  let c := p.classify q k
  return .ok ((s.countTiles one c 1).deferX f.d (BitVec.ofNat 64 c))

/-- MKCLS (R171, R318). -/
def execMkcls (f : Fields) (s : State) : Host.Outcome State Fault Refusal := run .mkcls f (mkclsBody f) s

/-- Keys that MKAPP covers (R172). -/
def Task.maskKeys (t : Task) : Nat := min 64 (t.lanes 32)

/-- The checks of MKAPP: the program, the query and the first key (R172). -/
def mkappChecks (f : Fields) (s : State) : Act (MaskProg × Nat × Nat) := do
  let p ← needMask s (f.x.getLsbD 0)
  let q ← needPosition s (s.me.getX f.a) (2 ^ 24 - 1)
  let k ← needPosition s (s.me.getX f.b) (2 ^ 24 - s.me.maskKeys)
  return (p, q, k)

/-- MKAPP, the predicate form: all four bits of an active element take the value (R172, R127). -/
def mkappBody (f : Fields) (s : State) : Res := Act.run do
  let (p, q, k) ← mkappChecks f s
  let t := s.me
  let n := t.maskKeys
  let vis := (List.range n).foldl (fun acc j => if p.visible q (k + j) then acc + 2 ^ j else acc) 0
  let on := ((t.actives f 32).filter (· < n)).foldl (fun acc j => acc + 2 ^ j) 0
  return .ok (s.defer
    { dest := .p f.d, val := BitVec.ofNat 4096 (spread n 4 vis), mask := BitVec.ofNat 256 (spread n 4 on), unit := 4 })

/-- MKAPP, the predicate form (R172, R318). -/
def execMkapp (f : Fields) (s : State) : Host.Outcome State Fault Refusal := run .mkapp f (mkappBody f) s

/-- MKAPP, the bias form: +0 for a visible pair, −∞ for an invisible one (R172). -/
def mkappBiasBody (f : Fields) (s : State) : Res := Act.run do
  let (p, q, k) ← mkappChecks f s
  return .ok (deferLanes s f 32 (fun j => (if p.visible q (k + j) then 0 else 0xFF800000, 0)))

/-- MKAPP, the bias form (R172, R318). -/
def execMkappBias (f : Fields) (s : State) : Host.Outcome State Fault Refusal := run .mkappBias f (mkappBiasBody f) s

/-- MKCNT (R173): the read, and with `.clr` the clear at the same instant. -/
def mkcntBody (f : Fields) (s : State) : Res :=
  let one := f.x.getLsbD 3
  let c := s.core s.myCore
  let m := c.maskSlot one
  let sel := f.x.toNat % 4
  let v := match sel with
    | 0 => m.empty
    | 1 => m.partialTiles
    | 2 => m.full
    | _ => m.empty + m.partialTiles + m.full
  let cleared : MaskSlot := match sel with
    | 0 => { m with empty := 0 }
    | 1 => { m with partialTiles := 0 }
    | 2 => { m with full := 0 }
    | _ => { m with empty := 0, partialTiles := 0, full := 0 }
  let s := if f.x.getLsbD 2 then s.setCore s.myCore (c.setMaskSlot one cleared) else s
  .ok (s.deferX f.d v)

/-- MKCNT (R173, R318). -/
def execMkcnt (f : Fields) (s : State) : Host.Outcome State Fault Refusal := run .mkcnt f (mkcntBody f) s


end Sys2Proof.Machine
end

