-- ==== Sys2Proof/Machine/TaskGraph.lean ====
section
/-!
DEFINITION. The task graph unit and AGX (spec/06_tasks.md R105 to R107; R175 to R178, R269, R351 to R353).
-/

namespace Sys2Proof.Machine

/-! ## Nodes and edges (R105, R106) -/

/-- A node of a die. -/
def Die.node (d : Die) (i : Nat) : Option Node := d.nodes.lookup i

/-- Nodes that a die's unit still has room for. -/
def Die.nodeRoom (d : Die) : Nat := 65536 - d.nodes.length

/-- Edges that a die's unit still has room for. -/
def Die.edgeRoom (d : Die) : Nat := 262144 - d.edges.length

/-- A building node of a task. -/
def Node.buildingOf (n : Node) (tid : Word32) : Bool := n.state == .building && n.creator == tid

/-- Every node in use is a building node of the task, so none can free (R107). -/
def Die.nodesStuck (d : Die) (tid : Word32) : Bool := d.nodes.all (fun e => e.2.buildingOf tid)

/-- Every edge in use leaves a building node of the task, so none can free (R107). -/
def Die.edgesStuck (d : Die) (tid : Word32) : Bool :=
  d.edges.all (fun e => match d.node e.1 with
    | some n => n.buildingOf tid
    | none => false)

/-- A node id (R105). -/
def nodeId (d i : Nat) : Word32 := BitVec.ofNat 32 (65536 * d + i)

/-- A new node at an index that is free; which one is a free value. -/
def State.addNode (s : State) (d : Nat) (n : Node) : Nat × State :=
  let (v, s) := s.fresh
  let die := s.die d
  let open_ := (List.range 65536).filter (fun i => (die.node i).isNone)
  let i := (open_[Config.pick v % open_.length]?).getD 0
  (i, s.setDie d { die with nodes := die.nodes.set i n })

/-- Tasks of a die that are parked for a node or an edge issue again (R106, R107). -/
def State.wakeGraph (s : State) (d : Nat) : State :=
  s.tasks.foldl (fun s e =>
    match e.2.wait with
    | some w => if w.kind == .room && w.op != .fork && dieOf (coreOf e.1) == d then s.wake e.1 else s
    | none => s) s

/-- Remove a node with its edges, delivering nothing. -/
def State.freeNode (s : State) (d i : Nat) : State :=
  let die := s.die d
  (s.setDie d { die with nodes := die.nodes.del i, edges := die.edges.filter (fun e => e.1 != i && e.2 != i) }).wakeGraph d

/-- A node as a task creates it, with the task's width, core kind, tenant, domain, partition and launch. -/
def nodeOf (t : Task) (kind : NodeKind) (count : Nat) (entry : Word32) (arg : Word64) : Node :=
  { kind := kind, state := .building, count := count, entry := entry, arg := arg, width := t.width, acore := t.acore
    tenant := t.tenant, domain := t.domain, part := t.part, ctx := t.ctx, creator := t.tid, launch := t.launch, join := 0
    x1 := 0, x2 := 0, x3 := 0, x4 := 0, agx := false, dies := 0, bound := false
    readyAt := 0 }

/-- `alloc-exhausted` of R107. -/
def noRoom : Flt := { code := .allocExhausted }

/-! ## TGNODE, TGEDGE, TGRUN -/

/-- TGNODE (R106, R351). -/
def tgnodeBody (f : Fields) (s : State) : Res := Act.run do
  let r := s.me.getO f.a
  let arg := oCanon r
  let kind : NodeKind := match f.x.toNat % 4 with
    | 0 => .task
    | 1 => .copy
    | _ => .merge
  need (!malformed arg && tagOf arg != 6) s { code := .nullPointer, eval := arg, ptr := arg }
  if kind == .copy then
    need (arg != 0) s { code := .kind }
    let (_, h) ← header s arg
    needKind (hKind h == 6) s r h
  let c := s.me.getX f.c
  need (c.toNat ≤ 65535) s { code := .bounds, eval := c, offset := c }
  let d := dieOf s.myCore
  if (s.die d).nodeRoom = 0 then
    need (!(s.die d).nodesStuck s.me.tid) s noRoom
    .error (.park s { kind := .room, op := .tgnode, f := f })
  else
    let (i, s) := s.addNode d (nodeOf s.me kind c.toNat (if kind == .copy then 0 else entryOf s.me f) arg)
    return .ok (s.deferX f.d ((nodeId d i).setWidth 64))

/-- TGNODE (R351). -/
def execTgnode (f : Fields) (s : State) : Host.Outcome State Fault Refusal := run .tgnode f (tgnodeBody f) s

/-- The node of the executing die that an x register names, or `kind` (R352). -/
def needNode (s : State) (v : Word64) : Act (Nat × Node) :=
  let d := dieOf s.myCore
  match (if v.toNat / 65536 = d then (s.die d).node (v.toNat % 65536) else none) with
  | some n => .ok (v.toNat % 65536, n)
  | none => .error (.fault s { code := .kind })

/-- TGEDGE (R106, R352). -/
def tgedgeBody (f : Fields) (s : State) : Res := Act.run do
  let d := dieOf s.myCore
  let (a, na) ← needNode s (s.me.getX f.a)
  let (b, nb) ← needNode s (s.me.getX f.b)
  need (nb.state == .building && na.state != .finished) s { code := .kind }
  let die := s.die d
  if die.edgeRoom = 0 then
    need (!die.edgesStuck s.me.tid) s noRoom
    .error (.park s { kind := .room, op := .tgedge, f := f })
  else return .ok (s.setDie d { die with edges := die.edges ++ [(a, b)] })

/-- TGEDGE (R352). -/
def execTgedge (f : Fields) (s : State) : Host.Outcome State Fault Refusal := run .tgedge f (tgedgeBody f) s

/-- The task has a building node that AGX made. -/
def State.agxBuilding (s : State) (tid : Word32) : Bool :=
  s.dies.any (fun d => d.2.nodes.any (fun n => n.2.buildingOf tid && n.2.agx))

/-- TGRUN (R106, R178, R353): the release, at pkg when it releases a node that AGX made, then every building node of the task at one
instant. -/
def tgrunBody (s : State) : Res := Act.run do
  let s ← releasedAt (if s.agxBuilding s.me.tid then 3 else 2) (dieOf s.myCore) s
  return .ok (s.releaseNodes s.me.tid)

/-- TGRUN (R353). -/
def execTgrun (f : Fields) (s : State) : Host.Outcome State Fault Refusal := run .tgrun f (fun s => tgrunBody s) s


/-! ## AGX (R175 to R178) -/

/-- The record of AGX (R175). -/
structure AgxRec where
  qFirst : Nat
  qCount : Nat
  kFirst : Nat
  kCount : Nat
  compute : Word32
  merge : Word32
  dies : BitVec 4
  join : Word64
  clean : Bool

/-- The record in 64 bytes. -/
def agxRec (bs : List Byte) : AgxRec :=
  let w (i : Nat) : Nat := leNat ((bs.drop (8 * i)).take 8)
  { qFirst := bits (w 0) 0 32, qCount := bits (w 0) 32 32, kFirst := bits (w 1) 0 32, kCount := bits (w 1) 32 32
    compute := BitVec.ofNat 32 (w 2), merge := BitVec.ofNat 32 (w 2 / 2 ^ 32), dies := BitVec.ofNat 4 (w 3 / 256)
    join := BitVec.ofNat 64 (w 4)
    clean := w 3 / 4096 == 0 && w 3 % 256 == 64 && w 5 == 0 && w 6 == 0 && w 7 == 0 }

/-- A template is a building node of the task on its die, of a kind, with a count (R176). -/
def isTemplate (s : State) (id : Word32) (kind : NodeKind) : Bool :=
  let d := dieOf s.myCore
  id.toNat / 65536 == d && match (s.die d).node (id.toNat % 65536) with
    | some n => n.buildingOf s.me.tid && n.kind == kind && 1 ≤ n.count
    | none => false

/-- The checks of AGX (R176): the expansion to start. -/
def agxStart (f : Fields) (s : State) : Act AgxJob := do
  let one := f.x.getLsbD 0
  let prog ← needMask s one
  let r := s.me.getO f.a
  checkPtr s r
  let (_, h) ← header s (oCanon r)
  needKind (hKind h == 6) s r h
  check s r 0 64 8
  let g := agxRec (← readCanon s r 0 64)
  needKind g.clean s r h
  let small (n first : Nat) : Bool := 1 ≤ n && n ≤ 4096 && (first + n) * 64 ≤ 2 ^ 24
  need (small g.qCount g.qFirst) s { code := .bounds, eval := 0, ptr := oCanon r, offset := 0 }
  need (small g.kCount g.kFirst) s { code := .bounds, eval := 8, ptr := oCanon r, offset := 8 }
  need (isTemplate s g.compute .task && isTemplate s g.merge .merge) s { code := .kind }
  if g.join != 0 then
    let j := oMake false false 0 0 g.join
    checkPtr s j
    let (_, hj) ← header s g.join
    needJoin s (oMake false false 0 (hLen hj) g.join)
  return { pc := s.me.pc, slot1 := one, prog := prog, tile := g.qFirst, stop := g.qFirst + g.qCount, keyFirst := g.kFirst
           keyStop := g.kFirst + g.kCount, dies := g.dies, join := g.join, compute := g.compute, merge := g.merge, made := 0 }

/-- The classes of a query tile's blocks, as block and class. -/
def AgxJob.classes (g : AgxJob) (t : Nat) : List (Nat × Nat) :=
  (List.range (g.keyStop - g.keyFirst)).map (fun i => (g.keyFirst + i, g.prog.classify (64 * t) (64 * (g.keyFirst + i))))

/-- A node of AGX from a template (R177). -/
def AgxJob.node (g : AgxJob) (s : State) (template : Word32) (kind : NodeKind) (count x1 x2 x3 x4 : Nat) : Node :=
  let tm := (s.die (dieOf s.myCore)).node (template.toNat % 65536)
  let n := nodeOf s.me kind count ((tm.map (·.entry)).getD 0) ((tm.map (·.arg)).getD 0)
  let w (v : Nat) : Word64 := BitVec.ofNat 64 v
  { n with join := g.join, agx := true, dies := g.dies, x1 := w x1, x2 := w x2, x3 := w x3, x4 := w x4 }

/-- Expand one query tile, for which there is room (R177): the join word is counted with the first of its effects. -/
def AgxJob.expand (g : AgxJob) (s : State) : Act (AgxJob × State) := do
  let d := dieOf s.myCore
  let t := g.tile
  let cls := g.classes t
  let live := cls.filter (fun c => c.2 != 0)
  let ne := live.length
  let s ← if g.join = 0 then pure s else (do
    let (s, a) ← joinPlace s g.join
    return s.joinAdd a (BitVec.ofNat 64 (ne + 1)))
  let (mid, s) := s.addNode d (g.node s g.merge .merge ne t ne (if ne = 0 then 1 else 0) 0)
  let s := live.foldl (fun s c =>
    let (i, s) := s.addNode d (g.node s g.compute .task 0 t c.1 c.2 (nodeId d mid).toNat)
    s.setDie d { s.die d with edges := (s.die d).edges ++ [(i, mid)] }) s
  let s := cls.foldl (fun s c => s.countTiles g.slot1 c.2 1) s
  return ({ g with tile := t + 1, made := g.made + ne + 1 }, s)

/-- Nodes and edges that the query tile in progress takes: one for each block that is not empty, and a node more (R177). -/
def AgxJob.live (g : AgxJob) : Nat := ((g.classes g.tile).filter (fun c => c.2 != 0)).length

/-- Expand the query tile in progress; without room the expansion is kept with the task, which parks or faults (R107, R178). -/
def AgxJob.run (f : Fields) (g : AgxJob) (s : State) : Act (AgxJob × State) := do
  let die := s.die (dieOf s.myCore)
  let kept := s.setMe { s.me with agx := some g }
  let lackN := decide (die.nodeRoom < g.live + 1)
  let lackE := decide (die.edgeRoom < g.live)
  need (!(lackN && die.nodesStuck s.me.tid) && !(lackE && die.edgesStuck s.me.tid)) kept
    { noRoom with progress := BitVec.ofNat 64 g.tile }
  needOr (!lackN && !lackE) (.park kept { kind := .room, op := .agx, f := f })
  g.expand kept

/-- The unit has what a parked TGNODE, TGEDGE or AGX waits for, or no node or edge can free any more, which ends the wait with a fault
(R106, R107, R178). -/
def State.graphRoom (s : State) (k : TaskKey) (w : Wait) : Bool :=
  let die := s.die (dieOf (coreOf k))
  match w.op with
  | .tgnode => die.nodeRoom != 0 || die.nodesStuck (s.task k).tid
  | .tgedge => die.edgeRoom != 0 || die.edgesStuck (s.task k).tid
  | _ =>
    match (s.task k).agx with
    | none => true
    | some g =>
      (g.live + 1 ≤ die.nodeRoom || die.nodesStuck (s.task k).tid) && (g.live ≤ die.edgeRoom || die.edgesStuck (s.task k).tid)

/-- AGX (R177, R178, R269): one query tile; until the last the instruction goes on, so that a halt may stop it between two tiles. -/
def agxBody (f : Fields) (s : State) : Res := Act.run do
  let going := s.me.agx.filter (fun g => g.pc == s.me.pc)
  let s ← if going.isSome then pure s else releasedHome s (s.homeAt (oCanon (s.me.getO f.a)))
  let g ← match going with
    | some g => pure g
    | none => agxStart f s
  let (g, s) ← g.run f s
  if g.tile < g.stop then return .retry (s.setMe { s.me with agx := some g })
  let d := dieOf s.myCore
  let s := (s.freeNode d (g.compute.toNat % 65536)).freeNode d (g.merge.toNat % 65536)
  return .ok ((s.setMe { s.me with agx := none }).deferX f.d (BitVec.ofNat 64 g.made))

/-- AGX (R269). -/
def execAgx (f : Fields) (s : State) : Host.Outcome State Fault Refusal := run .agx f (agxBody f) s


/-! ## Ready, held and finished nodes (R105, R106) -/

/-- The cores that may run a record of the unit of die `d`, ascending: those of the partition on the dies of an AGX node's mask,
or on the die, that can host it (R105, R177). -/
def State.graphCores (s : State) (d : Nat) (mask : BitVec 4) (r : Record) : List CoreId :=
  let ks := if r.part < 16 then s.clustersOf r.part else s.openClusters
  let wanted := ks.filter (fun k => mask.getLsbD (dieOfCluster k))
  let ks := if wanted.isEmpty then ks.filter (fun k => dieOfCluster k == d) else wanted
  (ks.flatMap (fun k => (List.range 8).map (8 * k + ·))).filter (fun c => canHost c r)

/-- Place a record of the unit: an idle core starts it, else the deque with the fewest records takes it; none without room. DESIGN CHOICE
(log entry 52): R105 does not say whether a record that goes to a deque moves the unit's position; only the choice of an idle core does. -/
def State.graphPlace (s : State) (d : Nat) (mask : BitVec 4) (r : Record) : Option State :=
  let cs := s.graphCores d mask r
  let order := match (s.die d).tgPos with
    | none => cs
    | some p => after p cs
  match order.find? (fun c => (s.logical c).isEmpty && (s.slotFor c).isSome && !s.haltedAt c) with
  | some c =>
    let s := s.setDie d { s.die d with tgPos := some c }
    (s.slotFor c).map (fun k => s.startRecord k (s.inCluster (clusterOf c) r))
  | none =>
    match s.fewest cs with
    | some c => if s.dequeRoom c then some (s.push c (s.inCluster (clusterOf c) r)) else none
    | none => none

/-- The record of a ready node (R105, R177). -/
def Node.record (n : Node) (id : Word32) : Record :=
  { tenant := n.tenant, origin := 3, domain := n.domain, acore := n.acore || n.width != 0, width := n.width, entry := n.entry
    arg := n.arg, join := n.join, x1 := n.x1, x2 := n.x2, x3 := n.x3, x4 := n.x4, x7 := id.setWidth 64, node := some id
    launch := n.launch, part := n.part, ctx := n.ctx }

/-- A node that becomes ready: released, with count 0, and not bound to a CPY. -/
def Node.ready (n : Node) : Bool := n.state == .released && n.count == 0 && !n.bound

/-- The partition is halted, or runs another context. -/
def State.frozen (s : State) (p ctx : Nat) : Bool := s.partHalted p || !s.runs p ctx

/-- The die mask of the node that a record stands for. -/
def State.maskOf (s : State) (d : Nat) (r : Record) : BitVec 4 :=
  match r.node.bind (fun id => (s.die d).node (id.toNat % 65536)) with
  | some n => n.dies
  | none => 0

/-- The held record that is placed next, with the state after it: the first, in order of readiness, for which a deque has room (R105). -/
def State.placeableHeld (s : State) (d : Nat) : Option (Record × State) :=
  (s.die d).held.findSome? (fun r => if s.frozen r.part r.ctx then none else (s.graphPlace d (s.maskOf d r) r).map (fun s' => (r, s')))

/-- When a node of a die became ready; nodes that did so at one moment go by their index. -/
def Die.readiness (die : Die) (i : Nat) : Nat := 65536 * ((die.node i).map (·.readyAt)).getD 0 + i

/-- The unit holds a record, in order of readiness (R105). -/
def Die.hold (die : Die) (r : Record) : Die :=
  let at_ (x : Record) : Nat := (x.node.map (fun id => die.readiness (id.toNat % 65536))).getD 0
  { die with held := insertBy (fun a b => at_ a ≤ at_ b) r die.held }

/-- TG_NODE_READY: a ready task or merge node becomes a record, which is placed or held; a held record that can be placed goes first. -/
def State.nodeReady (s : State) (d i : Nat) : State :=
  match (s.die d).node i with
  | none => s
  | some n =>
    if !n.ready || n.kind == .copy || s.frozen n.part n.ctx || (s.placeableHeld d).isSome then s
    else
      let s := s.setDie d { s.die d with nodes := (s.die d).nodes.set i { n with state := .running } }
      let r := n.record (nodeId d i)
      match s.graphPlace d n.dies r with
      | some s => s
      | none => s.setDie d ((s.die d).hold r)

/-- TG_NODE_READY (R105). -/
def execTgNodeReady (d n : Nat) (s : State) : Host.Outcome State Fault Refusal := happen (fun s => s.nodeReady d n) s

/-- TG_HELD_PLACE: the first held record that has room is placed. -/
def State.placeHeld (s : State) (d : Nat) : State :=
  match s.placeableHeld d with
  | some (r, s') => s'.setDie d { s'.die d with held := (s'.die d).held.erase r }
  | none => s

/-- TG_HELD_PLACE (R105). -/
def execTgHeldPlace (d : Nat) (s : State) : Host.Outcome State Fault Refusal := happen (fun s => s.placeHeld d) s

/-- Subtract 1 from a node's count; a count of 0 adds to the unit's errors (R106). A count that comes to 0 makes a released node ready
at the moment given. -/
def Die.subtract (at_ : Nat) (die : Die) (i : Nat) : Die :=
  match die.node i with
  | none => die
  | some n =>
    if n.count = 0 then { die with tgErrors := die.tgErrors + 1 }
    else { die with nodes := die.nodes.set i { n with count := n.count - 1, readyAt := if n.count = 1 && n.state == .released then at_ else n.readyAt } }

/-- TG_NODE_FINISH: a finished node delivers its subtractions and is freed with its edges. -/
def State.nodeFinish (s : State) (d i : Nat) : State :=
  match (s.die d).node i with
  | none => s
  | some n =>
    if n.state != .finished || s.frozen n.part n.ctx then s
    else
      let (at_, s) := s.arrive
      let die := (s.die d).edges.foldl (fun (die : Die) e => if e.1 == i then die.subtract at_ e.2 else die) (s.die d)
      (s.setDie d die).freeNode d i

/-- TG_NODE_FINISH (R106). -/
def execTgNodeFinish (d n : Nat) (s : State) : Host.Outcome State Fault Refusal := happen (fun s => s.nodeFinish d n) s

end Sys2Proof.Machine
end

