-- ==== Sys2Proof/Machine/Vector.lean ====
section
/-!
DEFINITION. Meanings of the vector integer, bit, floating, lane, predicate and wide-sum instructions (R70 to R72; R333,
R355 to R368, R371 to R373, R376 to R385, R388 to R390, R394 to R396).
-/

namespace Sys2Proof.Machine

/-! ## The mould of R355 -/

/-- Element bits of an integer vector instruction. -/
def elemBits (f : Fields) : Nat := 8 * 2 ^ f.z.toNat

/-- An element-wise integer instruction of vA and B: `op e a b`. -/
def vecOp (op : Nat → Nat → Nat → Nat) (f : Fields) (s : State) : Res :=
  let t := s.me
  let e := elemBits f
  .ok (putLanes s f e (fun i => (op e (getLane (t.getV f.a) e i) (t.laneB f e i), 0)))

/-- An element-wise integer instruction of vA alone. -/
def vecOp1 (op : Nat → Nat → Nat) (f : Fields) (s : State) : Res :=
  let t := s.me
  let e := elemBits f
  .ok (putLanes s f e (fun i => (op e (getLane (t.getV f.a) e i), 0)))

/-- X bit 7 of a vector instruction: saturate. -/
def vsat (f : Fields) : Bool := f.x.getLsbD 7

/-- X bit 8 of a vector instruction: unsigned. -/
def vuns (f : Fields) : Bool := f.x.getLsbD 8

/-- VADD (R356). -/
def execVadd (f : Fields) (s : State) : Host.Outcome State Fault Refusal := run .vadd f (vecOp (fun w a b => satOr (vsat f) w (toSigned w a + toSigned w b)) f) s

/-- VSUB (R394). -/
def execVsub (f : Fields) (s : State) : Host.Outcome State Fault Refusal := run .vsub f (vecOp (fun w a b => satOr (vsat f) w (toSigned w a - toSigned w b)) f) s

/-- VMUL (R377). -/
def execVmul (f : Fields) (s : State) : Host.Outcome State Fault Refusal := run .vmul f (vecOp (fun w a b => satOr (vsat f) w (toSigned w a * toSigned w b)) f) s

/-- VMULH (R377). -/
def execVmulh (f : Fields) (s : State) : Host.Outcome State Fault Refusal := run .vmulh f (vecOp (mulhW (vuns f)) f) s

/-- VMAD: `a·b + c` with element i of vC (R377). -/
def vmadBody (f : Fields) (s : State) : Res :=
  let t := s.me
  let e := elemBits f
  .ok (putLanes s f e (fun i =>
    (satOr (vsat f) e (toSigned e (getLane (t.getV f.a) e i) * toSigned e (t.laneB f e i) + toSigned e (getLane (t.getV f.c) e i)), 0)))

/-- VMAD (R377). -/
def execVmad (f : Fields) (s : State) : Host.Outcome State Fault Refusal := run .vmad f (vmadBody f) s

/-- VMIN (R377). -/
def execVmin (f : Fields) (s : State) : Host.Outcome State Fault Refusal := run .vmin f (vecOp (fun w a b => if ltW (vuns f) w b a then b else a) f) s

/-- VMAX (R377). -/
def execVmax (f : Fields) (s : State) : Host.Outcome State Fault Refusal := run .vmax f (vecOp (fun w a b => if ltW (vuns f) w a b then b else a) f) s

/-- VABS (R356). -/
def execVabs (f : Fields) (s : State) : Host.Outcome State Fault Refusal := run .vabs f (vecOp1 (fun w a => satOr (vsat f) w (toSigned w a).natAbs) f) s

/-- VAND (R378). -/
def execVand (f : Fields) (s : State) : Host.Outcome State Fault Refusal := run .vand f (vecOp (fun _ a b => a &&& b) f) s

/-- VOR (R378). -/
def execVor (f : Fields) (s : State) : Host.Outcome State Fault Refusal := run .vor f (vecOp (fun _ a b => a ||| b) f) s

/-- VXOR (R378). -/
def execVxor (f : Fields) (s : State) : Host.Outcome State Fault Refusal := run .vxor f (vecOp (fun _ a b => a ^^^ b) f) s

/-- VSHL (R389). -/
def execVshl (f : Fields) (s : State) : Host.Outcome State Fault Refusal := run .vshl f (vecOp (fun w a b => satOr (vsat f) w (toSigned w a * (2 ^ (b % w) : Nat))) f) s

/-- VSHR (R389). -/
def execVshr (f : Fields) (s : State) : Host.Outcome State Fault Refusal := run .vshr f (vecOp (fun w a b => a / 2 ^ (b % w)) f) s

/-- VSRA (R389). -/
def execVsra (f : Fields) (s : State) : Host.Outcome State Fault Refusal := run .vsra f (vecOp (fun w a b => sraW w a (b % w)) f) s

/-- VPDEP (R379). -/
def execVpdep (f : Fields) (s : State) : Host.Outcome State Fault Refusal := run .vpdep f (vecOp pdepW f) s

/-- VPEXT (R379). -/
def execVpext (f : Fields) (s : State) : Host.Outcome State Fault Refusal := run .vpext f (vecOp pextW f) s

/-- VGFM (R372). -/
def execVgfm (f : Fields) (s : State) : Host.Outcome State Fault Refusal := run .vgfm f (vecOp (fun _ a b => gfm64 a b) f) s

/-- VBPERM (R357). -/
def execVbperm (f : Fields) (s : State) : Host.Outcome State Fault Refusal := run .vbperm f (fun s => vecOp1 (fun _ a => bperm64 a (s.me.getG f.b)) f s) s

/-- VSEL (R388). -/
def vselBody (f : Fields) (s : State) : Res :=
  let t := s.me
  let e := elemBits f
  let p := t.getP f.c
  .ok (putLanes s f e (fun i => (if p.getLsbD (i * (e / 8)) then getLane (t.getV f.a) e i else t.laneB f e i, 0)))

/-- VSEL (R388). -/
def execVsel (f : Fields) (s : State) : Host.Outcome State Fault Refusal := run .vsel f (vselBody f) s

/-- The dot product of the four bytes of two 32-bit elements (R363). -/
def dot4 (a b : Nat) : Int :=
  (List.range 4).foldl (fun (acc : Int) k => acc + toSigned 8 (bits a (8 * k) 8) * toSigned 8 (bits b (8 * k) 8)) 0

/-- VDOT4 (R363). -/
def vdot4Body (f : Fields) (s : State) : Res :=
  let t := s.me
  .ok (putLanes s f 32 (fun i =>
    (wrap 32 (toSigned 32 (getLane (t.getV f.d) 32 i) + dot4 (getLane (t.getV f.a) 32 i) (getLane (t.getV f.b) 32 i)), 0)))

/-- VDOT4 (R363). -/
def execVdot4 (f : Fields) (s : State) : Host.Outcome State Fault Refusal := run .vdot4 f (vdot4Body f) s

/-- VIOTA (R373). -/
def execViota (f : Fields) (s : State) : Host.Outcome State Fault Refusal := run .viota f (fun s => .ok (putLanes s f (elemBits f) (fun i => (i, 0)))) s

/-- VSPLAT (R390). -/
def execVsplat (f : Fields) (s : State) : Host.Outcome State Fault Refusal := run .vsplat f (fun s => .ok (putLanes s f (elemBits f) (fun _ => (operandA s.me f (elemBits f), 0)))) s


/-! ## Predicates of elements -/

/-- The predicate bits of the active elements of `e` bits, and of those of them for which a test holds. -/
def predLanes (t : Task) (f : Fields) (e : Nat) (g : Nat → Bool) : BitVec 256 × BitVec 256 :=
  let n := t.lanes e
  let val := (List.range n).foldl (fun acc i => if t.active f e i && g i then acc + 2 ^ i else acc) 0
  (BitVec.ofNat 256 (spread n (e / 8) val), t.activeBytes f e)

/-- Write the bits of the active elements of pD with a test's outcome (R127). -/
def putPred (f : Fields) (e : Nat) (g : Nat → Bool) (s : State) : State :=
  s.putP f.d (predLanes s.me f e g).1 (predLanes s.me f e g).2

/-- VCMP (R359). -/
def vcmpBody (f : Fields) (s : State) : Res :=
  let t := s.me
  let e := elemBits f
  .ok (putPred f e (fun i => condW (vuns f) e (f.x.toNat % 8) (getLane (t.getV f.a) e i) (t.laneB f e i)) s)

/-- VCMP (R359). -/
def execVcmp (f : Fields) (s : State) : Host.Outcome State Fault Refusal := run .vcmp f (vcmpBody f) s

/-- VWHILE (R396): exact sum and comparison over 64-bit operands. -/
def vwhileBody (f : Fields) (s : State) : Res :=
  let a := s.me.getX f.a
  let b := s.me.getX f.b
  .ok (putPred f (elemBits f) (fun i => if vuns f then decide (a.toNat + i < b.toNat) else decide (a.toInt + i < b.toInt)) s)

/-- VWHILE (R396). -/
def execVwhile (f : Fields) (s : State) : Host.Outcome State Fault Refusal := run .vwhile f (vwhileBody f) s

/-- VLEN (R376). -/
def execVlen (f : Fields) (s : State) : Host.Outcome State Fault Refusal := run .vlen f (fun s => .ok (s.setX f.d (BitVec.ofNat 64 (s.me.lanes (elemBits f))))) s

/-- Predicate logic: each bit is an element (R333). -/
def predOp (op : BitVec 256 → BitVec 256 → BitVec 256) (f : Fields) (s : State) : Res :=
  .ok (s.putP f.d (op (s.me.getP f.a) (s.me.getP f.b)) (s.me.guard f))

/-- PAND (R333). -/
def execPand (f : Fields) (s : State) : Host.Outcome State Fault Refusal := run .pand f (predOp (fun a b => a &&& b) f) s

/-- POR (R333). -/
def execPor (f : Fields) (s : State) : Host.Outcome State Fault Refusal := run .por f (predOp (fun a b => a ||| b) f) s

/-- PXOR (R333). -/
def execPxor (f : Fields) (s : State) : Host.Outcome State Fault Refusal := run .pxor f (predOp (fun a b => a ^^^ b) f) s

/-- PNOT (R333). -/
def execPnot (f : Fields) (s : State) : Host.Outcome State Fault Refusal := run .pnot f (predOp (fun a _ => ~~~a) f) s

/-- PCNT (R333). -/
def pcntBody (f : Fields) (s : State) : Res :=
  let t := s.me
  let p := t.getP f.a
  .ok (s.setX f.d (BitVec.ofNat 64 ((List.range (t.lanes (elemBits f))).filter (fun i => p.getLsbD (i * 2 ^ f.z.toNat))).length))

/-- PCNT (R333). -/
def execPcnt (f : Fields) (s : State) : Host.Outcome State Fault Refusal := run .pcnt f (pcntBody f) s

/-- PSET (R333). -/
def psetBody (f : Fields) (s : State) : Res :=
  .ok (putPred f (elemBits f) (fun i => match f.x.toNat % 4 with
    | 0 => false
    | 1 => true
    | _ => decide (i < (s.me.getX f.a).toNat)) s)

/-- PSET (R333). -/
def execPset (f : Fields) (s : State) : Host.Outcome State Fault Refusal := run .pset f (psetBody f) s


/-! ## Reductions, scans and lane moves -/

/-- A step of VRED at width `w` (R382). -/
def redStep (n : Bool) (w op a b : Nat) : Nat :=
  match op with
  | 0 => (a + b) % 2 ^ w
  | 1 => if ltW n w b a then b else a
  | 2 => if ltW n w a b then b else a
  | 3 => a &&& b
  | 4 => a ||| b
  | _ => a ^^^ b

/-- VRED's value over no element (R130). -/
def redUnit (n : Bool) (w op : Nat) : Nat :=
  match op with
  | 1 => if n then 2 ^ w - 1 else 2 ^ (w - 1) - 1
  | 2 => if n then 0 else 2 ^ (w - 1)
  | 3 => 2 ^ w - 1
  | _ => 0

/-- VRED (R382). -/
def vredBody (f : Fields) (s : State) : Res :=
  let t := s.me
  let e := elemBits f
  let op := f.x.toNat % 8
  let v := match (t.actives f e).map (getLane (t.getV f.a) e) with
    | [] => redUnit (vuns f) e op
    | a :: as => as.foldl (redStep (vuns f) e op) a
  .ok (s.deferX f.d (if vuns f then BitVec.ofNat 64 v else signW e v))

/-- VRED (R382, R130). -/
def execVred (f : Fields) (s : State) : Host.Outcome State Fault Refusal := run .vred f (vredBody f) s

/-- Running values over the active elements, ascending: element number and value, with the flags of each step. -/
def scanList (step : Nat → Nat → Nat × BitVec 6) : List (Nat × Nat) → List (Nat × Nat × BitVec 6)
  | [] => []
  | (i, a) :: rest =>
    (rest.foldl (fun (acc : List (Nat × Nat × BitVec 6) × Nat) p =>
      let r := step acc.2 p.2
      (acc.1 ++ [(p.1, r)], r.1)) ([(i, a, 0)], a)).1

/-- The values of a scan at an element. -/
def scanAt (xs : List (Nat × Nat × BitVec 6)) (i : Nat) : Nat × BitVec 6 :=
  match xs.find? (fun x => x.1 == i) with
  | some x => x.2
  | none => (0, 0)

/-- VSCAN (R385). -/
def vscanBody (f : Fields) (s : State) : Res :=
  let t := s.me
  let e := elemBits f
  let xs := scanList (fun a b => ((a + b) % 2 ^ e, 0)) ((t.actives f e).map (fun i => (i, getLane (t.getV f.a) e i)))
  .ok (deferLanes s f e (scanAt xs))

/-- VSCAN (R385). -/
def execVscan (f : Fields) (s : State) : Host.Outcome State Fault Refusal := run .vscan f (vscanBody f) s

/-- VPERM (R380). -/
def vpermBody (f : Fields) (s : State) : Res :=
  let t := s.me
  let e := elemBits f
  .ok (deferLanes s f e (fun i =>
    let k := getLane (t.getV f.b) e i
    (if k < t.lanes e then getLane (t.getV f.a) e k else 0, 0)))

/-- VPERM (R380). -/
def execVperm (f : Fields) (s : State) : Host.Outcome State Fault Refusal := run .vperm f (vpermBody f) s

/-- A deferred result for chosen elements of vD: pairs of element number and value. -/
def pairsPend (t : Task) (f : Fields) (e : Nat) (ps : List (Nat × Nat)) : Pend :=
  let n := t.lanes e
  let es := (List.range n).map (fun i => (ps.lookup i).getD 0)
  let m := ps.foldl (fun acc p => acc ||| 1 <<< p.1) 0
  { dest := .v f.d, val := (makeLanes 2048 e es).setWidth 4096, mask := BitVec.ofNat 256 (spread n (e / 8) m), unit := e / 8 }

/-- Defer chosen elements of vD: pairs of element number and value. -/
def deferPairs (s : State) (f : Fields) (e : Nat) (ps : List (Nat × Nat)) : State := s.defer (pairsPend s.me f e ps)

/-- VCOMP and VEXPD (R360). -/
def vcompBody (expand : Bool) (f : Fields) (s : State) : Res :=
  let t := s.me
  let e := elemBits f
  .ok (deferPairs s f e ((t.actives f e).zipIdx.map (fun p =>
    if expand then (p.1, getLane (t.getV f.a) e p.2) else (p.2, getLane (t.getV f.a) e p.1))))

/-- VCOMP (R360). -/
def execVcomp (f : Fields) (s : State) : Host.Outcome State Fault Refusal := run .vcomp f (vcompBody false f) s

/-- VEXPD (R360). -/
def execVexpd (f : Fields) (s : State) : Host.Outcome State Fault Refusal := run .vexpd f (vcompBody true f) s

/-- `bounds` on an element index in xB (R371, R381). -/
def needIndex (f : Fields) (s : State) : Act Unit :=
  need ((s.me.getX f.b).toNat < s.me.lanes (elemBits f)) s
    { code := .bounds, eval := s.me.getX f.b, offset := s.me.getX f.b }

/-- VGET (R371). -/
def vgetBody (f : Fields) (s : State) : Res := Act.run do
  needIndex f s
  let e := elemBits f
  let v := getLane (s.me.getV f.a) e (s.me.getX f.b).toNat
  return .ok (s.deferX f.d (if vuns f then BitVec.ofNat 64 v else signW e v))

/-- VGET (R371). -/
def execVget (f : Fields) (s : State) : Host.Outcome State Fault Refusal := run .vget f (vgetBody f) s

/-- VPUT (R381). -/
def vputBody (f : Fields) (s : State) : Res := Act.run do
  needIndex f s
  let e := elemBits f
  let k := (s.me.getX f.b).toNat
  let es := (List.range (k + 1)).map (fun i => if i = k then operandA s.me f e else 0)
  return .ok (s.putV f.d (makeLanes 2048 e es) (BitVec.ofNat 256 ((2 ^ (e / 8) - 1) * 2 ^ (k * (e / 8)))))

/-- VPUT (R381). -/
def execVput (f : Fields) (s : State) : Host.Outcome State Fault Refusal := run .vput f (vputBody f) s


/-! ## Floating arithmetic (R364 to R368) -/

/-- Format code and element bits of a floating instruction. -/
def floatFmt (f : Fields) : Fmt := fmtOf (fmtZ f.z)

/-- Element bits of a floating instruction. -/
def floatBits (f : Fields) : Nat := storeBits (fmtZ f.z)

/-- Element `i` of a floating operand B: a scalar's low bits, the rounded literal, or vB through its modifier (R365). -/
def floatB (t : Task) (f : Fields) (i : Nat) : Nat :=
  match f.form with
  | .f3 => ((floatFmt f).round .ne false (fp32.value f.lit.toNat)).1
  | _ => t.laneB f (floatBits f) i

/-- An element-wise floating instruction of vA and B. -/
def floatOp (op : Fmt → Nat → Nat → Nat × BitVec 6) (f : Fields) (s : State) : Res :=
  let t := s.me
  let e := floatBits f
  .ok (putLanes s f e (fun i => op (floatFmt f) (getLane (t.getV f.a) e i) (floatB t f i)))

/-- VFADD (R365). -/
def execVfadd (f : Fields) (s : State) : Host.Outcome State Fault Refusal := run .vfadd f (floatOp fadd f) s

/-- VFSUB (R365). -/
def execVfsub (f : Fields) (s : State) : Host.Outcome State Fault Refusal := run .vfsub f (floatOp fsub f) s

/-- VFMUL (R365). -/
def execVfmul (f : Fields) (s : State) : Host.Outcome State Fault Refusal := run .vfmul f (floatOp fmul f) s

/-- VFMA (R365). -/
def vfmaBody (f : Fields) (s : State) : Res :=
  let t := s.me
  let e := floatBits f
  .ok (putLanes s f e (fun i => ffma (floatFmt f) (getLane (t.getV f.a) e i) (floatB t f i) (getLane (t.getV f.c) e i)))

/-- VFMA (R365). -/
def execVfma (f : Fields) (s : State) : Host.Outcome State Fault Refusal := run .vfma f (vfmaBody f) s

/-- VFMIN (R365). -/
def execVfmin (f : Fields) (s : State) : Host.Outcome State Fault Refusal := run .vfmin f (floatOp (fun m a b => (fminmax m false a b, 0)) f) s

/-- VFMAX (R365). -/
def execVfmax (f : Fields) (s : State) : Host.Outcome State Fault Refusal := run .vfmax f (floatOp (fun m a b => (fminmax m true a b, 0)) f) s

/-- The special functions (R364). -/
def sfuBody (op : Sfu) (f : Fields) (s : State) : Res :=
  let t := s.me
  let e := floatBits f
  .ok (deferLanes s f e (fun i => sfu op (fmtZ f.z) (getLane (t.getV f.a) e i)))

/-- VRCP (R364). -/
def execVrcp (f : Fields) (s : State) : Host.Outcome State Fault Refusal := run .vrcp f (sfuBody .rcp f) s

/-- VRSQ (R364). -/
def execVrsq (f : Fields) (s : State) : Host.Outcome State Fault Refusal := run .vrsq f (sfuBody .rsq f) s

/-- VEXP2 (R364). -/
def execVexp2 (f : Fields) (s : State) : Host.Outcome State Fault Refusal := run .vexp2 f (sfuBody .exp2 f) s

/-- VLOG2 (R364). -/
def execVlog2 (f : Fields) (s : State) : Host.Outcome State Fault Refusal := run .vlog2 f (sfuBody .log2 f) s

/-- VFCMP (R366). -/
def vfcmpBody (f : Fields) (s : State) : Res :=
  let t := s.me
  let e := floatBits f
  let r (i : Nat) : Bool × BitVec 6 := fcond (floatFmt f) (f.x.toNat % 8) (getLane (t.getV f.a) e i) (floatB t f i)
  .ok ((putPred f e (fun i => (r i).1) s).raiseFlags ((t.actives f e).foldl (fun acc i => acc ||| (r i).2) 0))

/-- VFCMP (R366). -/
def execVfcmp (f : Fields) (s : State) : Host.Outcome State Fault Refusal := run .vfcmp f (vfcmpBody f) s

/-- VFRED (R367). -/
def vfredBody (f : Fields) (s : State) : Res :=
  let t := s.me
  let e := floatBits f
  let m := floatFmt f
  let op := f.x.toNat % 4
  let inf := (2 ^ m.eb - 1) * 2 ^ m.mb
  let step (acc : Nat × BitVec 6) (b : Nat) : Nat × BitVec 6 :=
    if op = 0 then
      let r := fadd m acc.1 b
      (r.1, acc.2 ||| r.2)
    else (fminmax m (op == 2) acc.1 b, acc.2)
  let v : Nat × BitVec 6 := match (t.actives f e).map (getLane (t.getV f.a) e) with
    | [] => (if op = 0 then 0 else if op = 1 then inf else inf + 2 ^ (m.eb + m.mb), 0)
    | a :: as => as.foldl step (m.canon a, 0)
  .ok (s.defer { dest := .x f.d, val := BitVec.ofNat 4096 v.1, flags := [v.2] })

/-- VFRED (R367). -/
def execVfred (f : Fields) (s : State) : Host.Outcome State Fault Refusal := run .vfred f (vfredBody f) s

/-- VFSCAN (R368). -/
def vfscanBody (f : Fields) (s : State) : Res :=
  let t := s.me
  let e := floatBits f
  let xs := scanList (fadd (floatFmt f)) ((t.actives f e).map (fun i => (i, (floatFmt f).canon (getLane (t.getV f.a) e i))))
  .ok (deferLanes s f e (scanAt xs))

/-- VFSCAN (R368). -/
def execVfscan (f : Fields) (s : State) : Host.Outcome State Fault Refusal := run .vfscan f (vfscanBody f) s


/-! ## Conversions and block scales (R361, R362, R384) -/

/-- VCVT and VCVTI (R361): one predicate bit for each byte of the larger element size. -/
def vcvtBody (f : Fields) (s : State) : Res :=
  let t := s.me
  let src := f.x.toNat / 16 % 16
  let dst := f.x.toNat % 16
  let ss := storeBits src
  let ds := storeBits dst
  let big := max ss ds
  let g := t.guard f
  let act := (List.range (t.lanes big)).filter (fun i => g.getLsbD (i * big / 8))
  let rs := act.map (fun i => (i, roundCode dst .ne (vuns f) (valueOf src (getLane (t.getV f.a) ss i))))
  let val := rs.foldl (fun acc r => acc + (r.2.1 % 2 ^ ds) * 2 ^ (ds * r.1)) 0
  let mask := rs.foldl (fun acc r => acc + (2 ^ ds - 1) * 2 ^ (ds * r.1)) 0
  .ok ((s.setV f.d (blend (t.getV f.d) (BitVec.ofNat 2048 val) (BitVec.ofNat 2048 mask))).raiseFlags
    (rs.foldl (fun acc r => acc ||| r.2.2) 0))

/-- VCVT (R361, R362). -/
def execVcvt (f : Fields) (s : State) : Host.Outcome State Fault Refusal := run .vcvt f (vcvtBody f) s

/-- VCVTI (R361, R362). -/
def execVcvti (f : Fields) (s : State) : Host.Outcome State Fault Refusal := run .vcvti f (vcvtBody f) s

/-- VSCACC (R384). DESIGN CHOICE (log entry 50): a product of 0 and an infinity whose addend is a NaN sets no invalid flag, since R123
names invalid operations on operands that are no NaN. -/
def vscaccBody (f : Fields) (s : State) : Res :=
  let t := s.me
  let blk := f.x.toNat / 16 % 16
  .ok (putLanes s f 32 (fun i =>
    let b := getLane (t.getV f.b) 8 (i / 2 ^ blk)
    let sc := if f.x.toNat % 16 = 15 then valueOf 15 b else ue4m3 b
    let a := fp32.value (getLane (t.getV f.a) 32 i)
    let d := fp32.value (getLane (t.getV f.d) 32 i)
    roundArith fp32 (a.isNan || d.isNan || sc.isNan) ((a.mul sc).add d)))

/-- VSCACC (R384). -/
def execVscacc (f : Fields) (s : State) : Host.Outcome State Fault Refusal := run .vscacc f (vscaccBody f) s


/-! ## Wide sums and codebook instructions (R136, R137, R301, R358, R383, R395) -/

/-- Write lanes of a w register at once. -/
def putWide (s : State) (n : BitVec 6) (rs : List (Nat × Nat × BitVec 6)) : State :=
  let val := rs.foldl (fun acc r => acc + (r.2.1 % 2 ^ 32) * 2 ^ (32 * r.1)) 0
  let mask := rs.foldl (fun acc r => acc + (2 ^ 32 - 1) * 2 ^ (32 * r.1)) 0
  (s.setMe (s.me.setW n (blend (s.me.getW n) (BitVec.ofNat 4096 val) (BitVec.ofNat 4096 mask)))).raiseFlags
    (rs.foldl (fun acc r => acc ||| r.2.2) 0)

/-- VWACC (R395). -/
def vwaccBody (f : Fields) (s : State) : Res :=
  let t := s.me
  let e := floatBits f
  .ok (putWide s f.d ((t.actives f e).map (fun i =>
    let x := (floatFmt f).value (getLane (t.getV f.a) e i)
    let y := fp32.value (getLane (t.getW f.d) 32 i)
    (i, roundArith fp32 (x.isNan || y.isNan) (y.add x)))))

/-- VWACC (R395). -/
def execVwacc (f : Fields) (s : State) : Host.Outcome State Fault Refusal := run .vwacc f (vwaccBody f) s

/-- VWGET (R395). -/
def vwgetBody (f : Fields) (s : State) : Res :=
  let t := s.me
  .ok (putLanes s f (floatBits f) (fun i => (floatFmt f).round .ne false (fp32.value (getLane (t.getW f.a) 32 i))))

/-- VWGET (R395). -/
def execVwget (f : Fields) (s : State) : Host.Outcome State Fault Refusal := run .vwget f (vwgetBody f) s

/-- VCBX (R358). -/
def execVcbx (f : Fields) (s : State) : Host.Outcome State Fault Refusal := run .vcbx f (fun s => .ok (putLanes s f 16 (fun i => ((s.core s.myCore).codebook.entry (getLane (s.me.getV f.a) 4 i), 0)))) s

/-- VSBP (R383). -/
def vsbpBody (f : Fields) (s : State) : Res := Act.run do
  let t := s.me
  need (1024 ≤ t.bits) s { code := .illegalEncoding }
  let cb := (s.core s.myCore).codebook
  let groups := (List.range (t.bits / 1024)).filter (fun j => t.active f 16 (64 * j))
  let rs := groups.map (fun j =>
    let acts := (List.range 64).map (fun m => (fmtOf 0).value (getLane (t.getV f.a) 16 (64 * j + m)))
    let codes := (List.range 64).map (fun m => getLane (t.getV f.b) 4 (64 * j + m))
    let g := sbpGroup cb acts codes
    let x := fp32.value (getLane (t.getW f.d) 32 j)
    let y := fp32.value g.1
    let r := roundArith fp32 (x.isNan || y.isNan) (x.add y)
    (j, r.1, g.2 ||| r.2))
  return .ok (s.defer
    { dest := .w f.d
      val := BitVec.ofNat 4096 (rs.foldl (fun acc r => acc + (r.2.1 % 2 ^ 32) * 2 ^ (32 * r.1)) 0)
      mask := BitVec.ofNat 256 (rs.foldl (fun acc r => acc + 2 ^ r.1) 0)
      flags := (List.range (t.bits / 1024)).map (fun j => ((rs.lookup j).map (·.2)).getD 0) })

/-- VSBP (R383). -/
def execVsbp (f : Fields) (s : State) : Host.Outcome State Fault Refusal := run .vsbp f (vsbpBody f) s

/-- A stable order of the 64 codes: by code, or by rank in a codebook (R135). -/
def grankTable (key : Nat → Nat) (v : BitVec 2048) : BitVec 384 :=
  let order := sortBy (fun a b => key (getLane v 4 a) ≤ key (getLane v 4 b)) (List.range 64)
  makeLanes 384 6 order

/-- The rank of a code in a codebook. -/
def Codebook.rankOf (cb : Codebook) (code : Nat) : Nat := ((List.range 16).find? (fun k => cb.rank k == code)).getD 0

/-- GRANK (R301, R135). -/
def grankBody (f : Fields) (s : State) : Res :=
  let cb := (s.core s.myCore).codebook
  let key (c : Nat) : Nat := if f.x.getLsbD 0 then cb.rankOf c else c
  .ok (s.defer { dest := .g f.d, val := (grankTable key (s.me.getV f.a)).setWidth 4096 })

/-- GRANK (R301). -/
def execGrank (f : Fields) (s : State) : Host.Outcome State Fault Refusal := run .grank f (grankBody f) s


end Sys2Proof.Machine
end

