-- ==== Sys2Proof/Machine/VectorMem.lean ====
section
/-!
DEFINITION. Meanings of the vector memory, packed-tile and permutation-table memory instructions (R72; R131, R202, R203, R300,
R369, R370, R374, R375, R386, R387, R391 to R393).
-/

namespace Sys2Proof.Machine

/-! ## Lane offsets and their checks (R131) -/

/-- Payload offset of element `i` of VLD and VST, or of VLDS and VSTS with their stride (R374). -/
def lineOffset (t : Task) (f : Fields) (strided : Bool) (i : Nat) : Int :=
  (t.getX f.b).toInt + litOffset f + (if strided then i * (t.getX f.c).toInt else i * (elemBits f / 8 : Nat))

/-- Payload offset of element `i` of VGATH and VSCAT (R369). -/
def indexOffset (t : Task) (f : Fields) (i : Nat) : Int :=
  toSigned (elemBits f) (getLane (t.getV f.b) (elemBits f) i) * (elemBits f / 8 : Nat)

/-- X bit 7: out-of-bounds mode. -/
def oobMode (f : Fields) : Bool := f.x.getLsbD 7

/-- An element of `n` bytes at an offset lies inside a register's view. -/
def laneInside (r : BitVec 128) (n : Nat) (off : Int) : Bool := 0 ≤ off && off + n ≤ oLen r

/-- The tests of R131 on the active elements, given as element number and offset. -/
def checkLanes (s : State) (f : Fields) (r : BitVec 128) (lanes : List (Nat × Int)) : Act Unit := do
  let n := elemBits f / 8
  let p := oCanon r
  let at' (off : Int) (c : FaultCode) : Flt := { code := c, eval := BitVec.ofInt 64 off, ptr := p, offset := BitVec.ofInt 64 off }
  checkPtr s r
  match lanes.find? (fun l => l.2 % (n : Int) != 0) with
  | some l => .error (.fault s (at' l.2 .alignment))
  | none =>
    if oobMode f then return
    match lanes.find? (fun l => !laneInside r n l.2) with
    | some l => .error (.fault s (at' l.2 .bounds))
    | none => return

/-- The active elements of a vector memory instruction with their offsets. -/
def activeLanes (t : Task) (f : Fields) (off : Nat → Int) : List (Nat × Int) :=
  (t.actives f (elemBits f)).map (fun i => (i, off i))

/-- Offset of the lowest lane of an access, for a fault that is not a lane's own. -/
def firstOff (lanes : List (Nat × Int)) : Int := ((lanes.head?).map (·.2)).getD 0

/-- A vector load (R369, R374): each active element is one access. -/
def vloadBody (off : Task → Nat → Int) (f : Fields) (s : State) : Res := Act.run do
  let n := elemBits f / 8
  let lanes := activeLanes s.me f (off s.me)
  checkLanes s f (s.me.getO f.a) lanes
  let ob ← objOf s (s.me.getO f.a)
  needKind (loadable s.me.priv ob.hdr) s (s.me.getO f.a) ob.hdr (firstOff lanes)
  if lanes.isEmpty then return .ok s
  let s ← touch s f.a ob.hdr
  let r := s.me.getO f.a
  let vals ← lanes.mapM (fun l => do
    if laneInside r n l.2 then
      let bs ← readThrough s r l.2.toNat n
      return (l.1, leNat bs)
    else return (l.1, 0))
  return .ok (s.deferLoad r n ((lanes.filter (fun l => laneInside r n l.2)).map (fun l => (l.1, l.2.toNat)))
    (pairsPend s.me f (elemBits f) vals))

/-- VLD (R374). -/
def execVld (f : Fields) (s : State) : Host.Outcome State Fault Refusal := run .vld f (vloadBody (fun t i => lineOffset t f false i) f) s

/-- VLDS (R374). -/
def execVlds (f : Fields) (s : State) : Host.Outcome State Fault Refusal := run .vlds f (vloadBody (fun t i => lineOffset t f true i) f) s

/-- VGATH (R369). -/
def execVgath (f : Fields) (s : State) : Host.Outcome State Fault Refusal := run .vgath f (vloadBody (fun t i => indexOffset t f i) f) s

/-- The tests on the object of a vector store, without the half test (R391). -/
def vstoreObject (s : State) (f : Fields) (lanes : List (Nat × Int)) : Act Obj := do
  let r := s.me.getO f.a
  let ob ← storeObj s r false
  needKind (storable s (oCanon r) s.me.priv ob.hdr 8) s r ob.hdr (firstOff lanes)
  return ob

/-- A vector store (R391, R392): its elements enter the buffer in ascending order, so that the highest one covers an overlapped byte; they
become visible in any order but that. -/
def vstoreBody (off : Task → Nat → Int) (f : Fields) (s : State) : Res := Act.run do
  let n := elemBits f / 8
  let r := s.me.getO f.a
  let lanes := activeLanes s.me f (off s.me)
  checkLanes s f r lanes
  let ob ← vstoreObject s f lanes
  needKind (hKind ob.hdr != 2 || lanes.all (fun l => 8 ≤ l.2 % 16)) s r ob.hdr (firstOff (lanes.filter (fun l => l.2 % 16 < 8)))
  needOpen s r ob.hdr (firstOff lanes)
  if lanes.isEmpty then return .ok s
  let s ← touch s f.a ob.hdr
  let r := s.me.getO f.a
  let v := s.me.getV f.d
  let s ← together s ((lanes.filter (fun l => laneInside r n l.2)).foldlM (fun s l =>
    putThrough s r l.2.toNat (leBytes n (getLane v (elemBits f) l.1))) s.stampSeq)
  return .ok s

/-- VST (R391). -/
def execVst (f : Fields) (s : State) : Host.Outcome State Fault Refusal := run .vst f (vstoreBody (fun t i => lineOffset t f false i) f) s

/-- VSTS (R391). -/
def execVsts (f : Fields) (s : State) : Host.Outcome State Fault Refusal := run .vsts f (vstoreBody (fun t i => lineOffset t f true i) f) s

/-- What VSCAT makes of a destination element and a lane's data (R386). -/
def scatStep (code w v d : Nat) : Nat :=
  match code with
  | 1 => (v + d) % 2 ^ w
  | 2 => if ltW false w d v then d else v
  | 3 => if ltW false w v d then d else v
  | 4 => (fadd fp32 v d).1
  | _ => d

/-- VSCAT (R386, R387). -/
def vscatBody (f : Fields) (s : State) : Res := Act.run do
  let e := elemBits f
  let n := e / 8
  let code := f.x.toNat % 8
  let r := s.me.getO f.a
  let lanes := activeLanes s.me f (indexOffset s.me f)
  checkLanes s f r lanes
  let ob ← vstoreObject s f lanes
  let inside := lanes.filter (fun l => laneInside r n l.2)
  needKind (hKind ob.hdr != 2 || inside.all (fun l => 8 ≤ l.2 % 16)) s r ob.hdr (firstOff (inside.filter (fun l => l.2 % 16 < 8)))
  needOpen s r ob.hdr (firstOff lanes)
  if lanes.isEmpty then return .ok s
  let s ← touch s f.a ob.hdr
  let r := s.me.getO f.a
  let v := s.me.getV f.d
  let s ← together s (((inside.map (·.2)).eraseDups).foldlM (fun s off => do
    let data := (inside.filter (fun l => l.2 == off)).map (fun l => getLane v e l.1)
    let old ← if code = 0 then pure 0 else (do
      let bs ← readThrough s r off.toNat n
      return leNat bs)
    putThrough s r off.toNat (leBytes n (data.foldl (scatStep code e) old))) s.stampSeq)
  return .ok s

/-- VSCAT (R386, R387). -/
def execVscat (f : Fields) (s : State) : Host.Outcome State Fault Refusal := run .vscat f (vscatBody f) s


/-! ## Packed tiles (R202, R203) -/

/-- The checks that VLDPK and VSTPK share, up to the tile index: the header's address and the descriptor. -/
def packChecks (s : State) (f : Fields) (isStore : Bool) : Act (Nat × PackDesc) := do
  let r := s.me.getO f.a
  need (64 ≤ s.me.lanes (elemBits f)) s { code := .illegalEncoding }
  checkPtr s r
  let (a, h) ← header s (oCanon r)
  needKind (hKind h == 4) s r h
  check s r 0 8 8
  if isStore then needOpen s r h
  needKind (!hStaged h || (if isStore then hState h == 0 || hState h == 2 else 2 ≤ hState h)) s r h
  let w ← readCanon s r 0 8
  let d := packDesc (leNat w)
  needKind (d.size == f.z.toNat && d.size < 3 && d.start ≤ oLen r && d.used ≤ oLen r - d.start) s r h
  need ((s.me.getX f.b).toNat < d.tiles) s
    { code := .bounds, eval := s.me.getX f.b, ptr := oCanon r, offset := s.me.getX f.b }
  return (a, d)

/-- VLDPK (R203, R375). -/
def vldpkBody (f : Fields) (s : State) : Res := Act.run do
  let r := s.me.getO f.a
  let es := elemBits f / 8
  let (a, d) ← packChecks s f false
  let i := (s.me.getX f.b).toNat
  let e ← readCanon s r (8 + 4 * i) 4
  let off := leNat (e.take 3)
  let count := leNat (e.drop 3)
  let w := BitVec.ofNat 64 ((8 + 4 * i) / 8 * 8)
  need (off + recordSize count es ≤ d.used) s { code := .bounds, eval := w, ptr := oCanon r, offset := w }
  let rec' ← readCanon s r (d.start + off) (recordSize count es)
  let mask := leNat (rec'.take 8)
  needKind (popW 64 mask == count) s r (s.peekWord a)
  let js := (s.me.actives f (elemBits f)).filter (· < 64)
  return .ok (s.deferLoad (oSetTouched r false) (oLen r) [(0, 0)]
    { pairsPend s.me f (elemBits f) (js.map (fun j => (j, recordElem es rec' j))) with how := .tile i es js })

/-- VLDPK (R375). -/
def execVldpk (f : Fields) (s : State) : Host.Outcome State Fault Refusal := run .vldpk f (vldpkBody f) s

/-- VSTPK (R203, R393): record, entry and used bytes change in one update at the home, after the task's earlier stores there. DESIGN CHOICE
(log entry 34): a record at an offset of 2^24 or more does not fit the 24 bits of its entry, and the spec states nothing for it; the entry
takes the offset mod 2^24. -/
def vstpkBody (f : Fields) (s : State) : Res := Act.run do
  let r := s.me.getO f.a
  let eb := elemBits f
  let es := eb / 8
  let a0 ← (do
    need (64 ≤ s.me.lanes eb) s { code := .illegalEncoding }
    checkPtr s r
    let (a, _) ← header s (oCanon r)
    return a)
  let s ← releasedHome s (homeOf a0)
  let (a, d) ← packChecks s f true
  let i := (s.me.getX f.b).toNat
  let elem (j : Nat) : Nat := if s.me.active f eb j then getLane (s.me.getV f.d) eb j else 0
  let used := (List.range 64).filter (fun j => elem j != 0)
  let size := recordSize used.length es
  need (d.used + size ≤ oLen r - d.start) s
    { code := .packOverflow, eval := oCanon r, ptr := oCanon r, offset := BitVec.ofNat 64 (d.start + d.used), progress := BitVec.ofNat 64 size }
  let _ ← access s (oCanon r) (16 + oView r) (oLen r)
  let body := used.flatMap (fun j => leBytes es (elem j))
  let rec' := leBytes 8 (used.foldl (fun acc j => acc + 2 ^ j) 0) ++ body ++ List.replicate (size - 8 - body.length) 0
  let base := a + 16 + oView r
  let s := s.poke (base + d.start + d.used) rec'
  let s := s.poke (base + 8 + 4 * i) (leBytes 3 d.used ++ leBytes 1 used.length)
  return .ok (s.poke (base + 4) (leBytes 4 (d.used + size)))

/-- VSTPK (R393). -/
def execVstpk (f : Fields) (s : State) : Host.Outcome State Fault Refusal := run .vstpk f (vstpkBody f) s


/-! ## Permutation tables (R300) -/

/-- Offset of GLD and GST. -/
def tableOffset (t : Task) (f : Fields) : Int := (t.getX f.b).toInt + litOffset f

/-- GLD (R300). -/
def gldBody (f : Fields) (s : State) : Res := Act.run do
  let r := s.me.getO f.a
  let off := tableOffset s.me f
  check s r off 48 8
  let ob ← objOf s r
  needKind (hKind ob.hdr != 7 && loadable s.me.priv ob.hdr) s r ob.hdr off
  let s ← touch s f.a ob.hdr
  let bs ← readThrough s (s.me.getO f.a) off.toNat 48
  return .ok (s.deferLoad (s.me.getO f.a) 48 [(0, off.toNat)] { dest := .g f.d, val := BitVec.ofNat 4096 (leNat bs) })

/-- GLD (R300). -/
def execGld (f : Fields) (s : State) : Host.Outcome State Fault Refusal := run .gld f (gldBody f) s

/-- GST (R300). -/
def gstBody (f : Fields) (s : State) : Res := Act.run do
  let r := s.me.getO f.a
  let off := tableOffset s.me f
  check s r off 48 8
  let ob ← storeObj s r false
  needKind ((hKind ob.hdr == 0 || hKind ob.hdr == 4) && storable s (oCanon r) s.me.priv ob.hdr off.toNat) s r ob.hdr off
  needOpen s r ob.hdr off
  let s ← touch s f.a ob.hdr
  let s ← writeThrough s (s.me.getO f.a) off.toNat (leBytes 48 (s.me.getG f.d).toNat)
  return .ok s

/-- GST (R300). -/
def execGst (f : Fields) (s : State) : Host.Outcome State Fault Refusal := run .gst f (gstBody f) s


end Sys2Proof.Machine
end

