-- ==== Sys2Proof/Machine/Streams.lean ====
section
/-!
DEFINITION. The stream fabric: graphs, copy jobs, copy-job nodes (spec/12_streams.md R184 to R201, R406; R290, R345).
-/

namespace Sys2Proof.Machine

/-! ## Operator records (R192 to R194) -/

/-- Bytes of the element size in bits 11:10 of word 0. -/
def opSize (w : Nat) : Nat := 2 ^ bits w 10 2

/-- Word `i` of an operator's record. -/
def GraphOp.word (o : GraphOp) (i : Nat) : Nat := (o.words.getD i 0).toNat

/-- Dimensions of a walker. -/
def walkerDims (w0 : Nat) : Nat := bits w0 8 2 + 1

/-- Words of a record by its code. -/
def opWords (code w0 : Nat) : Nat :=
  match code with
  | 0 | 1 => 2 + 2 * walkerDims w0
  | 2 | 3 | 6 | 7 | 11 => 2
  | _ => 1

/-- The bits of word 0 that a code's fields take, above bits 7:0 (R193). -/
def opMask (code : Nat) : Nat :=
  match code with
  | 0 | 1 => 0xFFFFFFFF00001F00
  | 2 => 0x1000
  | 3 => 0xFFFF0C00
  | 4 => 0x1FF00
  | 5 => 0xFFFFFFFF00010000
  | 6 => 0xFFFFFFFF00001C00
  | 7 => 0xFFFFFFFF00070C00
  | 8 => 0xC00
  | 9 => 0xFFFF1F00
  | 10 => 0xFFFF0F00
  | _ => 0xFFFFFFFF00000C00

/-- A format that CONVERT takes: 0–5, 7, 12–14. -/
def convFmt (n : Nat) : Bool := n ≤ 5 || n = 7 || (12 ≤ n && n ≤ 14)

/-- The two words of a walker's dimension are lawful (R194). -/
def dimOk (a b : Nat) : Bool := bits a 0 24 != 0 && bits a 25 7 == 0 && bits b 0 24 < bits a 0 24 && bits b 56 8 == 0

/-- A record is within its fields' limits (R192, R193). -/
def GraphOp.ok (o : GraphOp) : Bool :=
  let w := o.word 0
  w ||| (opMask o.code + 0xFF) == opMask o.code + 0xFF && match o.code with
    | 0 | 1 => (o.code = 0 || w.testBit 12) && (List.range (walkerDims w)).all (fun k => dimOk (o.word (2 + 2 * k)) (o.word (3 + 2 * k)))
    | 3 => bits w 10 2 ≤ 2 && o.word 1 / 2 ^ 32 == 0
    | 4 => convFmt (bits w 12 4) && convFmt (bits w 8 4)
    | 7 => (bits w 16 3 < 4 || (bits w 16 3 = 4 && opSize w = 4)) && o.word 1 / 2 ^ 32 == 0
    | 9 | 10 => 1 ≤ bits w 8 2
    | _ => true

/-- Element sizes of an operator's input ports and output ports; 0 for the port whose size comes from a packed object. -/
def GraphOp.ports (o : GraphOp) : List Nat × List Nat :=
  let w := o.word 0
  let es := opSize w
  let n := bits w 8 2 + 1
  match o.code with
  | 0 => ([], [es])
  | 1 => ([es], [])
  | 2 => ([], [0])
  | 3 => ([es], [])
  | 4 => ([storeBits (bits w 12 4) / 8], [storeBits (bits w 8 4) / 8])
  | 5 => ([4], [4])
  | 6 => ([4], [es])
  | 7 => ([4, es], [])
  | 8 => ([es], [es])
  | 9 => ([es], List.replicate n es)
  | 10 => (List.replicate n es, [es])
  | _ => ([], [es])

/-- An edge in its 32-bit word. -/
def edgeOf (w : Nat) : GraphEdge := { src := bits w 0 5, srcPort := bits w 5 3, dst := bits w 8 5, dstPort := bits w 13 3 }

/-- An edge joins existing ports of one element size, from a lower operator to a higher one (R192). -/
def edgeOk (ops : List GraphOp) (e : GraphEdge) : Bool :=
  match ops[e.src]?, ops[e.dst]? with
  | some a, some b =>
    match a.ports.2[e.srcPort]?, b.ports.1[e.dstPort]? with
    | some x, some y => e.src < e.dst && (x == 0 || x == y)
    | _, _ => false
  | _, _ => false

/-- Every port has exactly one edge (R192). -/
def portsOk (ops : List GraphOp) (es : List GraphEdge) : Bool :=
  ops.zipIdx.all (fun q =>
    (List.range q.1.ports.1.length).all (fun p => (es.filter (fun e => e.dst == q.2 && e.dstPort == p)).length == 1)
    && (List.range q.1.ports.2.length).all (fun p => (es.filter (fun e => e.src == q.2 && e.srcPort == p)).length == 1))

/-- Read `n` operator records from byte `pos` of a graph that ends at `bs.length` (R192). -/
def readOps (bs : List Byte) : Nat → Nat → Option (List GraphOp)
  | 0, _ => some []
  | n + 1, pos =>
    let w := leNat ((bs.drop pos).take 8)
    let code := w % 16
    let len := bits w 4 4
    if bs.length < pos + 8 || 12 ≤ code || len != opWords code w || bs.length < pos + 8 * len then none
    else
      let o : GraphOp := { code := code, words := (List.range len).map (fun i => leWord ((bs.drop (pos + 8 * i)).take 8)) }
      if o.ok then (readOps bs n (pos + 8 * len)).map (fun os => o :: os) else none

/-- The graph in the bytes of a view, at most 512, or none where R192 refuses it. -/
def readGraph (bs : List Byte) : Option Graph :=
  let h := leNat (bs.take 8)
  let e := bits h 8 8
  let n := h % 256
  if bs.length < 16 || h / 2 ^ 17 != 0 || leNat ((bs.drop 8).take 8) != 0 || n = 0 || 24 < n || 48 < e || bs.length < 16 + 4 * e then none
  else
    let ws := (List.range e).map (fun i => leNat ((bs.drop (16 + 4 * i)).take 4))
    match readOps bs n ((16 + 4 * e + 7) / 8 * 8) with
    | none => none
    | some ops =>
      let es := ws.map edgeOf
      if ws.all (· < 65536) && es.all (edgeOk ops) && portsOk ops es then
        some { strict := h.testBit 16, edges := es, ops := ops }
      else none

/-! ## Flows (R193 to R197, R406) -/

/-- An element of a flow: its bits or the fault of reading it, and whether a length mismatch is found when it is taken. -/
structure Cell where
  v : Except Flt Nat
  mark : Bool := false

/-- The elements between two operators, and whether a mismatch is found at their end. -/
structure Flow where
  cells : List Cell := []
  last : Bool := false

/-- One byte that a sink writes: its offset in oB's view, and whether it is padding. -/
structure Put where
  off : Nat
  byte : Except Flt Byte
  pad : Bool := false

/-- What the sinks of a job have produced. -/
structure Made where
  /-- Newest first. -/
  puts : List Put := []
  count : Nat := 0
  /-- The bytes produced before each element that is dropped. -/
  drops : List Nat := []
  /-- Used bytes of the packed destination after the records made so far. -/
  used : Nat := 0
  /-- Bytes produced before the first mismatch. -/
  miss : Option Nat := none
  /-- A fault that ends production. -/
  halt : Option Flt := none

/-- A mismatch is found here. -/
def Made.missed (m : Made) : Made := if m.miss.isSome then m else { m with miss := some m.count }

/-- An element is dropped here. -/
def Made.drop (m : Made) : Made := { m with drops := m.drops ++ [m.count] }

/-- Take a cell: its mark counts now. -/
def Made.take (m : Made) (c : Cell) : Made := if c.mark then m.missed else m

/-- Produce the bytes of an element of `es` bytes at an offset. -/
def Made.put (m : Made) (off es : Nat) (v : Except Flt Nat) (pad : Bool) : Made :=
  let new := (List.range es).map (fun i => (⟨off + i, v.map (fun x => BitVec.ofNat 8 (x / 256 ^ i)), pad⟩ : Put))
  { m with puts := new.reverse ++ m.puts, count := m.count + es }

/-- An operand of a job: the object's pointer, the address of the view's first byte, the view's length and its payload offset. -/
structure View where
  ptr : Word64
  base : Nat
  len : Nat
  off : Nat

/-- A fault of a job that names an operand. -/
def View.fault (v : View) (c : FaultCode) (off : Word64 := 0) : Flt := { code := c, ptr := v.ptr, offset := off }

/-- Read `es` bytes of a view. -/
def State.viewRead (s : State) (v : View) (off es : Nat) : Except Flt Nat :=
  match s.poison.find? (fun b => b < v.base + off + es && v.base + off < b + 64) with
  | some b => .error (v.fault .uncorrectable (blockOffset v.off v.base b))
  | none => .ok (leNat (s.mem.readN (v.base + off) es))

/-- The byte that the destination holds at an offset for a sink: the job's own last valid one, else memory's (R195, R197). -/
def Made.byteAt (m : Made) (s : State) (v : View) (off : Nat) : Except Flt Nat :=
  match m.puts.find? (fun p => p.off == off && !p.pad) with
  | some p => p.byte.map (·.toNat)
  | none => s.viewRead v off 1

/-- The element that the destination holds at an offset for a sink. -/
def Made.elementAt (m : Made) (s : State) (v : View) (off es : Nat) : Except Flt Nat :=
  (List.range es).foldl (fun acc i => acc.bind (fun x => (m.byteAt s v (off + i)).map (fun b => x + b * 256 ^ i))) (.ok 0)

/-- A coordinate of one dimension: padding, and the position (R194). -/
def dimAt (a b : Nat) (j : Nat) : Bool × Int :=
  let ext := bits a 0 24
  let u : Int := (j : Int) - bits b 24 16
  let inn := 0 ≤ u && u < ext
  let p : Int := if inn then (u + bits b 0 24) % ext else u
  (!inn, if a.testBit 24 then (ext : Int) - 1 - p else p)

/-- Number of coordinates of a dimension. -/
def dimCount (a b : Nat) : Nat := bits b 24 16 + bits a 0 24 + bits b 40 16

/-- The positions of a walker in order, dimension 0 fastest: padding, and the sum of the strides in elements. -/
def walkDims (o : GraphOp) (d : Nat) : Nat → List (Bool × Int)
  | 0 => [(false, 0)]
  | n + 1 =>
    let k := d - (n + 1)
    let a := o.word (2 + 2 * k)
    let b := o.word (3 + 2 * k)
    let stride : Int := (BitVec.ofNat 32 (a / 2 ^ 32)).toInt
    (walkDims o d n).flatMap (fun outer =>
      (List.range (dimCount a b)).map (fun j => (outer.1 || (dimAt a b j).1, outer.2 + (dimAt a b j).2 * stride)))

/-- The positions of a walker: padding, byte offset, and whether the element lies inside the view. -/
def walk (o : GraphOp) (len : Nat) : List (Bool × Int × Bool) :=
  let w := o.word 0
  let es := opSize w
  let d := walkerDims w
  (walkDims o d d).map (fun p =>
    let off : Int := (w / 2 ^ 32 : Nat) + p.2 * es
    (p.1, off, decide (0 ≤ off) && decide (off + es ≤ len)))

/-- The element that a fill field gives. -/
def fillOf (w es : Nat) : Except Flt Nat := .ok (w % 2 ^ (8 * es))

/-- READ (R194). -/
def opRead (s : State) (o : GraphOp) (v : View) : Flow :=
  let es := opSize (o.word 0)
  { cells := (walk o v.len).map (fun p =>
      if p.1 || !p.2.2 then ⟨fillOf (o.word 1) es, false⟩ else ⟨s.viewRead v p.2.1.toNat es, false⟩) }

/-- The elements of tile `i` of a packed view, or the fault that VLDPK would raise (R203). -/
def State.tileCells (s : State) (v : View) (d : PackDesc) (es i : Nat) : List Cell :=
  match s.viewRead v (8 + 4 * i) 4 with
  | .error f => [⟨.error f, false⟩]
  | .ok e =>
    let at_ := d.start + e % 2 ^ 24
    if d.used < e % 2 ^ 24 + recordSize (e / 2 ^ 24) es then [⟨.error (v.fault .bounds), false⟩]
    else
      match s.viewRead v at_ 8 with
      | .error f => [⟨.error f, false⟩]
      | .ok mask =>
        if popW 64 mask != e / 2 ^ 24 then [⟨.error (v.fault .kind), false⟩]
        else (List.range 64).map (fun j =>
          if mask.testBit j then ⟨s.viewRead v (at_ + 8 + es * popW 64 (mask % 2 ^ j)) es, false⟩ else ⟨.ok 0, false⟩)

/-- EXPAND (R193, R196): the decoded tiles, cut or filled to the declared count. -/
def opExpand (s : State) (o : GraphOp) (v : View) : Flow :=
  let d := packDesc (leNat (s.mem.readN v.base 8))
  let es := 2 ^ d.size
  let cells := match s.viewRead v 0 8 with
    | .error f => [⟨.error f, false⟩]
    | .ok _ => (List.range d.tiles).flatMap (fun i => s.tileCells v d es i)
  let want := bits (o.word 1) 0 32
  if want < cells.length then { cells := cells.take want, last := true }
  else { cells := cells ++ (List.range (want - cells.length)).map (fun i => ⟨fillOf (o.word 1 / 2 ^ 32) es, i == 0⟩) }

/-- An operator with one output element for each input element. -/
def Flow.each (f : Flow) (g : Nat → Except Flt Nat) : Flow :=
  { f with cells := f.cells.map (fun c => { c with v := c.v.bind g }) }

/-- TRANSPOSE (R193): each run of 4,096 elements column by column; a partial tile is completed with zeros and is a mismatch. -/
def opTranspose (f : Flow) : Flow :=
  { f with cells := (chunksOf 4096 (f.cells.length + 1) f.cells).flatMap (fun tile =>
      let odd := tile.length != 4096 || tile.any (·.mark)
      (List.range 4096).map (fun i => { (tile.getD (64 * (i % 64) + i / 64) ⟨.ok 0, false⟩) with mark := odd && i == 0 })) }

/-- Output `k` of `n` of a SPLIT. -/
def opSplit (o : GraphOp) (f : Flow) (k : Nat) : Flow :=
  let w := o.word 0
  let n := bits w 8 2 + 1
  let run := bits w 16 16 + 1
  if w.testBit 12 then { f with cells := (f.cells.zipIdx.filter (fun q => q.2 / run % n == k)).map (·.1) } else f

/-- Put a mark on the first cell, if there is one. -/
def markFirst (b : Bool) : List Cell → List Cell
  | [] => []
  | c :: cs => { c with mark := c.mark || b } :: cs

/-- JOIN: runs from the inputs in turn until one is empty at its turn, by fuel; what is left elsewhere is excess. A mismatch at the end of
an input, `due`, is found after the last of its elements (R193, R196, R406). -/
def joinRuns (run : Nat) : Nat → Nat → Bool → List Flow → List Cell → Flow
  | 0, _, due, _, acc => { cells := acc.reverse, last := due }
  | fuel + 1, turn, due, fs, acc =>
    let f := fs.getD turn {}
    if f.cells.isEmpty then { cells := acc.reverse, last := due || fs.any (fun g => g.last || !g.cells.isEmpty) }
    else
      let ends := f.cells.length ≤ run
      joinRuns run fuel ((turn + 1) % fs.length) (ends && f.last)
        (fs.set turn { cells := f.cells.drop run, last := !ends && f.last }) ((markFirst due (f.cells.take run)).reverse ++ acc)

/-- WRITE (R194, R196). -/
def opWrite (o : GraphOp) (len : Nat) (f : Flow) (m : Made) : Made :=
  let es := opSize (o.word 0)
  let fill := fillOf (o.word 1) es
  let r := (walk o len).foldl (fun (acc : Made × List Cell) p =>
    let (m, cells) := acc
    let (m, v, cells) :=
      if p.1 then (m, fill, cells)
      else match cells with
        | c :: cs => (m.take c, c.v, cs)
        | [] => (m.missed, fill, ([] : List Cell))
    if p.2.2 then (m.put p.2.1.toNat es v p.1, cells) else (m.drop, cells)) (m, f.cells)
  if !r.2.isEmpty || f.last then r.1.missed else r.1

/-- PACK (R193, R196): the declared elements in tiles of 64, each appended as VSTPK appends it, after what an earlier PACK of the job has
appended. -/
def opPack (s : State) (o : GraphOp) (v : View) (f : Flow) (m : Made) : Made :=
  let w := o.word 0
  let es := opSize w
  let want := o.word 1
  let d := packDesc (leNat (s.mem.readN v.base 8))
  match s.viewRead v 0 8 with
  | .error f => { m with halt := some f }
  | .ok _ =>
  if d.size != bits w 10 2 || v.len < d.start || v.len - d.start < m.used then { m with halt := some (v.fault .kind) }
  else
    let tiles := (want + 63) / 64
    let r := (List.range tiles).foldl (fun (acc : Made × Nat × List Cell) t =>
      let (m, used, cells) := acc
      if m.halt.isSome then acc
      else
        let i := bits w 16 16 + t
        let n := min 64 (want - 64 * t)
        let took := cells.take n
        let m := took.foldl Made.take m
        let m := if took.length < n then m.missed else m
        let vals := took.map (·.v)
        let bad := vals.find? (fun x => match x with
          | .error _ => true
          | .ok _ => false)
        let nat (x : Except Flt Nat) : Nat := match x with
          | .ok y => y
          | .error _ => 0
        let nums := vals.map nat
        let mask := nums.zipIdx.foldl (fun acc q => if q.1 = 0 then acc else acc + 2 ^ q.2) 0
        let data := (nums.filter (· != 0)).flatMap (fun x => leBytes es x)
        let size := recordSize (nums.filter (· != 0)).length es
        let m := match bad with
          | some (.error c) => { m with halt := some c }
          | _ => if d.tiles ≤ i then { m with halt := some (v.fault .bounds) }
            else if v.len - d.start < used + size then { m with halt := some (v.fault .packOverflow) } else m
        if m.halt.isSome then (m, used, [])
        else
          let rec0 := leNat (leBytes 8 mask ++ data)
          let m := m.put (d.start + used) size (.ok rec0) false
          let m := m.put (8 + 4 * i) 4 (.ok ((nums.filter (· != 0)).length * 2 ^ 24 + used)) false
          (m.put 4 4 (.ok (used + size)) false, used + size, cells.drop n)) (m, m.used, f.cells)
    let m := { r.1 with used := r.2.1 }
    if !r.2.2.isEmpty || f.last then m.missed else m

/-- SCATTER (R197): ascending source order, from the value that the destination element holds, which an earlier sink of the job may have
written. -/
def opScatter (s : State) (o : GraphOp) (v : View) (idx val : Flow) (m : Made) : Made :=
  let w := o.word 0
  let es := opSize w
  let code := bits w 16 3
  let want := o.word 1
  let pairs := idx.cells.zip val.cells
  let m := (pairs.take want).foldl (fun (m : Made) p =>
    if m.halt.isSome then m else
    let m := (m.take p.1).take p.2
    match p.1.v with
    | .error c => { m with halt := some c }
    | .ok i =>
      let off : Int := (w / 2 ^ 32 : Nat) + toSigned 32 i * es
      if 0 ≤ off && off + es ≤ v.len then
        let old := if code = 0 then Except.ok 0 else m.elementAt s v off.toNat es
        m.put off.toNat es (old.bind (fun a => p.2.v.map (fun b => scatStep code (8 * es) a b))) false
      else m.drop) m
  if m.halt.isSome then m else
  if pairs.length < want || idx.last || val.last || want < idx.cells.length || want < val.cells.length then m.missed else m

/-- The operands of a job. -/
structure Operands2 where
  src : View
  dst : View

/-- Run one operator: the flows that it puts out, and what the sinks have made; a fault that has ended production ends it for every later
sink (R199). -/
def runOp (s : State) (ops : Operands2) (o : GraphOp) (ins : List Flow) (m : Made) : List Flow × Made :=
  let w := o.word 0
  let es := opSize w
  let view := if w.testBit 12 then ops.dst else ops.src
  let in0 := ins.getD 0 {}
  match o.code with
  | 0 => ([opRead s o view], m)
  | 1 => ([], if m.halt.isSome then m else opWrite o ops.dst.len in0 m)
  | 2 => ([opExpand s o view], m)
  | 3 => ([], if m.halt.isSome then m else opPack s o ops.dst in0 m)
  | 4 => ([in0.each (fun x => .ok (roundCode (bits w 8 4) .ne (w.testBit 16) (valueOf (bits w 12 4) x)).1)], m)
  | 5 => ([in0.each (fun x => .ok (fp32.round .ne (w.testBit 16) ((fp32.value x).mul (fp32.value (w / 2 ^ 32)))).1)], m)
  | 6 =>
    ([in0.each (fun i =>
      let off : Int := (w / 2 ^ 32 : Nat) + toSigned 32 i * es
      if 0 ≤ off && off + es ≤ view.len then s.viewRead view off.toNat es else fillOf (o.word 1) es)], m)
  | 7 => ([], if m.halt.isSome then m else opScatter s o ops.dst in0 (ins.getD 1 {}) m)
  | 8 => ([opTranspose in0], m)
  | 9 => ((List.range (bits w 8 2 + 1)).map (opSplit o in0), m)
  | 10 => ([joinRuns (bits w 16 16 + 1) ((ins.map (fun f => f.cells.length)).foldl (· + ·) 0 + ins.length + 1) 0 false ins []], m)
  | _ => ([{ cells := List.replicate (w / 2 ^ 32) ⟨fillOf (o.word 1) es, false⟩ }], m)

/-- Run a graph in index order: the flows so far by operator and port, and what the sinks have made; `used` bytes of a packed destination
are in use at the start. -/
def runGraph (s : State) (ops : Operands2) (g : Graph) (used : Nat) : Made :=
  (g.ops.zipIdx.foldl (fun (acc : FMap Flow × Made) q =>
    let ins := (List.range q.1.ports.1.length).map (fun p =>
      match g.edges.find? (fun e => e.dst == q.2 && e.dstPort == p) with
      | some e => acc.1.find (32 * e.src + e.srcPort) {}
      | none => {})
    let (outs, m) := runOp s ops q.1 ins acc.2
    (outs.zipIdx.foldl (fun fl x => fl.set (32 * q.2 + x.2) x.1) acc.1, m)) ([], { used := used })).2

/-! ## The plan of a job (R195, R196, R199, R406) -/

/-- The bytes that take effect, from the newest back: the last valid write to each, padding only where there is none (R195);
bytes without effect keep their place. -/
def effective (valid : Nat) : List Put → Nat → List (Option Put) → List (Option Put)
  | [], _, acc => acc
  | p :: ps, seen, acc =>
    let keep := !seen.testBit p.off && !(p.pad && valid.testBit p.off)
    effective valid ps (if !keep then seen else seen ||| (1 <<< p.off)) ((if keep then some p else none) :: acc)

/-- The chunks of a job and the fault that strikes after them, with its production's mismatch and dropped count. -/
structure Plan where
  chunks : List (List (Nat × Byte))
  fault : Option Flt
  size : Nat
  miss : Bool
  drops : List Nat

/-- The plan of what the sinks made, with the offset of the destination's view from its header. A length mismatch is recorded at
the payload offset that follows the committed chunks in a destination written in order (DEDUCED, log entry 53). -/
def Made.plan (m : Made) (strict : Bool) (dst : View) (base : Nat) : Plan :=
  let valid := m.puts.foldl (fun acc p => if p.pad then acc else acc ||| (1 <<< p.off)) 0
  let puts := effective valid m.puts 0 []
  let isBad (p : Option Put) : Bool := match p with
    | some ⟨_, .error _, _⟩ => true
    | _ => false
  -- the first point at which production must stop, with its fault
  let bad : Option (Nat × Flt) := match puts.findIdx? isBad with
    | some i => match puts[i]? with
      | some (some ⟨_, .error c, _⟩) => some (i, c)
      | _ => none
    | none => m.halt.map (fun c => (m.count, c))
  let short (i : Nat) : Nat × Flt := (i, dst.fault .streamLength (BitVec.ofNat 64 (dst.off + i / 256 * 256)))
  let cut : Option (Nat × Flt) := match (if strict then m.miss else none), bad with
    | some i, some (j, c) => if j < i then some (j, c) else some (short i)
    | some i, none => some (short i)
    | none, b => b
  let kept := match cut with
    | some (i, _) => puts.take (i / 256 * 256)
    | none => puts
  { chunks := (chunksOf 256 (kept.length + 1) kept).map (fun ch => ch.filterMap (fun p => match p with
      | some ⟨off, .ok b, _⟩ => some (base + off, b)
      | _ => none))
    fault := cut.map (·.2), size := m.count, miss := m.miss.isSome, drops := m.drops }

/-- Slot 0: the bytes of the source's view (R191). -/
def copyMade (s : State) (src : View) : Made :=
  { puts := ((List.range src.len).map (fun i => (⟨i, (s.viewRead src i 1).map (BitVec.ofNat 8), false⟩ : Put))).reverse
    count := src.len }

/-- The plan of a job whose operands lie at the header addresses given; `used` bytes of a packed destination were in use when it first
started. -/
def CopyJob.planOf (j : CopyJob) (s : State) (a b used : Nat) : Plan :=
  let src : View := ⟨oCanon j.src, a + 16 + oView j.src, oLen j.src, oView j.src⟩
  let dst : View := ⟨oCanon j.dst, b + 16 + oView j.dst, oLen j.dst, oView j.dst⟩
  match j.graph with
  | none => (copyMade s src).plan false dst (16 + oView j.dst)
  | some g => (runGraph s ⟨src, dst⟩ g used).plan g.strict dst (16 + oView j.dst)

/-- The used bytes in the descriptor of a packed destination at a header address. -/
def CopyJob.usedNow (j : CopyJob) (s : State) (b : Nat) : Nat := (packDesc (leNat (s.mem.readN (b + 16 + oView j.dst) 8))).used

/-! ## The sequencer (R184, R191, R199) -/

/-- The DMA engine of an I/O die keeps its jobs like a fabric, under the numbers 64 and 65. -/
def dmaOf (io : Nat) : ClusterId := 64 + io

/-- A halt holds the job. -/
def State.jobStopped (s : State) (k : ClusterId) (j : CopyJob) : Bool := s.workStopped (.fabric k) j.part j.job j.core

/-- The job that a fabric or an engine is at: the first of its queue that no halt holds. -/
def State.jobAt (s : State) (k : ClusterId) : Option CopyJob := (s.cluster k).jobs.find? (fun j => !s.jobStopped k j)

/-- Replace a job of a queue. -/
def State.setJob (s : State) (k : ClusterId) (old new : CopyJob) : State :=
  s.setCluster k { s.cluster k with jobs := (s.cluster k).jobs.map (fun j => if j == old then new else j) }

/-- A job's fault, with its committed chunks (R199, R403). -/
def State.jobFault (s : State) (k : ClusterId) (j : CopyJob) (f : Flt) : State :=
  s.workFault (.fabric k) j.part { f with progress := BitVec.ofNat 64 j.committed } j.job j.core 0x18E

/-- A fault of a job at one of its objects, at a payload offset. -/
def State.jobFaultAt (s : State) (k : ClusterId) (j : CopyJob) (c : FaultCode) (ptr : Word64) (off : Nat := 0) : State :=
  s.jobFault k j { code := c, eval := ptr, ptr := ptr, offset := BitVec.ofNat 64 off }

/-- The payload offset of the first byte of an object that its region or its window does not hold (R239, R245). -/
def State.outAt (s : State) (p : Nat) (ptr : Word64) : Nat :=
  let v := ptr.toNat
  match tagOf ptr with
  | 4 => if rgValid (s.region p (bits v 40 20)) then rgSize (s.region p (bits v 40 20)) - bits v 0 40 - 16 else 0
  | 5 => bits (s.window p (bits v 48 12)).1.toNat 0 48 - bits v 0 48 - 16
  | _ => padSize (tagOf ptr) - padOff ptr - 16

/-- Ask the host for the page that a job waits for (R199, R239). -/
def State.askForJob (s : State) (k : ClusterId) (j : CopyJob) (ptr : Word64) (n : Nat) : State :=
  match s.reach (tablesOf j.part) ptr 0 n with
  | .page pg => s.askPage (.copy k j.job j.core pg)
  | _ => s

/-- Where the transforms of an engine's traffic come from, for the routers: the cluster of a fabric, or an I/O die. -/
def engineSource (k : ClusterId) : Option ClusterId := if k < 64 then some k else none

/-- The routers admit a job's traffic to an object (R223). -/
def State.jobPasses (s : State) (k : ClusterId) (j : CopyJob) (ptr : Word64) : Bool := s.passes j.tenant j.part (engineSource k) ptr

/-- FABRIC_JOB_START: the next job reads its sources and starts, once leave is granted for one that writes more than 1 MiB; one that a halt has
stopped keeps the drops of its committed prefix (R156, R191, R199). DESIGN CHOICE (log entry 9): the wait of a copy-job node's job, which has
no issuing core, is added to `c.grant` of core 0 of the fabric's cluster; R156 names none. -/
def State.startJob (s : State) (k : ClusterId) : State :=
  match s.jobAt k with
  | none => s
  | some j =>
    let src := oCanon j.src
    let dst := oCanon j.dst
    let ns := 16 + oView j.src + oLen j.src
    let nd := 16 + oView j.dst + oLen j.dst
    if j.started || j.waitsLeave then s
    else if !s.jobPasses k j src then s.jobFaultAt k j .remotePermission src
    else if !s.jobPasses k j dst then s.jobFaultAt k j .remotePermission dst
    else if s.engineWaits j.part src ns then s.askForJob k j src ns
    else if s.engineWaits j.part dst nd then s.askForJob k j dst nd
    else
      match s.enginePlace j.part src ns, s.enginePlace j.part dst nd with
      | .error c, _ => s.jobFaultAt k j c src (s.outAt (tablesOf j.part) src)
      | _, .error c => s.jobFaultAt k j c dst (s.outAt (tablesOf j.part) dst)
      | .ok a, .ok b =>
        let used := j.packed.getD (j.usedNow s b)
        let p := j.planOf s a b used
        if 2 ^ 20 < p.size && !j.asked then
          let s := s.setJob k j { j with asked := true, waitsLeave := true }
          s.askLeave (.copy j.job k) (j.core.getD (8 * (k % 64)))
        else
          s.setJob k j { j with
            started := true, plan := p.chunks, mismatch := p.miss
            drops := j.drops.filter (· < 256 * j.committed) ++ p.drops.filter (256 * j.committed ≤ ·), packed := some used, fault := p.fault }

/-- FABRIC_JOB_START (R184). -/
def execFabricJobStart (k : ClusterId) (s : State) : Host.Outcome State Fault Refusal := happen (fun s => s.startJob k) s

/-- The bytes of a chunk as runs at rising addresses, in order of production. -/
def runsOf : List (Nat × Byte) → List (Nat × List Byte)
  | [] => []
  | (a, b) :: ps =>
    match runsOf ps with
    | (c, bs) :: rs => if c = a + 1 then (a, b :: bs) :: rs else (a, [b]) :: (c, bs) :: rs
    | [] => [(a, [b])]

/-- CHUNK_COMMIT: the next chunk becomes visible whole, or the job's fault strikes (R199). -/
def State.commitChunk (s : State) (k : ClusterId) : State :=
  match s.jobAt k with
  | none => s
  | some j =>
    if !j.started then s
    else
      match j.plan[j.committed]? with
      | none =>
        match j.fault with
        | some f => s.jobFault k j f
        | none => s
      | some ch =>
        let dst := oCanon j.dst
        let nd := 16 + oView j.dst + oLen j.dst
        if !s.jobPasses k j dst then s.jobFaultAt k j .remotePermission dst
        else if s.engineWaits j.part dst nd then s.askForJob k j dst nd
        else
          match s.enginePlace j.part dst nd with
          | .error c => s.jobFaultAt k j c dst (s.outAt (tablesOf j.part) dst)
          | .ok b =>
            if hSealed (s.peekWord b) then s.jobFaultAt k j .sealedStore dst (((ch.head?.map (·.1)).getD 16) - 16)
            else ((runsOf ch).foldl (fun s p => s.poke (b + p.1) p.2) s).setJob k j { j with committed := j.committed + 1 }

/-- CHUNK_COMMIT (R199). -/
def execChunkCommit (k : ClusterId) (s : State) : Host.Outcome State Fault Refusal := happen (fun s => s.commitChunk k) s

/-- The staged states after a job: the source's prior one, and full (R191). -/
def State.restoreStates (s : State) (j : CopyJob) : State :=
  let s := match j.srcState, s.enginePlace j.part (oCanon j.src) 16 with
    | some st, .ok a => s.setStaged a st.toNat
    | _, _ => s
  match s.enginePlace j.part (oCanon j.dst) 16 with
  | .ok b => s.setStaged b 2
  | .error _ => s

/-- The scope of a copy's release (R186, R187, R198). -/
def State.copyScope (s : State) (k : ClusterId) (j : CopyJob) : Nat :=
  if jobKind j.job = 5 then 5
  else match s.enginePlace j.part (oCanon j.dst) 16 with
    | .ok b => if k < 64 then fillScope (dieOfCluster k) (some k) (oCanon j.dst) b else if homeOf b = 4 then 5 else 3
    | .error _ => 3

/-- A job leaves its queue. -/
def State.dropJob (s : State) (k : ClusterId) (j : CopyJob) : State :=
  s.setCluster k { s.cluster k with jobs := (s.cluster k).jobs.filter (· != j) }

/-- A job ends with a status: its mailbox fills, and its node finishes (R186, R191, R200). -/
def State.closeJob (s : State) (k : ClusterId) (j : CopyJob) (status : Nat) : State :=
  let s := match j.core with
    | some c => s.fillBox j.part j.ctx c j.job status j.drops.length (s.copyScope k j)
    | none => s
  match j.node with
  | some (d, i) =>
    match (s.die d).node i with
    | some n => if n.bound || n.state == .running then s.finishNode (nodeId d i) else s
    | none => s
  | none => s

/-! ## CPY and SGLD -/

/-- A queue entry of a fabric is free; the DMA engines have no limit of their own. DESIGN CHOICE (log entry 44): R184 does not say whether the
job that runs still counts among the 64; it does, until it completes. -/
def State.jobRoom (s : State) (k : ClusterId) : Bool := 64 ≤ k || (s.cluster k).jobs.length < 64

/-- The engine that carries a CPY and its engine kind (R185, R187, R198). -/
def copyEngine (s : State) (src dst : Word64) : ClusterId × Nat :=
  let c := s.myCore
  let p := s.tablePart s.me
  let io (w : Word64) : Nat :=
    let e := s.window p (bits w.toNat 48 12)
    if bits e.1.toNat 61 2 = 2 then
      (if bits (s.plat.routes.find (64 * bits e.1.toNat 60 1 + bits e.1.toNat 54 6) 0).toNat 0 5 ≤ 8 then 0 else 1)
    else bits e.1.toNat 60 1
  if isM c then (dmaOf (dieOf c / 2), 6)
  else if tagOf dst = 5 then (dmaOf (io dst), 5)
  else if tagOf src = 5 then (dmaOf (io src), 5)
  else (clusterOf c, 0)

/-- Capture a CPY in a job and kick it (R191). -/
def State.kick (s : State) (k : ClusterId) (j : CopyJob) : State :=
  let p := j.part
  let src := match s.enginePlace p (oCanon j.src) 16 with
    | .ok a => if hStaged (s.peekWord a) then some (BitVec.ofNat 4 (hState (s.peekWord a)), a) else none
    | .error _ => none
  let s := match src with
    | some (_, a) => s.setStaged a 3
    | none => s
  let s := match s.enginePlace p (oCanon j.dst) 16 with
    | .ok b => s.setStaged b 1
    | .error _ => s
  s.setCluster k { s.cluster k with jobs := (s.cluster k).jobs ++ [{ j with srcState := src.map (·.1) }] }

/-- A job of two o registers. -/
def copyJob (job : Word32) (core : Option CoreId) (k : ClusterId) (tid : Word32) (part ctx : Nat) (launch : Option Nat) (tenant : BitVec 16)
    (src dst : BitVec 128) (graph : Option Graph) (node : Option (Nat × Nat)) : CopyJob :=
  { job := job, core := core, cluster := k, tid := tid, part := part, ctx := ctx, launch := launch, tenant := tenant, src := src, dst := dst
    graph := graph, node := node, srcState := none, plan := [], committed := 0, drops := [], mismatch := false, packed := none, fault := none
    started := false, asked := false, waitsLeave := false }

/-- The job of the acting task's CPY, with all that it captures (R191). -/
def State.makeCopy (s : State) (k : ClusterId) (f : Fields) (bound : Bool) (job : Word32) : CopyJob :=
  let t := s.me
  let slot := f.x.toNat % 4
  let graph := if slot = 0 || isM s.myCore then none else (s.cluster (clusterOf s.myCore)).graphs.lookup slot
  let n := (t.getX f.c).toNat
  copyJob job (some s.myCore) k t.tid (if isM s.myCore then 16 else t.part) t.ctx t.launch t.tenant (t.getO f.a) (t.getO f.b) graph
    (if bound then some (n / 65536, n % 65536) else none)

/-- The node of a CPY with `.node` is bound to its job. -/
def State.bindNode (s : State) : Option (Nat × Nat) → State
  | none => s
  | some (d, i) =>
    s.setDie d { s.die d with nodes := List.map (fun e => if e.1 == i then (e.1, { e.2 with bound := true }) else e) (s.die d).nodes }

/-- The acting task's CPY takes its queue entry: the job id is its result. -/
def State.acceptCopy (s : State) (f : Fields) (j : CopyJob) : State :=
  ((s.bindNode j.node).deferX f.d (j.job.setWidth 64)).kick j.cluster j

/-- An operand of CPY: data or packed, in a staged state that serves (R190). -/
def copyable (h : Word64) (states : List Nat) : Bool := (hKind h == 0 || hKind h == 4) && (!hStaged h || states.contains (hState h))

/-- Check 4 of R190: the graph's EXPAND and PACK against the objects, given as pointer and header word, operator by operator; `rd` reads
the descriptor of oA (false) or oB (true), only where an EXPAND needs it, and `bad` is the `kind` fault of an object (R232). -/
def graphChecks (g : Graph) (oa ob : Word64 × Word64) (rd : Bool → Except ε Nat) (bad : Word64 × Word64 → ε) : List (GraphOp × Nat) → Except ε Unit
  | [] => .ok ()
  | q :: qs =>
    match q.1.code with
    | 2 =>
      let onB := (q.1.word 0).testBit 12
      let o := if onB then ob else oa
      let feeds := match g.edges.find? (fun e => e.src == q.2) with
        | some e => (((g.ops[e.dst]?).map (fun x => x.ports.1)).getD []).getD e.dstPort 0
        | none => 0
      if hKind o.2 != 4 then .error (bad o)
      else
        match rd onB with
        | .error e => .error e
        | .ok w => if bits w 16 4 < 3 && feeds == 2 ^ bits w 16 4 then graphChecks g oa ob rd bad qs else .error (bad o)
    | 3 => if hKind ob.2 == 4 then graphChecks g oa ob rd bad qs else .error (bad ob)
    | _ => graphChecks g oa ob rd bad qs

/-- The `kind` fault of an object, given as pointer and header word. -/
def kindOf (o : Word64 × Word64) : Flt := { code := .kind, eval := o.2, ptr := o.1 }

/-- The checks of R190 on two o registers, for the tables of the acting task: they end with the slot's graph. -/
def copyChecks (s : State) (ra rb : BitVec 128) (slot : Nat) (node : Bool) : Act Unit := do
  checkPtr s ra
  let (_, ha) ← header s (oCanon ra)
  needKind (copyable ha [2]) s ra ha
  checkPtr s rb
  let (_, hb) ← header s (oCanon rb)
  needKind (copyable hb [0, 2]) s rb hb
  needOpen s rb hb
  need (!isM s.myCore || (slot == 0 && !node)) s { code := .kind }
  if slot = 0 then check s rb 0 (oLen ra) 1
  else
    match (s.cluster (clusterOf s.myCore)).graphs.lookup slot with
    | none => .error (.fault s { code := .kind })
    | some g =>
      graphChecks g (oCanon ra, ha) (oCanon rb, hb) (fun b => (readCanon s (if b then rb else ra) 0 8).map leNat)
        (fun o => .fault s (kindOf o)) g.ops.zipIdx

/-- A copy instruction with its mailbox taken: its copy is queued at the engine of its fabric, or the task waits with the job it has
captured for the queue to have an entry (R184, R191). -/
def State.copyOrWait (s : State) (o : Op) (f : Fields) (j : CopyJob) : Res :=
  if s.jobRoom j.cluster then .ok (s.acceptCopy f j) else .park s { kind := .queue, op := o, f := f, aux := 1000 + j.cluster, copy := some j }

/-- CPY (R190, R191): the checks, the mailbox, the queue entry. A task that waits for the entry keeps its mailbox. -/
def cpyBody (bound : Bool) (o : Op) (f : Fields) (s : State) : Res := Act.run do
  let ra := s.me.getO f.a
  let rb := s.me.getO f.b
  copyChecks s ra rb (f.x.toNat % 4) bound
  if bound then
    let v := s.me.getX f.c
    let d := dieOf s.myCore
    let ok := v.toNat / 65536 == d && match (s.die d).node (v.toNat % 65536) with
      | some n => n.kind == .copy && n.buildingOf s.me.tid && n.count == 0
          && !(s.die d).edges.any (fun e => e.1 == v.toNat % 65536)
      | none => false
    need ok s { code := .kind }
  let s ← releasedFor [oCanon ra, oCanon rb] s
  let e := copyEngine s (oCanon ra) (oCanon rb)
  let (s, job) ← takeMailbox s o f e.2
  return s.copyOrWait o f (s.makeCopy e.1 f bound job)

/-- CPY (R290). -/
def execCpy (f : Fields) (s : State) : Host.Outcome State Fault Refusal := run .cpy f (cpyBody false .cpy f) s

/-- CPY bound to a copy-job node (R290). -/
def execCpyNode (f : Fields) (s : State) : Host.Outcome State Fault Refusal := run .cpyNode f (cpyBody true .cpyNode f) s

/-- The task that has waited longest for an entry of a fabric's queue takes it, if there is one (R184). -/
def State.serveQueue (s : State) (k : ClusterId) : State :=
  match s.waiters .queue (1000 + k) with
  | [] => s
  | (t, w) :: _ =>
    match w.copy with
    | none => s
    | some j =>
      if !s.jobRoom k then s
      else
        let s' : State := { s.wake t with cur := t }
        { (s'.acceptCopy w.f j).complete t w.f with cur := s.cur }

/-- FABRIC_JOB_COMPLETE: every chunk is visible; the job leaves the queue with status 1, or 2 for a length mismatch (R191,
R196), and a waiting CPY takes its entry. DESIGN CHOICE (log entry 44): where a CPY waits and a copy-job node is held, R184 does not say
which takes the entry; the CPY does. -/
def State.jobDone (s : State) (k : ClusterId) : State :=
  match s.jobAt k with
  | none => s
  | some j =>
    if !j.started || j.committed < j.plan.length || j.fault.isSome then s
    else
      (((s.restoreStates j).dropJob k j).closeJob k j (if j.mismatch then 2 else 1)).serveQueue k

/-- FABRIC_JOB_COMPLETE (R191). -/
def execFabricJobComplete (k : ClusterId) (s : State) : Host.Outcome State Fault Refusal := happen (fun s => s.jobDone k) s

/-- SGLD (R189, R192, R345). -/
def sgldBody (f : Fields) (s : State) : Res := Act.run do
  let r := s.me.getO f.a
  checkPtr s r
  let (_, h) ← header s (oCanon r)
  needKind (hKind h == 6) s r h
  check s r 0 16 8
  needKind (!isM s.myCore) s r h
  let s ← releasedFor [oCanon r] s
  let bs ← readCanon s r 0 (min 512 (oLen r))
  match readGraph bs with
  | none => .error (.fault s { code := .kind, eval := h, ptr := oCanon r })
  | some g =>
    let s := s.defer { dest := .graph (f.x.toNat % 4) g }
    return .ok (s.deferX f.d (BitVec.ofNat 64 g.ops.length))

/-- SGLD (R345). -/
def execSgld (f : Fields) (s : State) : Host.Outcome State Fault Refusal := run .sgld f (sgldBody f) s


/-! ## Copy-job nodes (R105, R200) -/

/-- The job id of a copy-job node (R185). -/
def nodeJob (id : Word32) : Word32 := jobId (id.toNat % 2 ^ 18) 4 0

/-- The object at a pointer for the task graph unit that a ready copy-job node goes by: its header's address and word (R200, R223). -/
def State.nodeObject (s : State) (n : Node) (ptr : Word64) : Except Flt (Nat × Word64) :=
  if badPtr ptr then .error { code := .nullPointer, eval := ptr, ptr := ptr }
  else if !s.passes n.tenant n.part none ptr then .error { code := .remotePermission, ptr := ptr }
  else match s.enginePlace n.part ptr 16 with
    | .error c => .error { code := c, ptr := ptr }
    | .ok a =>
      if s.poisoned a 16 then .error { code := .uncorrectable, ptr := ptr }
      else if validHeader (s.peekWord a) then .ok (a, s.peekWord a) else .error (kindOf (ptr, s.peekWord a))

/-- The checks of a ready copy-job node, as a fault or the cluster, the registers and the graph (R200, R190). -/
def State.nodeChecks (s : State) (d : Nat) (n : Node) : Except Flt (ClusterId × BitVec 128 × BitVec 128 × Option Graph) := do
  let (a, h) ← s.nodeObject n n.arg
  let w (i : Nat) : Nat := (s.peekWord (a + 16 + 8 * i)).toNat
  if hKind h != 6 || hLen h < 32 || w 2 / 64 != 0 || w 3 != 0 then throw (kindOf (n.arg, h))
  if s.poisoned (a + 16) 32 then throw { code := .uncorrectable, ptr := n.arg }
  let k := 16 * d + bits (w 2) 2 4
  if !s.available k || (n.part < 16 && !(s.part n.part).holds k) then throw (kindOf (n.arg, h))
  let oa : Word64 := BitVec.ofNat 64 (w 0)
  let ob : Word64 := BitVec.ofNat 64 (w 1)
  let (sa, ha) ← s.nodeObject n oa
  if !copyable ha [2] then throw (kindOf (oa, ha))
  let (sb, hb) ← s.nodeObject n ob
  if !copyable hb [0, 2] then throw (kindOf (ob, hb))
  if hSealed hb then throw { code := .sealedStore, eval := ob, ptr := ob }
  let ra := oMake false false 0 (hLen ha) oa
  let rb := oMake false false 0 (hLen hb) ob
  if w 2 % 4 = 0 then
    if hLen hb < hLen ha then throw { code := .bounds, eval := 0, ptr := ob }
    return (k, ra, rb, none)
  else
    match (s.cluster k).graphs.lookup (w 2 % 4) with
    | none => throw { code := .kind }
    | some g =>
      graphChecks g (oa, ha) (ob, hb) (fun b => s.viewRead ⟨if b then ob else oa, (if b then sb else sa) + 16, 8, 0⟩ 0 8) kindOf g.ops.zipIdx
      return (k, ra, rb, some g)

/-- The fabric that a ready copy-job node is for: that of its held job, or the one that its checks lead to. -/
def State.nodeFabric (s : State) (d i : Nat) (n : Node) : Option ClusterId :=
  match (s.die d).heldKicks.lookup i with
  | some j => some j.cluster
  | none => (s.nodeChecks d n).toOption.map (·.1)

/-- A ready copy of a fabric's queue that has not gone, may go now, and stands before readiness `at_`: the queue's entries go to the nodes in
order of readiness, those of a context that is out or halted apart (R184). -/
def State.heldBefore (s : State) (d : Nat) (k : ClusterId) (at_ : Nat) : Bool :=
  (s.die d).nodes.any (fun e => e.2.ready && e.2.kind == .copy && (s.die d).readiness e.1 < at_ && !s.frozen e.2.part e.2.ctx
    && s.nodeFabric d e.1 e.2 == some k)

/-- A copy-job node starts its copy. -/
def State.startNode (s : State) (d i : Nat) (j : CopyJob) : State :=
  let die := s.die d
  (s.setDie d { die with
    nodes := List.map (fun e => if e.1 == i then (e.1, { e.2 with state := NodeState.running }) else e) die.nodes
    heldKicks := die.heldKicks.filter (fun e => e.1 != i) }).kick j.cluster j

/-- COPY_NODE_KICK: a ready copy-job node is checked and kicks its fabric, or its job is held while the queue is full (R184, R200). -/
def State.kickNode (s : State) (d i : Nat) : State :=
  match (s.die d).node i with
  | none => s
  | some n =>
    let id := nodeId d i
    let at_ := (s.die d).readiness i
    if !n.ready || n.kind != .copy || s.stopped (.taskGraph d) n.part || s.frozen n.part n.ctx then s
    else
      match (s.die d).heldKicks.lookup i with
      | some j => if s.jobRoom j.cluster && !s.heldBefore d j.cluster at_ then s.startNode d i j else s
      | none =>
        match s.nodeChecks d n with
        | .error f => s.unitFault (.taskGraph d) n.part f (nodeJob id) 0x18E
        | .ok (k, ra, rb, g) =>
          let j := copyJob (nodeJob id) none k n.creator n.part n.ctx n.launch n.tenant ra rb g (some (d, i))
          let die := s.die d
          if s.jobRoom k && !s.heldBefore d k at_ then s.startNode d i j
          else s.setDie d { die with heldKicks := insertBy (fun a b => die.readiness a.1 ≤ die.readiness b.1) (i, j) die.heldKicks }

/-- COPY_NODE_KICK (R200). -/
def execCopyNodeKick (d n : Nat) (s : State) : Host.Outcome State Fault Refusal := happen (fun s => s.kickNode d n) s

end Sys2Proof.Machine
end

