-- ==== Sys2Proof/Machine/NearBank.lean ====
section
/-!
DEFINITION. Near-bank matrix-vector jobs (spec/10_nearbank.md R157 to R164; R324).
-/

namespace Sys2Proof.Machine

/-- The shape prefix of a weight object (R157). -/
structure Shape where
  k : Nat
  n : Nat
  fmt : Nat
  /-- The zero fields are zero. -/
  clean : Bool
  codebook : BitVec 256
deriving DecidableEq, Repr

/-- The shape prefix in 64 bytes. -/
def shapeOf (bs : List Byte) : Shape :=
  let w0 := leNat (bs.take 8)
  let w1 := leNat ((bs.drop 8).take 8)
  { k := bits w0 32 32, n := bits w0 0 32, fmt := w1 % 256
    codebook := BitVec.ofNat 256 (leNat ((bs.drop 16).take 32))
    clean := w1 / 256 == 0 && leNat (bs.drop 48) == 0 && (w1 % 256 == 9 || leNat ((bs.drop 16).take 32) == 0) }

/-- The stack of a heap pointer's region. -/
def State.stackOf (s : State) (p : Nat) (ptr : Word64) : Nat := rgStack (s.region p (bits ptr.toNat 40 20))

/-- `bounds` on a field of the prefix: the payload offset of its 8-byte word (R232). -/
def prefixBounds (r : BitVec 128) (word : Nat) : Flt :=
  { code := .bounds, eval := BitVec.ofNat 64 word, ptr := oCanon r, offset := BitVec.ofNat 64 word }

/-- Header word 0 of an object that a failing level test has not read, or 0 when it cannot be read (R232). -/
def State.headerWord (s : State) (ptr : Word64) : Word64 :=
  match header s ptr with
  | .ok (_, h) => h
  | .error _ => 0

/-- An operand stands at one of the levels that NBMV takes, which is tested before its header is read (R160). -/
def needLevel (s : State) (r : BitVec 128) (ok : Nat → Bool) : Act Unit := do
  checkPtr s r
  needKind (ok (tagOf (oCanon r))) s r (s.headerWord (oCanon r))

/-- An activation or result object of NBMV: in a pad, of kind data. -/
def needPadObject (s : State) (r : BitVec 128) (staged : Word64 → Bool) : Act (Nat × Word64) := do
  needLevel s r (fun l => 1 ≤ l && l ≤ 3)
  let (a, h) ← header s (oCanon r)
  needKind (hKind h == 0 && (!hStaged h || staged h)) s r h
  return (a, h)

/-- Bytes of a job's weights. -/
def NbJob.weights (j : NbJob) : Nat := j.n * j.k * opBits j.fmt / 8

/-- The task that acts puts its job in the queue of a stack (R162): the job id is its result. -/
def State.acceptNear (s : State) (f : Fields) (st : Nat) (j : NbJob) : State :=
  let s := match s.enginePlace j.part (oCanon j.oc) 16 with
    | .ok a => s.setStaged a 1
    | .error _ => s
  let s : State := { s with nbQueues := s.nbQueues.set st (s.nbQueues.find st [] ++ [j]) }
  let s := if j.waitsLeave then s.askLeave (.nearBank j.job st) j.core else s
  s.deferX f.d (j.job.setWidth 64)

/-- The queue of a stack has an entry free. -/
def State.nearRoom (s : State) (st : Nat) : Bool := (s.nbQueues.find st []).length < 16

/-- NBMV (R160, R324). DESIGN CHOICE (log entry 44): one that has parked for a mailbox is issued again on waking, and makes every check of R160
again; the spec does not say whether the checks are repeated. -/
def nbmvBody (f : Fields) (s : State) : Res := Act.run do
  let m := f.x.toNat / 16 % 4 + 1
  let fmt := f.x.toNat % 16
  let oa := s.me.getO f.a
  let ob := s.me.getO f.b
  let oc := s.me.getO f.c
  needLevel s oa (· == 4)
  let (_, ha) ← header s (oCanon oa)
  needKind (hKind ha == 0 && hSpread ha && hSealed ha) s oa ha
  check s oa 0 64 8
  let sh := shapeOf (← readCanon s oa 0 64)
  needKind (sh.fmt == fmt && sh.clean) s oa ha
  need (1 ≤ sh.n && sh.n ≤ 65536 && sh.k % 256 == 0 && 256 ≤ sh.k && sh.k ≤ 65536) s (prefixBounds oa 0)
  need (64 + sh.n * sh.k * opBits fmt / 8 ≤ oLen oa) s (prefixBounds oa 0)
  let _ ← needPadObject s ob (fun h => 2 ≤ hState h)
  check s ob 0 (2 * m * sh.k) 2
  let (_, hc) ← needPadObject s oc (fun h => hState h == 0 || hState h == 2)
  check s oc 0 (4 * m * sh.n) 4
  needOpen s oc hc
  let st := s.stackOf (s.tablePart s.me) (oCanon oa)
  let s ← releasedFor [oCanon oa, oCanon ob, oCanon oc] s
  -- first a mailbox, then a queue entry (R324)
  let (s, job) ← takeMailbox s .nbmv f 2
  let j : NbJob :=
    { job := job, core := s.myCore, tid := s.me.tid, part := s.me.part, ctx := s.me.ctx, launch := s.me.launch, tenant := s.me.tenant
      oa := oa, ob := ob, oc := oc, m := m, fmt := fmt, n := sh.n, k := sh.k, started := false
      waitsLeave := decide (0x100000 < sh.n * sh.k * opBits fmt / 8) }
  return if s.nearRoom st then .ok (s.acceptNear f st j) else .park s { kind := .queue, op := .nbmv, f := f, aux := 2000 + st, near := some j }

/-- NBMV (R324). -/
def execNbmv (f : Fields) (s : State) : Host.Outcome State Fault Refusal := run .nbmv f (nbmvBody f) s

/-- The task that has waited longest for an entry of a stack's queue takes it, if there is one (R162). -/
def State.serveNear (s : State) (st : Nat) : State :=
  match s.waiters .queue (2000 + st) with
  | [] => s
  | (t, w) :: _ =>
    match w.near with
    | none => s
    | some j =>
      if !s.nearRoom st then s
      else
        let s' : State := { s.wake t with cur := t }
        { (s'.acceptNear w.f st j).complete t w.f with cur := s.cur }

/-- The job that a stack is at: one that has started, else the first of its queue that no halt holds (R162, R228). -/
def State.nearAt (s : State) (st : Nat) : Option NbJob :=
  let js := (s.nbQueues.find st []).filter (fun j => !s.stopped (.nearBank st) j.part)
  match js.find? (·.started) with
  | some j => some j
  | none => js.find? (fun j => !s.partHalted j.part)

/-- A job of a stack's queue replaced. -/
def State.setNear (s : State) (st : Nat) (old new : NbJob) : State :=
  { s with nbQueues := s.nbQueues.set st ((s.nbQueues.find st []).map (fun j => if j == old then new else j)) }

/-- A job leaves a stack's queue, and a task that waits for an entry takes it. -/
def State.dropNear (s : State) (st : Nat) (j : NbJob) : State :=
  ({ s with nbQueues := s.nbQueues.set st ((s.nbQueues.find st []).filter (· != j)) } : State).serveNear st

/-- NBMV_JOB_START (R162): the stack starts the job that is next in its queue. -/
def State.nbStart (s : State) (st : Nat) : State :=
  match s.nearAt st with
  | some j => if j.started || j.waitsLeave then s else s.setNear st j { j with started := true }
  | none => s

/-- NBMV_JOB_START (R162). -/
def execNbmvJobStart (stack : Nat) (s : State) : Host.Outcome State Fault Refusal := happen (fun s => s.nbStart stack) s

/-- The result element of activation vector `m` and row `n` (R161). -/
def State.nbElement (s : State) (j : NbJob) (wa aa : Nat) (cb : Codebook) (m n : Nat) : Nat :=
  (List.range (j.k / 64)).foldl (fun y g =>
    let acts := (unpack 0 64 (s.engineRead aa j.ob (2 * (m * j.k + 64 * g)) 128)).map (fmtOf 0).value
    let ws := unpack j.fmt 64 (s.engineRead wa j.oa (64 + (n * j.k + 64 * g) * opBits j.fmt / 8) (64 * opBits j.fmt / 8))
    let G := if j.fmt = 9 then (sbpGroup cb acts ws).1
      else (fp32.round .ne false (Val.sum (((ws.map (valueOf j.fmt)).zip acts).map (fun p => p.1.mul p.2)))).1
    add32 y (fp32.value G)) 0

/-- Where a job is in its order of work, for its stop record: channel of the chunk, activation vector and chunk (R158, R164). DESIGN CHOICE
(log entry 31): R164 has the record name them, and no field of R230 is theirs; they stand in its progress, the channel from bit 56, the
vector from bit 48 and the chunk below. -/
def nearProgress (m q : Nat) : Word64 := BitVec.ofNat 64 (chunkChannel q * 2 ^ 56 + m * 2 ^ 48 + q)

/-- The first poisoned block of a span. -/
def State.poisonAt (s : State) (a n : Nat) : Option Nat := s.poison.find? (fun b => b < a + n && a < b + 64)

/-- The first block that a job at its addresses finds struck, in the order of its work: of the prefix, then for each activation vector and
chunk of a weight or an activation, last of a result, which comes of the last chunk of its row (R161, R164, R240). -/
def State.nearBad (s : State) (j : NbJob) (wa aa ca : Nat) : Option Flt :=
  let w0 := wa + 16 + oView j.oa
  let a0 := aa + 16 + oView j.ob
  let c0 := ca + 16 + oView j.oc
  let bad (r : BitVec 128) (v m q b : Nat) : Flt := { code := .uncorrectable, ptr := oCanon r, offset := blockOffset (oView r) v b, progress := nearProgress m q }
  let chunk := 256 * opBits j.fmt / 8
  let chunks := j.n * j.k / 256
  if !s.poisoned w0 (64 + j.weights) && !s.poisoned a0 (2 * j.m * j.k) && !s.poisoned c0 (4 * j.m * j.n) then none
  else
    match s.poisonAt w0 64 with
    | some b => some (bad j.oa w0 0 0 b)
    | none =>
      match (List.range (j.m * chunks)).findSome? (fun i =>
          let m := i / chunks
          let q := i % chunks
          match s.poisonAt (w0 + 64 + q * chunk) chunk with
          | some b => some (bad j.oa w0 m q b)
          | none => (s.poisonAt (a0 + 2 * (m * j.k + 256 * q % j.k)) 512).map (bad j.ob a0 m q)) with
      | some f => some f
      | none =>
        (s.poisonAt c0 (4 * j.m * j.n)).map (fun b =>
          let e := (b - c0) / 4
          bad j.oc c0 (e / j.n) ((e % j.n + 1) * (j.k / 256) - 1) b)

/-- The object registers of a job with their bytes, placed, and let through by the routers (R164, R223). -/
def State.nearPlaces (s : State) (j : NbJob) : Except Flt (Nat × Nat × Nat) := do
  let wa ← s.placeReg j.part j.oa (64 + j.weights)
  let aa ← s.placeReg j.part j.ob (2 * j.m * j.k)
  let ca ← s.placeReg j.part j.oc (4 * j.m * j.n)
  match [j.oa, j.ob, j.oc].find? (fun r => !s.passes j.tenant j.part none (oCanon r)) with
  | some r => .error { code := .remotePermission, ptr := oCanon r }
  | none =>
    match s.nearBad j wa aa ca with
    | some f => .error f
    | none => if hSealed (s.peekWord ca) then .error { code := .sealedStore, eval := oCanon j.oc, ptr := oCanon j.oc } else return (wa, aa, ca)

/-- NBMV_JOB_COMPLETE (R161, R163): every result, then the mailbox. -/
def State.nbComplete (s : State) (st : Nat) : State :=
  match s.nearAt st with
  | none => s
  | some j =>
    if !j.started then s
    else if [(j.oa, 64 + j.weights), (j.ob, 2 * j.m * j.k), (j.oc, 4 * j.m * j.n)].any (fun r =>
        s.engineWaits j.part (oCanon r.1) (16 + oView r.1 + r.2)) then s
    else
      match s.nearPlaces j with
      | .error f => s.unitFault (.nearBank st) j.part f j.job (Op.nbmv.row.code.setWidth 32)
      | .ok (wa, aa, ca) =>
        let cb := Codebook.make (shapeOf (s.engineRead wa j.oa 0 64)).codebook
        let out := (List.range (j.m * j.n)).flatMap (fun e => leBytes 4 (s.nbElement j wa aa cb (e / j.n) (e % j.n)))
        let s := (s.poke (ca + 16 + oView j.oc) out).setStaged ca 2
        (s.fillBox j.part j.ctx j.core j.job 1 0 (fillScope (st / 2) none (oCanon j.oc) ca)).dropNear st j

/-- NBMV_JOB_COMPLETE (R161). -/
def execNbmvJobComplete (stack : Nat) (s : State) : Host.Outcome State Fault Refusal := happen (fun s => s.nbComplete stack) s

/-! ## Waits for a resource that came free during a halt or while the context was out (R186, R226, R231) -/

/-- What a parked task waits for is there: a mailbox, an entry of its matrix queue, or a node or an edge. -/
def State.resourceFree (s : State) (k : TaskKey) (w : Wait) : Bool :=
  match w.kind with
  | .mailbox => (s.freeMailbox (coreOf k)).isSome
  | .queue => w.copy.isNone && w.near.isNone && (s.core (coreOf k)).queue.length < 16
  | .room => w.op != .fork && s.graphRoom k w
  | _ => false

/-- Parked tasks that could not take a resource when it came free try again, and those that wait with a job for a queue entry take what
entries are free, in order of arrival. -/
def State.takeUp (s : State) : State :=
  let s := s.tasks.foldl (fun s e => match e.2.wait with
    | some w => if s.resourceFree e.1 w then s.wake e.1 else s
    | none => s) s
  let s := s.clusters.foldl (fun s e => (s.waiters .queue (1000 + e.1)).foldl (fun s _ => s.serveQueue e.1) s) s
  (List.range 8).foldl (fun s st => (s.waiters .queue (2000 + st)).foldl (fun s _ => s.serveNear st) s) s

end Sys2Proof.Machine
end

