-- ==== Sys2Proof/Machine/Launch.lean ====
section
/-!
DEFINITION. Launch queues, the distributors, partition descriptions and gang slices (spec/14_launch.md R217 to R226, R404).
-/

namespace Sys2Proof.Machine

/-! ## Instruction stores (R64, R221) -/

/-- Parcels in an instruction store. -/
def storeParcels : Nat := 65536

/-- The parcels of a code object's payload, zero padding included (R64). -/
def State.codeParcels (s : State) (a : Nat) : List Word32 :=
  (List.range (hLen (s.peekWord a) / 4)).map (fun i => BitVec.ofNat 32 (leNat (s.mem.readN (a + 16 + 4 * i) 4)))

/-- A range of parcels is free in a store. -/
def codeFits (rs : List CodeRange) (p n : Nat) : Bool :=
  p + n ≤ storeParcels && rs.all (fun r => r.base + r.parcels.length ≤ p || p + n ≤ r.base)

/-- The lowest parcel address at which `n` parcels fit in the free space of every store: 0, or the end of some range (R221). -/
def lowestFit (stores : List (List CodeRange)) (n : Nat) : Option Nat :=
  (sortBy (· ≤ ·) (0 :: stores.flatMap (fun rs => rs.map (fun r => r.base + r.parcels.length)))).find? (fun p =>
    stores.all (fun rs => codeFits rs p n))

/-- Where a code object goes in stores: at the place of a copy already resident from the same pointer when every store has it
there or has room there, else at the lowest fit (R221). -/
def codePlace (stores : List (List CodeRange)) (ptr : Word64) (n : Nat) : Option Nat :=
  let here (rs : List CodeRange) (p : Nat) : Bool := rs.any (fun r => r.ptr == ptr && r.base == p && r.parcels.length == n)
  match (stores.flatMap (fun rs => rs.filterMap (fun r => if r.ptr == ptr then some r.base else none))).find? (fun p =>
      stores.all (fun rs => here rs p || codeFits rs p n)) with
  | some p => some p
  | none => lowestFit stores n

/-- A store with a code object at a place, reusing what is there. -/
def codeLoad (rs : List CodeRange) (ptr : Word64) (p : Nat) (ps : List Word32) : List CodeRange :=
  if rs.any (fun r => r.ptr == ptr && r.base == p) then rs else rs ++ [{ base := p, parcels := ps, ptr := ptr }]

/-! ## Launch queues (R217) -/

/-- A queue of a partition. -/
def State.queue (s : State) (p q : Nat) : Queue := s.queues.find (64 * p + q) ⟨0, 0, 0, 0, none⟩

/-- Replace a queue. -/
def State.setQueue (s : State) (p q : Nat) (v : Queue) : State := { s with queues := s.queues.set (64 * p + q) v }

/-- The ring holds 2^size packets. -/
def Queue.ring (q : Queue) : Nat := 2 ^ bits q.ctl.toNat 12 4

/-- The ring of a QCTL value is usable: a size of 1 to 12, and a data object of the heap or a window with room for it. -/
def State.ringOk (s : State) (p : Nat) (base : Word64) (ctl : Word32) : Bool :=
  let size := bits ctl.toNat 12 4
  1 ≤ size && size ≤ 12 && (tagOf base == 4 || tagOf base == 5) && !badPtr base &&
    match s.place p base 16 with
    | .error _ => false
    | .ok a => validHeader (s.peekWord a) && hKind (s.peekWord a) == 0 && 128 * 2 ^ size ≤ hLen (s.peekWord a)
        && (match s.place p base (16 + 128 * 2 ^ size) with
          | .ok _ => true
          | .error _ => false)

/-- QTAIL_WRITE: a tail more than the ring's size past the head stops the queue with the error bit. In recovery the module offers no doorbell
(R250). -/
def State.qtailWrite (s : State) (p q : Nat) (v : Word32) : State :=
  let k := s.queue p q
  if s.plat.recovery then s else
  let far := k.ring < (v - k.head).toNat
  s.setQueue p q { k with tail := v, ctl := if far then (k.ctl &&& ~~~1#32) ||| 2#32 else k.ctl }

/-- QTAIL_WRITE (R217). -/
def execQtailWrite (p q : Nat) (v : Word32) (s : State) : Host.Outcome State Fault Refusal :=
  happen (fun s => s.qtailWrite p q v) s

/-- A QCTL write: error is read-only; enabling an unusable ring or size sets error and has no other effect. -/
def State.qctlWrite (s : State) (p q : Nat) (v : Word32) : State :=
  let k := s.queue p q
  let fields := v &&& 0x003FFFC1#32
  if v.getLsbD 0 && !s.ringOk p k.base v then s.setQueue p q { k with ctl := k.ctl ||| 2#32 }
  else s.setQueue p q { k with ctl := fields ||| (k.ctl &&& 2#32) }

/-- QCTL_ENABLE (R217). -/
def execQctlEnable (p q : Nat) (v : Word32) (s : State) : Host.Outcome State Fault Refusal :=
  happen (fun s => s.qctlWrite p q (v ||| 1#32)) s

/-! ## Packets (R218, R219) -/

/-- The `i`-th 8-byte word of a packet. -/
def packetWord (bs : List Byte) (i : Nat) : Nat := leNat ((bs.drop (8 * i)).take 8)

/-- A zero field of a packet is nonzero. -/
def packetBad (bs : List Byte) : Bool :=
  let w0 := packetWord bs 0
  bits w0 48 16 != 0 || bits w0 26 6 != 0 || bits w0 11 5 != 0 || bits (packetWord bs 2) 32 32 != 0
    || (bs.drop 0x48).any (· != 0)

/-- The available clusters of a partition that a packet's die mask names, ascending; a mask of 0 names every die. -/
def State.maskClusters (s : State) (p mask : Nat) : List ClusterId :=
  (s.clustersOf p).filter (fun k => mask == 0 || mask.testBit (dieOfCluster k))

/-- The code object of a packet is usable: kind 5, not longer than 256 KiB, and an entry with a start bit (R219). -/
def State.packetCode (s : State) (p : Nat) (ptr : Word64) (entry : Nat) : Bool :=
  !badPtr ptr && match s.place p ptr 16 with
    | .error _ => false
    | .ok a =>
      let h := s.peekWord a
      validHeader h && hKind h == 5 && hLen h ≤ 262144 && (match s.place p ptr (16 + hLen h) with
        | .error _ => false
        | .ok _ => (startOffsets (s.codeParcels a) 0 0).contains entry)

/-- Bytes of the code object at a pointer, its header included; of one that has no such header, the header alone. -/
def State.codeSize (s : State) (p : Nat) (ptr : Word64) : Nat :=
  match s.place p ptr 16 with
  | .error _ => 16
  | .ok a => if validHeader (s.peekWord a) && hLen (s.peekWord a) ≤ 262144 then 16 + hLen (s.peekWord a) else 16

/-- Tenant of a queue's tasks, and of what its distributor reads and writes for it (R217, R221). -/
def State.queueTenant (s : State) (p q : Nat) : BitVec 16 :=
  BitVec.ofNat 16 ((s.part p).group * 64 + bits (s.queue p q).ctl.toNat 16 6)

/-- What stops a distributor's access to the first `n` bytes of an object for a queue: the router of a partition's pads (R223), its place,
or poison (R240). -/
def State.distFault (s : State) (p q : Nat) (ptr : Word64) (n : Nat) : Option Flt :=
  if badPtr ptr then none
  else if !s.passes (s.queueTenant p q) p none ptr then some { code := .remotePermission, ptr := ptr }
  else match s.place p ptr n with
    | .ok a => if s.poisoned a n then some { code := .uncorrectable, ptr := ptr } else none
    | .error _ => none

/-- A distributor that waits for an object's host page asks for it (R239). -/
def State.distAsks (s : State) (io p : Nat) (ptr : Word64) (lo n : Nat) : State :=
  match s.reach p ptr lo n with
  | .page pg => s.askPage (.dist io p ptr pg)
  | _ => s

/-- The physical address of a completion word, if the mailbox pointer is usable. -/
def State.mailboxAt (s : State) (p : Nat) (ptr : Word64) : Option Nat :=
  if badPtr ptr then none
  else match s.place p ptr 24 with
    | .error _ => none
    | .ok a => if validHeader (s.peekWord a) && hKind (s.peekWord a) == 0 then some (a + 16) else none

/-- Log a packet whose mailbox pointer is unusable (R404). -/
def Dist.lose (d : Dist) (p q : Nat) (count : Word32) : Dist :=
  if d.derr.getLsbD 30 then { d with derr := d.derr ||| 0x20000000#32 }
  else { d with
    derr := (d.derr &&& 0xA0000000#32) ||| 0x40000000#32 ||| BitVec.ofNat 32 (p * 2 ^ 24 + q * 2 ^ 16), dcount := count }

/-- DERR_WRITE: each of bits 31:29 written as 1 is cleared (R404). -/
def State.derrWrite (s : State) (io : Nat) (v : Word32) : State :=
  s.setDist io { s.dist io with derr := (s.dist io).derr &&& ~~~(v &&& 0xE0000000#32) }

/-- DERR_WRITE (R404). -/
def execDerrWrite (io : Nat) (v : Word32) (s : State) : Host.Outcome State Fault Refusal := happen (fun s => s.derrWrite io v) s

/-- Complete a packet: the completion word, or the log when its mailbox is unusable, and the interrupt (R218, R219, R242). A word that
the edge router drops is a fault of the partition (R223). -/
def State.completePacket (s : State) (io p q : Nat) (mailbox : Word64) (count : Word32) (status : Nat) (notify : Bool) : State :=
  let s := match s.mailboxAt p mailbox, s.distFault p q mailbox 16 with
    | some _, some f => s.unitFault (.distributor io) p f 0 0
    | some a, none => s.pokeWord a (BitVec.ofNat 64 (count.toNat * 2 ^ 32 + status))
    | none, _ => s.setDist io ((s.dist io).lose p q count)
  if notify then { s with plat := { s.plat with interrupts := s.plat.interrupts ++ [(p, q)] } } else s

/-! ## Selection (R220, R221) -/

/-- What the read of a queue's head packet comes to: the packet whole, a wait for a page or a channel, or a fault. -/
inductive Head where
  | packet (bs : List Byte)
  | wait
  | fault (f : Flt)
deriving DecidableEq, Repr

/-- Offset of a queue's head packet from its ring's header. -/
def Queue.headOff (k : Queue) : Nat := 16 + 128 * (k.head.toNat % k.ring)

/-- Read the head packet of a queue, whole at one moment. -/
def State.headPacket (s : State) (p q : Nat) : Head :=
  let k := s.queue p q
  match s.reach p k.base k.headOff 128 with
  | .ok a =>
    if s.poisoned (a + k.headOff) 128 then .fault { code := .uncorrectable, ptr := k.base, offset := BitVec.ofNat 64 (k.headOff - 16) }
    else .packet (s.mem.readN (a + k.headOff) 128)
  | .fault c => .fault { code := c, ptr := k.base, offset := BitVec.ofNat 64 (k.headOff - 16) }
  | _ => .wait

/-- The queues that distributor `io` serves with a packet to start: enabled, its own, of the active context of a partition that
runs, head before tail, and no launch of the queue running (R220). -/
def State.pendingQueues (s : State) (io : Nat) : List (Nat × Nat) :=
  s.queues.filterMap (fun e =>
    let p := e.1 / 64
    let c := e.2.ctl.toNat
    if c.testBit 0 && (c.testBit 6).toNat == io && p < 16 && (s.part p).ctx == bits c 10 2 && !(s.halt p).halted && !s.stopped (.distributor io) p
        && e.2.head != e.2.tail && e.2.running.isNone then some (p, e.1 % 64)
    else none)

/-- The effective priority of a queue whose head packet is read. -/
def State.priority (s : State) (p q : Nat) (bs : List Byte) : Nat := max (bits (packetWord bs 0) 8 3) (bits (s.queue p q).ctl.toNat 7 3)

/-- The queue that the distributor selects next with its packet: the highest effective priority, then round-robin in ascending
queue number after the queue served last at that priority (R220). -/
def State.selection (s : State) (io : Nat) : Option (Nat × Nat × List Byte) :=
  let qs := (s.pendingQueues io).filterMap (fun e => match s.headPacket e.1 e.2 with
    | .packet bs => some (s.priority e.1 e.2 bs, e.1, e.2, bs)
    | _ => none)
  let top := (qs.map (·.1)).foldl max 0
  let best := qs.filter (fun e => e.1 == top)
  let key (e : Nat × Nat × Nat × List Byte) : Nat := 64 * e.2.1 + e.2.2.1
  match (s.dist io).last.lookup top with
  | none => best.head?.map (·.2)
  | some l =>
    match best.find? (fun e => l < key e) with
    | some e => some e.2
    | none => best.head?.map (·.2)

/-- The root record of a packet, without its index and its store's base (R221 step 4). -/
def State.rootRecord (s : State) (p q l : Nat) (bs : List Byte) : Record :=
  let w0 := packetWord bs 0
  let x (i : Nat) : Word64 := BitVec.ofNat 64 (packetWord bs (5 + i))
  { tenant := s.queueTenant p q, origin := 0
    domain := BitVec.ofNat 2 (bits w0 18 2), acore := w0.testBit 24 || bits w0 16 2 != 0, width := BitVec.ofNat 2 (bits w0 16 2)
    entry := BitVec.ofNat 32 (packetWord bs 2), arg := BitVec.ofNat 64 (packetWord bs 3), x1 := x 0, x2 := x 1, x3 := x 2, x4 := x 3
    launch := some l, part := p, ctx := (s.part p).ctx }

/-- Load a launch's code into its clusters when every store has room, and make its root records (R221 steps 2 to 4). -/
def State.loadLaunch (s : State) (l : Nat) : State :=
  match s.launches.lookup l with
  | none => s
  | some la =>
    if la.loaded then s
    else
      match s.place la.part la.code 16 with
      | .error _ => s
      | .ok a =>
        let ps := s.codeParcels a
        match codePlace (la.clusters.map (fun k => (s.cluster k).code)) la.code ps.length with
        | none => s
        | some b =>
          let s := la.clusters.foldl (fun s k => s.setCluster k { s.cluster k with code := codeLoad (s.cluster k).code la.code b ps }) s
          let recs := (List.range la.roots).map (fun i =>
            ({ la.root with entry := la.root.entry + BitVec.ofNat 32 b, x7 := BitVec.ofNat 64 i },
              la.clusters.getD (i % la.clusters.length) 0))
          let s : State := { s with launches := s.launches.set l { la with loaded := true, base := b } }
          s.setDist la.io { s.dist la.io with held := (s.dist la.io).held ++ recs }

/-- A head packet that is being read waits for its page or its channel, and the distributor with it: it knows no effective priority until
it has read every eligible queue's head (R220, R239). -/
def State.headWaits (s : State) (io : Nat) : Bool :=
  (s.pendingQueues io).any (fun e => match s.headPacket e.1 e.2 with
    | .wait => true
    | _ => false)

/-- The heads that a distributor cannot read: their pages are asked for, and their faults are raised (R239, R240). -/
def State.headTroubles (s : State) (io : Nat) : State :=
  (s.pendingQueues io).foldl (fun s e => match s.headPacket e.1 e.2 with
    | .packet _ => s
    | .wait => s.distAsks io e.1 (s.queue e.1 e.2).base (s.queue e.1 e.2).headOff 128
    | .fault f => s.unitFault (.distributor io) e.1 f 0 0) s

/-- A packet is refused for what it says itself, whatever its code object is (R219). -/
def State.packetRefused (s : State) (p : Nat) (bs : List Byte) : Bool :=
  let w0 := packetWord bs 0
  let roots := bits w0 32 16
  bits w0 0 8 != 1 || packetBad bs || roots == 0 || 4096 < roots || (s.maskClusters p (bits w0 20 4)).isEmpty
    || malformed (BitVec.ofNat 64 (packetWord bs 3))

/-- A selected packet: refused with status 2, or a launch (R219, R221 steps 1 and 2). -/
def State.startPacket (s : State) (io p q : Nat) (bs : List Byte) : State :=
  let k := s.queue p q
  let count := k.head
  let s := s.setDist io { s.dist io with last := (s.dist io).last.set (s.priority p q bs) (64 * p + q) }
  let s := s.setQueue p q { k with head := k.head + 1 }
  let w0 := packetWord bs 0
  let clusters := s.maskClusters p (bits w0 20 4)
  let code : Word64 := BitVec.ofNat 64 (packetWord bs 1)
  let mailbox : Word64 := BitVec.ofNat 64 (packetWord bs 4)
  let roots := bits w0 32 16
  if s.packetRefused p bs || !s.packetCode p code (bits (packetWord bs 2) 0 32) then s.completePacket io p q mailbox count 2 (w0.testBit 25)
  else
    let (l, s) := s.arrive
    let la : Launch :=
      { part := p, ctx := (s.part p).ctx, queue := q, io := io, code := code, base := 0, clusters := clusters, mailbox := mailbox
        count := count, notify := w0.testBit 25, loaded := false, roots := roots, root := s.rootRecord p q l bs }
    let s : State := { s with launches := s.launches.set l la }
    (s.setQueue p q { s.queue p q with running := some l }).loadLaunch l

/-- LAUNCH_SELECT: the distributor reads the heads of its queues and commits to one, whose packet it starts; it waits for the pages
of the packet's code and mailbox, and a code object that it may not or cannot read is a fault of the partition; it reads none for a packet
that is refused without it (R219, R220, R223, R239, R240). -/
def State.launchSelect (s : State) (io : Nat) : State :=
  if s.plat.recovery then s
  else if s.headWaits io then s.headTroubles io
  else
    match s.selection io with
    | none => s.headTroubles io
    | some (p, q, bs) =>
      let code : Word64 := BitVec.ofNat 64 (packetWord bs 1)
      let mailbox : Word64 := BitVec.ofNat 64 (packetWord bs 4)
      let n := s.codeSize p code
      let reads := !s.packetRefused p bs
      if reads && s.engineWaits p code n then s.distAsks io p code 0 n
      else if s.engineWaits p mailbox 24 then s.distAsks io p mailbox 0 24
      else match (if reads then s.distFault p q code n else none) with
        | some f => s.unitFault (.distributor io) p f 0 0
        | none => s.startPacket io p q bs

/-- LAUNCH_SELECT (R221). -/
def execLaunchSelect (io : Nat) (s : State) : Host.Outcome State Fault Refusal := happen (fun s => s.launchSelect io) s

/-- The first held root that can be placed now: the first of its launch, in a partition and context that run, with room in its
cluster; with its index and the state after it is pushed (R221 step 4). -/
def State.placeableRoot (s : State) (io : Nat) : Option (Nat × State) :=
  let held := (s.dist io).held
  held.zipIdx.findSome? (fun e =>
    let r := e.1.1
    if (held.take e.2).any (fun x => x.1.launch == r.launch) || s.frozen r.part r.ctx then none
    else (s.pushCluster e.1.2 r).map (fun s' => (e.2, s')))

/-- LAUNCH_ROOT_PLACE: a launch that waits for room in the instruction stores is loaded, and a held root is placed. -/
def State.rootPlace (s : State) (io : Nat) : State :=
  let s := s.launches.foldl (fun s e => if e.2.io == io && !s.frozen e.2.part e.2.ctx then s.loadLaunch e.1 else s) s
  match s.placeableRoot io with
  | none => s
  | some (i, s') => s'.setDist io { s'.dist io with held := (s'.dist io).held.eraseIdx i }

/-- LAUNCH_ROOT_PLACE (R221). -/
def execLaunchRootPlace (io : Nat) (s : State) : Host.Outcome State Fault Refusal := happen (fun s => s.rootPlace io) s

/-! ## Completion (R221 steps 5 and 6) -/

/-- Something of a core descends from a launch. -/
def Core.descends (c : Core) (l : Nat) : Bool :=
  (c.deque ++ c.spill).any (fun r => r.launch == some l)
  || c.inbox.any (fun m => (m.record.bind (·.launch)) == some l)
  || c.queue.any (fun m => m.job != 0 && m.launch == some l)

/-- A task, record, graph node or job that descends from a launch is left (R221 step 5). -/
def State.descends (s : State) (l : Nat) : Bool :=
  s.tasks.any (fun e => e.2.status != .free && e.2.launch == some l)
  || s.cores.any (fun e => e.2.descends l)
  || s.mesh.any (fun m => (m.record.bind (·.launch)) == some l)
  || s.dies.any (fun e => e.2.held.any (fun r => r.launch == some l) || e.2.nodes.any (fun n => n.2.launch == some l)
      || e.2.heldKicks.any (fun x => x.2.launch == some l))
  || s.clusters.any (fun e => e.2.jobs.any (fun j => j.launch == some l))
  || s.nbQueues.any (fun e => e.2.any (fun j => j.launch == some l))
  || s.colls.any (fun j => j.launch == some l)
  || s.dists.any (fun e => e.2.held.any (fun r => r.1.launch == some l))
  || s.shadow.any (fun v => v.tasks.any (fun e => e.2.status != .free && e.2.launch == some l)
      || v.cores.any (fun e => e.2.descends l) || v.jobs.any (fun e => e.2.any (fun j => j.launch == some l)))

/-- A launch has come to its end. -/
def State.launchEnds (s : State) (l : Nat) : Bool :=
  match s.launches.lookup l with
  | none => false
  | some la => la.loaded && !s.descends l

/-- LAUNCH_COMPLETE: the completion word with status 1; the queue may start its next packet, and code that no other launch runs
leaves the stores (R215, R216, R221). -/
def State.launchDone (s : State) (l : Nat) : State :=
  match s.launches.lookup l with
  | none => s
  | some la =>
    if !s.launchEnds l then s
    else if s.engineWaits la.part la.mailbox 24 then s.distAsks la.io la.part la.mailbox 0 24
    else
      let s := s.completePacket la.io la.part la.queue la.mailbox la.count 1 la.notify
      let s : State := { s with launches := s.launches.del l }
      let s := s.setQueue la.part la.queue { s.queue la.part la.queue with running := none }
      la.clusters.foldl (fun s k =>
        if s.launches.any (fun e => e.2.loaded && e.2.code == la.code && e.2.base == la.base && e.2.clusters.contains k) then s
        else s.setCluster k { s.cluster k with code := (s.cluster k).code.filter (fun r => !(r.ptr == la.code && r.base == la.base)) }) s

/-- LAUNCH_COMPLETE (R221). -/
def execLaunchComplete (l : Nat) (s : State) : Host.Outcome State Fault Refusal := happen (fun s => s.launchDone l) s

/-! ## Partition descriptions (R222) -/

/-- A core's state holds a record or a job of a partition: a record of its deque, its spill area or a spawn message, or a drain of its
matrix queue (R222). -/
def Core.holdsWork (c : Core) (p : Nat) : Bool :=
  (c.deque ++ c.spill).any (fun r => r.part == p) || c.inbox.any (fun m => (m.record.map (·.part)) == some p)
    || c.queue.any (fun m => m.part == p && m.job != 0)

/-- The partition holds a task, a record or a job, in one of its contexts (R222). -/
def State.partBusy (s : State) (p : Nat) : Bool :=
  s.tasks.any (fun e => e.2.status != .free && e.2.part == p)
  || s.cores.any (fun e => e.2.holdsWork p)
  || s.mesh.any (fun m => (m.record.map (·.part)) == some p)
  || s.dies.any (fun e => e.2.held.any (fun r => r.part == p) || e.2.heldKicks.any (fun x => x.2.part == p))
  || s.dists.any (fun e => e.2.held.any (fun r => r.1.part == p))
  || s.clusters.any (fun e => e.2.jobs.any (fun j => j.part == p))
  || s.nbQueues.any (fun e => e.2.any (fun j => j.part == p))
  || s.colls.any (fun j => j.part == p)
  || s.shadow.any (fun v => v.part == p && (v.tasks.any (fun e => e.2.status != .free) || v.cores.any (fun e => e.2.holdsWork p)
      || v.jobs.any (fun e => !e.2.isEmpty)))

/-- Both distributors note a write to a partition's description that was ignored (R222, R404). -/
def State.ignoredWrite (s : State) : State :=
  [0, 1].foldl (fun s io => s.setDist io { s.dist io with derr := (s.dist io).derr ||| 0x80000000#32 }) s

/-- Replace one half of a 64-bit register. -/
def setHalf (w : Word64) (high : Bool) (v : Word32) : Word64 :=
  if high then v ++ w.setWidth 32 else w.extractLsb' 32 32 ++ v

/-- `c.part` with its zero fields 0 and its partition field p. -/
def partWord (p : Nat) (w : Word64) : Word64 := (w &&& 0x3FF0FFF003#64) ||| BitVec.ofNat 64 (p % 16 * 2 ^ 24)

/-- The division of a pad into its colours anew: each object and each retired bank belongs to the colour in whose range it lies, and a colour
allocates behind the objects that lie in its range (R224). DESIGN CHOICE (log entry 15): R224 does not say what the objects of a pad become;
they stay where they are, and what lies outside every range belongs to the last colour. -/
def State.divide (s : State) (u : PadUnit) : State :=
  let all := (List.range 4).map (s.pad u)
  let k := s.padContexts u
  let colourAt (at_ : Nat) : Nat := ((List.range k).find? (fun c => at_ < (s.colourRange u c).2)).getD (k - 1)
  let objs := all.flatMap (·.objs)
  let ptrs (o : PadObj) : Word64 := padPtr u o.off
  (List.range 4).foldl (fun t c =>
    let mine := objs.filter (fun o => colourAt o.off == c)
    let (lo, hi) := s.colourRange u c
    let ends := (objs.filter (fun o => o.off < hi && lo < o.off + o.size)).map (fun o => o.off + o.size)
    let bank (b : Nat) : Bool := colourAt (b * bankSize u) == c
    t.setPad u c
      { bump := if ends.isEmpty then none else some (ends.foldl max lo)
        objs := mine
        incoming := ((all.flatMap (·.incoming)).filter (fun q =>
          (s.pointersOf (s.collector u) q).any (fun w => mine.any (fun o => ptrs o == w)))).eraseDups
        retired := (all.flatMap (·.retired)).filter bank
        retiring := (all.flatMap (·.retiring)).filter bank }) s

/-- Every pad whose context count is not what it was before a write is divided anew (R224). -/
def State.divideFrom (s before : State) : State :=
  ((s.pads.map (fun e => (padOfKey e.1).1)).eraseDups.filter (fun u => s.padContexts u != before.padContexts u)).foldl
    (fun s u => s.divide u) s

/-- PARTITION_WRITE: a register of the description; ignored, with a note, while the partition is in use, or when it names the
supervisor's group. A written partition is configured; a write of `c.part` leaves it no
calendar, FORK's choice of a cluster starts anew on its cores, and the pads are divided by the context count (R222, R225, R93, R224). -/
def State.partitionWrite (s : State) (p off : Nat) (v : Word32) : State :=
  if 0x18 ≤ off || 16 ≤ p || off % 4 != 0 then s
  else if s.partBusy p then s.ignoredWrite
  else
    let q := s.part p
    let q := match off / 4 with
      | 0 => { q with part := partWord p (setHalf q.part false v) }
      | 1 => { q with part := partWord p (setHalf q.part true v) }
      | 2 => { q with member := setHalf q.member false v }
      | 3 => { q with member := setHalf q.member true v }
      | 4 => { q with htab := setHalf q.htab false v }
      | _ => { q with htab := setHalf q.htab true v }
    if q.group = 0x3FF then s.ignoredWrite
    else if off < 8 then
      ({ s with cores := s.cores.mapKeyed (fun c k => if c < 512 && q.holds (clusterOf c) then { k with dieChoice := none } else k)
                shadow := s.shadow.map (fun v => if v.part == p then { v with cores := v.cores.mapVals (fun k => { k with dieChoice := none }) } else v)
        } : State).setPart p { q with configured := true, ctx := 0, calendar := none, next := none, boundary := none }
        |>.divideFrom s
    else s.setPart p { q with configured := true }

/-- PARTITION_WRITE (R222). -/
def execPartitionWrite (p off : Nat) (v : Word32) (s : State) : Host.Outcome State Fault Refusal :=
  happen (fun s => s.partitionWrite p off v) s

/-! ## Gang slices (R225, R226) -/

/-- A slice calendar from its bytes, for a partition of `k` contexts; none when it breaks R225. -/
def readCalendar (k : Nat) (bs : List Byte) : Option Calendar :=
  let w (i : Nat) : Nat := leNat ((bs.drop (8 * i)).take 8)
  let n := bits (w 1) 32 4
  let period := bits (w 1) 0 32
  let es := (List.range n).map (fun i => (bits (w (2 + i)) 32 2, bits (w (2 + i)) 0 32))
  let starts := es.map (·.2)
  let ends := starts.drop 1 ++ [period]
  if bits (w 1) 36 28 != 0 || n = 0 || bs.length < 16 + 8 * n || period < 100000 || 4000000000 < period
      || (List.range n).any (fun i => bits (w (2 + i)) 34 30 != 0) || starts.head? != some 0
      || (starts.zip ends).any (fun p => !decide (p.1 + 50000 ≤ p.2)) || es.any (fun e => k ≤ e.1) then none
  else some { epoch := w 0, period := period, slices := es }

/-- A slice boundary arrives that gives the partition to a context, or to the one that runs: unless it is the active one, a swap is due, and
the IDLEs of the partition's tasks end (R96, R226). -/
def State.boundaryArrives (s : State) (p ctx : Nat) : State :=
  if ctx = (s.part p).ctx then s.setPart p { s.part p with boundary := none }
  else (s.setPart p { s.part p with boundary := some ctx }).endIdle (fun _ t => t.part == p)

/-- A write of `c.slical`: null ends the calendar, and context 0 takes the partition; else the I/O dies read the calendar whole,
and a lawful one applies from its epoch or from the first period boundary after the write (R225). -/
def State.slicalWrite (s : State) (p : Nat) (v : Word64) : State :=
  let q := { s.part p with slical := v }
  if v = 0 then (s.setPart p { q with calendar := none, next := none }).boundaryArrives p 0
  else
    match s.place p v 16 with
    | .error _ => s.setPart p q
    | .ok a =>
      let h := s.peekWord a
      let n := hLen h
      if badPtr v || !validHeader h || hKind h != 6 || s.poisoned a (16 + n) then s.setPart p q
      else match s.place p v (16 + n), readCalendar q.contexts (s.mem.readN (a + 16) (min n 144)) with
        | .ok _, some c =>
          let now := s.plat.time.toNat
          let start := if now ≤ c.epoch then c.epoch else c.epoch + ((now - c.epoch) / c.period + 1) * c.period
          s.setPart p { q with next := some (start, c) }
        | _, _ => s.setPart p q

/-- SLICE_BOUNDARY: it is 1588 time `time`; a slice of the calendar in force that starts now and names another context than the
active one sends the boundary message. -/
def State.sliceBoundary (s : State) (p : Nat) (time : Word64) : State :=
  if time.toNat < s.plat.time.toNat then s
  else
    let s : State := { s with plat := { s.plat with time := time } }
    let q := s.part p
    let q := match q.next with
      | some (t, c) => if t ≤ time.toNat then { q with calendar := some c, next := none } else q
      | none => q
    match q.calendar with
    | none => s.setPart p q
    | some c =>
      match c.slices.find? (fun e => c.epoch ≤ time.toNat && (time.toNat - c.epoch) % c.period == e.2) with
      | none => s.setPart p q
      | some e => (s.setPart p q).boundaryArrives p e.1

/-- SLICE_BOUNDARY (R226). -/
def execSliceBoundary (p : Nat) (time : Word64) (s : State) : Host.Outcome State Fault Refusal :=
  happen (fun s => s.sliceBoundary p time) s

/-- A collection of a colour of a pad that serves the partition runs (R47). -/
def State.collecting (s : State) (p colour : Nat) : Bool :=
  s.gleaners.any (fun e => e.2.busy && bits e.2.cmd.toNat 6 2 == colour && s.gleanerServes (e.1 / 17) (e.1 % 17) p)

/-- The state of a partition's clusters and cores, as a context to keep (R226). -/
def State.contextNow (s : State) (p : Nat) : Saved :=
  let ks := s.clustersOf p
  let mine (c : CoreId) : Bool := c < 512 && ks.contains (clusterOf c)
  { part := p, ctx := (s.part p).ctx
    tasks := s.tasks.filter (fun e => mine (coreOf e.1))
    cores := s.cores.filter (fun e => mine e.1)
    jobs := (s.clusters.filter (fun e => ks.contains e.1)).map (fun e =>
      (e.1, e.2.jobs.map (fun j => { j with waitsLeave := false, asked := j.asked && !j.waitsLeave })))
    graphs := (s.clusters.filter (fun e => ks.contains e.1)).map (fun e => (e.1, e.2.graphs))
    forward := s.gleaners.filterMap (fun e =>
      if s.gleanerServes (e.1 / 17) (e.1 % 17) p && !e.2.forward.isEmpty then some (e.1, e.2.forward) else none) }

/-- A context that has never run. -/
def Saved.fresh (p ctx : Nat) : Saved := { part := p, ctx := ctx, tasks := [], cores := [], jobs := [], graphs := [] }

/-- Put a context into the clusters and cores of its partition in place of what they hold; a slot keeps its generation counter, and
the engines ask for leave afresh. -/
def State.loadContext (s : State) (p : Nat) (v : Saved) : State :=
  let ks := s.clustersOf p
  let keys := ks.flatMap (fun k => (List.range 64).map (64 * k + ·))
  let cs := ks.flatMap (fun k => (List.range 8).map (8 * k + ·))
  let old := s.tasks
  let s := keys.foldl (fun s t =>
    match v.tasks.lookup t, old.lookup t with
    | some x, o => s.setTask t { x with gen := (o.map (·.gen)).getD x.gen }
    | none, some o => s.setTask t { Task.empty with gen := o.gen }
    | none, none => s) s
  let s := cs.foldl (fun s c =>
    match v.cores.lookup c with
    | some x => s.setCore c x
    | none => { s with cores := s.cores.del c }) s
  let s : State := { s with leaves := s.leaves.filter (fun l => match l.what with
    | .engine k => !ks.contains k
    | .copy _ k => !ks.contains k
    | _ => true) }
  let s : State := { s with gleaners := s.gleaners.mapVals (fun g =>
    if g.paused.any (fun q => q.2.2 == p) then { g with forward := [], paused := [] } else g) }
  let s := v.forward.foldl (fun s e => { s with gleaners := s.gleaners.set e.1 { s.gleaners.find e.1 Gleaner.initial with forward := e.2 } }) s
  ks.foldl (fun s k =>
    let s := s.setCluster k { s.cluster k with jobs := v.jobs.find k [], graphs := v.graphs.find k [], leave := false, asked := false }
    if (List.range 6).any (s.queued k) then s.nextPass k else s) s

/-- CONTEXT_SWAP: the outgoing context's tasks pause, it goes to shadow storage, and the incoming one is loaded; the swap waits for a
running collection of the outgoing colour, and of the incoming one, for a halt, and for stores that a channel stalls (R226, R47, log entry
29). What a task of the incoming context waits for may have come free meanwhile. -/
def State.contextSwap (s : State) (p ctx : Nat) : State :=
  let q := s.part p
  if q.boundary != some ctx || (s.halt p).halted || !(s.halt p).reports.isEmpty || s.collecting p q.ctx || s.collecting p ctx then s
  else
    let s := s.tasks.foldl (fun s e => if e.2.status != .free && e.2.part == p then (s.landAll e.1).drainAll e.1 else s) s
    if !(s.halt p).reports.isEmpty || s.tasks.any (fun e => e.2.part == p && !e.2.sb.isEmpty) then s
    else
      let out := s.contextNow p
      let inn := (s.shadow.find? (fun v => v.part == p && v.ctx == ctx)).getD (Saved.fresh p ctx)
      let s : State := { s with shadow := s.shadow.filter (fun v => !(v.part == p && (v.ctx == ctx || v.ctx == q.ctx))) ++ [out] }
      ((s.setPart p { s.part p with ctx := ctx, boundary := none }).loadContext p inn).takeUp

/-- CONTEXT_SWAP (R226). -/
def execContextSwap (p ctx : Nat) (s : State) : Host.Outcome State Fault Refusal := happen (fun s => s.contextSwap p ctx) s

end Sys2Proof.Machine
end

