-- ==== Sys2Proof/Machine/Collections.lean ====
section
/-!
DEFINITION. The Gleaners' registers and the collections that the supervisor starts (spec/03_gleaner.md R40, R44, R46, R49, R50).
A collection that an instruction needs runs inside the instruction's step (Gleaner.lean).
-/

namespace Sys2Proof.Machine

/-! ## Commands (R50) -/

/-- GLCMD_GO: a write of GLCMD. With go, a command for a level this unit serves and a colour below the context count starts a
collection, if none runs; any other is rejected; level 00 has no effect. Without go, the fields are written. DESIGN CHOICE (log entry 20):
R50 does not say what a write without go does while the unit is busy, nor what level 00 does to the fields; the first is ignored and sets
no rejected bit, and the second writes the fields when the unit is not busy. -/
def State.glcmdWrite (s : State) (d unit : Nat) (v : Word32) : State :=
  let g := s.gleaner d unit
  let cmd : BitVec 8 := v.setWidth 8 &&& 0xFB
  if !v.getLsbD 8 || cmd.toNat % 4 = 0 then (if g.busy then s else s.setGleaner d unit { g with cmd := cmd })
  else
    match glPad d unit cmd.toNat with
    | none => s.setGleaner d unit { g with rejected := true }
    | some u =>
      if g.busy || s.padContexts u ≤ bits cmd.toNat 6 2 then s.setGleaner d unit { g with rejected := true }
      else s.setGleaner d unit { g with cmd := cmd, busy := true, traced := false, rejected := false, cascaded := false }

/-- GLCMD_GO (R50). -/
def execGlcmdGo (d unit : Nat) (v : Word32) (s : State) : Host.Outcome State Fault Refusal :=
  happen (fun s => s.glcmdWrite d unit (v ||| 0x100#32)) s

/-- GLPAUSE_READ: the longest pause is cleared. -/
def State.glpauseRead (s : State) (d unit : Nat) : State := s.setGleaner d unit { s.gleaner d unit with pause := 0 }

/-- GLPAUSE_READ (R50). -/
def execGlpauseRead (d unit : Nat) (s : State) : Host.Outcome State Fault Refusal := happen (fun s => s.glpauseRead d unit) s

/-- A register of a Gleaner. -/
def Gleaner.reg (g : Gleaner) (off : Nat) : Word32 :=
  match off with
  | 0x0 => g.cmd.setWidth 32
  | 0x4 => BitVec.ofNat 32 (4 * g.rejected.toNat + 2 * g.cascaded.toNat + g.busy.toNat)
  | 0x8 => g.count
  | 0xC => g.pause
  | _ => 0

/-! ## The running collection (R40, R44, R46) -/

/-- The Gleaner runs a command for the pad and colour, and no halt holds it. -/
def State.collects (s : State) (u : PadUnit) (colour : Nat) : Bool :=
  s.commanded u colour && !s.partHalted (s.collector u) && !s.stopped (.gleaner (gleanerOf u).1 (gleanerOf u).2) (s.collector u)

/-- COLLECTION: the tasks pause, and the pad's objects are traced, dropped, written back and moved; the context of the colour may be in
shadow storage. The tasks stay paused until COLLECTION_END, those of a cascade with them; a collection that a stalled channel or a fault
ends early keeps them paused and begins again (R45, R46). -/
def State.collectStart (s : State) (u : PadUnit) (colour : Nat) : State :=
  let (d, unit) := gleanerOf u
  if !s.collects u colour || (s.gleaner d unit).traced then s
  else
    match s.collectColour (s.collector u) colour u with
    | .halted s => s
    | .waits s => s
    | .done s _ => s.setGleaner d unit { s.gleaner d unit with traced := true }

/-- COLLECTION (R40). -/
def execCollection (u : PadUnit) (colour : Nat) (s : State) : Host.Outcome State Fault Refusal :=
  happen (fun s => s.collectStart u colour) s

/-- COLLECTION_END: the bump pointer is reset, the counters advance, and the tasks go on. -/
def State.collectFinish (s : State) (u : PadUnit) (colour : Nat) : State :=
  let (d, unit) := gleanerOf u
  if !s.collects u colour || !(s.gleaner d unit).traced then s
  else
    s.close u colour

/-- COLLECTION_END (R44). -/
def execCollectionEnd (u : PadUnit) (colour : Nat) (s : State) : Host.Outcome State Fault Refusal :=
  happen (fun s => s.collectFinish u colour) s

/-- REGION_EVACUATION: the whole partition pauses, its deferred results return, and live heap objects of the fullest regions of a
die move (R49); it waits for a channel that stalls (R256, R257). -/
def State.evacuation (s : State) (p d colour : Nat) : State := if s.evacuationStalls p d then s else (s.evacuate p d colour).1

/-- REGION_EVACUATION (R49). -/
def execRegionEvacuation (p d colour : Nat) (s : State) : Host.Outcome State Fault Refusal :=
  happen (fun s => s.evacuation p d colour) s

end Sys2Proof.Machine
end

