-- ==== Sys2Proof/Machine/Collective.lean ====
section
/-!
DEFINITION. Collective operations (R285 to R289).
-/

namespace Sys2Proof.Machine

/-- A rank's collective joins those in progress; a large one asks for leave (R156). -/
def State.acceptColl (s : State) (f : Fields) (j : CollJob) : State :=
  let s : State := { s with colls := s.colls ++ [j] }
  let s := if j.waitsLeave then s.askLeave (.collective j.job) s.myCore else s
  s.deferX f.d (j.job.setWidth 64)

/-- COLL (R285 to R287). -/
def collBody (f : Fields) (s : State) : Res := Act.run do
  let op := f.x.toNat % 8
  let fmt := f.x.toNat / 8 % 16
  let dom := f.x.getLsbD 9
  let ra := s.me.getO f.a
  let rb := s.me.getO f.b
  checkPtr s rb
  let (_, hb) ← header s (oCanon rb)
  needKind (hKind hb == 6) s rb hb
  check s rb 0 16 8
  let g ← readCanon s rb 0 16
  let w0 := leNat (g.take 8)
  let w1 := leNat (g.drop 8)
  let m := bits w0 32 16
  let n := bits w0 0 32
  let reduce := bits w0 48 8
  let rank := bits w1 0 16
  let root := bits w1 16 16
  needKind (bits w0 56 8 == 0 && reduce ≤ 2 && 2 ≤ m && m ≤ 1024 && n != 0 && rank < m && root < m) s rb hb
  check s rb 0 (16 + 8 * m) 8
  let es ← readCanon s rb 16 (8 * m)
  let entries := (chunksOf 8 (m + 1) es).map leNat
  needKind (entries.all (fun e => e < 64 && (dom || e == s.plat.package.toNat))) s rb hb
  checkPtr s ra
  let (_, ha) ← header s (oCanon ra)
  needKind (hKind ha == 0 && 1 ≤ tagOf (oCanon ra) && tagOf (oCanon ra) ≤ 4 && (!hStaged ha || hState ha == 2)) s ra ha
  needOpen s ra ha
  let e := storeBits fmt / 8
  let size := (if op = 0 || op = 3 then 1 else m) * n * e
  check s ra 0 size e
  let s ← releasedAt (if dom then 4 else 3) (s.homeAt (oCanon ra)) s
  let (s, job) ← takeMailbox s .coll f 3
  let big := decide (2 ^ 20 < size)
  let j : CollJob :=
    { job := job, core := s.myCore, tid := s.me.tid, part := if isM s.myCore then 16 else s.me.part, ctx := s.me.ctx, launch := s.me.launch, tenant := s.me.tenant, buf := ra
      op := op, fmt := fmt, dom := dom, group := BitVec.ofNat 32 (w1 / 2 ^ 32), object := oCanon rb, rank := rank, root := root, members := m, count := n, reduce := reduce, entries := entries, waitsLeave := big }
  return .ok (s.acceptColl f j)

/-- COLL (R287). -/
def execColl (f : Fields) (s : State) : Host.Outcome State Fault Refusal := run .coll f (collBody f) s

/-! ## Rounds (R288, R289) -/

/-- Two COLLs of one group and scope come from one member: they claim one rank, by one task or one group object. DESIGN CHOICE (log entry
23): R289 does not say by what a member is known. -/
def CollJob.sameMember (a b : CollJob) : Bool := a.rank == b.rank && (a.tid == b.tid || a.object == b.object)

/-- The jobs that join a job's round: the oldest outstanding COLL of each member of this package (R289). -/
def State.roundOf (s : State) (j : CollJob) : List CollJob :=
  (s.colls.filter (fun c => c.group == j.group && c.dom == j.dom)).foldl (fun acc c =>
    if acc.any (·.sameMember c) then acc else acc ++ [c]) []

/-- A rank of a round is on this package (R286). -/
def State.rankHere (s : State) (j : CollJob) (r : Nat) : Bool := !j.dom || j.entries.getD r 0 == s.plat.package.toNat

/-- Ranks of a round that are on this package. -/
def State.ranksHere (s : State) (j : CollJob) : List Nat := (List.range j.members).filter (s.rankHere j)

/-- What every member of a round must share (R289). -/
def CollJob.same (a b : CollJob) : Bool :=
  a.count == b.count && a.members == b.members && a.op == b.op && a.fmt == b.fmt && a.reduce == b.reduce && a.root == b.root
    && a.entries == b.entries

/-- The collective engine of a member: that of the I/O die of its core's die. -/
def CollJob.io (j : CollJob) : Nat := dieOf j.core / 2

/-- The members of a round that are on this package agree: they share every field, and each claims a rank that no other claims. -/
def roundAgrees (js : List CollJob) : Bool :=
  match js with
  | [] => false
  | j :: rest => rest.all (·.same j) && (js.map (·.rank)).eraseDups.length == js.length

/-- Every member of the job's round that its entries place on this package has issued: those that claim another package's rank apart. -/
def State.allIssued (s : State) (j : CollJob) (js : List CollJob) : Bool :=
  (s.ranksHere j).length ≤ (js.filter (fun c => s.rankHere j c.rank)).length

/-- Every member of the job's round is on this package. -/
def State.allHere (s : State) (j : CollJob) (js : List CollJob) : Bool :=
  (s.ranksHere j).length == j.members && js.all (fun c => s.rankHere j c.rank)

/-- A value of the reduction R over the ranks' elements in ascending order (R288). -/
def reduceAll (fmt reduce : Nat) (xs : List Nat) : Nat :=
  match xs with
  | [] => 0
  | x :: rest =>
    if fmt = 14 then
      rest.foldl (fun v y => match reduce with
        | 0 => (v + y) % 2 ^ 32
        | 1 => if ltW false 32 y v then y else v
        | _ => if ltW false 32 v y then y else v) x
    else if reduce = 0 then
      let sum := rest.foldl (fun v y => add32 v (valueOf fmt y)) (fp32.round .ne false (valueOf fmt x)).1
      (roundCode fmt .ne false (fp32.value sum)).1
    else rest.foldl (fun v y => fminmax (fmtOf fmt) (reduce == 2) v y) x

/-- Element `i` of `e` bytes of a buffer at the address of its view. -/
def State.bufElem (s : State) (a e i : Nat) : Nat := leNat (s.mem.readN (a + e * i) e)

/-- What a round writes to the buffer of rank `r`: elements and their values; `at_` gives element `i` of rank `q` (R288). -/
def roundWrites (j : CollJob) (at_ : Nat → Nat → Nat) (r : Nat) : List (Nat × Nat) :=
  let n := j.count
  let all (i : Nat) : Nat := reduceAll j.fmt j.reduce ((List.range j.members).map (fun q => at_ q i))
  match j.op with
  | 0 => (List.range n).map (fun i => (i, all i))
  | 1 => (List.range n).map (fun i => (r * n + i, all (r * n + i)))
  | 2 => (List.range (j.members * n)).map (fun i => (i, at_ (i / n) i))
  | _ => (List.range n).map (fun i => (i, at_ j.root i))

/-- The jobs of a round end with a status; every mailbox fills (R289). -/
def State.endRound (s : State) (js : List CollJob) (status : Nat) : State :=
  let s : State := { s with colls := s.colls.filter (fun c => !js.contains c) }
  js.foldl (fun s j => s.fillBox j.part j.ctx j.core j.job status 0 (if j.dom then 4 else 3)) s

/-- Bytes of an element. -/
def CollJob.es (j : CollJob) : Nat := storeBits j.fmt / 8

/-- Bytes of a member's buffer that the operation takes. -/
def CollJob.size (j : CollJob) : Nat := (if j.op = 0 || j.op = 3 then 1 else j.members) * j.count * j.es

/-- The elements that a member contributes, as the first and their number: its slice of an allgather, the root's whole buffer of a bcast,
else all of its own (R288). -/
def CollJob.gives (j : CollJob) : Nat × Nat :=
  match j.op with
  | 0 => (0, j.count)
  | 1 => (0, j.members * j.count)
  | 2 => (j.rank * j.count, j.count)
  | _ => (0, if j.rank = j.root then j.count else 0)

/-- The bits of an element of a format that the engine stores: those of a 6-bit format leave bits 7:6 zero (R112). -/
def storedBits (fmt v : Nat) : Nat := if fmt = 4 || fmt = 5 then v % 64 else v

/-- A member's buffer, placed and let through by the routers: the address of its header (R223). -/
def State.placeBuf (s : State) (j : CollJob) : Except Flt Nat :=
  let ptr := oCanon j.buf
  if !s.passes j.tenant j.part none ptr then .error { code := .remotePermission, ptr := ptr }
  else match s.enginePlace j.part ptr (16 + oView j.buf + j.size) with
    | .error c => .error { code := c, ptr := ptr }
    | .ok a => .ok a

/-- The engine reads a member's contribution into its storage: the elements, or the fault of a block that cannot be read (R240, R288). -/
def State.contribution (s : State) (j : CollJob) : Except Flt (List Nat) :=
  match s.placeBuf j with
  | .error f => .error f
  | .ok a =>
    let v := a + 16 + oView j.buf
    let (i, n) := j.gives
    match s.poison.find? (fun b => b < v + j.es * (i + n) && v + j.es * i < b + 64) with
    | some b => .error { code := .uncorrectable, ptr := oCanon j.buf, offset := blockOffset (oView j.buf) v b }
    | none => .ok ((List.range n).map (fun q => s.bufElem v j.es (i + q)))

/-- The fault of a member's part in a round, in its partition (R227). -/
def State.collFault (s : State) (j : CollJob) (f : Flt) : State :=
  s.workFault (.collective j.io) j.part f j.job (some j.core) (Op.coll.row.code.setWidth 32)

/-- Replace a member's job. -/
def State.setColl (s : State) (old new : CollJob) : State :=
  { s with colls := s.colls.map (fun c => if c == old then new else c) }

/-- The contributions of the members given are read into the engine's storage for round `n`, up to the first that has a fault; what the
storage holds already is not read again. -/
def State.readRound (s : State) (n : Nat) : List CollJob → State
  | [] => s
  | j :: js =>
    if j.stored.isSome then s.readRound n js
    else
      match s.contribution j with
      | .error f => s.collFault j f
      | .ok xs => (s.setColl j { j with stored := some (n, xs) }).readRound n js

/-- Element `i` of rank `q` from the engine's storage. That of a rank on another package is a free value (log entry 23). -/
def storedElement (js : List CollJob) (q i : Nat) : Nat :=
  match js.find? (fun c => c.rank == q) with
  | some c => ((c.stored.map (·.2)).getD []).getD (i - c.gives.1) 0
  | none => match js with
    | c :: _ => (Config.remoteElement ((c.stored.map (·.1)).getD 0) q i).toNat % 2 ^ (8 * c.es)
    | [] => 0

/-- The results of a round go to its members' buffers in turn, up to the first that is sealed or that has another fault; what is written
before that stays (R288, R342). Buffers on other packages are not in this machine (log entry 23). -/
def State.writeRound (s : State) (all : List CollJob) : List CollJob → State
  | [] => s.endRound all 1
  | j :: js =>
    match s.placeBuf j with
    | .error f => s.collFault j f
    | .ok a =>
      if hSealed (s.peekWord a) then s.collFault j { code := .sealedStore, eval := oCanon j.buf, ptr := oCanon j.buf }
      else
        ((roundWrites j (storedElement all) j.rank).foldl (fun t w =>
          t.poke (a + 16 + oView j.buf + j.es * w.1) (leBytes j.es (storedBits j.fmt w.2))) s).writeRound all js

/-- A member of a round waits for leave, or a halt holds it. -/
def State.collHeld (s : State) (c : CollJob) : Bool :=
  c.waitsLeave || s.partHalted c.part || s.workStopped (.collective c.io) c.part c.job (some c.core)

/-- COLL_ROUND_COMPLETE: the round of outstanding job `i`, when all its members have issued, none waits for leave or is halted, and no channel
stalls a buffer: the engine reads every contribution into its storage, and then writes the results from there, which it still has when a
halt has come between (R288, R289). That the members on other packages have issued is the moment of the event, and that they agree is free
(log entry 23). -/
def State.completeRound (s : State) (i : Nat) : State :=
  match s.colls[i]? with
  | none => s
  | some j =>
    let js := sortBy (fun a b => a.rank ≤ b.rank) (s.roundOf j)
    if !s.allIssued j js || js.any s.collHeld || js.any (fun c => s.engineWaits c.part (oCanon c.buf) (16 + oView c.buf + c.size)) then s
    else if js.all (·.stored.isSome) then s.writeRound js js
    else
      match js.findSome? (·.stored) with
      | some (n, _) => s.readRound n js
      | none =>
        let (n, s) := s.fresh
        if roundAgrees js && (s.allHere j js || Config.remoteAgrees n) then s.readRound n js
        else s.endRound js 2

/-- COLL_ROUND_COMPLETE (R289). -/
def execCollRoundComplete (i : Nat) (s : State) : Host.Outcome State Fault Refusal := happen (fun s => s.completeRound i) s

end Sys2Proof.Machine
end

