-- ==== Sys2Proof/Machine/Halts.lean ====
section
/-!
DEFINITION. The halt of a partition: reports, stop records, resuming, wait aborts, the faults of M-core tasks, and the Vigil
(spec/15_faults.md R228 to R232, R237, R238, R403).
-/

namespace Sys2Proof.Machine

/-! ## Stop records (R230) -/

/-- Agent kind. -/
def agentKind : Agent → BitVec 8
  | .task _ => 0
  | .engine _ => 1
  | .fabric k => if k < 64 then 2 else 4
  | .nearBank _ => 3
  | .collective _ => 5
  | .gleaner _ _ => 6
  | .taskGraph _ => 7
  | .distributor _ => 8
  | .restore _ => 9

/-- Agent address: a core, a cluster with core 0, or a stack; the spec states none for the other units, whose address is a free
value (log entry 31). -/
def State.agentAddr (s : State) (a : Agent) : BitVec 16 × State :=
  match a with
  | .task k => (s.coreAddr (coreOf k), s)
  | .engine k => (s.coreAddr (8 * k + (s.cluster k).queue), s)
  | .nearBank st => (BitVec.ofNat 16 st, s)
  | .fabric k =>
    if k < 64 then (s.coreAddr (8 * k), s)
    else
      let (n, s) := s.fresh
      ((Config.word n).setWidth 16, s)
  | .gleaner d u =>
    if u < 16 then (s.coreAddr (8 * (16 * d + u)), s)
    else
      let (n, s) := s.fresh
      ((Config.word n).setWidth 16, s)
  | _ =>
    let (n, s) := s.fresh
    ((Config.word n).setWidth 16, s)

/-- The die whose halt storage takes an agent's record; 4 and 5 stand for the I/O dies. -/
def agentDie : Agent → Nat
  | .task k => if isM (coreOf k) then 4 + (coreOf k - 512) / 2 else dieOf (coreOf k)
  | .engine k => dieOfCluster k
  | .fabric k => if k < 64 then dieOfCluster k else 4 + k % 2
  | .nearBank st => st / 2
  | .collective io => 4 + io
  | .gleaner d _ => d
  | .taskGraph d => d
  | .distributor io => 4 + io
  | .restore _ => 0

/-- The detail of an agent's stop record: the value of c.eval for a task, the queue entry and the accumulator for an engine (R230, R155). -/
def State.stopDetail (s : State) (a : Agent) (i : StopInfo) : Word64 :=
  match a with
  | .task _ => i.eval
  | .engine k =>
    let c := s.core (8 * k + (s.cluster k).queue)
    BitVec.ofNat 64 (c.qhead.toNat * 2 ^ 16 + (c.queue.head?.map (·.acc)).getD 0)
  | _ => 0

/-- The stop record of an agent. -/
def State.stopRec (s : State) (p : Nat) (a : Agent) (i : StopInfo) (id : Word32) (owner : Option CoreId) (primary : Bool) (skid : Word32) :
    StopRec × State :=
  let (addr, s) := s.agentAddr a
  let isTask := agentKind a == 0
  let offset := if isTask && (i.code == some .bounds || i.code == some .alignment) then i.eval else i.offset
  ({ kind := agentKind a, code := BitVec.ofNat 8 ((i.code.map faultNum).getD 0), agent := addr, lost := i.lost, handler := i.handler
     primary := primary, id := id, pos := i.pos, ptr := i.ptr, offset := offset, progress := i.progress, skid := skid
     count := (s.halt p).count, detail := s.stopDetail a i, who := a, owner := owner }, s)

/-- The 64 bytes of a stop record (R230). -/
def StopRec.bytes (r : StopRec) : List Byte :=
  leBytes 8 (r.kind.toNat * 2 ^ 40 + r.code.toNat * 2 ^ 32 + r.agent.toNat * 2 ^ 16 + r.lost.toNat * 4 + r.handler.toNat * 2
    + r.primary.toNat)
  ++ leBytes 8 (r.id.toNat * 2 ^ 32 + r.pos.toNat) ++ leBytes 8 r.ptr.toNat ++ leBytes 8 r.offset.toNat
  ++ leBytes 8 r.progress.toNat ++ leBytes 8 (r.skid.toNat * 2 ^ 32 + r.count.toNat) ++ leBytes 8 r.detail.toNat ++ leBytes 8 0

/-- Write a stop record; a die holds 2,048 for each halted partition (R230). -/
def State.writeRec (s : State) (p : Nat) (r : StopRec) : State :=
  let h := s.halt p
  if 2048 ≤ (h.records.filter (fun x => agentDie x.who == agentDie r.who)).length then s.setHalt p { h with overflow := true }
  else s.setHalt p { h with records := h.records ++ [r] }

/-! ## Reports (R229, R232) -/

/-- The fault of a task is eligible for its handler (R232). -/
def State.eligible (s : State) (a : Agent) (i : StopInfo) : Bool :=
  match a with
  | .task k =>
    i.atIssue && (i.code.map faultHandled).getD false && (s.task k).tvec != 0 && !i.handler
  | _ => false

/-- A report reaches its controller: the first of a halt is the primary fault and drives the halt line; a later one is only
recorded (R229). -/
def State.takeReport (s : State) (p i : Nat) : State :=
  match (s.halt p).reports[i]? with
  | none => s
  | some r =>
    let h := { s.halt p with reports := (s.halt p).reports.eraseIdx i }
    let first := !h.halted
    let h := if first then { h with
        halted := true, eligible := s.eligible r.agent r.info, overflow := false, hprim := BitVec.ofNat 32 h.records.length
        primary := BitVec.ofNat 8 ((r.info.code.map faultNum).getD 0), count := h.count + 1, who := some r.agent } else h
    let (rec, s) := (s.setHalt p h).stopRec p r.agent r.info r.tid r.owner first 0
    s.writeRec p rec

/-- HALT_REPORT: some report on its way reaches the controller; which one is free, since they race (R229). -/
def State.haltReport (s : State) (p : Nat) : State :=
  match (s.halt p).reports with
  | [] => s
  | [_] => s.takeReport p 0
  | r :: rs =>
    let (n, s) := s.fresh
    s.takeReport p (Config.pick n % (r :: rs).length)

/-- HALT_REPORT (R229). -/
def execHaltReport (p : Nat) (s : State) : Host.Outcome State Fault Refusal := happen (fun s => s.haltReport p) s

/-- M_CORE_FAULT: the report of an M-core task's fault reaches the supervisor's controller; no partition halts (R403). -/
def State.mCoreFault (s : State) (t : TaskKey) : State :=
  match (s.halt 16).reports.findIdx? (fun r => r.agent == .task t) with
  | some i => s.takeReport 16 i
  | none => s

/-- M_CORE_FAULT (R403). -/
def execMCoreFault (t : TaskKey) (s : State) : Host.Outcome State Fault Refusal := happen (fun s => s.mCoreFault t) s

/-! ## Agents that stop (R228, R230) -/

/-- The busy agents of a partition, each of which writes a record when the partition halts (R230). -/
def State.busyAgents (s : State) (p : Nat) : List Agent :=
  s.tasks.filterMap (fun e => if e.2.status != .free && e.2.part == p then some (.task e.1) else none)
  ++ (s.clustersOf p).filterMap (fun k => if (List.range 6).any (s.queued k) then some (.engine k) else none)
  ++ s.clusters.filterMap (fun e => if e.2.jobs.any (fun j => j.part == p) then some (.fabric e.1) else none)
  ++ s.nbQueues.filterMap (fun e => if e.2.any (fun j => j.part == p) then some (.nearBank e.1) else none)
  ++ [0, 1].filterMap (fun io => if s.colls.any (fun j => j.part == p && j.io == io) then some (.collective io) else none)
  ++ s.dies.filterMap (fun e =>
      if e.2.held.any (fun r => r.part == p) || e.2.heldKicks.any (fun x => x.2.part == p) then
        some (.taskGraph e.1)
      else none)
  ++ s.dists.filterMap (fun e => if e.2.held.any (fun r => r.1.part == p) then some (.distributor e.1) else none)
  ++ s.gleaners.filterMap (fun e =>
      if e.2.busy && s.gleanerServes (e.1 / 17) (e.1 % 17) p then some (.gleaner (e.1 / 17) (e.1 % 17)) else none)

/-- The agent has stopped in a halt of the partition. -/
def State.hasStopped (s : State) (a : Agent) (p : Nat) : Bool :=
  match a with
  | .task k => (s.task k).status == .stopped
  | _ => s.stopped a p

/-- What an agent stopped only by the halt reports: its id and its place (R230, R155, R178, R199). -/
def State.stopInfo (s : State) (a : Agent) (p : Nat) : Word32 × StopInfo :=
  match a with
  | .task k =>
    let t := s.task k
    (t.tid, { pos := t.pc, epc := t.pc, progress := BitVec.ofNat 64 ((t.agx.map (·.tile)).getD 0) })
  | .engine k =>
    match (s.core (8 * k + (s.cluster k).queue)).queue with
    | [] => (0, {})
    | m :: _ =>
      (if m.job = 0 then m.tid else m.job, { pos := m.op.row.code.setWidth 32, progress := BitVec.ofNat 64 m.done })
  | .fabric k =>
    match (s.cluster k).jobs.find? (fun j => j.part == p) with
    | none => (0, {})
    | some j => (j.job, { pos := Op.cpy.row.code.setWidth 32, progress := BitVec.ofNat 64 j.committed })
  | .nearBank st =>
    match (s.nbQueues.find st []).find? (fun j => j.part == p) with
    | none => (0, {})
    | some j => (j.job, { pos := Op.nbmv.row.code.setWidth 32 })
  | .collective io =>
    match s.colls.find? (fun j => j.part == p && j.io == io) with
    | none => (0, {})
    | some j => (j.job, { pos := Op.coll.row.code.setWidth 32 })
  | .gleaner d u => (0, { progress := BitVec.ofNat 64 (s.gleaner d u).forward.length })
  | .taskGraph d =>
    -- the unit's step: a copy that it holds, else a record that it holds
    match (s.die d).heldKicks.find? (fun e => e.2.part == p), (s.die d).held.find? (fun r => r.part == p) with
    | some e, _ => (e.2.job, { pos := Op.cpy.row.code.setWidth 32, ptr := oCanon e.2.src })
    | none, some r => (r.node.getD 0, { pos := r.entry, ptr := r.arg })
    | none, none => (0, {})
  | .distributor io =>
    -- the next root that it holds
    match (s.dist io).held.find? (fun r => r.1.part == p) with
    | some r => (0, { pos := r.1.entry, ptr := r.1.arg, progress := r.1.x7 })
    | none => (0, {})
  | _ => (0, {})

/-- An agent that the line has stopped writes its record (R228, R230). -/
def State.writeStop (s : State) (a : Agent) (p : Nat) : State :=
  let (id, i) := s.stopInfo a p
  let s := match a with
    | .task k => s.setTask k { s.task k with status := .stopped, stop := some i }
    | _ => s
  let (n, s) := s.fresh
  let (rec, s) := s.stopRec p a i id none false ((Config.skid n).setWidth 32)
  s.writeRec p rec

/-- An agent of a halted partition sees the line: a task's deferred results are written, it stops at an instruction boundary
and keeps what it waits on, and a record is written; a fault that comes with a deferred result has its own record (R228, R229). -/
def State.agentStops (s : State) (a : Agent) (p : Nat) : State :=
  if !(s.halt p).halted || s.hasStopped a p || !(s.busyAgents p).contains a then s
  else
    match a with
    | .task k =>
      let s := s.landAll k
      if (s.task k).status == .stopped then s else s.writeStop a p
    | _ => s.writeStop a p

/-- AGENT_STOP (R228): in every halted partition that the agent is busy for. -/
def execAgentStop (a : Agent) (s : State) : Host.Outcome State Fault Refusal :=
  happen (fun s => (List.range 16).foldl (fun s p => s.agentStops a p) s) s

/-! ## Resuming (R231, R232) -/

/-- A stopped task continues from its record: it issues the instruction at its position, or goes on waiting, for a result that is still to
come as well (R231, R61). -/
def State.goOn (s : State) (k : TaskKey) : State :=
  let t := s.task k
  if t.status != .stopped then s
  else
    s.setTask k { t with
      status := if t.wait.isSome || t.pend.any (·.awaited) then .parked else .ready, stop := none, pc := (t.stop.map (·.pos)).getD t.pc
      past := t.past && ((t.stop.map (·.pos)).getD t.pc == t.pc) }

/-- A task ends as HALT without retain ends it, without a fault of its own (R231, R95). -/
def State.finishTask (s : State) (k : TaskKey) : State :=
  let t := s.task k
  let s := s.drainAll k
  let s := if t.join = 0 then s else
    match s.place (s.tablePart t) t.join 24 with
    | .ok a => s.joinAdd (a + 16) (-1)
    | .error _ => s
  s.endTask k

/-- The primary task, with its id, ends (R231): in its slot, or in its swapped-out context (R226). -/
def State.endPrimary (s : State) (k : TaskKey) (id : Word32) : State :=
  if (s.task k).tid == id && (s.task k).status != .free then (if (s.task k).status == .stopped then s.finishTask k else s)
  else
    match s.shadow.find? (fun v => v.tasks.any (fun e => e.1 == k && e.2.tid == id)) with
    | some v => ((s.exchange v.part v.ctx).finishTask k).exchange v.part (s.part v.part).ctx
    | none => s

/-- The failing command or job of the primary agent is cancelled (R231): a matrix command leaves its queue; a job fills its
mailbox with status 4; a COLL ends its round as a mismatch; a copy-job node finishes. `id` and `owner` are those of the primary record. -/
def State.cancelPrimary (s : State) (a : Agent) (p : Nat) (id : Word32) (owner : Option CoreId) : State :=
  let mine (part : Nat) (job : Word32) (core : Option CoreId) : Bool := part == p && job == id && (owner.isNone || core == owner)
  match a with
  | .task k => s.endPrimary k id
  | .engine k =>
    let c := firstCore k + (s.cluster k).queue
    match (s.core c).queue with
    | [] => s
    | m :: _ =>
      let s := (s.popCmd c).nextPass k
      if m.kind = .mdrain then s.fillMailbox c (s.part m.part).ctx m.job 4 0 (fillScope (dieOf c) (some k) (oCanon m.ob) ((s.placeReg m.part m.ob 0).toOption.getD 0))
      else s
  | .fabric k =>
    match (s.cluster k).jobs.find? (fun j => mine j.part j.job j.core) with
    | none => s
    | some j => ((s.dropJob k j).closeJob k j 4).serveQueue k
  | .nearBank st =>
    match (s.nbQueues.find st []).find? (fun j => mine j.part j.job (some j.core)) with
    | none => s
    | some j => (s.fillBox j.part j.ctx j.core j.job 4 0 3).dropNear st j
  | .collective _ =>
    match s.colls.find? (fun j => mine j.part j.job (some j.core)) with
    | none => s
    | some j => s.endRound (s.roundOf j) 2
  | .taskGraph d => s.finishNode (nodeId d (bits id.toNat 8 16))
  | _ => s

/-- What a resume does to the primary agent. -/
inductive Resume where
  | go | handler | finish
deriving DecidableEq, Repr

/-- The primary task enters its handler, when that is allowed (R232). -/
def State.handlePrimary (s : State) (p : Nat) (a : Agent) : State :=
  match a with
  | .task k =>
    match (s.task k).stop with
    | some i =>
      match i.code with
      | some c => if (s.halt p).eligible then s.enterHandler k c i.epc i.eval else s
      | none => s
    | none => s
  | _ => s

/-- Treat the primary agent on resuming. -/
def State.resumePrimary (s : State) (p : Nat) (r : Resume) : State :=
  let h := s.halt p
  match h.who with
  | none => s
  | some a =>
    match r with
    | .go => s
    | .handler => s.handlePrimary p a
    | .finish =>
      match h.records.find? (·.primary) with
      | some r => s.cancelPrimary a p r.id r.owner
      | none => s.cancelPrimary a p (match a with
        | .task k => (s.task k).tid
        | _ => 0) none

/-- The matrix engine asks for leave again for a pass that a fault has ended (R156). -/
def State.passAgain (s : State) (k : ClusterId) : State :=
  let cl := s.cluster k
  if cl.asked && !cl.leave && !s.leaves.any (fun l => l.what == .engine k) then s.askPass k else s

/-- A partition's units begin their interrupted work again: the engines take up their passes, fabrics read their sources afresh after the committed prefix, near-bank
jobs start from their first row, Gleaners trace again (R155, R199, R164, R45). -/
def State.restartUnits (s : State) (p : Nat) : State :=
  let s := (s.clustersOf p).foldl State.passAgain s
  { s with
    clusters := s.clusters.mapVals (fun c => { c with jobs := c.jobs.map (fun j => if j.part == p then { j with started := false } else j) })
    nbQueues := s.nbQueues.mapVals (fun js => js.map (fun j => if j.part == p then { j with started := false } else j))
    gleaners := s.gleaners.mapKeyed (fun k g =>
      if s.gleanerServes (k / 17) (k % 17) p then { g with traced := false } else g) }

/-- The Gleaners of a partition finish the moves that were committed before the halt, before any of its tasks issues (R45). -/
def State.finishAllMoves (s : State) (p : Nat) : State :=
  s.gleaners.foldl (fun s e =>
    if s.gleanerServes (e.1 / 17) (e.1 % 17) p && (e.2.paused.isEmpty || e.2.paused.any (fun q => q.2.2 == p)) then
      s.finishMoves p (e.1 / 17) (e.1 % 17)
    else s) s

/-- A halted partition resumes: its records are discarded and every agent continues from its record (R231). -/
def State.resumePart (s : State) (p : Nat) (r : Resume) : State :=
  if !(s.halt p).halted then s
  else
    let s := s.resumePrimary p r
    let s := s.setHalt p { s.halt p with halted := false, eligible := false, reports := [], records := [], who := none }
    let s := s.finishAllMoves p
    let s := s.tasks.foldl (fun s e => if e.2.part == p then s.goOn e.1 else s) s
    (s.restartUnits p).takeUp

/-- The next M-core task or job with a record becomes the primary one of the supervisor's controller (R403). -/
def State.nextPrimary (s : State) : State :=
  let h := s.halt 16
  match h.records with
  | [] => s.setHalt 16 { h with halted := false, eligible := false, who := none }
  | r :: rs =>
    let el := match r.who with
      | .task k => ((s.task k).stop.map (fun i => s.eligible r.who i)).getD false
      | _ => false
    s.setHalt 16 { h with
      records := { r with primary := true } :: rs, eligible := el, primary := r.code, hprim := 0, who := some r.who }

/-- An M-core's job begins its interrupted work again: it reads its sources afresh after the committed prefix (R403, R199). -/
def State.restartJob (s : State) (k : ClusterId) (id : Word32) (owner : Option CoreId) : State :=
  s.setCluster k { s.cluster k with
    jobs := (s.cluster k).jobs.map (fun j => if j.part == 16 && j.job == id && j.core == owner then { j with started := false, fault := none } else j) }

/-- HRES at the supervisor's controller acts on the primary M-core task or job alone (R403). -/
def State.resumeSuper (s : State) (r : Resume) : State :=
  let h := s.halt 16
  if !h.halted then s
  else
    let s := s.resumePrimary 16 r
    let done := h.records.find? (·.primary)
    let s := s.setHalt 16 { s.halt 16 with records := (s.halt 16).records.filter (fun x => some x != done) }
    let s := match h.who, done with
      | some (.task k), _ => s.goOn k
      | some (.fabric k), some r => s.restartJob k r.id r.owner
      | _, _ => s
    s.takeUp.nextPrimary

/-- HRES with go at controller `p` (R231, R403). -/
def State.resume (s : State) (p : Nat) (r : Resume) : State := if p < 16 then s.resumePart p r else s.resumeSuper r

/-- HRES_GO (R231). -/
def execHresGo (p : Nat) (s : State) : Host.Outcome State Fault Refusal := happen (fun s => s.resume p .go) s

/-- HRES_HANDLER (R232). -/
def execHresHandler (p : Nat) (s : State) : Host.Outcome State Fault Refusal := happen (fun s => s.resume p .handler) s

/-- HRES_END (R231). -/
def execHresEnd (p : Nat) (s : State) : Host.Outcome State Fault Refusal := happen (fun s => s.resume p .finish) s

/-- A write to HRES: bits 2:1 are kept, and bit 0 resumes; bit 2 wins over bit 1 (R231). -/
def State.hresWrite (s : State) (p : Nat) (v : Word32) : State :=
  let s := s.setHalt p { s.halt p with hres := v.extractLsb' 1 2 }
  if !v.getLsbD 0 then s
  else if v.getLsbD 2 then s.resume p .finish
  else if v.getLsbD 1 then s.resume p .handler
  else s.resume p .go

/-- HSTAT (R231). -/
def HaltCtl.stat (h : HaltCtl) : Word32 :=
  BitVec.ofNat 32 (h.halted.toNat * 2 ^ 31 + h.eligible.toNat * 2 ^ 30 + h.overflow.toNat * 2 ^ 29 + h.primary.toNat * 2 ^ 16
    + min h.records.length 65535)

/-! ## Wait-for tables, wait aborts, the Vigil (R231, R237, R238) -/

/-- The code of a wait (R237). -/
def WaitKind.code : WaitKind → Nat
  | .fullEmpty => 1
  | .join => 2
  | .jwait => 3
  | .acq => 4
  | .recv => 5
  | .send => 6
  | .idle => 7
  | .migration => 8
  | .room => 9
  | .queue => 10
  | .mailbox => 11

/-- The 32 bytes of a wait-for entry (R237). -/
def waitEntry (tid : Word32) (w : Wait) : List Byte :=
  let plain := w.kind.code < 8
  leBytes 8 (tid.toNat * 2 ^ 32 + w.kind.code) ++ leBytes 8 (if plain then w.object.toNat else 0)
    ++ leBytes 8 (if plain then w.signaller.toNat * 2 ^ 32 + w.offset.toNat else 0) ++ leBytes 8 w.since.toNat

/-- The entries in use on a compute die, in ascending order of slot (R237, R397). -/
def State.waitTable (s : State) (d : Nat) : List (TaskKey × Wait) :=
  s.tasks.filterMap (fun e =>
    match e.2.wait with
    | some w => if e.2.status == .parked && !isM (coreOf e.1) && dieOf (coreOf e.1) == d then some (e.1, w) else none
    | none => none)

/-- WAIT_ABORT: the task that WABORT names, still parked with the entry whose since field the supervisor read, raises
`wait-abort` as the primary fault of its running partition; else nothing happens (R231, R238). -/
def State.waitAborted (s : State) (p : Nat) : State :=
  let h := s.halt p
  match s.taskWithId h.wabort with
  | none => s
  | some k =>
    let t := s.task k
    match t.wait with
    | none => s
    | some w =>
      if h.halted || 16 ≤ p || t.part != p || t.status != .parked || w.since != h.wsince then s
      else
        let s := s.raise k { code := .waitAbort, ptr := w.object, offset := w.offset.setWidth 64 }
        s.takeReport p ((s.halt p).reports.length - 1)

/-- WAIT_ABORT (R231). -/
def execWaitAbort (p : Nat) (s : State) : Host.Outcome State Fault Refusal := happen (fun s => s.waitAborted p) s

/-- The walk of the Vigil from a task: the ids met until it returns to its start, within 64 steps (R238). -/
def State.vigilWalk (s : State) (start : Word32) : Nat → Word32 → List Word32 → Option (List Word32)
  | 0, _, _ => none
  | fuel + 1, id, seen =>
    match s.taskWithId id with
    | none => none
    | some k =>
      match (s.task k).wait with
      | none => none
      | some w =>
        if (s.task k).status != .parked || w.signaller = 0 then none
        else if w.signaller = start then some (seen ++ [id])
        else s.vigilWalk start fuel w.signaller (seen ++ [id])

/-- VIGIL_SCAN: the walks from every entry of a die's table report their cycles to the supervisor. -/
def State.vigilScan (s : State) (d : Nat) : State :=
  { s with findings := s.findings ++ (s.waitTable d).filterMap (fun e => s.vigilWalk (s.task e.1).tid 64 (s.task e.1).tid []) }

/-- VIGIL_SCAN (R238). -/
def execVigilScan (d : Nat) (s : State) : Host.Outcome State Fault Refusal := happen (fun s => s.vigilScan d) s

end Sys2Proof.Machine
end

