-- ==== Sys2Proof/Machine/Sync.lean ====
section
/-!
DEFINITION. Sync words and atomics (R38, R211, R213, R234, R243, R259, R272 to R274, R281, R295, R296, R346).
-/

namespace Sys2Proof.Machine

/-! ## Sync words (R38, R295, R296) -/

/-- The checks of the full/empty family: the word's physical address, the header's, and the wait of a request that must park. -/
def feWord (o : Op) (f : Fields) (s : State) : Act (Nat × Wait) := do
  let r := s.me.getO f.a
  let off := memOffset s.me f 8
  check s r off 8 8
  let (a, h) ← header s (oCanon r)
  needKind (hKind h == 3) s r h off
  let w := a + 16 + oView r + off.toNat
  need (!s.poisoned w 8) s { code := .uncorrectable, ptr := oCanon r, offset := BitVec.ofInt 64 off }
  return (w, { kind := .fullEmpty, op := o, f := f, object := oCanon r, offset := BitVec.ofInt 32 off
               signaller := (s.peekWord (a + 8)).extractLsb' 32 32, aux := w })

/-- The word is full. -/
def State.isFull (s : State) (w : Nat) : Bool := (s.fe.lookup w).isSome

/-- Fill a word, with the scope of the release that fills it (R211). -/
def State.fillWord (s : State) (w : Nat) (v : Word64) (scope : Nat) : State :=
  let s := s.pokeWord w v
  { s with fe := s.fe.set w scope }

/-- Empty a word; its value stays. -/
def State.emptyWord (s : State) (w : Nat) : State := { s with fe := s.fe.del w }

/-- One request of the family to its word, without the retry of the requests parked there (R295). -/
def feRequest (o : Op) (f : Fields) (s : State) : Res := Act.run do
  let (w, wait) ← feWord o f s
  let scope := scopeTo s.myCore wait.object w
  match o with
  | .fld => do
    needOr (s.isFull w) (.park s wait)
    return .ok ((s.fixAt w 8).deferX f.d (s.peekWord w))
  | .ftake => do
    needOr (s.isFull w) (.park s wait)
    let s ← releasedHome s (homeOf w)
    return .ok ((s.emptyWord w).deferX f.d (s.peekWord w))
  | .fput => do
    let s ← releasedAt scope (homeOf w) s
    needOr (!s.isFull w) (.park s wait)
    return .ok (s.fillWord w (s.me.getX f.d) scope)
  | .fset => do
    let s ← releasedAt scope (homeOf w) s
    return .ok (s.fillWord w (s.me.getX f.d) scope)
  | _ => do
    let s ← releasedHome s (homeOf w)
    return .ok (s.emptyWord w)

/-- A parked request can proceed in the present state of its word. -/
def feReady (s : State) (w : Wait) : Bool := if w.op == .fput then !s.isFull w.aux else s.isFull w.aux

/-- Retry the requests parked on a word in order of arrival, from the first again after each that proceeds, by fuel (R296). -/
def State.retryWord (s : State) (w : Nat) : Nat → State
  | 0 => s
  | fuel + 1 =>
    match (s.waiters .fullEmpty w).find? (fun e => feReady s e.2) with
    | none => s
    | some (k, wt) => (s.reissue k .fullEmpty (feRequest wt.op)).retryWord w fuel

/-- A request, then the retry of the requests parked on the word that it changed. -/
def feBody (o : Op) (f : Fields) (s : State) : Res :=
  match feWord o f s, feRequest o f s with
  | .ok (w, _), .ok s' => .ok { s'.retryWord w (2 * (s.waiters .fullEmpty w).length) with cur := s.cur }
  | _, r => r

/-- FLD (R295). -/
def execFld (f : Fields) (s : State) : Host.Outcome State Fault Refusal := run .fld f (feBody .fld f) s

/-- FTAKE (R295). -/
def execFtake (f : Fields) (s : State) : Host.Outcome State Fault Refusal := run .ftake f (feBody .ftake f) s

/-- FPUT (R295). -/
def execFput (f : Fields) (s : State) : Host.Outcome State Fault Refusal := run .fput f (feBody .fput f) s

/-- FSET (R295). -/
def execFset (f : Fields) (s : State) : Host.Outcome State Fault Refusal := run .fset f (feBody .fset f) s

/-- FCLR (R295). -/
def execFclr (f : Fields) (s : State) : Host.Outcome State Fault Refusal := run .fclr f (feBody .fclr f) s

/-- FULL_EMPTY_RETRY (R296). -/
def execFullEmptyRetry (word : Nat) (s : State) : Host.Outcome State Fault Refusal :=
  happen (fun s => s.retryWord word (2 * (s.waiters .fullEmpty word).length)) s

/-- SIGDECL (R346). -/
def sigdeclBody (f : Fields) (s : State) : Res := Act.run do
  let r := s.me.getO f.a
  let b := s.me.getX f.b
  checkPtr s r
  let (a, h) ← header s (oCanon r)
  needKind (hKind h == 3) s r h
  need (b.toNat / 2 ^ 32 == 0) s { code := .bounds, eval := b, ptr := oCanon r, offset := b }
  let s ← releasedHome s (homeOf a)
  return .ok (s.pokeWord (a + 8) (b.setWidth 32 ++ (s.peekWord (a + 8)).extractLsb' 0 32))

/-- SIGDECL (R346). -/
def execSigdecl (f : Fields) (s : State) : Host.Outcome State Fault Refusal := run .sigdecl f (sigdeclBody f) s


/-! ## Atomics -/

/-- Bytes of an AMO or CAS. -/
def amoSize (f : Fields) : Nat := 8 / 2 ^ f.z.toNat

/-- What comes before an atomic: at its own home the task's earlier accesses, and those that a release at its scope orders (R205, R208,
R213). -/
def atomicRelease (s : State) (f : Fields) (home : Nat) : Act State := do
  let s ← if f.x.toNat / 128 % 4 ≥ 2 then releasedAt (f.x.toNat / 16 % 8) home s else pure s
  releasedHome s home

/-- Count an atomic in `c.apred`, performed at its home or under a lease, and log one performed at its home (R213, R234,
R243); a window is never leased, and an M-core has no predictor. -/
def State.noteAtomic (s : State) (a : Nat) (l : AtomicLog) : State :=
  let c := s.myCore
  let k := s.core c
  let (n, s) := s.fresh
  let lease := homeOf a < 4 && !isM c && Config.leased n
  let up (v : BitVec 32) : BitVec 32 := v + 1
  let apred : Word64 :=
    if isM c then k.apred
    else if lease then k.apred.extractLsb' 32 32 ++ up (k.apred.extractLsb' 0 32)
    else up (k.apred.extractLsb' 32 32) ++ k.apred.extractLsb' 0 32
  let mine := (k.results ++ [l]).filter (fun e => e.home == l.home)
  let results := if lease || (peerOf a).isSome then k.results
    else k.results.filter (fun e => e.home != l.home) ++ mine.drop (mine.length - 16)
  s.setCore c { k with apred := apred, results := results }

/-- The home that keeps an atomic's log: a compute die, or 4 plus the I/O die of a window. -/
def State.logHome (s : State) (ptr : Word64) (a : Nat) : Nat :=
  if homeOf a < 4 then homeOf a else 4 + s.windowIo (s.tablePart s.me) ptr

/-- A deferred result of an atomic at a physical address (R234, R247). -/
def State.deferAtomic (s : State) (a : Nat) (d : Dest) (v : BitVec 128) (ptr off : Word64) : State :=
  s.defer { dest := d, val := v.setWidth 4096, atomic := some (ptr, off), peer := s.via (s.tablePart s.me) ptr a }

/-- The checks of AMO and CAS (R273): the physical address of the word. -/
def atomicChecks (f : Fields) (s : State) (hostOp : Bool) : Act Nat := do
  let n := amoSize f
  let r := s.me.getO f.a
  let off := litOffset f
  check s r off n n
  let (a, h) ← header s (oCanon r)
  needKind ((hKind h == 0 || (hKind h == 2 && off % 16 == 8 && n == 8)) && !(hStaged h && hState h != 2)) s r h off
  needOpen s r h off
  need (!s.hostWindow (oCanon r) || hostOp) s { code := .hostAtomic, ptr := oCanon r }
  needAtomicOps s (oCanon r)
  let _ ← loadAct s (oCanon r) (16 + oView r + off.toNat) n
  return a + 16 + oView r + off.toNat

/-- The new value of an AMO on `w` bits (R274). -/
def amoNew (op w a b : Nat) : Nat :=
  let lt (x y : Nat) : Bool := decide (toSigned w x < toSigned w y)
  match op with
  | 0 => (a + b) % 2 ^ w
  | 1 => a &&& b
  | 2 => a ||| b
  | 3 => a ^^^ b
  | 4 => if lt b a then b else a
  | 5 => if lt a b then b else a
  | 6 => min a b
  | 7 => max a b
  | 8 => b
  | _ => add32 a (fp32.value b)

/-- AMO (R272 to R274). -/
def amoBody (f : Fields) (s : State) : Res := Act.run do
  let n := amoSize f
  let op := f.x.toNat % 16
  let a ← atomicChecks f s (op == 0 || op == 8)
  let r := s.me.getO f.a
  let off := BitVec.ofInt 64 (litOffset f)
  let b := (s.me.getX f.b).toNat % 2 ^ (8 * n)
  let s ← atomicRelease s f (homeOf a)
  let old := leNat (s.mem.readN a n)
  let s := s.poke a (leBytes n (amoNew op (8 * n) old b))
  let logged := if s.hostWindow (oCanon r) then 0 else BitVec.ofNat 64 old
  let s := s.noteAtomic a
    { tid := s.me.tid, op := BitVec.ofNat 8 op, lost := false, ptr := oCanon r, offset := off, old := logged, oldHigh := 0
      home := s.logHome (oCanon r) a }
  let v := if op = 6 || op = 7 || op = 9 then BitVec.ofNat 64 old else signW (8 * n) old
  return .ok ((s.requestTo (s.tablePart s.me) (oCanon r) a).deferAtomic a (.x f.d) (v.setWidth 128) (oCanon r) off)

/-- AMO (R274). -/
def execAmo (f : Fields) (s : State) : Host.Outcome State Fault Refusal := run .amo f (amoBody f) s

/-- CAS (R281). -/
def casBody (f : Fields) (s : State) : Res := Act.run do
  let n := amoSize f
  let a ← atomicChecks f s true
  let r := s.me.getO f.a
  let off := BitVec.ofInt 64 (litOffset f)
  let s ← atomicRelease s f (homeOf a)
  let old := leNat (s.mem.readN a n)
  let s := if old = (s.me.getX f.b).toNat % 2 ^ (8 * n) then s.poke a (leBytes n (s.me.getX f.c).toNat) else s
  let logged := if s.hostWindow (oCanon r) then 0 else BitVec.ofNat 64 old
  let s := s.noteAtomic a
    { tid := s.me.tid, op := 0x10, lost := false, ptr := oCanon r, offset := off, old := logged, oldHigh := 0
      home := s.logHome (oCanon r) a }
  return .ok ((s.requestTo (s.tablePart s.me) (oCanon r) a).deferAtomic a (.x f.d) ((signW (8 * n) old).setWidth 128) (oCanon r) off)

/-- CAS (R281). -/
def execCas (f : Fields) (s : State) : Host.Outcome State Fault Refusal := run .cas f (casBody f) s

/-- What a part of an instruction comes to, its fault kept apart: a wait ends the instruction, a fault does not yet. -/
def faultLater (a : Act α) : Act (Except Flt α) :=
  match a with
  | .ok v => .ok (.ok v)
  | .error (.fault _ f) => .ok (.error f)
  | .error r => .error r

/-- CAS2 (R259): a page of the old pointer's header is asked for before the swap, so that the swap happens once; a header that cannot be read,
by a page that the host refuses as well, faults after the swap, which stands (R213, R63, R239). -/
def cas2Body (f : Fields) (s : State) : Res := Act.run do
  let r := s.me.getO f.a
  let off := (s.me.getX f.b).toInt
  check s r off 16 16
  let (_, h) ← header s (oCanon r)
  needKind (hKind h == 2) s r h off
  let okPtr (p : Word64) : Act Unit := need (!malformed p && tagOf p != 6) s { code := .nullPointer, eval := p, ptr := p }
  okPtr (oCanon (s.me.getO f.d))
  okPtr (oCanon (s.me.getO (f.d + 1)))
  needAtomicOps s (oCanon r)
  let s ← escape f.a (f.d + 1) 400 [] s
  -- a promotion or a collection has patched every register
  let r := s.me.getO f.a
  let base ← access s (oCanon r) (16 + oView r + off.toNat) 16
  let a := base + 16 + oView r + off.toNat
  need (!s.poisoned a 16) s { code := .uncorrectable, ptr := oCanon r, offset := s.me.getX f.b }
  let s ← atomicRelease s f (homeOf a)
  let p := s.peekWord a
  let v := s.peekWord (a + 8)
  let len ← faultLater (pointerHead s p)
  let s :=
    if p == oCanon (s.me.getO f.d) && v == s.me.getX f.c then
      (s.pokeWord a (oCanon (s.me.getO (f.d + 1)))).pokeWord (a + 8) (s.me.getX (f.c + 1))
    else s
  let host := s.hostWindow (oCanon r)
  let s := s.noteAtomic a
    { tid := s.me.tid, op := 0x11, lost := false, ptr := oCanon r, offset := s.me.getX f.b
      old := if host then 0 else p, oldHigh := if host then 0 else v, home := s.logHome (oCanon r) a }
  match len with
  | .error x => return .fault (s.setMe { s.me with refused := none }) x
  | .ok h =>
    let len := headLen h
    let s := (s.requestTo (s.tablePart s.me) (oCanon r) a).deferAtomic a (.o f.d) (oMake false false 0 len p) (oCanon r) (s.me.getX f.b)
    return .ok (s.deferAtomic a (.x f.c) (v.setWidth 128) (oCanon r) (s.me.getX f.b))

/-- CAS2 (R259). -/
def execCas2 (f : Fields) (s : State) : Host.Outcome State Fault Refusal := run .cas2 f (cas2Body f) s

/-- Mark the newest log entry of an atomic as lost (R234). -/
def markLost (tid : Word32) (ptr off : Word64) (ls : List AtomicLog) : List AtomicLog :=
  match ls.reverse.findIdx? (fun e => e.tid == tid && e.ptr == ptr && e.offset == off && !e.lost) with
  | some i => ls.modify (ls.length - 1 - i) (fun e => { e with lost := true })
  | none => ls

/-- ATOMIC_RESPONSE_ERROR (R234): outstanding result `i` of a task belongs to an atomic whose effect stands; its registers are
not written, and `atomic-result-lost` names the instruction. -/
def State.atomicLost (s : State) (k : TaskKey) (i : Nat) : State :=
  let t := s.task k
  match t.pend[i]? with
  | none => s
  | some p =>
    match p.atomic with
    | none => s
    | some (ptr, off) =>
      let s := s.setTask k { t with pend := t.pend.filter (fun q => !(q.pc == p.pc && q.atomic == p.atomic)) }
      let c := s.core (coreOf k)
      let s := s.setCore (coreOf k) { c with results := markLost t.tid ptr off c.results }
      s.raiseAt k { code := .atomicResultLost, ptr := ptr, offset := off } p.pc p.pc false

/-- ATOMIC_RESPONSE_ERROR (R234). -/
def execAtomicResponseError (t : TaskKey) (i : Nat) (s : State) : Host.Outcome State Fault Refusal :=
  happen (fun s => s.atomicLost t i) s

end Sys2Proof.Machine
end

