-- ==== Sys2Proof/Machine/Platform.lean ====
section
/-!
DEFINITION. Host accesses, soft errors, Finven links, Ethernet, boot, warming, attestation, clock stretching and the firmware
(spec/15_faults.md R239, R240; spec/16_platform.md R243 to R253; R262).
-/

namespace Sys2Proof.Machine

/-! ## The host (R239, R243, R244) -/

/-- The host ports have trained as CXL, which gives the host device memory (R241, R244). -/
def State.cxlMode (s : State) : Bool := s.plat.hostPorts.any (fun e => e.2.cxl)

/-- Physical address of `n` bytes of host-managed device memory, in one frame that the supervisor has mapped onto a valid region of a
partition's heap (R244). -/
def State.devicePlace (s : State) (a n : Nat) : Option Nat :=
  match s.plat.frameMap.lookup (a / 2 ^ 28) with
  | none => none
  | some (p, r, i) =>
    let e := s.region p r
    if !s.cxlMode || !rgValid e || bits e.toNat 48 6 < i || 2 ^ 28 < a % 2 ^ 28 + n then none
    else some (stackAddr (rgStack e) ((bits e.toNat 0 8 + i) * 2 ^ 28 + a % 2 ^ 28))

/-- Where a store of the host leads: device memory, below 2^48, or the host's own memory, as the windows of the partitions see it. -/
def State.hostReach (s : State) (a n : Nat) : Option Nat :=
  if a < 2 ^ 48 then s.devicePlace a n
  else if 2 ^ 72 ≤ a && a + n ≤ 2 ^ 72 + 2 ^ 68 then some a
  else none

/-- A byte of device memory lies on a channel that stalls accesses: a row of a bank-spread object that the region's allocator has placed
lies as R158 says, every other byte at its stack address (R244, R405). -/
def State.deviceStalls (s : State) (a pa : Nat) : Bool :=
  let plain := s.stackStalled (bits pa 36 3) (bits pa 0 36) 1
  match s.plat.frameMap.lookup (a / 2 ^ 28) with
  | none => plain
  | some (p, r, i) =>
    let off := i * 2 ^ 28 + a % 2 ^ 28
    match (s.regionAlloc p r).objs.find? (fun o => o.off ≤ off && off < o.off + o.size) with
    | some o => s.stalls (pa - (off - o.off)) (off - o.off) 1
    | none => plain

/-- HOST_ACCESS: a store of the host is a canonical store at sys scope, without a bounds check, which a stalled channel holds; a load
changes nothing; the supervisor's map of a frame replaces what the frame showed (R244). In recovery the module offers no access (R250). -/
def State.hostAccess (s : State) (what : HostOp) (a : Nat) (bs : List Byte) : State :=
  if s.plat.recovery then s
  else match what with
  | .read => s
  | .write =>
    match s.hostReach a bs.length with
    | none => s
    | some pa => if !isHost pa && (List.range bs.length).any (fun i => s.deviceStalls (a + i) (pa + i)) then s else s.poke pa bs
  | .map p region index => { s with plat := { s.plat with frameMap := s.plat.frameMap.set (a / 2 ^ 28) (p, region, index) } }

/-- HOST_ACCESS (R244). -/
def execHostAccess (what : HostOp) (addr : Nat) (bytes : List Byte) (s : State) : Host.Outcome State Fault Refusal :=
  happen (fun s => s.hostAccess what addr bytes) s

/-- DEVICE_CONTROL_2_WRITE: AtomicOp Requester Enable of a function: 0 to 15 the virtual ones, 16 and 17 the physical ones of the ports of
`io0` and `io1` (R241). -/
def State.deviceControl (s : State) (fn : Nat) (enable : Bool) : State :=
  let bit : BitVec 18 := BitVec.ofNat 18 (2 ^ fn)
  { s with plat := { s.plat with atomicOps := if enable then s.plat.atomicOps ||| bit else s.plat.atomicOps &&& ~~~bit } }

/-- DEVICE_CONTROL_2_WRITE (R243). -/
def execDeviceControl2Write (fn : Nat) (enable : Bool) (s : State) : Host.Outcome State Fault Refusal :=
  happen (fun s => s.deviceControl fn enable) s

/-- The page of a request. -/
def pageOf : PageReq → Nat
  | .task _ _ _ g => g
  | .copy _ _ _ g => g
  | .dist _ _ _ g => g
  | .pref _ _ g => g
  | .engine _ g => g

/-- The host refuses a page to the task with an id, wherever it is: its instruction finds that when it is tried again (R239, R63). -/
def State.refusePage (s : State) (tid : Word32) (g : Nat) : State :=
  let note (t : Task) : Task := if t.tid == tid && t.status != .free then { t with refused := some g } else t
  { s with
    tasks := s.tasks.mapVals note
    shadow := s.shadow.map (fun v => { v with tasks := v.tasks.mapVals note }) }

/-- The canonical pointer of an operand of the engine's command that waits for a host page: the first that needs it. -/
def State.engineOperand (s : State) (m : MCmd) (g : Nat) : Word64 :=
  let needs (r : BitVec 128) : Bool :=
    match s.place m.part (oCanon r) 16 with
    | .ok a => isHost a && a / 4096 ≤ g && g ≤ (a + 16 + oView r + oLen r) / 4096
    | .error _ => false
  oCanon (if needs m.oa || !needs m.ob then m.oa else m.ob)

/-- A page request that fails raises `host-translation` in its source (R239): a task's at its instruction, a copy job's with the prefix it
has committed (R199), an engine's in its command; a prefetch is abandoned (R337). `addr` is the I/O virtual address. -/
def State.pageFails (s : State) (q : PageReq) (addr : Word64) : State :=
  match q with
  | .task _ tid _ g => s.refusePage tid g
  | .copy k job core _ =>
    match (s.cluster k).jobs.find? (fun j => j.job == job && j.core == core) with
    | some j => s.jobFault k j { code := .hostTranslation, ptr := oCanon j.dst, offset := addr }
    | none => s
  | .dist io p ptr _ => s.unitFault (.distributor io) p { code := .hostTranslation, ptr := ptr, offset := addr } 0 0
  | .pref c ptr _ =>
    match s.copyOf c ptr with
    | some e => if e.complete then s else s.dropCopy c e
    | none => s
  | .engine k g =>
    match (s.core (firstCore k + (s.cluster k).queue)).queue.head? with
    | some m => s.engineFault k m { code := .hostTranslation, ptr := s.engineOperand m g, offset := addr, progress := BitVec.ofNat 64 m.done }
    | none => s

/-- PRI_RESPONSE: the host answers the `i`-th request: the access that waits goes on, or `host-translation` is raised in its source
(R239, R199). -/
def State.priAnswer (s : State) (i : Nat) (ok : Bool) : State :=
  match s.plat.pages[i]? with
  | none => s
  | some q =>
    let g := pageOf q
    if ok then
      { s with plat := { s.plat with
          pages := s.plat.pages.filter (fun x => pageOf x != g)
          grantedPages := if s.plat.grantedPages.contains g then s.plat.grantedPages else g :: s.plat.grantedPages } }
    else
      ({ s with plat := { s.plat with pages := s.plat.pages.eraseIdx i } } : State).pageFails q (BitVec.ofNat 64 (g * 4096))

/-- PRI_RESPONSE (R239). -/
def execPriResponse (i : Nat) (ok : Bool) (s : State) : Host.Outcome State Fault Refusal := happen (fun s => s.priAnswer i ok) s

/-! ## The almanac (R250) -/

/-- Add an entry to the ring of 4,096. -/
def State.almanacAdd (s : State) (e : Almanac) : State :=
  let all := s.plat.almanac ++ [e]
  { s with plat := { s.plat with almanac := all.drop (all.length - 4096) } }

/-- An entry of the present boot; its time is 0 before step 8 of a boot, and its detail, whose contents the spec does not state, a free
value. -/
def State.almanacNote (s : State) (step unit outcome : Nat) (alternate : Bool) (temp : Int) : State :=
  let (n, s) := s.fresh
  s.almanacAdd { step := step, unit := unit, boot := s.plat.boot, alternate := alternate, outcome := outcome, temp := temp
                 time := if s.plat.booted || 8 ≤ step then s.plat.time else 0, detail := Config.word n }

/-- An entry with the die temperature that is read then, a free value (R250; log entry 36). -/
def State.almanacRead (s : State) (step unit outcome : Nat) : State :=
  let (n, s) := s.fresh
  s.almanacNote step unit outcome (step == 0) (Config.dieTemp n)

/-- Write the outcome of the entry written last, which was marked started. -/
def State.almanacEnd (s : State) (outcome : Nat) : State :=
  let log := s.plat.almanac
  { s with plat := { s.plat with almanac := log.modify (log.length - 1) (fun e => { e with outcome := outcome }) } }

/-! ## Soft errors (R240) -/

/-- Errors of a location that make a lasting fault, and the window in hours; none for a location that R240 gives no action. -/
def eccLimit : EccLoc → Option (Nat × Nat)
  | .hbmRow _ _ => some (3, 24)
  | .linkLane _ _ => some (16, 1)
  | .padBank _ _ => some (4, 1)
  | .other _ => none

/-- CORRECTED_ERROR: the error is repaired in place and counted at a time in hours; a count past its window starts again. At the
threshold the action is due. -/
def State.corrected (s : State) (loc : EccLoc) (time : Nat) : State :=
  let rest := s.ecc.filter (fun e => e.loc != loc)
  let e : EccCount := match s.ecc.find? (fun e => e.loc == loc), eccLimit loc with
    | some e, some (_, w) => if e.first + w < time then ⟨loc, 1, time⟩ else { e with count := e.count + 1 }
    | some e, none => { e with count := e.count + 1 }
    | none, _ => ⟨loc, 1, time⟩
  let s : State := { s with ecc := rest ++ [e] }
  match eccLimit loc with
  | some (n, _) => if e.count == n then s.post (.lastingFaultAction loc) else s
  | none => s

/-- CORRECTED_ERROR (R240). -/
def execCorrectedError (loc : EccLoc) (time : Nat) (s : State) : Host.Outcome State Fault Refusal :=
  happen (fun s => s.corrected loc time) s

/-- A block of memory is poisoned. -/
def State.poisonBlock (s : State) (a : Nat) : State :=
  let b := a / 64 * 64
  if s.poison.contains b then s else { s with poison := s.poison ++ [b] }

/-- The parcels of the 64-byte block of a code range that holds a parcel address, as struck. -/
def strikeCode (rs : List CodeRange) (parcel : Nat) : List CodeRange :=
  rs.map (fun r => if r.base ≤ parcel && parcel < r.base + r.parcels.length then { r with bad := r.bad ++ [parcel / 16 * 16] } else r)

/-- Change a core of a cluster as a context of its partition holds it: in the state while the context runs, else in shadow storage. -/
def State.inContext (s : State) (k : ClusterId) (ctx : Nat) (c : CoreId) (f : Core → Core) : State :=
  match s.partOf k with
  | none => s.setCore c (f (s.core c))
  | some p =>
    if (s.part p).ctx == ctx then s.setCore c (f (s.core c))
    else { s with shadow := s.shadow.map (fun v =>
      if v.part == p && v.ctx == ctx then { v with cores := v.cores.set c (f (v.cores.find c Core.initial)) } else v) }

/-- A block of a pad's reserved ranges, the contexts' in ascending order from their first bank: an entry of an inbox ring, where entry i is
the i-th message that the inbox holds; a record of a spill area, in the order of the area. The words of mailboxes stand in memory (R97, R100,
R186, R224; log entry 15). -/
def State.strikeReserved (s : State) (a : Nat) : State :=
  let q : Word64 := BitVec.ofNat 64 a
  match padOf q with
  | some (.core c) =>
    let k := s.padContexts (.core c)
    let base := openBanks (.core c) k * bankSize (.core c)
    if padOff q < base then s
    else
      let off := padOff q - base
      s.inContext (clusterOf c) (off / 8192) c (fun x => { x with inbox := x.inbox.modify (off % 8192 / 128) (fun m => { m with bad := true }) })
  | some (.cluster u) =>
    let k := s.padContexts (.cluster u)
    let base := openBanks (.cluster u) k * bankSize (.cluster u)
    if padOff q < base || base + k * 0x80800 ≤ padOff q then s
    else
      let off := (padOff q - base) % 0x80800
      let ctx := (padOff q - base) / 0x80800
      if off < 0x80000 then
        s.inContext u ctx (8 * u + off / 65536) (fun x => { x with spill := x.spill.modify (off % 65536 / 64) (fun r => { r with bad := true }) })
      else s
  | _ => s

/-- UNCORRECTABLE_ERROR: the block, the accumulator, the queue entry or the block of an instruction store is poisoned, until it is written
whole (R240). -/
def State.strike (s : State) (loc : ErrorLoc) : State :=
  match loc with
  | .block a => (if a < 2 ^ 62 then s.strikeReserved a else s).poisonBlock a
  | .accumulator c n => s.setCore c { s.core c with acc := (s.core c).acc.setIfInBounds n { s.accOf c n with bad := true } }
  | .queueEntry c n =>
    -- the command in that entry, if one stands there
    let i := (n + 16 - (s.core c).qhead.toNat) % 16
    s.setCore c { s.core c with queue := (s.core c).queue.modify i (fun m => { m with bad := true }) }
  | .code u parcel =>
    if u < 64 then s.setCluster u { s.cluster u with code := strikeCode (s.cluster u).code parcel }
    else { s with mcode := s.mcode.set u (strikeCode (s.mcode.find u []) parcel) }

/-- UNCORRECTABLE_ERROR (R240). -/
def execUncorrectableError (loc : ErrorLoc) (s : State) : Host.Outcome State Fault Refusal := happen (fun s => s.strike loc) s

/-- LASTING_FAULT_ACTION: a location at its threshold: a row or a lane goes to a spare at once; a pad bank waits to leave its colour
until a collection finds it empty. The almanac records it. -/
def State.lastingFault (s : State) (loc : EccLoc) : State :=
  match s.ecc.find? (fun e => e.loc == loc), eccLimit loc with
  | some e, some (n, _) =>
    if e.count < n then s
    else
      let s : State := { s with ecc := s.ecc.filter (fun e => e.loc != loc) }
      match loc with
      | .padBank u bank =>
        match (List.range (s.padContexts u)).find? (fun c =>
            let (lo, hi) := s.colourBanks u c
            lo ≤ bank && bank < hi) with
        | some c =>
          let a := s.pad u c
          if a.retired.contains bank || a.retiring.contains bank then s
          else (s.setPad u c { a with retiring := a.retiring ++ [bank] }).almanacRead 0 bank 1
        | none => s
      | _ => ({ s with spared := s.spared ++ [loc] } : State).almanacRead 0 0 1
  | _, _ => s

/-- LASTING_FAULT_ACTION (R240). -/
def execLastingFaultAction (loc : EccLoc) (s : State) : Host.Outcome State Fault Refusal := happen (fun s => s.lastingFault loc) s

/-- ERROR_WINDOW_LAPSE: a count older than its window lapses. -/
def State.windowLapse (s : State) (loc : EccLoc) (time : Nat) : State :=
  { s with ecc := s.ecc.filter (fun e => !(e.loc == loc && (match eccLimit loc with
      | some (_, w) => e.first + w < time
      | none => false))) }

/-- ERROR_WINDOW_LAPSE (R240). -/
def execErrorWindowLapse (loc : EccLoc) (time : Nat) (s : State) : Host.Outcome State Fault Refusal :=
  happen (fun s => s.windowLapse loc time) s

/-! ## Finven (R246, R247) -/

/-- A flit without a payload, which acknowledges negatively. DESIGN CHOICE (log entry 41): R246 does not say which flits the sequence
numbers count; they count those with a payload, which are the ones that are kept and replayed, and this one names the number that comes
next. -/
def Port.nackFlit (p : Port) : Flit :=
  { version := p.version, kind := Config.flitKind false, seq := p.sendSeq, ack := p.recvSeq, nack := true, payload := [] }

/-- FLIT_RECEIVE: a good flit in sequence is delivered; one that fails its CRC, or comes after one that did, is dropped and
acknowledged negatively. A negative acknowledgement asks this side for a replay; a flit without a payload takes no number. -/
def State.flitReceive (s : State) (n seq ack : Nat) (good nack : Bool) (payload : List Byte) : State :=
  let p := s.port n
  let asked := if nack then some (BitVec.ofNat 12 ack) else p.wanted
  if !p.up then s
  else if good && payload.isEmpty then s.setPort n { p with wanted := asked }
  else if !good || BitVec.ofNat 12 seq != p.recvSeq then
    s.setPort n { p with wire := p.wire ++ [p.nackFlit] }
  else
    s.setPort n { p with recvSeq := p.recvSeq + 1, received := p.received ++ [payload], wanted := asked }

/-- FLIT_RECEIVE (R246). -/
def execFlitReceive (port seq ack : Nat) (good nack : Bool) (payload : List Byte) (s : State) : Host.Outcome State Fault Refusal :=
  happen (fun s => s.flitReceive port seq ack good nack payload) s

/-- FLIT_REPLAY: the kept flits go out again in order, from the sequence number that failed. -/
def State.flitReplay (s : State) (n seq : Nat) : State :=
  let p := s.port n
  if !p.up || p.wanted != some (BitVec.ofNat 12 seq) then s
  else
    let again := (p.replay.dropWhile (fun e => e.1 != BitVec.ofNat 12 seq)).map (fun e =>
      ({ version := p.version, kind := Config.flitKind true, seq := e.1, ack := p.recvSeq, nack := false, payload := e.2 } : Flit))
    s.setPort n { p with wire := p.wire ++ again, wanted := none }

/-- FLIT_REPLAY (R246). -/
def execFlitReplay (port seq : Nat) (s : State) : Host.Outcome State Fault Refusal := happen (fun s => s.flitReplay port seq) s

/-- LINK_TRAINING: the port comes up at version 1 when the partner's range holds it; else it stays down, and the almanac records
that. When the supervisor forms the domain over it, the package takes the number that it assigns (R9, log entry 41). -/
def State.linkTraining (s : State) (n : Nat) (range : Nat × Nat) (number : Option (BitVec 6)) : State :=
  if 18 ≤ n then s
  else if range.1 ≤ 1 && 1 ≤ range.2 then
    let s := s.setPort n { Port.initial with up := true, version := 1 }
    match number with
    | some k => { s with plat := { s.plat with package := k, inDomain := true } }
    | none => s
  else (s.setPort n { s.port n with up := false, version := 0 }).almanacRead 7 n 2

/-- LINK_TRAINING (R247). -/
def execLinkTraining (port : Nat) (range : Nat × Nat) (number : Option (BitVec 6)) (s : State) : Host.Outcome State Fault Refusal :=
  happen (fun s => s.linkTraining port range number) s

/-- A request in flight on a port that has gone down goes out again on the port that the route it took now has, or its result is `region`
(R247). -/
def State.retryRequest (s : State) (k : TaskKey) (i : Nat) (v : Via) : State :=
  match s.viaOver v.io v.pkg with
  | some w =>
    let s := s.setTask k { s.task k with pend := (s.task k).pend.modify i (fun p => { p with peer := some w }) }
    s.requestOver v.io v.pkg
  | none => s.setTask k { s.task k with pend := (s.task k).pend.modify i (fun p => { p with fault := some { code := .region } }) }

/-- PORT_DOWN: requests in flight on the port, each a result that is still to come, go to the alternate port, or raise `region` in their
source. -/
def State.portDown (s : State) (n : Nat) : State :=
  let flying := s.tasks.flatMap (fun e => e.2.pend.zipIdx.filterMap (fun q =>
    match q.1.peer with
    | some v => if v.port == n then some (e.1, q.2, v) else none
    | none => none))
  let s := s.setPort n { s.port n with up := false }
  flying.foldl (fun s e => s.retryRequest e.1 e.2.1 e.2.2) s

/-- PORT_DOWN (R247). -/
def execPortDown (port : Nat) (s : State) : Host.Outcome State Fault Refusal := happen (fun s => s.portDown port) s

/-! ## Ethernet and time (R248) -/

/-- Read the 1588 time, after the free time that has passed since it was last read (log entry 7). -/
def State.readTime (s : State) : Word64 × State :=
  let (n, s) := s.fresh
  let t := s.plat.time + (Config.elapsed n).setWidth 64 + 1
  (t, { s with plat := { s.plat with time := t } })

/-- ETHERNET_FRAME: a frame passes a port; PTP event messages are timestamped at the PHY. -/
def State.ethernetFrame (s : State) (n : Nat) (sent ptp : Bool) (bytes : List Byte) : State :=
  if 4 ≤ n then s
  else if ptp then
    let (t, s) := s.readTime
    { s with plat := { s.plat with frames := s.plat.frames ++ [⟨n, sent, bytes, some t⟩] } }
  else { s with plat := { s.plat with frames := s.plat.frames ++ [⟨n, sent, bytes, none⟩] } }

/-- ETHERNET_FRAME (R248). -/
def execEthernetFrame (port : Nat) (sent ptp : Bool) (frame : List Byte) (s : State) : Host.Outcome State Fault Refusal :=
  happen (fun s => s.ethernetFrame port sent ptp frame) s

/-! ## Boot (R249, R250) -/

/-- The method of a boot step. -/
inductive Method where
  | primary | alternate | skip
deriving DecidableEq, Repr

/-- Optional steps. -/
def stepOptional (step : Nat) : Bool := step == 7 || step == 8

/-- Steps that have an alternate method. -/
def stepAlternate (step : Nat) : Bool := [1, 4, 5, 6, 7, 9].contains step

/-- The latest entry of a step and unit in a boot. -/
def entryIn (log : List Almanac) (step unit : Nat) (boot : Word32) : Option Almanac :=
  (log.filter (fun e => e.step == step && e.unit == unit && e.boot == boot)).getLast?

/-- An entry of a step that has failed: marked failed, or started and no more. -/
def Almanac.failed (e : Almanac) : Bool := e.outcome == 2 || e.outcome == 0

/-- The method of a step in boot `b`, from its entry in the boot before (R250). -/
def chooseMethod (log : List Almanac) (step unit : Nat) (b : Word32) : Method :=
  match entryIn log step unit (b - 1) with
  | none => .primary
  | some e =>
    if !e.failed then .primary
    else if stepOptional step then .skip
    else if stepAlternate step && !e.alternate then .alternate
    else .primary

/-- Boot `b` tries the primary method of a step once more, since the primary and the alternate one have failed in the two boots before it;
when it fails again the module goes into recovery (R250). -/
def lastTry (log : List Almanac) (step unit : Nat) (b : Word32) : Bool :=
  match entryIn log step unit (b - 1), entryIn log step unit (b - 2) with
  | some e, some f => !stepOptional step && e.failed && e.alternate && f.failed && !f.alternate
  | _, _ => false

/-- What a boot step has done when it has passed: by the alternate method of step 5 its cluster is fused off, and a port is up. -/
def State.stepDone (s : State) (r : BootResult) (alternate : Bool) : State :=
  match r.step with
  | 5 => if alternate then { s with plat := { s.plat with fused := s.plat.fused ||| BitVec.ofNat 64 (2 ^ r.unit) } } else s
  | 6 =>
    -- both ports take the same mode
    let cxl := r.cxl && s.plat.hostPorts.all (fun e => e.2.cxl)
    let ports := (s.plat.hostPorts.set r.unit { cxl := cxl, width := if alternate then 8 else 16 }).mapVals (fun v => { v with cxl := cxl })
    { s with plat := { s.plat with hostPorts := ports } }
  | 7 => if r.unit < 18 then s.setPort r.unit { Port.initial with up := true, version := 1 } else s
  | _ => s

/-- One step of a boot on one unit: an entry marked started, then its outcome, and what it did; a step that the almanac has failed is
skipped when it is optional (R250). -/
def State.bootStep (s : State) (r : BootResult) : State :=
  let b := s.plat.boot
  let log := s.plat.almanac
  match chooseMethod log r.step r.unit b with
  | .skip => s.almanacNote r.step r.unit 3 false r.temp
  | m =>
    let alt := m == .alternate
    let s := s.almanacNote r.step r.unit 0 alt r.temp
    let failed (s : State) : State := if lastTry log r.step r.unit b then { s with plat := { s.plat with recovery := true } } else s
    match r.outcome with
    | none => failed s
    | some true => (s.almanacEnd 1).stepDone r alt
    | some false => failed (s.almanacEnd 2)

/-- The units on which a step runs that is not optional (R249): the stacks, the clusters that are not fused off, the host ports. -/
def State.bootUnits (s : State) : List (Nat × Nat) :=
  [(1, 0), (2, 0)] ++ (List.range 8).map (fun n => (4, n)) ++ ((List.range 64).filter s.available).map (fun n => (5, n))
    ++ [(6, 0), (6, 1), (9, 0)]

/-- Every step that is not optional has passed in the present boot, on every unit. -/
def State.allPassed (s : State) : Bool :=
  s.bootUnits.all (fun e => match entryIn s.plat.almanac e.1 e.2 s.plat.boot with
    | some a => !a.failed
    | none => false)

/-- The step on the unit has an entry in the present boot. -/
def State.stepRun (s : State) (step unit : Nat) : Bool := (entryIn s.plat.almanac step unit s.plat.boot).isSome

/-- A step on a unit may run next: every step before it that is not optional has run on each of its units, no later one has, and it has not
run in this boot (R249). -/
def State.stepNext (s : State) (step unit : Nat) : Bool :=
  s.bootUnits.all (fun e => step ≤ e.1 || s.stepRun e.1 e.2)
    && !s.plat.almanac.any (fun e => e.boot == s.plat.boot && e.step != 0 && (step < e.step || (e.step == step && e.unit == unit)))

/-- A die reads below −10 °C, or a stack below 0 °C (R252). -/
def State.cold (s : State) : Bool := s.plat.temps.any (· < -10) || s.plat.stackTemps.any (· < 0)

/-- The least of a list of temperatures, or 0. -/
def coldest (ts : List Int) : Int := ts.foldl min (ts.head?.getD 0)

/-- Step 3 of a boot begins when the steps before it have run and the package is cold: the almanac records the coldest starting temperature
(R252). -/
def State.warmingBegins (s : State) : State :=
  if s.plat.booting && s.cold && !s.plat.warming && s.stepNext 3 0 then
    ({ s with plat := { s.plat with warming := true } } : State).almanacNote 3 0 0 false (coldest (s.plat.temps ++ s.plat.stackTemps))
  else s

/-- The warming of the present boot, if it has one, has passed. -/
def State.warmed (s : State) : Bool := ((entryIn s.plat.almanac 3 0 s.plat.boot).map (fun a => !a.failed)).getD true

/-- The steps of a boot run in order, until the power fails, the module goes into recovery, or it warms; a result of a step whose turn has
not come ends them (R249, R252). -/
def State.bootSteps (s : State) : List BootResult → State
  | [] => s
  | r :: rs =>
    let s := if 3 < r.step then s.warmingBegins else s
    if s.plat.warming || !s.warmed || !s.stepNext r.step r.unit then s
    else
      let s := s.bootStep r
      if r.outcome.isNone then { s with plat := { s.plat with booting := false } }
      else if s.plat.recovery then s
      else s.bootSteps rs

/-- A boot begins: its number is one more than the last. -/
def State.bootBegins (s : State) : State :=
  { s with plat := { s.plat with boot := s.plat.boot + 1, booting := true, booted := false, warming := false, hostPorts := [] } }

/-- BOOT: steps run in order, each with its result: those of a boot that the first result begins, at power-on, or that goes on after its
warming. The module is booted when every step that is not optional has passed, and its warming, if it needed one. In recovery it stays
there, and while the package warms the steps wait (R249, R250, R252). -/
def State.bootRun (s : State) (rs : List BootResult) : State :=
  let starts := !s.plat.booting || (rs.head?.map (·.step)) == some 1
  if s.plat.recovery || (s.plat.warming && !starts) then s
  else
    let s := (if starts then s.bootBegins else s).bootSteps rs
    let booted := s.allPassed && s.warmed && !s.plat.recovery
    { s with plat := { s.plat with booting := s.plat.booting && !booted && !s.plat.recovery, booted := booted } }

/-- BOOT (R249). -/
def execBoot (results : List BootResult) (s : State) : Host.Outcome State Fault Refusal := happen (fun s => s.bootRun results) s

/-- The warming of step 3 ends with an outcome: the almanac's entry takes the end temperatures and the duration, a free value (R252). -/
def State.warmingEnds (s : State) (outcome : Nat) : State :=
  let (n, s) := s.fresh
  let s := s.almanacEnd outcome
  { s with plat := { s.plat with
      warming := false
      almanac := s.plat.almanac.modify (s.plat.almanac.length - 1) (fun e =>
        { e with ends := s.plat.temps ++ s.plat.stackTemps, lasted := Config.word n }) } }

/-- COLD_START_WARMING: the dies and stacks read these temperatures. With a die below −10 °C or a stack below 0 °C, step 3 of the boot warms
the package before any training, once steps 1 and 2 have run, and it passes when every die and stack has reached its temperature (R249,
R252). -/
def State.warm (s : State) (dies bases : List Int) : State :=
  let s : State := { s with plat := { s.plat with temps := dies, stackTemps := bases } }
  if !s.cold && s.plat.warming then s.warmingEnds 1 else s.warmingBegins

/-- COLD_START_WARMING (R252). -/
def execColdStartWarming (dies bases : List Int) (s : State) : Host.Outcome State Fault Refusal := happen (fun s => s.warm dies bases) s

/-- WARMING_TIMEOUT: 600 s have passed; the step fails (R252). -/
def State.warmingFails (s : State) : State := if s.plat.warming then s.warmingEnds 2 else s

/-- WARMING_TIMEOUT (R252). -/
def execWarmingTimeout (s : State) : Host.Outcome State Fault Refusal := happen (fun s => s.warmingFails) s

/-! ## The firmware mailbox (R251) -/

/-- The fields of an almanac entry. -/
def Almanac.fields (e : Almanac) : List Int :=
  [e.step, e.unit, e.boot.toNat, e.alternate.toNat, e.outcome, e.temp, e.time.toNat, e.detail.toNat]

/-- The images that steps 1, 2 and 9 of the present boot have run, measured: they follow from the firmware that the module holds (R251). -/
def State.measurements (s : State) : List (BitVec 384) :=
  (s.plat.almanac.filter (fun e => e.boot == s.plat.boot && [1, 2, 9].contains e.step && e.outcome == 1)).map (fun e =>
    Config.measurement e.step e.alternate s.plat.firmware)

/-- ATTESTATION_REQUEST: a report of the nonce, the measurements, the digest of the current boot's almanac entries, the packet versions
accepted (1 to 1) and the Finven range (1 to 1), signed. -/
def State.attest (s : State) (nonce : Word64) : State :=
  if s.plat.mailboxVersion.isNone || s.plat.recovery then s
  else
    let (n, s) := s.fresh
    let entries := s.plat.almanac.filter (fun e => e.boot == s.plat.boot)
    let r : Attest :=
      { nonce := nonce, boot := s.plat.boot, measurements := s.measurements, digest := Config.almanacDigest (entries.map Almanac.fields)
        packetLow := 1, packetHigh := 1, finvenLow := 1, finvenHigh := 1, signature := Config.signature n }
    { s with plat := { s.plat with reports := s.plat.reports ++ [r] } }

/-- ATTESTATION_REQUEST (R251). -/
def execAttestationRequest (nonce : Word64) (s : State) : Host.Outcome State Fault Refusal := happen (fun s => s.attest nonce) s

/-- FIRMWARE_MAILBOX_MESSAGE: the driver's first message negotiates the version; then the queries answer, and in recovery a firmware
update is taken. DESIGN CHOICE (log entry 36): R250 does not say what ends recovery; the update does, and the next boot chooses its methods
from the almanac. -/
def State.mailboxMessage (s : State) (m : MailboxMessage) : State :=
  match m with
  | .negotiate v => if s.plat.mailboxVersion.isNone then { s with plat := { s.plat with mailboxVersion := some v } } else s
  | .packetVersions => if s.plat.mailboxVersion.isNone then s else { s with plat := { s.plat with mailboxReply := some (1, 1) } }
  | .finvenRange => if s.plat.mailboxVersion.isNone then s else { s with plat := { s.plat with mailboxReply := some (1, 1) } }
  | .update image =>
    if s.plat.mailboxVersion.isNone || !s.plat.recovery then s
    else { s with plat := { s.plat with firmware := image, recovery := false } }

/-- FIRMWARE_MAILBOX_MESSAGE (R251). -/
def execFirmwareMailboxMessage (m : MailboxMessage) (s : State) : Host.Outcome State Fault Refusal :=
  happen (fun s => s.mailboxMessage m) s

/-- The code of an M-core that a task of it still runs: what ended kernels leave is free (R262). -/
def State.kernelCode (s : State) (c : CoreId) : List CodeRange :=
  (s.mcode.find c []).filter (fun r => (List.range 8).any (fun i =>
    let t := s.task (8 * c + i)
    t.status != .free && r.base ≤ t.pc.toNat && t.pc.toNat ≤ r.base + r.parcels.length))

/-- FIRMWARE_KERNEL_START: one task on a free slot of an M-core, with its code in the M-core's own instruction store: width 256, the
supervisor's tenant, privileged level, the argument object in o1 and x1 to x7 zero (R262). The code is loaded at every start, in the space
that no running kernel's code takes (log entry 2). -/
def State.kernelStart (s : State) (c : CoreId) (code argument : Word64) (entry : Word32) : State :=
  let p := Config.mCorePart.val
  match ((List.range 8).map (8 * c + ·)).find? (fun k => (s.task k).status == .free), s.packetCode p code entry.toNat, s.place p code 16 with
  | some k, true, .ok a =>
    let ps := s.codeParcels a
    if !isM c || 516 ≤ c || malformed argument || s.plat.recovery then s
    else
      match lowestFit [s.kernelCode c] ps.length with
      | none => s
      | some b =>
        let s : State := { s with mcode := s.mcode.set c (s.kernelCode c ++ [{ base := b, parcels := ps, ptr := code }]) }
        let g := nextGen (s.task k).gen
        s.setTask k ({ Task.empty with
          status := .ready, gen := g, tid := s.taskId k g, pc := entry + BitVec.ofNat 32 b, tenant := superTenant, part := 16, priv := true
          }.setO 1 (s.argReg p argument))
  | _, _, _ => s

/-- FIRMWARE_KERNEL_START (R262). -/
def execFirmwareKernelStart (c : CoreId) (code argument : Word64) (entry : Word32) (s : State) : Host.Outcome State Fault Refusal :=
  happen (fun s => s.kernelStart c code argument entry) s

/-! ## Adaptive clocking (R253) -/

/-- CLOCK_STRETCH: a monitor of a cluster trips and stretches its clock by 1 to 8 steps; the counters take the steps and the stretched
cycle. -/
def State.stretch (s : State) (k : ClusterId) (steps : Nat) : State :=
  if steps = 0 || 8 < steps then s
  else
    let c := s.cluster k
    s.setCluster k { c with
      stretch := max c.stretch steps, stretchedCycles := c.stretchedCycles + 1
      stretchSteps := c.stretchSteps + BitVec.ofNat 32 steps }

/-- CLOCK_STRETCH (R253). -/
def execClockStretch (k : ClusterId) (steps : Nat) (s : State) : Host.Outcome State Fault Refusal := happen (fun s => s.stretch k steps) s

/-- STRETCH_RELAX: after 32 cycles without the monitor the stretch is one step less; those cycles were stretched. -/
def State.relax (s : State) (k : ClusterId) : State :=
  let c := s.cluster k
  if c.stretch = 0 then s
  else s.setCluster k { c with stretch := c.stretch - 1, stretchedCycles := c.stretchedCycles + 32 }

/-- STRETCH_RELAX (R253). -/
def execStretchRelax (k : ClusterId) (s : State) : Host.Outcome State Fault Refusal := happen (fun s => s.relax k) s

/-- STRETCH_COUNT_READ: reading a counter clears it. -/
def State.stretchRead (s : State) (k : ClusterId) (steps : Bool) : State :=
  let c := s.cluster k
  s.setCluster k (if steps then { c with stretchSteps := 0 } else { c with stretchedCycles := 0 })

/-- STRETCH_COUNT_READ (R253). -/
def execStretchCountRead (k : ClusterId) (steps : Bool) (s : State) : Host.Outcome State Fault Refusal :=
  happen (fun s => s.stretchRead k steps) s

end Sys2Proof.Machine
end

