-- ==== Sys2Proof/Machine/Scalar.lean ====
section
/-!
DEFINITION. Meanings of the scalar integer, bit, control-transfer and loop instructions (R68; R267 to R354).
-/

namespace Sys2Proof.Machine

/-! ## The mould of R267 -/

/-- A scalar ALU instruction: `op w a b` at width `w`, the result sign-extended, or zero-extended when X bit 8 is 1. -/
def alu (op : Nat → Nat → Nat → Nat) (f : Fields) (s : State) : Res :=
  let w := widthZ f.z
  let r := op w (operandA s.me f w) (operandB s.me f w)
  .ok (s.setX f.d (if f.x.getLsbD 8 then BitVec.ofNat 64 r else signW w r))

/-- X bit 7: saturate. -/
def satBit (f : Fields) : Bool := f.x.getLsbD 7

/-- X bit 8: unsigned. -/
def unsBit (f : Fields) : Bool := f.x.getLsbD 8

/-- Shift amount: `b` modulo the width. -/
def amount (w b : Nat) : Nat := b % w

/-- A unary operation of R280, sign-extended. -/
def alu1 (op : Nat → Nat → Nat) (f : Fields) (s : State) : Res :=
  let w := widthZ f.z
  .ok (s.setX f.d (signW w (op w (operandA s.me f w))))

/-- NOP (R325). -/
def execNop (f : Fields) (s : State) : Host.Outcome State Fault Refusal := run .nop f (fun s => .ok s) s

/-- ADD (R268, R139). -/
def execAdd (f : Fields) (s : State) : Host.Outcome State Fault Refusal := run .add f (alu (fun w a b => satOr (satBit f) w (toSigned w a + toSigned w b)) f) s

/-- SUB (R332, R139). -/
def execSub (f : Fields) (s : State) : Host.Outcome State Fault Refusal := run .sub f (alu (fun w a b => satOr (satBit f) w (toSigned w a - toSigned w b)) f) s

/-- MUL (R314, R139). -/
def execMul (f : Fields) (s : State) : Host.Outcome State Fault Refusal := run .mul f (alu (fun w a b => satOr (satBit f) w (toSigned w a * toSigned w b)) f) s

/-- MULH (R314). -/
def execMulh (f : Fields) (s : State) : Host.Outcome State Fault Refusal := run .mulh f (alu (mulhW (unsBit f)) f) s

/-- DIV (R268, R140). -/
def execDiv (f : Fields) (s : State) : Host.Outcome State Fault Refusal := run .div f (alu (divW (unsBit f)) f) s

/-- REM (R332, R140). -/
def execRem (f : Fields) (s : State) : Host.Outcome State Fault Refusal := run .rem f (alu (remW (unsBit f)) f) s

/-- AND (R268). -/
def execAnd (f : Fields) (s : State) : Host.Outcome State Fault Refusal := run .and f (alu (fun _ a b => a &&& b) f) s

/-- OR (R332). -/
def execOr (f : Fields) (s : State) : Host.Outcome State Fault Refusal := run .or f (alu (fun _ a b => a ||| b) f) s

/-- XOR (R398). -/
def execXor (f : Fields) (s : State) : Host.Outcome State Fault Refusal := run .xor f (alu (fun _ a b => a ^^^ b) f) s

/-- ANDN (R268). -/
def execAndn (f : Fields) (s : State) : Host.Outcome State Fault Refusal := run .andn f (alu (fun w a b => a &&& (2 ^ w - 1 - b)) f) s

/-- SHL (R332, R139). -/
def execShl (f : Fields) (s : State) : Host.Outcome State Fault Refusal := run .shl f (alu (fun w a b => satOr (satBit f) w (toSigned w a * (2 ^ amount w b : Nat))) f) s

/-- SHR (R332). -/
def execShr (f : Fields) (s : State) : Host.Outcome State Fault Refusal := run .shr f (alu (fun w a b => a / 2 ^ amount w b) f) s

/-- SRA (R332). -/
def execSra (f : Fields) (s : State) : Host.Outcome State Fault Refusal := run .sra f (alu (fun w a b => sraW w a (amount w b)) f) s

/-- ROR (R332). -/
def execRor (f : Fields) (s : State) : Host.Outcome State Fault Refusal := run .ror f (alu (fun w a b => rorW w a (amount w b)) f) s

/-- MIN (R314). -/
def execMin (f : Fields) (s : State) : Host.Outcome State Fault Refusal := run .min f (alu (fun w a b => if ltW (unsBit f) w b a then b else a) f) s

/-- MAX (R314). -/
def execMax (f : Fields) (s : State) : Host.Outcome State Fault Refusal := run .max f (alu (fun w a b => if ltW (unsBit f) w a b then b else a) f) s

/-- The outcome of a comparison (R284). -/
def cmpHolds (t : Task) (f : Fields) : Bool :=
  let w := widthZ f.z
  condW (unsBit f) w (f.x.toNat % 8) (operandA t f w) (operandB t f w)

/-- CMP (R284). -/
def execCmp (f : Fields) (s : State) : Host.Outcome State Fault Refusal := run .cmp f (fun s => .ok (s.setX f.d (if cmpHolds s.me f then 1 else 0))) s

/-- CMPP (R284). -/
def execCmpp (f : Fields) (s : State) : Host.Outcome State Fault Refusal := run .cmpp f (fun s => .ok (s.setP f.d (if cmpHolds s.me f then s.me.pMask else 0))) s

/-- SEL (R343). -/
def execSel (f : Fields) (s : State) : Host.Outcome State Fault Refusal := run .sel f (fun s => .ok (s.setX f.d (if s.me.getX f.c != 0 then s.me.getX f.a else s.me.getX f.b))) s

/-- The immediate of LI (R313). -/
def liValue (f : Fields) : Word64 :=
  match f.form with
  | .f1 => (f.a ++ f.b).signExtend 64
  | .f2 => (f.a ++ f.b ++ f.c).signExtend 64
  | .f3 => f.lit.signExtend 64

/-- LI (R313). -/
def execLi (f : Fields) (s : State) : Host.Outcome State Fault Refusal := run .li f (fun s => .ok (s.setX f.d (liValue f))) s

/-- LI with Z = 01 (R313). -/
def execLiH (f : Fields) (s : State) : Host.Outcome State Fault Refusal := run .liH f (fun s => .ok (s.setX f.d (f.lit ++ (s.me.getX f.d).setWidth 32))) s

/-- CLZ (R280). -/
def execClz (f : Fields) (s : State) : Host.Outcome State Fault Refusal := run .clz f (alu1 clzW f) s

/-- CTZ (R280). -/
def execCtz (f : Fields) (s : State) : Host.Outcome State Fault Refusal := run .ctz f (alu1 ctzW f) s

/-- POPC (R336). -/
def execPopc (f : Fields) (s : State) : Host.Outcome State Fault Refusal := run .popc f (fun s => .ok (s.setX f.d (BitVec.ofNat 64 (popW (widthZ f.z) (operandA s.me f (widthZ f.z)))))) s

/-- BREV (R280). -/
def execBrev (f : Fields) (s : State) : Host.Outcome State Fault Refusal := run .brev f (alu1 brevW f) s

/-- Length of EXT and INS: C, or 64 for 0. -/
def fieldLen (f : Fields) : Nat := if f.c = 0 then 64 else f.c.toNat

/-- Position of EXT and INS. -/
def fieldPos (f : Fields) : Nat := f.x.toNat % 64

/-- EXT (R294). -/
def execExt (f : Fields) (s : State) : Host.Outcome State Fault Refusal := run .ext f (fun s => .ok (s.setX f.d (let v := bits (s.me.getX f.a).toNat (fieldPos f) (fieldLen f); if unsBit f then BitVec.ofNat 64 v else signW (fieldLen f) v))) s

/-- INS (R305). -/
def execIns (f : Fields) (s : State) : Host.Outcome State Fault Refusal := run .ins f (fun s => .ok (s.setX f.d (blend (s.me.getX f.d) (s.me.getX f.a <<< fieldPos f) (BitVec.ofNat 64 ((2 ^ fieldLen f - 1) * 2 ^ fieldPos f))))) s

/-- PDEP (R334, R133). -/
def execPdep (f : Fields) (s : State) : Host.Outcome State Fault Refusal := run .pdep f (fun s => .ok (s.setX f.d (BitVec.ofNat 64 (pdepW 64 (s.me.getX f.a).toNat (s.me.getX f.b).toNat)))) s

/-- PEXT (R334, R133). -/
def execPext (f : Fields) (s : State) : Host.Outcome State Fault Refusal := run .pext f (fun s => .ok (s.setX f.d (BitVec.ofNat 64 (pextW 64 (s.me.getX f.a).toNat (s.me.getX f.b).toNat)))) s

/-- GFM (R299, R132). -/
def execGfm (f : Fields) (s : State) : Host.Outcome State Fault Refusal := run .gfm f (fun s => .ok (s.setX f.d (BitVec.ofNat 64 (gfm64 (s.me.getX f.a).toNat (s.me.getX f.b).toNat)))) s

/-- BPERM (R279, R134). -/
def execBperm (f : Fields) (s : State) : Host.Outcome State Fault Refusal := run .bperm f (fun s => .ok (s.setX f.d (BitVec.ofNat 64 (bperm64 (s.me.getX f.a).toNat (s.me.getG f.b))))) s


/-! ## Control transfer (R276 to R278) -/

/-- A taken transfer to `t`, with the change to the task that goes with it; nothing is written when the target is illegal. -/
def transfer (t : Word64) (change : Task → Task) (s : State) : Res :=
  if !s.targetOk t then .fault s { code := .branchTarget, offset := t }
  else .jump (s.setMe (change s.me)) (t.setWidth 32)

/-- The link register, `x62` (R88). -/
def lr : BitVec 6 := 62

/-- A conditional branch over {D,B}. -/
def branchIf (c : Bool) (f : Fields) (s : State) : Res :=
  if c then transfer (relTarget s.me (offDB f)) id s else .ok s

/-- BR (R277). -/
def execBr (f : Fields) (s : State) : Host.Outcome State Fault Refusal := run .br f (fun s => transfer (relTarget s.me (offDAB f)) id s) s

/-- BZ (R277). -/
def execBz (f : Fields) (s : State) : Host.Outcome State Fault Refusal := run .bz f (fun s => branchIf (s.me.getX f.a == 0) f s) s

/-- BNZ (R277). -/
def execBnz (f : Fields) (s : State) : Host.Outcome State Fault Refusal := run .bnz f (fun s => branchIf (s.me.getX f.a != 0) f s) s

/-- BP's test over the bits of pA (R277). -/
def bpHolds (t : Task) (f : Fields) : Bool :=
  let p := t.getP f.a &&& t.pMask
  match f.z.toNat with
  | 0 => p != 0
  | 1 => p == t.pMask
  | _ => p == 0

/-- BP (R277). -/
def execBp (f : Fields) (s : State) : Host.Outcome State Fault Refusal := run .bp f (fun s => branchIf (bpHolds s.me f) f s) s

/-- CALL (R277). -/
def execCall (f : Fields) (s : State) : Host.Outcome State Fault Refusal := run .call f (fun s => transfer (relTarget s.me (offDAB f)) (fun t => t.setX lr ((nextPc t f).setWidth 64)) s) s

/-- CALLR (R277). -/
def execCallr (f : Fields) (s : State) : Host.Outcome State Fault Refusal := run .callr f (fun s => transfer (s.me.getX f.a) (fun t => t.setX lr ((nextPc t f).setWidth 64)) s) s

/-- JMP (R306). -/
def execJmp (f : Fields) (s : State) : Host.Outcome State Fault Refusal := run .jmp f (fun s => transfer (s.me.getX f.a) id s) s

/-- RET (R340). -/
def execRet (f : Fields) (s : State) : Host.Outcome State Fault Refusal := run .ret f (fun s => transfer (s.me.getX lr) id s) s


/-! ## Loops (R311, R312, R317) -/

/-- Arm a loop level. -/
def Task.arm (t : Task) (level1 : Bool) (ls le lc : Word64) : Task :=
  if level1 then { t with ls1 := ls, le1 := le, lc1 := lc } else { t with ls0 := ls, le0 := le, lc0 := lc }

/-- LOOP's effect. -/
def loopBody (f : Fields) (s : State) : Res :=
  let t := s.me
  let e := relTarget t (offDB f)
  let next := nextPc t f
  let bad : Res := .fault s { code := .branchTarget, offset := e }
  if e.toNat < next.toNat || !s.targetOk e then bad
  else
    let t' := t.arm (f.z == 1) (next.setWidth 64) e (t.getX f.a)
    if t.getX f.a != 0 then .ok (s.setMe t')
    else
      let len := match parcelsAt (s.codeOf s.myCore) e.toNat with
        | p :: _ => lenOf p
        | [] => 1
      transfer (e + BitVec.ofNat 64 len) (fun _ => t') s

/-- LOOP (R311). -/
def execLoop (f : Fields) (s : State) : Host.Outcome State Fault Refusal := run .loop f (loopBody f) s

/-- LEXIT (R311). -/
def execLexit (f : Fields) (s : State) : Host.Outcome State Fault Refusal := run .lexit f (fun s => transfer (relTarget s.me (offDAB f)) (fun t => if f.z == 1 then { t with lc1 := 0 } else { t with lc0 := 0 }) s) s

/-- MFL (R317). -/
def execMfl (f : Fields) (s : State) : Host.Outcome State Fault Refusal := run .mfl f (fun s => .ok (s.setX f.d (s.me.getLoop f.a))) s

/-- MTL's effect: an address register takes 0 or an address with a start bit. -/
def mtlBody (f : Fields) (s : State) : Res :=
  let v := s.me.getX f.a
  if f.d.toNat % 3 != 2 && v != 0 && !s.targetOk v then .fault s { code := .branchTarget, offset := v }
  else .ok (s.setMe (s.me.setLoop f.d v))

/-- MTL (R317). -/
def execMtl (f : Fields) (s : State) : Host.Outcome State Fault Refusal := run .mtl f (mtlBody f) s

/-- TRAP (R354). -/
def execTrap (f : Fields) (s : State) : Host.Outcome State Fault Refusal := run .trap f (fun s => .fault s { code := .softwareTrap, eval := (f.a ++ f.b).setWidth 64 }) s


end Sys2Proof.Machine
end

