-- ==== Sys2Proof/Machine/System.lean ====
section
/-!
DEFINITION. System instructions: control registers, the management registers, region tables, the supervisor's reads, saved contexts,
KV handles (R180, R235, R236, R261, R275, R292, R293, R316, R341, R349, R350, R397).
-/

namespace Sys2Proof.Machine

/-! ## Control registers (R75, R316) -/

/-- The register is read-only. -/
def controlReadOnly (n : Nat) : Bool := [1, 2, 3, 4, 5, 0xB, 0xD, 0xE, 0x10, 0x100, 0x101, 0x104].contains n

/-- `c.ext` of a core (R66). -/
def extWord (c : CoreId) : Word64 :=
  BitVec.ofNat 64 (([Ext.base, .vec, .bit, .graph, .mat, .mask, .sbp, .mgmt].zipIdx.filter (fun e => hasExt c e.1)).foldl
    (fun n e => n + 2 ^ e.2) 0)

/-- `c.mgmt`: privileged level, I/O die and M-core number; compute cores read 0. -/
def mgmtWord (s : State) : Word64 :=
  if isM s.myCore then BitVec.ofNat 64 (s.me.priv.toNat * 65536 + (s.myCore - 512)) else 0

/-- The value of a control register of the acting task, and the state after reading it. -/
def readControl (s : State) (n : Nat) : Word64 × State :=
  let t := s.me
  let c := s.core s.myCore
  let m := isM s.myCore
  let p := s.part (s.tablePart t)
  match n with
  | 0x001 => (t.tid.setWidth 64, s)
  | 0x002 => ((s.coreAddr s.myCore).setWidth 64, s)
  | 0x003 => (BitVec.ofNat 64 t.bits, s)
  | 0x004 => (BitVec.ofNat 64 (s.cur % 8), s)
  | 0x005 => (t.tenant.setWidth 64, s)
  | 0x006 => (t.fflags, s)
  | 0x007 => (t.cause, s)
  | 0x008 => (t.epc, s)
  | 0x009 => (t.eval, s)
  | 0x00A => (t.tvec, s)
  | 0x00B => (p.htab, s)
  | 0x00C => (if m then 0 else BitVec.ofNat 64 (c.queue.length * 65536 + c.weight.toNat), s)
  | 0x00D => s.readCycle (dieOf s.myCore)
  | 0x00E => (BitVec.ofNat 64 c.inbox.length, s)
  | 0x00F => (if m then 0 else c.apred, s)
  | 0x010 => (extWord s.myCore, s)
  | 0x011 => (if m then 0 else c.grant, s)
  | 0x100 => (p.part, s)
  | 0x101 => (p.member, s)
  | 0x102 => (p.slical, s)
  | 0x103 => (p.save, s)
  | 0x104 => (mgmtWord s, s)
  | _ => (0, s)

/-- MFC; the number and the privilege have been tested at issue (R59). -/
def mfcBody (f : Fields) (s : State) : Res :=
  let (v, s) := readControl s (controlNumber f)
  .ok (s.setX f.d v)

/-- MFC (R316). -/
def execMfc (f : Fields) (s : State) : Host.Outcome State Fault Refusal := run .mfc f (mfcBody f) s

/-- Write a control register that is not read-only: bits that it defines as zero are stored as zero. -/
def writeControl (s : State) (n : Nat) (v : Word64) : State :=
  let t := s.me
  let c := s.core s.myCore
  let m := isM s.myCore
  match n with
  | 0x006 => s.setMe { t with fflags := v &&& 0x3F#64 }
  | 0x007 => s.setMe { t with cause := v &&& 0x80000000000000FF#64 }
  | 0x008 => s.setMe { t with epc := v &&& 0xFFFFFFFF#64 }
  | 0x009 => s.setMe { t with eval := v }
  | 0x00A => s.setMe { t with tvec := v &&& 0xFFFFFFFF#64 }
  | 0x00C =>
    if m then s else s.setCore s.myCore { c with weight := if v.setWidth 4 = 0 then 1 else v.setWidth 4 }
  | 0x00F => if m then s else s.setCore s.myCore { c with apred := v }
  | 0x011 => if m then s else s.setCore s.myCore { c with grant := v }
  | 0x102 => s.slicalWrite (s.tablePart t) v
  | 0x103 => s.setPart (s.tablePart t) { s.part (s.tablePart t) with save := v }
  | _ => s

/-- MTC. -/
def mtcBody (f : Fields) (s : State) : Res := Act.run do
  let n := controlNumber f
  need (!controlReadOnly n) s { code := .privilege }
  return .ok (writeControl s n (s.me.getX f.d))

/-- MTC (R316). -/
def execMtc (f : Fields) (s : State) : Host.Outcome State Fault Refusal := run .mtc f (mtcBody f) s

/-- ERET (R293). -/
def execEret (f : Fields) (s : State) : Host.Outcome State Fault Refusal := run .eret f (eretBody) s


/-! ## KV handles (R179, R180) -/

/-- An entry of the handle table of the acting task's tenant: its physical address, its first word and its directory. -/
def handleEntry (s : State) (v : Word64) : Act (Nat × Nat × Word64) := do
  let tab := s.htab
  needHandle (tab != 0) s v
  let (a, th) ← header s tab
  needHandle (v.toNat < hLen th / 32 && v.toNat < 65536) s v
  let e ← loadAct s tab (16 + 32 * v.toNat) 16
  let e0 := leNat (e.take 8)
  needHandle (bits e0 32 16 == s.me.tenant.toNat) s v
  needHandle (bits e0 48 16 != 0) s v
  return (a + 16 + 32 * v.toNat, e0, leWord (e.drop 8))

/-- HNEW: the entry takes the token count, and the handle goes to xD. -/
def hnewBody (f : Fields) (s : State) : Res := Act.run do
  let v := s.me.getX f.a
  let n := s.me.getX f.b
  let (a, e0, dir) ← handleEntry s v
  let (_, dh) ← header s dir
  need (n.toNat ≤ 64 * (hLen dh / 8) && n.toNat < 2 ^ 20) s { code := .bounds, eval := n, offset := n, ptr := s.htab }
  let s ← releasedAt 3 (homeOf a) s
  let s := s.pokeWord a (BitVec.ofNat 64 (e0 / 2 ^ 20 * 2 ^ 20 + n.toNat))
  return .ok (s.deferX f.d (BitVec.ofNat 64 (6 * 2 ^ 60 + s.me.tenant.toNat % 256 * 2 ^ 52 + v.toNat * 2 ^ 36 + bits e0 48 16 * 2 ^ 20
    + n.toNat)))

/-- HNEW (R180). -/
def execHnew (f : Fields) (s : State) : Host.Outcome State Fault Refusal := run .hnew f (hnewBody f) s

/-- HREV: the entry's generation advances, 65,535 to 1, and its token count is 0 (R180, R182). -/
def hrevBody (f : Fields) (s : State) : Res := Act.run do
  let v := s.me.getX f.a
  let (a, e0, _) ← handleEntry s v
  let s ← releasedAt 3 (homeOf a) s
  let g := bits e0 48 16
  let g := if g = 65535 then 1 else g + 1
  return .ok (s.pokeWord a (BitVec.ofNat 64 (g * 2 ^ 48 + bits e0 20 28 * 2 ^ 20)))

/-- HREV (R180). -/
def execHrev (f : Fields) (s : State) : Host.Outcome State Fault Refusal := run .hrev f (hrevBody f) s


/-! ## Region tables and tenants (R239, R341, R350) -/

/-- End with `bounds` on the value of a register operand unless the condition holds. -/
def needOperandOk (c : Bool) (s : State) (v : Word64) : Act Unit := need c s { code := .bounds, eval := v, offset := v }

/-- RGSET: the region-table entry is replaced whole; no lookaside of this model holds the old one. -/
def rgsetBody (f : Fields) (s : State) : Res := Act.run do
  let d := s.me.getX f.d
  let a := s.me.getX f.a
  let e := s.me.getX f.b
  let p := d.toNat % 16
  needOperandOk (d.toNat < 16 && (s.part p).configured) s d
  needOperandOk (a.toNat < 2 ^ 20) s a
  needOperandOk (bits e.toNat 54 6 == 0 && bits e.toNat 8 40 == 0) s e
  needOperandOk (!rgValid e || bits e.toNat 0 8 + (bits e.toNat 48 6 + 1) ≤ 256) s e
  return .ok { s with regions := s.regions.set (2 ^ 20 * p + a.toNat) e }

/-- RGSET (R341). -/
def execRgset (f : Fields) (s : State) : Host.Outcome State Fault Refusal := run .rgset f (rgsetBody f) s

/-- TENSET: the partition's group and members are replaced as one pair. The supervisor's group is never a partition's: a TENSET that
names it is ignored as a register write is (R222). -/
def tensetBody (f : Fields) (s : State) : Res := Act.run do
  let a := s.me.getX f.a
  let b := s.me.getX f.b
  let p := a.toNat % 16
  needOperandOk (a.toNat < 16 && (s.part p).configured) s a
  needOperandOk (b.toNat < 1024) s b
  let q := s.part p
  if b = 0x3FF then return .ok s.ignoredWrite
  return .ok (s.setPart p { q with
    part := (q.part &&& ~~~(0x3FF#64 <<< 28)) ||| (b <<< 28), member := s.me.getX f.d })

/-- TENSET (R350). -/
def execTenset (f : Fields) (s : State) : Host.Outcome State Fault Refusal := run .tenset f (tensetBody f) s


/-! ## The supervisor's reads (R235, R275, R349, R397) -/

/-- The checks that STOPRD, WFTRD and ATLOG share: a data object with room for `n` bytes. -/
def needRoomFor (s : State) (r : BitVec 128) (n : Nat) : Act Unit := do
  checkPtr s r
  let (_, h) ← header s (oCanon r)
  needKind (hKind h == 0) s r h
  check s r 0 n 8

/-- STOPRD: a stop record of a halted partition, or of the supervisor's controller (R349). -/
def stoprdBody (f : Fields) (s : State) : Res := Act.run do
  let r := s.me.getO (f.a &&& 31)
  let b := s.me.getX f.b
  let w := b.toNat
  needRoomFor s r 64
  needOperandOk (bits w 16 16 == 0 && w < 2 ^ 37 && (!w.testBit 36 || bits w 32 4 == 0)) s b
  let recs := (s.halt (if w.testBit 36 then 16 else bits w 32 4)).records
  match recs[w % 65536]? with
  | none => .error (.fault s { code := .bounds, eval := b, offset := b })
  | some rec =>
    let s ← writeCanon s r 0 rec.bytes
    return .ok (s.deferX f.d (BitVec.ofNat 64 recs.length))

/-- STOPRD (R349). -/
def execStoprd (f : Fields) (s : State) : Host.Outcome State Fault Refusal := run .stoprd f (stoprdBody f) s

/-- WFTRD: an entry in use of a die's wait-for table (R397). -/
def wftrdBody (f : Fields) (s : State) : Res := Act.run do
  let r := s.me.getO (f.a &&& 31)
  let b := s.me.getX f.b
  needRoomFor s r 32
  needOperandOk (b.toNat < 2 ^ 18) s b
  let tab := s.waitTable (b.toNat / 65536)
  match tab[b.toNat % 65536]? with
  | none => .error (.fault s { code := .bounds, eval := b, offset := b })
  | some e =>
    let s ← writeCanon s r 0 (waitEntry (s.task e.1).tid e.2)
    return .ok (s.deferX f.d (BitVec.ofNat 64 tab.length))

/-- WFTRD (R397). -/
def execWftrd (f : Fields) (s : State) : Host.Outcome State Fault Refusal := run .wftrd f (wftrdBody f) s

/-- The 48 bytes of a log entry (R275). -/
def AtomicLog.bytes (l : AtomicLog) : List Byte :=
  leBytes 8 (l.tid.toNat * 2 ^ 32 + l.op.toNat * 256 + l.lost.toNat) ++ leBytes 8 l.ptr.toNat ++ leBytes 8 l.offset.toNat
    ++ leBytes 8 l.old.toNat ++ leBytes 8 l.oldHigh.toNat ++ leBytes 8 0

/-- ATLOG: a home's log of the atomics of a requester, oldest first (R275). -/
def atlogBody (f : Fields) (s : State) : Res := Act.run do
  let r := s.me.getO (f.a &&& 31)
  let b := s.me.getX f.b
  let w := b.toNat
  needRoomFor s r 768
  needOperandOk (bits w 16 16 == 0 && w < 2 ^ 35 && (!w.testBit 34 || bits w 32 2 < 2)) s b
  let home := if w.testBit 34 then 4 + bits w 32 2 else bits w 32 2
  let logs : List AtomicLog := match s.coreAt (BitVec.ofNat 16 w) with
    | some c => (s.core c).results.filter (fun l => l.home == home)
    | none => []
  let s ← writeCanon s r 0 (logs.flatMap AtomicLog.bytes ++ List.replicate (768 - 48 * logs.length) 0)
  return .ok (s.deferX f.d (BitVec.ofNat 64 logs.length))

/-- ATLOG (R275). -/
def execAtlog (f : Fields) (s : State) : Host.Outcome State Fault Refusal := run .atlog f (atlogBody f) s


/-! ## Saved contexts (R236, R292) -/

/-- Blocks of the image of a context: 32 for each cluster of the partition's rectangle, and 4 (R291). -/
def Partition.blocks (p : Partition) : Nat := 32 * ((bits p.part.toNat 21 3 + 1) * (bits p.part.toNat 18 3 + 1)) + 4

/-- Bytes of an image of a number of blocks: a header of 64, and with each block of 64 KiB its tag of 48 (R236, R291). -/
def imageSize (blocks : Nat) : Nat := 64 + 65584 * blocks

/-- Where the o registers of a context lie among the bytes of its image, in the layout of R21. -/
def Saved.regBytes (c : Saved) : FMap Byte :=
  c.tasks.flatMap (fun e => (List.range 32).flatMap (fun r =>
    (leBytes 16 (e.2.getO (BitVec.ofNat 6 r)).toNat).zipIdx.map (fun b => (64 + Config.imageReg (32 * e.1 + r) + b.2, b.1))))

/-- The 64 bytes of an image's header, in number `n` of the free bytes: partition, context, halt count, block count and tag, whose places
are not stated (R236). -/
def Image.header (n : Nat) (im : Image) : List Byte :=
  (List.range 64).map (Config.headerByte n im.context.part im.context.ctx im.count.toNat im.blocks)

/-- The bytes of block `b` of an image with its tag. -/
def Image.block (n : Nat) (im : Image) (b : Nat) : List Byte :=
  (List.range 65584).map (fun i => im.context.regBytes.find (64 + 65584 * b + i) (Config.imageByte n (64 + 65584 * b + i)))

/-- The bytes of an image: its header, then each block with its tag. -/
def Image.bytes (n : Nat) (im : Image) : List Byte := im.header n ++ (List.range im.blocks).flatMap (im.block n)

/-- The checks of CTXSV and, without the sealed flag, of CTXLD, in order (R291): the partition and context of xB, a context that does not
run, and room for its image. -/
def needImage (f : Fields) (s : State) (writes : Bool) : Act (Nat × Nat) := do
  let r := s.me.getO (f.a &&& 31)
  let b := s.me.getX f.b
  let w := b.toNat
  let p := bits w 32 4
  let ctx := w % 4
  needLevel s r (· == 4)
  let (_, h) ← header s (oCanon r)
  needKind (hKind h == 0) s r h
  need (!writes || !hSealed h) s { code := .sealedStore, eval := oCanon r, ptr := oCanon r }
  needOperandOk (bits w 2 30 == 0 && w < 2 ^ 36 && (s.part p).configured && ctx < (s.part p).contexts) s b
  needKind ((s.part p).ctx != ctx || (s.halt p).halted) s r h
  check s r 0 (imageSize (s.part p).blocks) 64
  return (p, ctx)

/-- A context at rest. -/
def State.contextAt (s : State) (p ctx : Nat) : Saved :=
  if (s.part p).ctx = ctx then s.contextNow p
  else (s.shadow.find? (fun v => v.part == p && v.ctx == ctx)).getD (Saved.fresh p ctx)

/-- CTXSV: the context's image goes to oA; the model keeps what its free bytes stand for. -/
def ctxsvBody (f : Fields) (s : State) : Res := Act.run do
  let (p, ctx) ← needImage f s true
  let (n, s) := s.fresh
  let im : Image := { context := s.contextAt p ctx, count := (s.halt p).count, blocks := (s.part p).blocks }
  let s ← writeCanon s (s.me.getO (f.a &&& 31)) 0 (im.bytes n)
  return .ok { s with images := s.images.set n im }

/-- CTXSV (R292). -/
def execCtxsv (f : Fields) (s : State) : Host.Outcome State Fault Refusal := run .ctxsv f (ctxsvBody f) s

/-- The first block of an image at a physical address that fails, in order: a header that is poisoned, that no CTXSV has made, or that
names another partition, context or number of blocks fails on block 0; a block fails by poison or its tag (R236, R292). -/
def State.checkImage (s : State) (p ctx a : Nat) : Except Nat Saved :=
  let bytes (lo n : Nat) : List Byte := s.loadBytes s.cur (a + lo) n
  match s.images.reverse.find? (fun e => bytes 0 64 == e.2.header e.1) with
  | none => .error 0
  | some (n, im) =>
    if s.poisoned a 64 || im.context.part != p || im.context.ctx != ctx || im.blocks != (s.part p).blocks then .error 0
    else
      match (List.range im.blocks).find? (fun b =>
          s.poisoned (a + 64 + 65584 * b) 65584 || bytes (64 + 65584 * b) 65584 != im.block n b) with
      | some b => .error b
      | none => .ok im.context

/-- A context restored into a halted partition: its tasks are stopped as the halt has stopped them. -/
def Saved.halted (v : Saved) : Saved :=
  { v with tasks := v.tasks.mapVals (fun t =>
      if t.status == .free || t.status == .stopped then t else { t with status := .stopped, stop := some { pos := t.pc, epc := t.pc } }) }

/-- CTXLD: the image is checked and replaces the context, or the restore fails with `save-integrity` in the target partition, and
nothing is replaced. -/
def ctxldBody (f : Fields) (s : State) : Res := Act.run do
  let (p, ctx) ← needImage f s false
  let r := s.me.getO (f.a &&& 31)
  let a ← access s (oCanon r) (16 + oView r) (imageSize (s.part p).blocks)
  match s.checkImage p ctx (a + 16 + oView r) with
  | .error b =>
    return .ok (s.report p
      { agent := .restore p, tid := 0
        info := { code := some .saveIntegrity, ptr := oCanon r, progress := BitVec.ofNat 64 b, atIssue := false } })
  | .ok v =>
    if (s.part p).ctx = ctx then return .ok (s.loadContext p v.halted)
    else return .ok { s with shadow := s.shadow.filter (fun x => !(x.part == p && x.ctx == ctx)) ++ [v] }

/-- CTXLD (R292). -/
def execCtxld (f : Fields) (s : State) : Host.Outcome State Fault Refusal := run .ctxld f (ctxldBody f) s


/-! ## Management registers (R261) -/

/-- A register of a launch queue (R217). -/
def Queue.reg (q : Queue) (off : Nat) : Word32 :=
  match off with
  | 0x00 => q.base.setWidth 32
  | 0x04 => q.base.extractLsb' 32 32
  | 0x08 => q.ctl
  | 0x0C => q.head
  | 0x10 => q.tail
  | _ => 0

/-- A register of a partition's description (R222). -/
def Partition.reg (p : Partition) (off : Nat) : Word32 :=
  match off with
  | 0x00 => p.part.setWidth 32
  | 0x04 => p.part.extractLsb' 32 32
  | 0x08 => p.member.setWidth 32
  | 0x0C => p.member.extractLsb' 32 32
  | 0x10 => p.htab.setWidth 32
  | 0x14 => p.htab.extractLsb' 32 32
  | _ => 0

/-- A register of a halt controller (R231). -/
def HaltCtl.reg (h : HaltCtl) (off : Nat) : Word32 :=
  match off with
  | 0x00 => h.stat
  | 0x04 => h.hprim
  | 0x08 => (h.hres ++ (0 : BitVec 1)).setWidth 32
  | 0x0C => h.wabort
  | 0x10 => h.wsince.setWidth 32
  | 0x14 => h.wsince.extractLsb' 32 32
  | _ => 0

/-- The core and offset of an intercalary register (R110). -/
def icCore (a : Nat) : CoreId × Nat :=
  let r := a - 0x31000000
  (128 * (r / 2 ^ 20) + 8 * (r / 2 ^ 12 % 256) + r / 2 ^ 8 % 16, r % 256)

/-- The halt controller of an address: partitions at 0x100 apart, the supervisor's at 0x1000 (R231, R403). -/
def haltOf (a : Nat) : Option Nat :=
  let r := a - 0x20200000
  if r < 0x1000 then some (r / 0x100) else if r < 0x1100 then some 16 else none

/-- Read a management register at an address: its value, and the state after the read, which clears some. -/
def State.mgRead (s : State) (a : Nat) : Word32 × State :=
  if 0x11000000 ≤ a && a < 0x11200000 then
    let r := a - 0x11000000
    (if r % 2 ^ 20 < 256 then s.plat.routes.find (64 * (r / 2 ^ 20) + r % 2 ^ 20 / 4) 0 else 0, s)
  else if 0x20000000 ≤ a && a < 0x20100000 then
    let r := a - 0x20000000
    (if r % 2 ^ 16 < 4096 then (s.queue (r / 2 ^ 16) (r % 2 ^ 16 / 64)).reg (r % 64) else 0, s)
  else if 0x20100000 ≤ a && a < 0x20100200 then ((s.part ((a - 0x20100000) / 32)).reg (a % 32), s)
  else if 0x20200000 ≤ a && a < 0x20201100 then
    (match haltOf a with
      | some p => (s.halt p).reg (a % 256)
      | none => 0, s)
  else if 0x20300000 ≤ a && a < 0x20400000 then
    let r := a - 0x20300000
    let (w, b) := s.window (r / 2 ^ 16) (r % 2 ^ 16 / 16)
    (match a % 16 with
      | 0 => w.setWidth 32
      | 4 => w.extractLsb' 32 32
      | 8 => b.setWidth 32
      | _ => b.extractLsb' 32 32, s)
  else if 0x20400000 ≤ a && a < 0x20402000 then
    let d := s.dist ((a - 0x20400000) / 4096)
    (if a % 4096 = 0 then d.derr else if a % 4096 = 4 then d.dcount else 0, s)
  else if 0x30000000 ≤ a && a < 0x30400000 then
    let d := (a - 0x30000000) / 2 ^ 20
    let u := a % 2 ^ 20 / 4096
    if 16 < u then (0, s)
    else ((s.gleaner d u).reg (a % 4096), if a % 4096 = 0xC then s.glpauseRead d u else s)
  else if 0x31000000 ≤ a && a < 0x31400000 then
    let (c, off) := icCore a
    if 16 ≤ a % 2 ^ 20 / 2 ^ 12 || 8 ≤ a % 2 ^ 12 / 2 ^ 8 then (0, s)
    else if off < 0x80 then
      let e := (s.core c).forward[off / 8]?.getD (0, 0)
      (if off % 8 = 0 then e.1 else e.2, s)
    else (if off = 0x80 then BitVec.ofNat 32 (s.inflight c) else 0, s)
  else if 0x32000000 ≤ a && a < 0x32400000 then
    let k := 16 * ((a - 0x32000000) / 2 ^ 20) + a % 2 ^ 20 / 256
    if 0x1000 ≤ a % 2 ^ 20 then (0, s)
    else if a % 256 = 0 then ((s.cluster k).stretchedCycles, s.stretchRead k false)
    else if a % 256 = 4 then ((s.cluster k).stretchSteps, s.stretchRead k true)
    else (0, s)
  else if 0x33000000 ≤ a && a < 0x33004000 then
    let d := s.die ((a - 0x33000000) / 4096)
    (if a % 4096 = 0 then d.budget.setWidth 32 else if a % 4096 = 4 then d.pwait else 0, s)
  else if 0x40000000 ≤ a && a < 0x40800000 then
    let ch := a % 2 ^ 20 / 4096
    (if 32 ≤ ch then 0 else (s.channel (32 * ((a - 0x40000000) / 2 ^ 20) + ch)).reg (a % 4096), s)
  else (0, s)

/-- A write to a submission queue's base words at offset r of the queue registers. -/
def State.queueBaseWrite (s : State) (r : Nat) (v : Word32) : State :=
  let p := r / 2 ^ 16
  let q := r % 2 ^ 16 / 64
  let k := s.queue p q
  if 4096 ≤ r % 2 ^ 16 then s
  else match r % 64 with
    | 0x00 => s.setQueue p q { k with base := setHalf k.base false v }
    | 0x04 => s.setQueue p q { k with base := setHalf k.base true v }
    | _ => s

/-- A write to a far window's entry at offset r of the window table (R245). -/
def State.windowWrite (s : State) (r : Nat) (v : Word32) : State :=
  let key := 4096 * (r / 2 ^ 16) + r % 2 ^ 16 / 16
  let (w, b) := s.plat.windows.find key (0, 0)
  let e : Word64 × Word64 := match r % 16 with
    | 0 => (setHalf w false v, b)
    | 4 => (setHalf w true (v &&& 0xFFC0FFFF#32), b)
    | 8 => (w, setHalf b false v)
    | _ => (w, setHalf b true v)
  { s with plat := { s.plat with windows := s.plat.windows.set key e } }

/-- A write to an operand of the wait-abort command at offset r of a partition's halt registers (R231). -/
def State.abortOperandWrite (s : State) (p : Option Nat) (r : Nat) (v : Word32) : State :=
  match p with
  | none => s
  | some p =>
    match r with
    | 0x0C => s.setHalt p { s.halt p with wabort := v }
    | 0x10 => s.setHalt p { s.halt p with wsince := setHalf (s.halt p).wsince false v }
    | _ => s

/-- A write at offset r of the I/O dies' route tables, whose zero fields are stored as zero (R247). -/
def State.routeWrite (s : State) (r : Nat) (v : Word32) : State :=
  if r % 2 ^ 20 < 256 then
    { s with plat := { s.plat with routes := s.plat.routes.set (64 * (r / 2 ^ 20) + r % 2 ^ 20 / 4) (v &&& 0x80009F1F#32) } }
  else s

/-- A write to a die's power budget (R254). -/
def State.budgetWrite (s : State) (d : Nat) (v : Word32) : State := s.setDie d { s.die d with budget := v.setWidth 16 }

/-- A write to a management register without an effect of its own: routes, ring pointers, windows, the abort's operands, power budgets;
zero fields are stored as zero, and an address that names none of these is ignored (R2, R261). -/
def State.plainWrite (s : State) (a : Nat) (v : Word32) : State :=
  if 0x11000000 ≤ a && a < 0x11200000 then
    s.routeWrite (a - 0x11000000) v
  else if 0x20000000 ≤ a && a < 0x20100000 then
    s.queueBaseWrite (a - 0x20000000) v
  else if 0x20200000 ≤ a && a < 0x20201100 then
    s.abortOperandWrite (haltOf a) (a % 256) v
  else if 0x20300000 ≤ a && a < 0x20400000 then
    s.windowWrite (a - 0x20300000) v
  else if 0x33000000 ≤ a && a < 0x33004000 then
    if a % 4096 = 0 then s.budgetWrite ((a - 0x33000000) / 4096) v else s
  else s

/-- A write to the management register at an address by a task (0 for none). -/
def State.mgWrite (s : State) (tid : Word32) (a : Nat) (v : Word32) : State :=
  if 0x20000000 ≤ a && a < 0x20100000 && a % 2 ^ 16 < 4096 && a % 64 = 0x08 then
    s.qctlWrite ((a - 0x20000000) / 2 ^ 16) (a % 2 ^ 16 / 64) v
  else if 0x20000000 ≤ a && a < 0x20100000 && a % 2 ^ 16 < 4096 && a % 64 = 0x10 then
    s.qtailWrite ((a - 0x20000000) / 2 ^ 16) (a % 2 ^ 16 / 64) v
  else if 0x20100000 ≤ a && a < 0x20100200 then s.partitionWrite ((a - 0x20100000) / 32) (a % 32) v
  else if 0x20200000 ≤ a && a < 0x20201100 && (a % 256 = 0x08 || a % 256 = 0x14) then
    match haltOf a with
    | none => s
    | some p =>
      if a % 256 = 0x08 then s.hresWrite p v
      else (s.setHalt p { s.halt p with wsince := setHalf (s.halt p).wsince true v }).waitAborted p
  else if 0x20400000 ≤ a && a < 0x20402000 then
    if a % 4096 = 0 then s.derrWrite ((a - 0x20400000) / 4096) v else s
  else if 0x30000000 ≤ a && a < 0x30400000 then
    if a % 4096 = 0 && a % 2 ^ 20 / 4096 ≤ 16 then s.glcmdWrite ((a - 0x30000000) / 2 ^ 20) (a % 2 ^ 20 / 4096) v else s
  else if 0x31000000 ≤ a && a < 0x31400000 then
    let (c, off) := icCore a
    if 16 ≤ a % 2 ^ 20 / 2 ^ 12 || 8 ≤ a % 2 ^ 12 / 2 ^ 8 || 0x80 ≤ off || off % 8 != 0 || v != 0 then s
    else s.setCore c { s.core c with forward := (s.core c).forward.setIfInBounds (off / 8) (0, 0) }
  else if 0x40000000 ≤ a && a < 0x40800000 then
    let ch := a % 2 ^ 20 / 4096
    if 32 ≤ ch then s else s.channelWrite (32 * ((a - 0x40000000) / 2 ^ 20) + ch) (a % 4096) tid v
  else s.plainWrite a v

/-- A write of the task that waits holds back its accesses to the unit (R261). -/
def State.unitHeld (s : State) (tid : Word32) (a : Nat) : Bool :=
  0x40000000 ≤ a && a < 0x40800000 && a % 2 ^ 20 / 4096 < 32 &&
    (s.channel (32 * ((a - 0x40000000) / 2 ^ 20) + a % 2 ^ 20 / 4096)).waiting.any (fun e => e.1 == tid)

/-- The checks of MGRD and MGWR: the address. -/
def managementAddress (s : State) (f : Fields) : Act Nat := do
  let v := s.me.getX f.a
  need (v.toNat < 2 ^ 32) s { code := .bounds, eval := v, offset := v }
  need (v.toNat % 4 == 0) s { code := .alignment, eval := v, offset := v }
  needOr (!s.unitHeld s.me.tid v.toNat) (.retry s)
  return v.toNat

/-- MGRD. -/
def mgrdBody (f : Fields) (s : State) : Res := Act.run do
  let a ← managementAddress s f
  let r := s.mgRead a
  return .ok (r.2.deferX f.d (r.1.setWidth 64))

/-- MGRD (R261). -/
def execMgrd (f : Fields) (s : State) : Host.Outcome State Fault Refusal := run .mgrd f (mgrdBody f) s

/-- MGWR. -/
def mgwrBody (f : Fields) (s : State) : Res := Act.run do
  let a ← managementAddress s f
  return .ok (s.mgWrite s.me.tid a ((s.me.getX f.d).setWidth 32))

/-- MGWR (R261). -/
def execMgwr (f : Fields) (s : State) : Host.Outcome State Fault Refusal := run .mgwr f (mgwrBody f) s

/-- MGMT_REGISTER_WRITE (R261): a register that has no event of its own. -/
def execMgmtRegisterWrite (addr : Word32) (v : Word32) (s : State) : Host.Outcome State Fault Refusal :=
  happen (fun s => if addr.toNat % 4 = 0 then s.plainWrite addr.toNat v else s) s

end Sys2Proof.Machine
end

