-- ==== Sys2Proof/Machine/Dispatch.lean ====
section
/-!
DEFINITION. The dispatch of an instruction or event to its meaning: one arm for each row of spec/opcode_table.json.
-/

namespace Sys2Proof.Machine

/-- The effect of an instruction of the task that acts, or of an event. -/
def exec (i : Instr) (s : State) : Host.Outcome State Fault Refusal :=
  match i with
  | .nop f => Sys2Proof.Machine.execNop f s
  | .add f => Sys2Proof.Machine.execAdd f s
  | .sub f => Sys2Proof.Machine.execSub f s
  | .mul f => Sys2Proof.Machine.execMul f s
  | .mulh f => Sys2Proof.Machine.execMulh f s
  | .div f => Sys2Proof.Machine.execDiv f s
  | .rem f => Sys2Proof.Machine.execRem f s
  | .and f => Sys2Proof.Machine.execAnd f s
  | .or f => Sys2Proof.Machine.execOr f s
  | .xor f => Sys2Proof.Machine.execXor f s
  | .andn f => Sys2Proof.Machine.execAndn f s
  | .shl f => Sys2Proof.Machine.execShl f s
  | .shr f => Sys2Proof.Machine.execShr f s
  | .sra f => Sys2Proof.Machine.execSra f s
  | .ror f => Sys2Proof.Machine.execRor f s
  | .min f => Sys2Proof.Machine.execMin f s
  | .max f => Sys2Proof.Machine.execMax f s
  | .cmp f => Sys2Proof.Machine.execCmp f s
  | .cmpp f => Sys2Proof.Machine.execCmpp f s
  | .sel f => Sys2Proof.Machine.execSel f s
  | .li f => Sys2Proof.Machine.execLi f s
  | .liH f => Sys2Proof.Machine.execLiH f s
  | .clz f => Sys2Proof.Machine.execClz f s
  | .ctz f => Sys2Proof.Machine.execCtz f s
  | .popc f => Sys2Proof.Machine.execPopc f s
  | .brev f => Sys2Proof.Machine.execBrev f s
  | .ext f => Sys2Proof.Machine.execExt f s
  | .ins f => Sys2Proof.Machine.execIns f s
  | .pdep f => Sys2Proof.Machine.execPdep f s
  | .pext f => Sys2Proof.Machine.execPext f s
  | .gfm f => Sys2Proof.Machine.execGfm f s
  | .bperm f => Sys2Proof.Machine.execBperm f s
  | .br f => Sys2Proof.Machine.execBr f s
  | .bz f => Sys2Proof.Machine.execBz f s
  | .bnz f => Sys2Proof.Machine.execBnz f s
  | .bp f => Sys2Proof.Machine.execBp f s
  | .call f => Sys2Proof.Machine.execCall f s
  | .callr f => Sys2Proof.Machine.execCallr f s
  | .jmp f => Sys2Proof.Machine.execJmp f s
  | .ret f => Sys2Proof.Machine.execRet f s
  | .loop f => Sys2Proof.Machine.execLoop f s
  | .lexit f => Sys2Proof.Machine.execLexit f s
  | .mfl f => Sys2Proof.Machine.execMfl f s
  | .mtl f => Sys2Proof.Machine.execMtl f s
  | .trap f => Sys2Proof.Machine.execTrap f s
  | .ld f => Sys2Proof.Machine.execLd f s
  | .st f => Sys2Proof.Machine.execSt f s
  | .ldo f => Sys2Proof.Machine.execLdo f s
  | .sto f => Sys2Proof.Machine.execSto f s
  | .alloc f => Sys2Proof.Machine.execAlloc f s
  | .olen f => Sys2Proof.Machine.execOlen f s
  | .omov f => Sys2Proof.Machine.execOmov f s
  | .oview f => Sys2Proof.Machine.execOview f s
  | .oeq f => Sys2Proof.Machine.execOeq f s
  | .acq f => Sys2Proof.Machine.execAcq f s
  | .rel f => Sys2Proof.Machine.execRel f s
  | .osync f => Sys2Proof.Machine.execOsync f s
  | .odrop f => Sys2Proof.Machine.execOdrop f s
  | .pin f => Sys2Proof.Machine.execPin f s
  | .unpin f => Sys2Proof.Machine.execUnpin f s
  | .seal f => Sys2Proof.Machine.execSeal f s
  | .okind f => Sys2Proof.Machine.execOkind f s
  | .ldc f => Sys2Proof.Machine.execLdc f s
  | .stc f => Sys2Proof.Machine.execStc f s
  | .hdl f => Sys2Proof.Machine.execHdl f s
  | .pref f => Sys2Proof.Machine.execPref f s
  | .fence f => Sys2Proof.Machine.execFence f s
  | .vadd f => Sys2Proof.Machine.execVadd f s
  | .vsub f => Sys2Proof.Machine.execVsub f s
  | .vmul f => Sys2Proof.Machine.execVmul f s
  | .vmulh f => Sys2Proof.Machine.execVmulh f s
  | .vmad f => Sys2Proof.Machine.execVmad f s
  | .vmin f => Sys2Proof.Machine.execVmin f s
  | .vmax f => Sys2Proof.Machine.execVmax f s
  | .vabs f => Sys2Proof.Machine.execVabs f s
  | .vand f => Sys2Proof.Machine.execVand f s
  | .vor f => Sys2Proof.Machine.execVor f s
  | .vxor f => Sys2Proof.Machine.execVxor f s
  | .vshl f => Sys2Proof.Machine.execVshl f s
  | .vshr f => Sys2Proof.Machine.execVshr f s
  | .vsra f => Sys2Proof.Machine.execVsra f s
  | .vcmp f => Sys2Proof.Machine.execVcmp f s
  | .vsel f => Sys2Proof.Machine.execVsel f s
  | .vgfm f => Sys2Proof.Machine.execVgfm f s
  | .vpdep f => Sys2Proof.Machine.execVpdep f s
  | .vpext f => Sys2Proof.Machine.execVpext f s
  | .vbperm f => Sys2Proof.Machine.execVbperm f s
  | .vdot4 f => Sys2Proof.Machine.execVdot4 f s
  | .vred f => Sys2Proof.Machine.execVred f s
  | .vscan f => Sys2Proof.Machine.execVscan f s
  | .vsplat f => Sys2Proof.Machine.execVsplat f s
  | .viota f => Sys2Proof.Machine.execViota f s
  | .vget f => Sys2Proof.Machine.execVget f s
  | .vput f => Sys2Proof.Machine.execVput f s
  | .vfadd f => Sys2Proof.Machine.execVfadd f s
  | .vfsub f => Sys2Proof.Machine.execVfsub f s
  | .vfmul f => Sys2Proof.Machine.execVfmul f s
  | .vfma f => Sys2Proof.Machine.execVfma f s
  | .vfmin f => Sys2Proof.Machine.execVfmin f s
  | .vfmax f => Sys2Proof.Machine.execVfmax f s
  | .vrcp f => Sys2Proof.Machine.execVrcp f s
  | .vrsq f => Sys2Proof.Machine.execVrsq f s
  | .vexp2 f => Sys2Proof.Machine.execVexp2 f s
  | .vlog2 f => Sys2Proof.Machine.execVlog2 f s
  | .vfcmp f => Sys2Proof.Machine.execVfcmp f s
  | .vfred f => Sys2Proof.Machine.execVfred f s
  | .vfscan f => Sys2Proof.Machine.execVfscan f s
  | .vcvt f => Sys2Proof.Machine.execVcvt f s
  | .vcvti f => Sys2Proof.Machine.execVcvti f s
  | .vscacc f => Sys2Proof.Machine.execVscacc f s
  | .vcbx f => Sys2Proof.Machine.execVcbx f s
  | .vwacc f => Sys2Proof.Machine.execVwacc f s
  | .vwget f => Sys2Proof.Machine.execVwget f s
  | .vld f => Sys2Proof.Machine.execVld f s
  | .vst f => Sys2Proof.Machine.execVst f s
  | .vlds f => Sys2Proof.Machine.execVlds f s
  | .vsts f => Sys2Proof.Machine.execVsts f s
  | .vgath f => Sys2Proof.Machine.execVgath f s
  | .vscat f => Sys2Proof.Machine.execVscat f s
  | .vldpk f => Sys2Proof.Machine.execVldpk f s
  | .vstpk f => Sys2Proof.Machine.execVstpk f s
  | .vperm f => Sys2Proof.Machine.execVperm f s
  | .vcomp f => Sys2Proof.Machine.execVcomp f s
  | .vexpd f => Sys2Proof.Machine.execVexpd f s
  | .vwhile f => Sys2Proof.Machine.execVwhile f s
  | .vlen f => Sys2Proof.Machine.execVlen f s
  | .pand f => Sys2Proof.Machine.execPand f s
  | .por f => Sys2Proof.Machine.execPor f s
  | .pxor f => Sys2Proof.Machine.execPxor f s
  | .pnot f => Sys2Proof.Machine.execPnot f s
  | .pcnt f => Sys2Proof.Machine.execPcnt f s
  | .pset f => Sys2Proof.Machine.execPset f s
  | .gld f => Sys2Proof.Machine.execGld f s
  | .gst f => Sys2Proof.Machine.execGst f s
  | .grank f => Sys2Proof.Machine.execGrank f s
  | .vsbp f => Sys2Proof.Machine.execVsbp f s
  | .mma f => Sys2Proof.Machine.execMma f s
  | .msbp f => Sys2Proof.Machine.execMsbp f s
  | .mzero f => Sys2Proof.Machine.execMzero f s
  | .mdrain f => Sys2Proof.Machine.execMdrain f s
  | .mread f => Sys2Proof.Machine.execMread f s
  | .mloop f => Sys2Proof.Machine.execMloop f s
  | .mscale f => Sys2Proof.Machine.execMscale f s
  | .cbld f => Sys2Proof.Machine.execCbld f s
  | .mtab f => Sys2Proof.Machine.execMtab f s
  | .nbmv f => Sys2Proof.Machine.execNbmv f s
  | .mkld f => Sys2Proof.Machine.execMkld f s
  | .mkcls f => Sys2Proof.Machine.execMkcls f s
  | .mkapp f => Sys2Proof.Machine.execMkapp f s
  | .mkappBias f => Sys2Proof.Machine.execMkappBias f s
  | .mkcnt f => Sys2Proof.Machine.execMkcnt f s
  | .agx f => Sys2Proof.Machine.execAgx f s
  | .fld f => Sys2Proof.Machine.execFld f s
  | .ftake f => Sys2Proof.Machine.execFtake f s
  | .fput f => Sys2Proof.Machine.execFput f s
  | .fset f => Sys2Proof.Machine.execFset f s
  | .fclr f => Sys2Proof.Machine.execFclr f s
  | .amo f => Sys2Proof.Machine.execAmo f s
  | .cas f => Sys2Proof.Machine.execCas f s
  | .cas2 f => Sys2Proof.Machine.execCas2 f s
  | .fork f => Sys2Proof.Machine.execFork f s
  | .join f => Sys2Proof.Machine.execJoin f s
  | .halt f => Sys2Proof.Machine.execHalt f s
  | .haltRetain f => Sys2Proof.Machine.execHaltRetain f s
  | .yield f => Sys2Proof.Machine.execYield f s
  | .send f => Sys2Proof.Machine.execSend f s
  | .sendSpawn f => Sys2Proof.Machine.execSendSpawn f s
  | .recv f => Sys2Proof.Machine.execRecv f s
  | .cpy f => Sys2Proof.Machine.execCpy f s
  | .cpyNode f => Sys2Proof.Machine.execCpyNode f s
  | .sgld f => Sys2Proof.Machine.execSgld f s
  | .jwait f => Sys2Proof.Machine.execJwait f s
  | .jpoll f => Sys2Proof.Machine.execJpoll f s
  | .tgnode f => Sys2Proof.Machine.execTgnode f s
  | .tgedge f => Sys2Proof.Machine.execTgedge f s
  | .tgrun f => Sys2Proof.Machine.execTgrun f s
  | .sigdecl f => Sys2Proof.Machine.execSigdecl f s
  | .coll f => Sys2Proof.Machine.execColl f s
  | .idle f => Sys2Proof.Machine.execIdle f s
  | .mfc f => Sys2Proof.Machine.execMfc f s
  | .mtc f => Sys2Proof.Machine.execMtc f s
  | .eret f => Sys2Proof.Machine.execEret f s
  | .hnew f => Sys2Proof.Machine.execHnew f s
  | .hrev f => Sys2Proof.Machine.execHrev f s
  | .rgset f => Sys2Proof.Machine.execRgset f s
  | .stoprd f => Sys2Proof.Machine.execStoprd f s
  | .ctxsv f => Sys2Proof.Machine.execCtxsv f s
  | .ctxld f => Sys2Proof.Machine.execCtxld f s
  | .wftrd f => Sys2Proof.Machine.execWftrd f s
  | .mgrd f => Sys2Proof.Machine.execMgrd f s
  | .mgwr f => Sys2Proof.Machine.execMgwr f s
  | .tenset f => Sys2Proof.Machine.execTenset f s
  | .atlog f => Sys2Proof.Machine.execAtlog f s
  | .migration t => Sys2Proof.Machine.execMigration t s
  | .deferredResultWrite t n lanes => Sys2Proof.Machine.execDeferredResultWrite t n lanes s
  | .dequePop c => Sys2Proof.Machine.execDequePop c s
  | .steal c => Sys2Proof.Machine.execSteal c s
  | .spillReturn c => Sys2Proof.Machine.execSpillReturn c s
  | .forkPlace t => Sys2Proof.Machine.execForkPlace t s
  | .fullEmptyRetry word => Sys2Proof.Machine.execFullEmptyRetry word s
  | .joinWake t => Sys2Proof.Machine.execJoinWake t s
  | .acqGrant t => Sys2Proof.Machine.execAcqGrant t s
  | .jwaitWake t => Sys2Proof.Machine.execJwaitWake t s
  | .idleWake t => Sys2Proof.Machine.execIdleWake t s
  | .messageArrival n => Sys2Proof.Machine.execMessageArrival n s
  | .spawnPush c => Sys2Proof.Machine.execSpawnPush c s
  | .recvDelivery t => Sys2Proof.Machine.execRecvDelivery t s
  | .sendInboxEntry c => Sys2Proof.Machine.execSendInboxEntry c s
  | .icoldWrite c e v => Sys2Proof.Machine.execIcoldWrite c e v s
  | .tgNodeReady d n => Sys2Proof.Machine.execTgNodeReady d n s
  | .tgNodeFinish d n => Sys2Proof.Machine.execTgNodeFinish d n s
  | .tgHeldPlace d => Sys2Proof.Machine.execTgHeldPlace d s
  | .copyNodeKick d n => Sys2Proof.Machine.execCopyNodeKick d n s
  | .powerLeaveGrant n => Sys2Proof.Machine.execPowerLeaveGrant n s
  | .tilePass k => Sys2Proof.Machine.execTilePass k s
  | .nbmvJobStart stack => Sys2Proof.Machine.execNbmvJobStart stack s
  | .nbmvJobComplete stack => Sys2Proof.Machine.execNbmvJobComplete stack s
  | .fabricJobStart k => Sys2Proof.Machine.execFabricJobStart k s
  | .chunkCommit k => Sys2Proof.Machine.execChunkCommit k s
  | .fabricJobComplete k => Sys2Proof.Machine.execFabricJobComplete k s
  | .collRoundComplete n => Sys2Proof.Machine.execCollRoundComplete n s
  | .prefCopyComplete c ptr => Sys2Proof.Machine.execPrefCopyComplete c ptr s
  | .collection u colour => Sys2Proof.Machine.execCollection u colour s
  | .collectionEnd u colour => Sys2Proof.Machine.execCollectionEnd u colour s
  | .regionEvacuation p d colour => Sys2Proof.Machine.execRegionEvacuation p d colour s
  | .glcmdGo d unit v => Sys2Proof.Machine.execGlcmdGo d unit v s
  | .glpauseRead d unit => Sys2Proof.Machine.execGlpauseRead d unit s
  | .qtailWrite p q v => Sys2Proof.Machine.execQtailWrite p q v s
  | .qctlEnable p q v => Sys2Proof.Machine.execQctlEnable p q v s
  | .launchSelect io => Sys2Proof.Machine.execLaunchSelect io s
  | .launchRootPlace io => Sys2Proof.Machine.execLaunchRootPlace io s
  | .launchComplete l => Sys2Proof.Machine.execLaunchComplete l s
  | .derrWrite io v => Sys2Proof.Machine.execDerrWrite io v s
  | .partitionWrite p off v => Sys2Proof.Machine.execPartitionWrite p off v s
  | .sliceBoundary p time => Sys2Proof.Machine.execSliceBoundary p time s
  | .contextSwap p ctx => Sys2Proof.Machine.execContextSwap p ctx s
  | .haltReport p => Sys2Proof.Machine.execHaltReport p s
  | .agentStop a => Sys2Proof.Machine.execAgentStop a s
  | .hresGo p => Sys2Proof.Machine.execHresGo p s
  | .hresHandler p => Sys2Proof.Machine.execHresHandler p s
  | .hresEnd p => Sys2Proof.Machine.execHresEnd p s
  | .waitAbort p => Sys2Proof.Machine.execWaitAbort p s
  | .mCoreFault t => Sys2Proof.Machine.execMCoreFault t s
  | .vigilScan d => Sys2Proof.Machine.execVigilScan d s
  | .remoteStoreRefused t => Sys2Proof.Machine.execRemoteStoreRefused t s
  | .routerDelivery n => Sys2Proof.Machine.execRouterDelivery n s
  | .atomicResponseError t n => Sys2Proof.Machine.execAtomicResponseError t n s
  | .hostAccess what addr bytes => Sys2Proof.Machine.execHostAccess what addr bytes s
  | .correctedError loc time => Sys2Proof.Machine.execCorrectedError loc time s
  | .uncorrectableError loc => Sys2Proof.Machine.execUncorrectableError loc s
  | .lastingFaultAction loc => Sys2Proof.Machine.execLastingFaultAction loc s
  | .errorWindowLapse loc time => Sys2Proof.Machine.execErrorWindowLapse loc time s
  | .flitReceive port seq ack good nack payload => Sys2Proof.Machine.execFlitReceive port seq ack good nack payload s
  | .flitReplay port seq => Sys2Proof.Machine.execFlitReplay port seq s
  | .linkTraining port range number => Sys2Proof.Machine.execLinkTraining port range number s
  | .portDown port => Sys2Proof.Machine.execPortDown port s
  | .ethernetFrame port sent ptp frame => Sys2Proof.Machine.execEthernetFrame port sent ptp frame s
  | .boot results => Sys2Proof.Machine.execBoot results s
  | .coldStartWarming dies bases => Sys2Proof.Machine.execColdStartWarming dies bases s
  | .warmingTimeout => Sys2Proof.Machine.execWarmingTimeout s
  | .attestationRequest nonce => Sys2Proof.Machine.execAttestationRequest nonce s
  | .clockStretch k steps => Sys2Proof.Machine.execClockStretch k steps s
  | .stretchRelax k => Sys2Proof.Machine.execStretchRelax k s
  | .stretchCountRead k steps => Sys2Proof.Machine.execStretchCountRead k steps s
  | .ctlRun ch v => Sys2Proof.Machine.execCtlRun ch v s
  | .ctlQuiesce ch v => Sys2Proof.Machine.execCtlQuiesce ch v s
  | .ctlTrainMode ch v => Sys2Proof.Machine.execCtlTrainMode ch v s
  | .ctlWriteApply ch => Sys2Proof.Machine.execCtlWriteApply ch s
  | .patternRunDone ch good => Sys2Proof.Machine.execPatternRunDone ch good s
  | .rdlyWrite ch lane v => Sys2Proof.Machine.execRdlyWrite ch lane v s
  | .wdlyWrite ch lane v => Sys2Proof.Machine.execWdlyWrite ch lane v s
  | .repairWrite ch v => Sys2Proof.Machine.execRepairWrite ch v s
  | .autoRetrain ch temp => Sys2Proof.Machine.execAutoRetrain ch temp s
  | .autoRetrainDone ch => Sys2Proof.Machine.execAutoRetrainDone ch s
  | .mgmtRegisterWrite addr v => Sys2Proof.Machine.execMgmtRegisterWrite addr v s
  | .undecodableParcel code => Sys2Proof.Machine.execUndecodableParcel code s
  | .storeBufferDrain t home => Sys2Proof.Machine.execStoreBufferDrain t home s
  | .priResponse n ok => Sys2Proof.Machine.execPriResponse n ok s
  | .firmwareKernelStart c code argument entry => Sys2Proof.Machine.execFirmwareKernelStart c code argument entry s
  | .firmwareMailboxMessage m => Sys2Proof.Machine.execFirmwareMailboxMessage m s
  | .deviceControl2Write fn enable => Sys2Proof.Machine.execDeviceControl2Write fn enable s
  | .referenceClockTick d => Sys2Proof.Machine.execReferenceClockTick d s

end Sys2Proof.Machine
end

