-- ==== Sys2Proof/Machine/Schedule.lean ====
section
/-!
DEFINITION. What may happen next: the events that are due or that the state makes possible, and the issue of each core
(R90, R91; log entry 1). Fetching an instruction's parcels (R59 checks 1 to 5).
-/

namespace Sys2Proof.Machine

/-- Something that may happen next. -/
inductive Choice where
  /-- An event of the opcode table. -/
  | event (i : Instr)
  /-- A core issues an instruction of a ready task. -/
  | issue (c : CoreId)
deriving DecidableEq, Repr

/-- The slots of a core in the order of the rotation (R91). -/
def State.rotation (s : State) (c : CoreId) : List Nat :=
  (List.range 8).map (fun i => ((s.core c).lastSlot + 1 + i) % 8)

/-- A Gleaner holds the task of a slot paused: a collection, or a cascade of one, that has not ended concerns it (R40, R44, R46); or moves
that a fault has left unpatched are its partition's, whose pointers may lead to them (R45, R47). -/
def State.held (s : State) (k : TaskKey) : Bool :=
  s.gleaners.any (fun e => e.2.paused.any (fun q =>
    concerned q.1 q.2.1 q.2.2 k (s.task k) || (!e.2.forward.isEmpty && (s.task k).part == q.2.2)))

/-- The task of a slot may issue. -/
def State.mayIssue (s : State) (k : TaskKey) : Bool := (s.task k).status == .ready && !s.held k

/-- The slot that a core issues from: the first ready one that YIELD has not passed over, else the first ready one. -/
def State.nextSlot (s : State) (c : CoreId) : Option Nat :=
  let ready (n : Nat) : Bool := s.mayIssue (8 * c + n)
  match (s.rotation c).find? (fun n => ready n && !(s.task (8 * c + n)).skip) with
  | some n => some n
  | none => (s.rotation c).find? ready

/-- The cores that have a ready task, each once, in order. -/
def State.readyCores (s : State) : List CoreId :=
  (s.tasks.filterMap (fun e => if s.mayIssue e.1 then some (coreOf e.1) else none)).eraseDups

/-- Some parcel among `n` from an address lies in a block of the store that an uncorrectable error has struck (R240). -/
def badCode (rs : List CodeRange) (a n : Nat) : Bool := rs.any (fun r => r.bad.any (fun b => b < a + n && a < b + 16))

/-- The instruction that a core reads at a parcel address, or the fault of R59 checks 1 to 5, or of a struck block (R240). -/
def fetch (rs : List CodeRange) (pc : Word32) : Except FaultCode Instr :=
  if !startBit rs pc.toNat then .error .branchTarget
  else if badCode rs pc.toNat (((parcelsAt rs pc.toNat).head?.map lenOf).getD 1) then .error .uncorrectable
  else
    match decodeParcels (parcelsAt rs pc.toNat) with
    | .ok (i, _) => .ok i
    | .error e => .error e.code

/-- The slots between the last issue and the one that issues now lose their YIELD mark (R399). -/
def State.passOver (s : State) (c n : Nat) : State :=
  let passed := (s.rotation c).takeWhile (· != n)
  { s with tasks := s.tasks.mapKeyed (fun k t => if coreOf k == c && (k % 8 == n || passed.contains (k % 8)) then { t with skip := false } else t) }

/-- An event has an effect now. -/
def State.does (s : State) (i : Instr) : Bool :=
  match exec i s with
  | .next t => t != s
  | _ => true

/-- The numbers of STORE_BUFFER_DRAIN that name a buffered store: each die to which one goes, and from 4 on the stores to windows and other
packages in turn (R208, R209). -/
def Task.drains (t : Task) : List Nat :=
  ((t.sb.map (·.home)).filter (· < 4)).eraseDups ++ (List.range (t.sb.filter (fun st => st.home == 4)).length).map (4 + ·)

/-- Events of a task slot: what a parked task waits for, and its stores on their way. -/
def State.taskEvents (s : State) (k : TaskKey) (t : Task) : List Instr :=
  (match t.wait with
    | none => []
    | some w =>
      match w.kind with
      | .fullEmpty => [.fullEmptyRetry w.aux]
      | .join => [.joinWake k]
      | .jwait => [.jwaitWake k]
      | .acq => [.acqGrant k]
      | .recv => [.recvDelivery k]
      | .send => ((s.coreAt (w.object.setWidth 16)).map Instr.sendInboxEntry).toList
      | .idle => [.idleWake k]
      | .migration => [.migration k]
      | .room => [.forkPlace k]
      | .queue | .mailbox => [])
  ++ (if t.sb.isEmpty then [] else t.drains.map (.storeBufferDrain k) ++ [.remoteStoreRefused k])

/-- Events of a core: its deque, its spawn messages, its prefetches. -/
def coreEvents (c : CoreId) (k : Core) : List Instr :=
  (if k.deque.isEmpty then [] else [.dequePop c]) ++ (if k.spill.isEmpty then [] else [.spillReturn c])
  ++ (if k.inbox.any (·.spawn) then [.spawnPush c] else [])
  ++ k.copies.filterMap (fun e => if e.pref && !e.complete then some (.prefCopyComplete c e.canon) else none)

/-- Steals: every core that is not fused off may look for a victim while some deque holds a record (R10, R98). -/
def State.stealEvents (s : State) : List Instr :=
  if s.cores.any (fun e => !(e.2.deque ++ e.2.spill).isEmpty) then
    ((List.range 512).filter (fun c => s.available (clusterOf c))).map .steal
  else []

/-- Events of the engines: matrix passes, copy jobs, near-bank jobs, collectives, power leave. -/
def State.engineEvents (s : State) : List Instr :=
  s.clusters.flatMap (fun e =>
    (if e.2.leave then [.tilePass e.1] else [])
    ++ (if e.2.jobs.isEmpty then [] else [.fabricJobStart e.1, .chunkCommit e.1, .fabricJobComplete e.1]))
  ++ s.nbQueues.flatMap (fun e => if e.2.isEmpty then [] else [.nbmvJobStart e.1, .nbmvJobComplete e.1])
  ++ (List.range s.colls.length).map .collRoundComplete ++ (List.range s.leaves.length).map .powerLeaveGrant

/-- Events of a die's task graph unit. -/
def graphEvents (d : Nat) (x : Die) : List Instr :=
  x.nodes.flatMap (fun n => [.tgNodeReady d n.1, .tgNodeFinish d n.1, .copyNodeKick d n.1])
  ++ (if x.held.isEmpty then [] else [.tgHeldPlace d])

/-- Events of a Gleaner that runs a command. -/
def gleanerEvents (k : Nat) (g : Gleaner) : List Instr :=
  if !g.busy then [] else
  match glPad (k / 17) (k % 17) g.cmd.toNat with
  | none => []
  | some u =>
    let colour := bits g.cmd.toNat 6 2
    [if g.traced then .collectionEnd u colour else .collection u colour]

/-- Events of launches and partitions. -/
def State.launchEvents (s : State) : List Instr :=
  (if s.queues.isEmpty then [] else [.launchSelect 0, .launchSelect 1])
  ++ (if s.launches.isEmpty then [] else [.launchRootPlace 0, .launchRootPlace 1]) ++ s.launches.map (fun e => .launchComplete e.1)
  ++ s.parts.filterMap (fun e => e.2.boundary.map (.contextSwap e.1))

/-- Events of a halt controller. -/
def State.haltEvents (s : State) (p : Nat) (h : HaltCtl) : List Instr :=
  (if p < 16 then (if h.reports.isEmpty then [] else [.haltReport p])
    else h.reports.map (fun r => match r.agent with
      | .task k => .mCoreFault k
      | _ => .haltReport p))
  ++ (if h.halted && p < 16 then (s.busyAgents p).map .agentStop else [])

/-- Events of a memory channel; the lanes of a pattern run are free (log entry 32). -/
def State.channelEvents (s : State) (ch : Nat) (c : Channel) : List Instr :=
  (if c.waiting.isEmpty then [] else [.ctlWriteApply ch]) ++ (if c.auto then [.autoRetrainDone ch] else [])
  ++ (if c.run.isSome then [.patternRunDone ch (Config.lanePass s.free)] else [])

/-- Events that the parts of the state name, whether or not they may happen yet. -/
def State.candidates (s : State) : List Instr :=
  s.tasks.flatMap (fun e => if s.held e.1 then [] else s.taskEvents e.1 e.2) ++ s.cores.flatMap (fun e => coreEvents e.1 e.2) ++ s.stealEvents
  ++ s.engineEvents ++ s.dies.flatMap (fun e => graphEvents e.1 e.2)
  ++ (List.range s.mesh.length).flatMap (fun i => [.routerDelivery i, .messageArrival i])
  ++ s.gleaners.flatMap (fun e => gleanerEvents e.1 e.2) ++ s.launchEvents ++ s.halts.flatMap (fun e => s.haltEvents e.1 e.2)
  ++ s.channels.flatMap (fun e => s.channelEvents e.1 e.2)

/-- Deferred results that may arrive; the elements that do are free (log entry 5). -/
def State.landings (s : State) : List Instr :=
  s.tasks.flatMap (fun e => if s.held e.1 then [] else (List.range e.2.pend.length).map (fun i => .deferredResultWrite e.1 i (Config.landLanes s.free)))

/-- The events that the state makes possible. -/
def State.due (s : State) : List Instr := s.landings ++ s.candidates.filter s.does

/-- Everything that may happen next: events on the agenda, events that the state makes possible, issues. -/
def State.choices (s : State) : List Choice := (s.agenda ++ s.due).map .event ++ s.readyCores.map .issue

/-- The state in which a chosen core issues, and the instruction it reads. -/
def State.startIssue (s : State) (c : CoreId) : State × Instr :=
  match s.nextSlot c with
  | none => (s, .referenceClockTick (dieOf c))
  | some n =>
    let s := s.passOver c n
    let s := s.setCore c { s.core c with lastSlot := n }
    let s : State := { s with cur := 8 * c + n }
    match (if s.me.past then .error .branchTarget else fetch (s.codeOf c) s.me.pc) with
    | .ok i => (s, i)
    | .error e => (s, .undecodableParcel e)

/-- The state and the instruction or event that a choice comes to; an event leaves the agenda. -/
def State.start (s : State) : Choice → State × Instr
  | .event i => ({ s with agenda := s.agenda.erase i }, i)
  | .issue c => s.startIssue c

/-- What happens next: the issue of the only core that may, or the one that the free choice takes; time alone when nothing may. -/
def State.pickNext (s : State) : State × Instr :=
  match s.choices with
  | [.issue c] => s.startIssue c
  | [] =>
    let (n, s) := s.fresh
    (s, .referenceClockTick (n % 4))
  | c :: cs =>
    let (n, s) := s.fresh
    s.start ((c :: cs).getD (Config.pick n % (cs.length + 1)) c)

/-- The code store with a range of parcels placed at a parcel address, in place of what was there. -/
def placeParcels (rs : List CodeRange) (a : Nat) (ps : List Word32) : List CodeRange :=
  rs.filter (fun r => r.base + r.parcels.length ≤ a || a + ps.length ≤ r.base) ++ [{ base := a, parcels := ps, ptr := 0 }]

/-- The state in which the task `cur` is ready and fetches the parcels given as its next instruction, with nothing else
due. -/
def State.loadNext (s : State) (ps : List Word32) : State :=
  let t := s.me
  let s : State := (s.setMe { t with status := .ready, wait := none, stop := none, skip := false, past := false })
  let s : State := { s with agenda := [] }
  let c := s.myCore
  if isM c then { s with mcode := s.mcode.set c (placeParcels (s.mcode.find c []) t.pc.toNat ps) }
  else
    let k := clusterOf c
    s.setCluster k { s.cluster k with code := placeParcels (s.cluster k).code t.pc.toNat ps }

end Sys2Proof.Machine
end

