-- ==== Sys2Proof/Machine/Step.lean ====
section
/-!
DEFINITION. One step of the package, and the state that fetches a given instruction next.
-/

namespace Sys2Proof.Machine

/-- One step: what happens next, and its effect. -/
def step (s : State) : Host.Outcome State Fault Refusal := exec s.pickNext.2 s.pickNext.1

/-- The state with the instruction whose bits are `w`, numbered as spec/opcode_table.json numbers them, placed where the
task `cur` fetches its next instruction; it stands for the load of a program (log entry 2). -/
def State.withFetchWord (s : State) (nbits w : Nat) : State := s.loadNext (tableParcels (w % 2 ^ nbits))

end Sys2Proof.Machine
end

