-- ==== Sys2Proof/WellFormed.lean ====
section
/-!
DEFINITION. Well-formed instructions: an instruction that an encoding can hold and that passes checks 2 to 5 of R59,
and an event whose operands name things that the package has.
-/

namespace Sys2Proof

/-- A compute core or an M-core exists (R8, R9). -/
def coreOk (c : CoreId) : Bool := c < 516

/-- A task slot exists (R90). -/
def taskOk (t : TaskKey) : Bool := t < 4128

/-- A cluster exists (R6). -/
def clusterOk (k : ClusterId) : Bool := k < 64

/-- A pad exists (R50). -/
def PadUnit.ok : PadUnit → Bool
  | .core c => c < 512
  | .cluster k => k < 64
  | .die d => d < 4

/-- A partition, or the supervisor's controller as number 16 (R231, R403). -/
def haltOk (p : Nat) : Bool := p ≤ 16

/-- The results of a boot are of steps 1 to 9, in order, on units that the package has (R249). Step 3 has events of its own (R252). -/
def bootOk (rs : List BootResult) : Bool :=
  rs.all (fun r => [1, 2, 4, 5, 6, 7, 8, 9].contains r.step && r.unit < (match r.step with
    | 4 => 8
    | 5 => 64
    | 6 => 2
    | 7 => 18
    | 8 => 4
    | _ => 1))
  && ((rs.map (·.step)).zip ((rs.map (·.step)).drop 1)).all (fun e => e.1 ≤ e.2)

/-- The operands of an event name things that the package has. -/
def Instr.eventOk : Instr → Bool
  | .migration t => taskOk t
  | .deferredResultWrite t _ _ => taskOk t
  | .dequePop c => c < 512
  | .steal c => c < 512
  | .spillReturn c => c < 512
  | .forkPlace t => taskOk t
  | .joinWake t => taskOk t
  | .acqGrant t => taskOk t
  | .jwaitWake t => taskOk t
  | .idleWake t => taskOk t
  | .spawnPush c => c < 512
  | .recvDelivery t => taskOk t
  | .sendInboxEntry c => coreOk c
  | .icoldWrite c e _ => c < 512 && e < 16
  | .tgNodeReady d n => d < 4 && n < 65536
  | .tgNodeFinish d n => d < 4 && n < 65536
  | .tgHeldPlace d => d < 4
  | .copyNodeKick d n => d < 4 && n < 65536
  | .tilePass k => clusterOk k
  | .nbmvJobStart k => k < 8
  | .nbmvJobComplete k => k < 8
  | .fabricJobStart k => k < 66
  | .chunkCommit k => k < 66
  | .fabricJobComplete k => k < 66
  | .prefCopyComplete c _ => c < 512
  | .collection u colour => u.ok && colour < 4
  | .collectionEnd u colour => u.ok && colour < 4
  | .regionEvacuation p d colour => p < 16 && d < 4 && colour < 4
  | .glcmdGo d u _ => d < 4 && u ≤ 16
  | .glpauseRead d u => d < 4 && u ≤ 16
  | .qtailWrite p q _ => p < 16 && q < 64
  | .qctlEnable p q _ => p < 16 && q < 64
  | .launchSelect io => io < 2
  | .launchRootPlace io => io < 2
  | .derrWrite io _ => io < 2
  | .partitionWrite p off _ => p < 16 && off < 0x20 && off % 4 == 0
  | .sliceBoundary p _ => p < 16
  | .contextSwap p c => p < 16 && c < 4
  | .haltReport p => haltOk p
  | .hresGo p => haltOk p
  | .hresHandler p => haltOk p
  | .hresEnd p => haltOk p
  | .waitAbort p => haltOk p
  | .mCoreFault t => taskOk t
  | .vigilScan d => d < 4
  | .remoteStoreRefused t => taskOk t
  | .atomicResponseError t _ => taskOk t
  | .flitReceive port q a _ _ _ => port < 18 && q < 4096 && a < 4096
  | .flitReplay port q => port < 18 && q < 4096
  | .linkTraining port range _ => port < 18 && range.1 ≤ range.2
  | .portDown port => port < 18
  | .ethernetFrame port _ _ _ => port < 4
  | .clockStretch k _ => clusterOk k
  | .stretchRelax k => clusterOk k
  | .stretchCountRead k _ => clusterOk k
  | .ctlRun ch _ => ch < 256
  | .ctlQuiesce ch _ => ch < 256
  | .ctlTrainMode ch _ => ch < 256
  | .ctlWriteApply ch => ch < 256
  | .patternRunDone ch _ => ch < 256
  | .rdlyWrite ch lane _ => ch < 256 && lane < 37
  | .wdlyWrite ch lane _ => ch < 256 && lane < 37
  | .repairWrite ch _ => ch < 256
  | .autoRetrain ch _ => ch < 256
  | .autoRetrainDone ch => ch < 256
  | .storeBufferDrain t _ => taskOk t
  | .firmwareKernelStart c _ _ _ => 512 ≤ c && c < 516
  | .deviceControl2Write fn _ => fn ≤ 17
  | .boot rs => bootOk rs
  | .hostAccess (.map p r i) a _ => p < 16 && r < 2 ^ 20 && i < 64 && a % 2 ^ 28 == 0
  | .uncorrectableError (.accumulator c n) => c < 512 && n < 8
  | .uncorrectableError (.queueEntry c n) => c < 512 && n < 16
  | .referenceClockTick d => d < 4
  | _ => true

/-- An instruction is well formed when its fields are legal, an event when its operands name things that exist. -/
def Instr.wellFormed (i : Instr) : Bool :=
  match i.parts with
  | some (o, f) => o.legal f
  | none => i.eventOk

end Sys2Proof
end

