-- ==== Sys2Proof/Certificates/Slice0/Obligations.lean ====
section
/-!
DEFINITION. The statements for the provers. Each says what the spec's rules say an instruction or the machine does; its docstring
names the rules. `completes`, `transfers` and the other words of this file are shared by them.
-/

open Sys2Proof Sys2Proof.Machine

namespace Sys2Proof.Claims

/-- What an instruction leads to. -/
abbrev Result := Host.Outcome State Fault Refusal

/-- The instruction has changed the state to `t` and completes: its task falls through (R312). -/
def completes (s t : State) (f : Fields) : Result := .next (t.complete s.cur f)

/-- The instruction has changed the state to `t` and transfers control to parcel address `a`, which is a switch point: the task issues
nothing there before its outstanding results are written (R61). -/
def transfers (s t : State) (a : Word32) : Result :=
  .next ((t.switchAt s.cur).setTask s.cur { (t.switchAt s.cur).task s.cur with pc := a, past := false, refused := none })

/-- The instruction raises a fault against itself: its task stops there (R228). -/
def faults (s t : State) (x : Flt) : Result := .next (t.raise s.cur x)

/-- The instruction parks its task, in the state `t`. -/
def parks (s t : State) (w : Wait) : Result := .next (t.parkTask s.cur w)

/-- An exact integer at width `w`: wrapped, or with `.s` clamped to the signed range (R139). -/
def cut (sat : Bool) (w : Nat) (v : Int) : Nat :=
  wrap w (if sat then max (-(2 : Int) ^ (w - 1)) (min v (2 ^ (w - 1) - 1)) else v)

/-- No collection is half moved, and no task waits for a mailbox, a queue entry or room: resuming has only the stopped agents to treat. -/
def settled (s : State) : Bool :=
  s.gleaners.all (fun e => e.2.forward.isEmpty)
    && s.tasks.all (fun e => e.2.wait.all (fun w => w.kind != .mailbox && w.kind != .queue && w.kind != .room))

end Sys2Proof.Claims

open Sys2Proof.Claims

/-! ## Scalar instructions -/

/-- The integer ALU instructions complete and write the result that R267 and their entries give: at the width Z names, sign-extended,
or zero-extended with X bit 8 (R139, R140, R268, R314, R325, R332, R398). -/
def Obligations.IntegerAluWritesItsResult : Prop := ∀ (f : Fields) (s : State),
  let w := widthZ f.z
  let a := operandA s.me f w
  let b := operandB s.me f w
  let sa := toSigned w a
  let sb := toSigned w b
  let n := f.x.getLsbD 8
  let sat := f.x.getLsbD 7
  let out (v : Nat) : Result := completes s (s.setX f.d (if n then BitVec.ofNat 64 v else signW w v)) f
  (s.issues .nop f → exec (.nop f) s = completes s s f)
  ∧ (s.issues .add f → exec (.add f) s = out (cut sat w (sa + sb)))
  ∧ (s.issues .sub f → exec (.sub f) s = out (cut sat w (sa - sb)))
  ∧ (s.issues .mul f → exec (.mul f) s = out (cut sat w (sa * sb)))
  ∧ (s.issues .mulh f → exec (.mulh f) s = out (if n then a * b / 2 ^ w else wrap w (sa * sb / (2 ^ w : Nat))))
  ∧ (s.issues .div f → exec (.div f) s = out (if b = 0 then 2 ^ w - 1 else if n then a / b else wrap w (sa.tdiv sb)))
  ∧ (s.issues .rem f → exec (.rem f) s = out (if b = 0 then a else if n then a % b else wrap w (sa.tmod sb)))
  ∧ (s.issues .and f → exec (.and f) s = out (a &&& b))
  ∧ (s.issues .or f → exec (.or f) s = out (a ||| b))
  ∧ (s.issues .xor f → exec (.xor f) s = out (a ^^^ b))
  ∧ (s.issues .andn f → exec (.andn f) s = out (a &&& (2 ^ w - 1 - b)))
  ∧ (s.issues .shl f → exec (.shl f) s = out (cut sat w (sa * 2 ^ (b % w))))
  ∧ (s.issues .shr f → exec (.shr f) s = out (a / 2 ^ (b % w)))
  ∧ (s.issues .sra f → exec (.sra f) s = out (wrap w (sa / 2 ^ (b % w))))
  ∧ (s.issues .ror f → exec (.ror f) s = out ((a / 2 ^ (b % w) + a * 2 ^ (w - b % w)) % 2 ^ w))
  ∧ (s.issues .min f → exec (.min f) s = out (if n then min a b else if sb < sa then b else a))
  ∧ (s.issues .max f → exec (.max f) s = out (if n then max a b else if sa < sb then b else a))

/-- Compare, select, immediate and bit instructions write their result; each bit function places each bit. Compare, select, load-immediate and the bit instructions complete and write the result their entries give (R132 to R134, R279,
R280, R284, R294, R299, R305, R313, R334, R336, R343). The bit functions place each bit where their rules say, counted from bit 0 at width `w`: BREV reverses, CTZ finds the lowest set bit,
BPERM takes the bit that each entry names; PEXT gathers the bits at the set bits of the mask, in ascending position, and PDEP places them
there, every other bit clear; bit `j` of GFM's byte `i` is the parity of byte `j` of the first operand and byte `i` of the second
(R132, R133, R134, R280). -/
def Obligations.CompareSelectAndBitInstructions : Prop :=
  (∀ (f : Fields) (s : State),
    let w := widthZ f.z
    let a := operandA s.me f w
    let b := operandB s.me f w
    let xa := s.me.getX f.a
    let xb := s.me.getX f.b
    let n := f.x.getLsbD 8
    let pos := f.x.toNat % 64
    let len := if f.c = 0 then 64 else f.c.toNat
    let holds := condW n w (f.x.toNat % 8) a b
    let out (v : Word64) : Result := completes s (s.setX f.d v) f
    (s.issues .cmp f → exec (.cmp f) s = out (if holds then 1 else 0))
    ∧ (s.issues .cmpp f → exec (.cmpp f) s = completes s (s.setP f.d (if holds then s.me.pMask else 0)) f)
    ∧ (s.issues .sel f → exec (.sel f) s = out (if s.me.getX f.c = 0 then xb else xa))
    ∧ (s.issues .li f → f.form = .f1 → exec (.li f) s = out ((f.a ++ f.b).signExtend 64))
    ∧ (s.issues .li f → f.form = .f2 → exec (.li f) s = out ((f.a ++ f.b ++ f.c).signExtend 64))
    ∧ (s.issues .li f → f.form = .f3 → exec (.li f) s = out (f.lit.signExtend 64))
    ∧ (s.issues .liH f → exec (.liH f) s = out (f.lit ++ (s.me.getX f.d).setWidth 32))
    ∧ (s.issues .clz f → exec (.clz f) s = out (signW w (if a = 0 then w else w - 1 - a.log2)))
    ∧ (s.issues .ctz f → exec (.ctz f) s = out (signW w (ctzW w a)))
    ∧ (s.issues .popc f → exec (.popc f) s = out (BitVec.ofNat 64 ((List.range w).countP (fun i => a.testBit i))))
    ∧ (s.issues .brev f → exec (.brev f) s = out (signW w (brevW w a)))
    ∧ (s.issues .ext f → exec (.ext f) s =
        out (if n then BitVec.ofNat 64 (xa.toNat / 2 ^ pos % 2 ^ len) else signW len (xa.toNat / 2 ^ pos % 2 ^ len)))
    ∧ (s.issues .ins f → exec (.ins f) s =
        let m := BitVec.ofNat 64 ((2 ^ len - 1) * 2 ^ pos)
        out ((s.me.getX f.d &&& ~~~m) ||| ((xa <<< pos) &&& m)))
    ∧ (s.issues .pdep f → exec (.pdep f) s = out (BitVec.ofNat 64 (pdepW 64 xa.toNat xb.toNat)))
    ∧ (s.issues .pext f → exec (.pext f) s = out (BitVec.ofNat 64 (pextW 64 xa.toNat xb.toNat)))
    ∧ (s.issues .gfm f → exec (.gfm f) s = out (BitVec.ofNat 64 (gfm64 xa.toNat xb.toNat)))
    ∧ (s.issues .bperm f → exec (.bperm f) s = out (BitVec.ofNat 64 (bperm64 xa.toNat (s.me.getG f.b)))))
  ∧ (∀ (w a m : Nat), a < 2 ^ w →
    let below (i : Nat) : Nat := (List.range i).countP (fun k => m.testBit k)
    (∀ i, i < w → (brevW w a).testBit i = a.testBit (w - 1 - i))
    ∧ (a ≠ 0 → a.testBit (ctzW w a) = true ∧ ∀ i, i < ctzW w a → a.testBit i = false)
    ∧ ctzW w 0 = w
    ∧ (∀ g : BitVec 384, ∀ i, i < 64 → (bperm64 a g).testBit i = a.testBit (bits g.toNat (6 * i) 6))
    ∧ (∀ i, (pdepW w a m).testBit i = (decide (i < w) && m.testBit i && a.testBit (below i)))
    ∧ (∀ i, i < w → m.testBit i → (pextW w a m).testBit (below i) = a.testBit i)
    ∧ (∀ i, below w ≤ i → (pextW w a m).testBit i = false)
    ∧ (∀ i j, i < 8 → j < 8 → (gfm64 a m).testBit (8 * i + j) =
        decide ((List.range 8).countP (fun k => a.testBit (8 * j + k) && m.testBit (8 * i + k)) % 2 = 1))
    ∧ (∀ i, 64 ≤ i → (gfm64 a m).testBit i = false))

/-- Branches, calls and returns transfer control or fall through; an illegal target raises branch-target. BR, BZ, BNZ, BP, CALL, CALLR, JMP and RET transfer control to a legal target, CALL and CALLR with the return address in the link
register; a conditional branch whose condition fails falls through (R277, R306, R340). A taken transfer to a target without a start bit, or past the 65,536 parcels of a store, raises `branch-target` against the
transfer, and nothing is written (R65, R277). That its record gives the target as offset and 0 as pointer is the model's reading (log
entry 39). -/
def Obligations.BranchesAndTheirTargets : Prop :=
  (∀ (f : Fields) (s : State),
    let xa := s.me.getX f.a
    let near := relTarget s.me (offDB f)
    let far := relTarget s.me (offDAB f)
    let pa := s.me.getP f.a &&& s.me.pMask
    let takes := if f.z = 0 then pa ≠ 0 else if f.z = 1 then pa = s.me.pMask else pa = 0
    let link := s.setMe (s.me.setX 62 ((nextPc s.me f).setWidth 64))
    let go (t : Word64) : Result := transfers s s (t.setWidth 32)
    let call (t : Word64) : Result := transfers s link (t.setWidth 32)
    let on : Result := completes s s f
    (s.issues .br f → s.targetOk far → exec (.br f) s = go far)
    ∧ (s.issues .bz f → xa = 0 → s.targetOk near → exec (.bz f) s = go near)
    ∧ (s.issues .bz f → xa ≠ 0 → exec (.bz f) s = on)
    ∧ (s.issues .bnz f → xa ≠ 0 → s.targetOk near → exec (.bnz f) s = go near)
    ∧ (s.issues .bnz f → xa = 0 → exec (.bnz f) s = on)
    ∧ (s.issues .bp f → takes → s.targetOk near → exec (.bp f) s = go near)
    ∧ (s.issues .bp f → ¬ takes → exec (.bp f) s = on)
    ∧ (s.issues .call f → s.targetOk far → exec (.call f) s = call far)
    ∧ (s.issues .callr f → s.targetOk xa → exec (.callr f) s = call xa)
    ∧ (s.issues .jmp f → s.targetOk xa → exec (.jmp f) s = go xa)
    ∧ (s.issues .ret f → s.targetOk (s.me.getX 62) → exec (.ret f) s = go (s.me.getX 62)))
  ∧ (∀ (f : Fields) (s : State),
    let xa := s.me.getX f.a
    let near := relTarget s.me (offDB f)
    let far := relTarget s.me (offDAB f)
    let pa := s.me.getP f.a &&& s.me.pMask
    let takes := if f.z = 0 then pa ≠ 0 else if f.z = 1 then pa = s.me.pMask else pa = 0
    let bad (t : Word64) : Result := faults s s { code := .branchTarget, offset := t }
    (s.issues .br f → s.targetOk far = false → exec (.br f) s = bad far)
    ∧ (s.issues .bz f → xa = 0 → s.targetOk near = false → exec (.bz f) s = bad near)
    ∧ (s.issues .bnz f → xa ≠ 0 → s.targetOk near = false → exec (.bnz f) s = bad near)
    ∧ (s.issues .bp f → takes → s.targetOk near = false → exec (.bp f) s = bad near)
    ∧ (s.issues .lexit f → s.targetOk far = false → exec (.lexit f) s = bad far)
    ∧ (s.issues .call f → s.targetOk far = false → exec (.call f) s = bad far)
    ∧ (s.issues .callr f → s.targetOk xa = false → exec (.callr f) s = bad xa)
    ∧ (s.issues .jmp f → s.targetOk xa = false → exec (.jmp f) s = bad xa)
    ∧ (s.issues .ret f → s.targetOk (s.me.getX 62) = false → exec (.ret f) s = bad (s.me.getX 62)))

/-- Loop instructions arm, disarm, read and write the levels; a loop end wraps or falls through. LOOP arms a level with the address after it, its end and its count, and with a count of 0 goes past the end at once; LEXIT disarms
a level and branches; MFL and MTL read and write a loop register (R311, R317). Falling through: the next parcel address, or, at an armed loop end with a count above 1, the loop's start and a count one lower;
level 1 is checked before level 0, and a level that falls through is disarmed (R312). -/
def Obligations.LoopsArmAndWrap : Prop :=
  (∀ (f : Fields) (s : State),
    let n := s.me.getX f.a
    let e := relTarget s.me (offDB f)
    let next := nextPc s.me f
    let far := relTarget s.me (offDAB f)
    let armed : Task :=
      if f.z = 1 then { s.me with ls1 := next.setWidth 64, le1 := e, lc1 := n }
      else { s.me with ls0 := next.setWidth 64, le0 := e, lc0 := n }
    let past := e + (match parcelsAt (s.codeOf s.myCore) e.toNat with
      | p :: _ => BitVec.ofNat 64 (lenOf p)
      | [] => 1)
    (s.issues .loop f → next.toNat ≤ e.toNat → s.targetOk e → n ≠ 0 → exec (.loop f) s = completes s (s.setMe armed) f)
    ∧ (s.issues .loop f → next.toNat ≤ e.toNat → s.targetOk e → n = 0 → s.targetOk past →
        exec (.loop f) s = transfers s (s.setMe armed) (past.setWidth 32))
    ∧ (s.issues .lexit f → s.targetOk far → exec (.lexit f) s =
        transfers s (s.setMe (if f.z = 1 then { s.me with lc1 := 0 } else { s.me with lc0 := 0 })) (far.setWidth 32))
    ∧ (s.issues .mfl f → exec (.mfl f) s = completes s (s.setX f.d (s.me.getLoop f.a)) f)
    ∧ (s.issues .mtl f → f.d.toNat % 3 = 2 ∨ n = 0 ∨ s.targetOk n →
        exec (.mtl f) s = completes s (s.setMe (s.me.setLoop f.d n)) f))
  ∧ (∀ (t : Task) (len : Nat),
    let at1 := t.le1 = t.pc.setWidth 64 ∧ t.lc1 ≠ 0
    let at0 := t.le0 = t.pc.setWidth 64 ∧ t.lc0 ≠ 0
    let next := t.pc + BitVec.ofNat 32 len
    (at1 → 1 < t.lc1.toNat → t.fallThrough len = ({ t with lc1 := t.lc1 - 1, pc := t.ls1.setWidth 32 }, true))
    ∧ (at1 → t.lc1 = 1 → at0 → 1 < t.lc0.toNat →
        t.fallThrough len = ({ t with lc1 := 0, lc0 := t.lc0 - 1, pc := t.ls0.setWidth 32 }, true))
    ∧ (at1 → t.lc1 = 1 → at0 → t.lc0 = 1 → t.fallThrough len = ({ t with lc1 := 0, lc0 := 0, pc := next }, false))
    ∧ (at1 → t.lc1 = 1 → ¬ at0 → t.fallThrough len = ({ t with lc1 := 0, pc := next }, false))
    ∧ (¬ at1 → at0 → 1 < t.lc0.toNat → t.fallThrough len = ({ t with lc0 := t.lc0 - 1, pc := t.ls0.setWidth 32 }, true))
    ∧ (¬ at1 → at0 → t.lc0 = 1 → t.fallThrough len = ({ t with lc0 := 0, pc := next }, false))
    ∧ (¬ at1 → ¬ at0 → t.fallThrough len = ({ t with pc := next }, false)))

/-! ## Objects and scalar memory -/

/-- LD, LDC, LDO and OKIND defer what they read; a canonical load reads the bytes there. LD, LDC, LDO, OKIND complete when their checks pass: the destination takes, as a deferred result, the bytes at the offset, sign-extended
or with X bit 8 zero-extended; for LDO the pointer with its canonical object's length; for OKIND header word 0 (R309, R310, R328). The
elements that a load may still read again until its result arrives are the model's choice (log entry 6). A load's result is outstanding behind the task's others, which are unchanged, with its value and the load's place in program order;
memory is unchanged (R60, R205). Each element that the load reads at an address may be performed again until it arrives (log entry 6). A canonical load of an object whose place is known, on memory that neither stalls nor is poisoned, with no store to that home in the
buffer that a full fence stands after, reads the bytes there, the acting task's own buffered stores first (R205, R208, R212, R240). -/
def Obligations.LoadsReadTheirBytes : Prop :=
  (∀ (f : Fields) (s : State),
    let n := 8 / 2 ^ f.z.toNat
    let r := s.me.getO f.a
    let off := memOffset s.me f n
    let value (bs : List Byte) : Word64 := if f.x.getLsbD 8 then BitVec.ofNat 64 (leNat bs) else BitVec.ofInt 64 (toSigned (8 * n) (leNat bs))
    let result (bs : List Byte) : Pend := { dest := .x f.d, val := (value bs).setWidth 4096, how := .word (f.x.getLsbD 8) }
    (∀ ob s' bs, s.issues .ld f → check s r off n n = .ok () → objOf s r = .ok ob → loadable s.me.priv ob.hdr →
        touch s f.a ob.hdr = .ok s' → readThrough s' (s'.me.getO f.a) off.toNat n = .ok bs →
        exec (.ld f) s = completes s (s'.deferLoad (s'.me.getO f.a) n [(0, off.toNat)] (result bs)) f)
    ∧ (∀ ob bs, s.issues .ldc f → check s r off n n = .ok () → canonOf s r = .ok ob → loadable s.me.priv ob.hdr →
        readCanon s r off.toNat n = .ok bs →
        exec (.ldc f) s = completes s (s.deferLoad (oSetTouched r false) n [(0, off.toNat)] (result bs)) f)
    ∧ (∀ ob s' bs hd, s.issues .ldo f → check s r (memOffset s.me f 8) 8 8 = .ok () → objOf s r = .ok ob →
        hKind ob.hdr = 1 ∨ hKind ob.hdr = 2 ∧ memOffset s.me f 8 % 16 = 0 → hStaged ob.hdr = false →
        touch s f.a ob.hdr = .ok s' → readThrough s' (s'.me.getO f.a) (memOffset s.me f 8).toNat 8 = .ok bs →
        pointerHead s' (leWord bs) = .ok hd →
        exec (.ldo f) s = completes s (s'.deferElems (oCanon (s'.me.getO f.a))
          (s'.elems (s'.me.getO f.a) 8 [(0, (memOffset s.me f 8).toNat)] ++ headElem hd)
          { dest := .o f.d, val := (oMake false false 0 (headLen hd) (leWord bs)).setWidth 4096, how := .pointer }) f)
    ∧ (∀ a h, s.issues .okind f → checkPtr s r = .ok () → header s (oCanon r) = .ok (a, h) →
        exec (.okind f) s = completes s (((s.fixAt a 8).requestTo (s.tablePart s.me) (oCanon r) a).defer
          { dest := .x f.d, val := h.setWidth 4096, peer := s.via (s.tablePart s.me) (oCanon r) a }) f))
  ∧ (∀ (s : State) (ptr : Word64) (es : List Elem) (p : Pend),
    let t := s.deferElems ptr es p
    t.mem = s.mem ∧ t.me.seq = s.me.seq + 1
    ∧ ∃ q, t.me.pend = s.me.pend ++ [q] ∧ q.dest = p.dest ∧ q.val = p.val ∧ q.mask = p.mask ∧ q.unit = p.unit ∧ q.how = p.how
      ∧ q.fault = p.fault ∧ q.src = es ∧ q.seq = s.me.seq + 1 ∧ q.pc = s.me.pc)
  ∧ (∀ (s : State) (r : BitVec 128) (off n a : Nat),
    s.admits s.cur (oCanon r) → s.reach (s.tablePart s.me) (oCanon r) (16 + oView r + off) n = .ok a →
    s.fencedTo a = false → s.poisoned (a + (16 + oView r + off)) n = false →
    readCanon s r off n = .ok (s.loadBytes s.cur (a + (16 + oView r + off)) n)
    ∧ (s.me.sb = [] → readCanon s r off n = .ok (s.mem.readN (a + (16 + oView r + off)) n)))

/-- Stores write their bytes, become visible at their home in order, or are refused and logged. ST, STC and STO complete when their checks pass: the low bytes of the source are written at the offset, through the copy or past it;
STO writes the stored register's canonical pointer, as it stands then, once the escape rule lets it stand there (R347, R348, R36). A store through a complete copy writes the copy's bytes and marks its blocks dirty, after the task's earlier loads there; a canonical
store goes into the task's store buffer, where it waits for an earlier one of another instruction to its die, of its bytes, or before a
release fence; one that waits for none becomes visible at its home by STORE_BUFFER_DRAIN and changes no other byte (R34, R205, R208, R209,
R212, R392). A posted store that its destination's router does not admit changes no memory; the refusal is logged at the home's die and its task
stops with `remote-permission`, at the store while the core's log still has it (R233). -/
def Obligations.StoresWriteAndReachTheirHomes : Prop :=
  (∀ (f : Fields) (s : State),
    let n := 8 / 2 ^ f.z.toNat
    let r := s.me.getO f.a
    let off := memOffset s.me f n
    let off8 := memOffset s.me f 8
    let bytes := leBytes n (s.me.getX f.d).toNat
    (∀ ob s' t, s.issues .st f → check s r off n n = .ok () → storeObj s r false = .ok ob →
        storable s (oCanon r) s.me.priv ob.hdr off.toNat → hSealed ob.hdr = false → touch s f.a ob.hdr = .ok s' →
        writeThrough s' (s'.me.getO f.a) off.toNat bytes = .ok t → exec (.st f) s = completes s t f)
    ∧ (∀ ob t, s.issues .stc f → check s r off n n = .ok () → storeObj s r true = .ok ob →
        storable s (oCanon r) s.me.priv ob.hdr off.toNat → hSealed ob.hdr = false →
        writeCanon s r off.toNat bytes = .ok t → exec (.stc f) s = completes s t f)
    ∧ (∀ ob s1 s2 t, s.issues .sto f → check s r off8 8 8 = .ok () → storeObj s r false = .ok ob →
        hKind ob.hdr = 1 ∨ hKind ob.hdr = 2 ∧ off8 % 16 = 0 → hStaged ob.hdr = false → hSealed ob.hdr = false →
        malformed (oCanon (s.me.getO f.d)) = false → tagOf (oCanon (s.me.getO f.d)) ≠ 6 →
        escape f.a f.d 400 [] s = .ok s1 → touch s1 f.a ob.hdr = .ok s2 →
        writeThrough s2 (s2.me.getO f.a) off8.toNat (leBytes 8 (oCanon (s2.me.getO f.d)).toNat) true = .ok t →
        exec (.sto f) s = completes s t f))
  ∧ (∀ (s : State),
    (∀ (r : BitVec 128) (off : Nat) (bs : List Byte) (b : Bool) (e : Copy), oTouched r = true → s.copyOf s.myCore (oCanon r) = some e →
        e.complete = true →
        writeThrough s r off bs b =
          .ok ((s.stampSeq.fixPrivate.poke (e.copy.toNat + 16 + (oView r + off)) bs).setCopy s.myCore (e.touchBlocks (oView r + off) bs.length)))
    ∧ (∀ st x : Store, st.waits x ↔
        (st.home < 4 ∧ x.home = st.home ∧ x.seq ≠ st.seq) ∨ (x.addr < st.addr + st.size ∧ st.addr < x.addr + x.size)
          ∨ (x.seq ≤ st.pkgBar ∧ x.home < 4 ∧ st.home < 4) ∨ x.seq ≤ st.sysBar)
    ∧ (∀ (k : TaskKey) (pre post : List Store) (st : Store), (s.task k).sb = pre ++ st :: post →
        ((s.task k).drainable (4 + pre.length) = some st ↔ ∀ x ∈ pre, st.waits x = false)
        ∧ (st.home < 4 → (∀ x ∈ pre, x.home ≠ st.home) → ((s.task k).drainable st.home = some st ↔ ∀ x ∈ pre, st.waits x = false)))
    ∧ (∀ (k : TaskKey) (n : Nat) (st : Store), (s.task k).drainable n = some st → (st.posted → s.admits k st.ptr) →
        s.storeStalls st = false → hSealed (s.peekWord st.hdr) = false →
        ∃ t, exec (.storeBufferDrain k n) s = .next t ∧ (t.task k).sb = (s.task k).sb.erase st
          ∧ ∀ a, t.mem.read a = if st.addr ≤ a ∧ a < st.addr + st.size then st.bytes[a - st.addr]?.getD 0 else s.mem.read a))
  ∧ (∀ (s : State) (k : TaskKey) (st : Store),
    let logged := (s.core (coreOf k)).storeLog.any (fun e => e.num == st.log)
    (s.task k).sb.find? (fun x => x.posted && !s.admits k x.ptr) = some st →
    (s.task k).drainable st.home = some st → st.home < 4 → s.storeStalls st = false →
    (s.task k).status ≠ .stopped → (∀ p ∈ (s.task k).pend, p.fault = none) →
    ∃ t, exec (.remoteStoreRefused k) s = .next t ∧ t.mem = s.mem
      ∧ (t.die st.home).refusals = (s.die st.home).refusals ++ [((s.task k).tenant, s.coreAddr (coreOf k), st.ptr)]
      ∧ (t.task k).status = .stopped
      ∧ (t.task k).stop.map (fun x => (x.code, x.pos, x.lost)) =
        some (some .remotePermission, if logged then st.pc else 0xFFFFFFFF, !logged))

/-- ALLOC makes an object; OLEN, OMOV, OEQ, OVIEW and ODROP write their result. ALLOC takes space at its level, and its register names the object there; a header of the kind and a zero payload of the size rounded up
to 16 are one store of the task: in the core's own pad they stand in memory at once, elsewhere the task sees them and memory takes them as
it takes any store (R29, R205, R271). The instructions on object registers complete and write their result: OLEN the view's length, OMOV the register whole, OEQ whether the
canonical pointers agree, OVIEW the narrowed view, ODROP a register that no longer uses a copy (R327, R329, R331). -/
def Obligations.AllocAndObjectRegisters : Prop :=
  (∀ (f : Fields) (s s' : State) (q : Word64) (a : Nat),
    let level := f.x.toNat % 8
    let kind := f.x.toNat / 8 % 16
    let staged := f.x.getLsbD 7
    let wide := f.x.getLsbD 8
    let size := (s.me.getX f.a).toNat
    let n := (size + 15) / 16 * 16
    let made := newHeader n kind staged wide
    let t := s'.initObject a n q made
    s.issues .alloc f → kind < 8 → (kind = 7 → s.me.priv) → (staged → kind = 0 ∨ kind = 4) →
    (kind = 3 → level = 0 ∨ level = 2 ∨ level = 3) → (wide → level = 4) →
    (isM s.myCore → level ≠ 1 ∧ level ≠ 2) → size ≠ 0 → size ≤ 0xFFFFFFF0 →
    placeObject s f level kind (16 + n) = .ok (s', q) → s'.place (s'.tablePart s'.me) q (16 + n) = .ok a →
    exec (.alloc f) s = completes s (t.setO f.d (oMake false false 0 n q)) f
    ∧ (padOf q ≠ some (.core s'.myCore) → t.mem = s'.mem
        ∧ t.loadBytes s'.cur a (16 + n) = leBytes 8 made.toNat ++ List.replicate (8 + n) 0)
    ∧ (padOf q = some (.core s'.myCore) → s'.me.sb = [] →
        ∀ x, t.mem.read x = if a ≤ x ∧ x < a + (16 + n) then (leBytes 8 made.toNat)[x - a]?.getD 0 else s'.mem.read x))
  ∧ (∀ (f : Fields) (s : State),
    let r := s.me.getO f.a
    let b := (s.me.getX f.b).toNat
    let c := (s.me.getX f.c).toNat
    (s.issues .olen f → exec (.olen f) s = completes s (s.setX f.d ((r.extractLsb' 64 32).setWidth 64)) f)
    ∧ (s.issues .omov f → exec (.omov f) s = completes s (s.setO f.d r) f)
    ∧ (s.issues .oeq f →
        exec (.oeq f) s = completes s (s.setX f.d (if oCanon r = oCanon (s.me.getO f.b) then 1 else 0)) f)
    ∧ (s.issues .oview f → badPtr (oCanon r) = false → b % 16 = 0 → b < oLen r → 0 < c → b + c ≤ oLen r →
        exec (.oview f) s = completes s (s.setO f.d (oMake (oTouched r) true (oView r + b) c (oCanon r))) f)
    ∧ (s.issues .odrop f → oTouched r = false → exec (.odrop f) s = completes s s f)
    ∧ (∀ e, s.issues .odrop f → oTouched r = true → s.copyOf s.myCore (oCanon r) = some e →
        exec (.odrop f) s = completes s (s.dropCopy s.myCore e) f)
    ∧ (s.issues .odrop f → oTouched r = true → s.copyOf s.myCore (oCanon r) = none →
        exec (.odrop f) s = completes s (s.untouch s.myCore (oCanon r)) f))

/-- ACQ, REL, OSYNC, SEAL, PIN and UNPIN update a header; ACQ waits for it and is granted it. ACQ takes the header when its lock word allows it, counts itself there after the task's earlier stores to that home and re-reads the clean
blocks of a touched register's copy; REL writes back, performs what its scope orders and gives the header up; OSYNC writes back a touched
register's copy; SEAL seals; PIN and UNPIN write the pinned flag (R205, R208, R210, R265, R330, R335, R339, R342). That OSYNC of an untouched
register writes nothing back (R34), while REL and SEAL write back whether or not it is touched, is the model's reading (log entry 21). ACQ parks while the header is held against it, and a parked ACQ takes the header once it is free (R210, R265). -/
def Obligations.HeadersAreUpdatedAndAwaited : Prop :=
  (∀ (f : Fields) (s s1 : State) (a : Nat) (h : Word64),
    let r := s.me.getO f.a
    let w := s.peekWord (a + 8)
    let ex := f.x.getLsbD 3
    let taken : Word64 := if ex then w ||| 0x80000000 else w + 0x10000
    (checkPtr s r = .ok () ∧ header s (oCanon r) = .ok (a, h)) →
    (s.issues .acq f → hKind h ≠ 3 → (hKind h = 7 → s.me.priv) → needAtomicOps s (oCanon r) = .ok () →
        w.getLsbD 31 = false → (if ex then lockShared w = 0 else lockShared w < 32767) → acquiredCopy s r = .ok none →
        releasedHome s (homeOf a) = .ok s1 →
        exec (.acq f) s = completes s (s1.pokeWord (a + 8) taken) f)
    ∧ (∀ e t, s.issues .acq f → hKind h ≠ 3 → (hKind h = 7 → s.me.priv) → needAtomicOps s (oCanon r) = .ok () →
        w.getLsbD 31 = false → (if ex then lockShared w = 0 else lockShared w < 32767) → acquiredCopy s r = .ok (some e) →
        releasedHome s (homeOf a) = .ok s1 → (s1.pokeWord (a + 8) taken).fixPrivate.refresh e a = (t, true) →
        exec (.acq f) s = completes s t f)
    ∧ (∀ s1 s2, s.issues .rel f → hKind h ≠ 3 → (hKind h = 7 → s.me.priv) → needAtomicOps s (oCanon r) = .ok () →
        flush s r = .ok s1 → releasedAt (f.x.toNat % 8) (homeOf a) s1 = .ok s2 →
        exec (.rel f) s = completes s (s2.pokeWord (a + 8) (lockDrop (s2.peekWord (a + 8)))) f)
    ∧ (∀ s1 s2, s.issues .osync f → oTouched r = true → flush s r = .ok s1 → releasedAt (f.x.toNat % 8) (s1.homeAt (oCanon r)) s1 = .ok s2 →
        exec (.osync f) s = completes s s2 f)
    ∧ (∀ s2, s.issues .osync f → oTouched r = false → releasedAt (f.x.toNat % 8) (s.homeAt (oCanon r)) s = .ok s2 →
        exec (.osync f) s = completes s s2 f)
    ∧ (s.issues .pin f → (hKind h = 7 → s.me.priv) → releasedHome s (homeOf a) = .ok s1 →
        exec (.pin f) s = completes s (s1.pokeWord a (h ||| (1#64 <<< 40))) f)
    ∧ (s.issues .unpin f → (hKind h = 7 → s.me.priv) → releasedHome s (homeOf a) = .ok s1 →
        exec (.unpin f) s = completes s (s1.pokeWord a (h &&& ~~~(1#64 <<< 40))) f)
    ∧ (∀ s1 s2, s.issues .seal f → hKind h = 0 ∨ hKind h = 4 → hSealed h = false → flush s r = .ok s1 →
        releasedAt (f.x.toNat % 8) (homeOf a) s1 = .ok s2 →
        exec (.seal f) s = completes s (s2.pokeWord a (s2.peekWord a ||| (1#64 <<< 41))) f))
  ∧ (∀ (s s1 : State) (f : Fields) (a : Nat) (h : Word64),
    let r := s.me.getO f.a
    let w := s.peekWord (a + 8)
    let ex := f.x.getLsbD 3
    let free := w.getLsbD 31 = false ∧ (if ex then lockShared w = 0 else lockShared w < 32767)
    checkPtr s r = .ok () → header s (oCanon r) = .ok (a, h) → hKind h ≠ 3 → (hKind h = 7 → s.me.priv) →
    needAtomicOps s (oCanon r) = .ok () → oTouched r = false →
    (s.issues .acq f → ¬ free →
        exec (.acq f) s = parks s s { kind := .acq, op := .acq, f := f, object := oCanon r, aux := a })
    ∧ (∀ (u : State) (wt : Wait), (u.task s.cur).wait = some wt → (u.task s.cur).status = .parked → wt.kind = .acq → wt.f = f →
        s = { u with cur := s.cur, tasks := u.tasks.set s.cur { u.task s.cur with status := .ready, wait := none } } → free →
        releasedHome s (homeOf a) = .ok s1 → exec (.acqGrant s.cur) u = .next ((s1.pokeWord (a + 8) (if ex then w ||| 0x80000000 else w + 0x10000)).complete s.cur f)))

/-! ## Sync words and atomics -/

/-- Full/empty accesses fill, empty, park and are retried in order; SIGDECL names the signaller. FLD, FTAKE, FPUT, FSET and FCLR on a word that lets them proceed: FLD and FTAKE defer its value, FTAKE and FCLR empty it, FPUT and
FSET write and fill it after what their release orders; the requests parked on the word are then retried (R38, R211, R295, R296). That
FTAKE, FCLR and SIGDECL too come after the task's earlier accesses to that home is the model's reading of program order (log entry 28). FLD and FTAKE on an empty word, and FPUT on a full one, park, naming the word (R295). FULL_EMPTY_RETRY runs the longest-parked request that its word lets proceed, and then those that follow (R296). SIGDECL names the task that is to signal a sync object, in the high half of header word 1 (R346). -/
def Obligations.SyncWordsFillEmptyAndWait : Prop :=
  (∀ (f : Fields) (s : State) (w : Nat) (wt : Wait),
    let scope := scopeTo s.myCore wt.object w
    let done (t : State) : Result :=
      completes s { t.retryWord w (2 * (s.waiters .fullEmpty w).length) with cur := s.cur } f
    (s.issues .fld f → feWord .fld f s = .ok (w, wt) → s.isFull w → exec (.fld f) s = done ((s.fixAt w 8).deferX f.d (s.peekWord w)))
    ∧ (∀ s', s.issues .ftake f → feWord .ftake f s = .ok (w, wt) → s.isFull w → releasedHome s (homeOf w) = .ok s' →
        exec (.ftake f) s = done ((s'.emptyWord w).deferX f.d (s'.peekWord w)))
    ∧ (∀ s', s.issues .fput f → feWord .fput f s = .ok (w, wt) → releasedAt scope (homeOf w) s = .ok s' → s'.isFull w = false →
        exec (.fput f) s = done (s'.fillWord w (s'.me.getX f.d) scope))
    ∧ (∀ s', s.issues .fset f → feWord .fset f s = .ok (w, wt) → releasedAt scope (homeOf w) s = .ok s' →
        exec (.fset f) s = done (s'.fillWord w (s'.me.getX f.d) scope))
    ∧ (∀ s', s.issues .fclr f → feWord .fclr f s = .ok (w, wt) → releasedHome s (homeOf w) = .ok s' →
        exec (.fclr f) s = done (s'.emptyWord w)))
  ∧ (∀ (f : Fields) (s : State) (w : Nat) (wt : Wait),
    (s.issues .fld f → feWord .fld f s = .ok (w, wt) → s.isFull w = false → exec (.fld f) s = parks s s wt)
    ∧ (s.issues .ftake f → feWord .ftake f s = .ok (w, wt) → s.isFull w = false → exec (.ftake f) s = parks s s wt)
    ∧ (∀ s', s.issues .fput f → feWord .fput f s = .ok (w, wt) → releasedAt (scopeTo s.myCore wt.object w) (homeOf w) s = .ok s' → s'.isFull w →
        exec (.fput f) s = parks s s' wt))
  ∧ (∀ (s : State) (w : Nat),
    (∀ k wt n, (s.waiters .fullEmpty w).find? (fun e => feReady s e.2) = some (k, wt) → 2 * (s.waiters .fullEmpty w).length = n + 1 →
        exec (.fullEmptyRetry w) s = .next ((s.reissue k .fullEmpty (feRequest wt.op)).retryWord w n))
    ∧ ((s.waiters .fullEmpty w).find? (fun e => feReady s e.2) = none → exec (.fullEmptyRetry w) s = .next s))
  ∧ (∀ (f : Fields) (s s' : State) (a : Nat) (h : Word64),
    let r := s.me.getO f.a
    let b := s.me.getX f.b
    s.issues .sigdecl f → checkPtr s r = .ok () → header s (oCanon r) = .ok (a, h) → hKind h = 3 → b.toNat < 2 ^ 32 →
    releasedHome s (homeOf a) = .ok s' →
    exec (.sigdecl f) s =
      completes s (s'.pokeWord (a + 8) (b.setWidth 32 ++ (s'.peekWord (a + 8)).extractLsb' 0 32)) f)

/-- AMO, CAS and CAS2 replace a word or pair and defer the old one; a lost result stops the task. AMO replaces the word by the operation's value and CAS by its third operand when the word equals the second; both defer the word's old
value, sign-extended but for the unsigned and floating operations, and touch no other byte (R273, R274, R281). That the task's earlier
accesses to that home are performed first, in the relaxed order too, is the model's reading of program order (log entry 28). CAS2 replaces the 16 bytes of a vref element by the next pointer and version when they equal the register pair, and defers the pair it
found; when the found pointer's header cannot be read, the replacement stands and the fault is outstanding in place of the results (R63,
R213, R259). ATOMIC_RESPONSE_ERROR leaves the atomic's effect in memory, drops its outstanding results and stops its task with
`atomic-result-lost` at the instruction (R234). -/
def Obligations.AtomicsReplaceAndReturn : Prop :=
  (∀ (f : Fields) (s s' : State) (a : Nat),
    let n := 8 / 2 ^ f.z.toNat
    let w := 8 * n
    let op := f.x.toNat % 16
    let old := leNat (s'.mem.readN a n)
    let b := (s.me.getX f.b).toNat % 2 ^ w
    let so := toSigned w old
    let sb := toSigned w b
    let new : Nat :=
      if op = 0 then (old + b) % 2 ^ w else if op = 1 then old &&& b else if op = 2 then old ||| b else if op = 3 then old ^^^ b
      else if op = 4 then (if sb < so then b else old) else if op = 5 then (if so < sb then b else old)
      else if op = 6 then min old b else if op = 7 then max old b else if op = 8 then b else add32 old (fp32.value b)
    let result : Word64 := if op = 6 ∨ op = 7 ∨ op = 9 then BitVec.ofNat 64 old else signW w old
    let last (t : State) (v : Word64) : Prop := ∃ p, t.me.pend = s'.me.pend ++ [p] ∧ p.dest = .x f.d ∧ p.val.setWidth 64 = v
    (s.issues .amo f → atomicChecks f s (op == 0 || op == 8) = .ok a → atomicRelease s f (homeOf a) = .ok s' →
        ∃ t, exec (.amo f) s = completes s t f ∧ t.mem = s'.mem.writeN a (leBytes n new) ∧ last t result)
    ∧ (s.issues .cas f → atomicChecks f s true = .ok a → atomicRelease s f (homeOf a) = .ok s' →
        ∃ t, exec (.cas f) s = completes s t f ∧ last t (signW w old)
          ∧ t.mem = if old = (s'.me.getX f.b).toNat % 2 ^ w then s'.mem.writeN a (leBytes n (s'.me.getX f.c).toNat) else s'.mem))
  ∧ (∀ (f : Fields) (s s1 s2 : State) (hAddr base : Nat) (h : Word64),
    let r0 := s.me.getO f.a
    let off := (s.me.getX f.b).toInt
    let r := s1.me.getO f.a
    let a := base + 16 + oView r + off.toNat
    let p := s2.peekWord a
    let v := s2.peekWord (a + 8)
    let fits (q : Word64) : Prop := malformed q = false ∧ tagOf q ≠ 6
    let same := p = oCanon (s2.me.getO f.d) ∧ v = s2.me.getX f.c
    let next := (s2.mem.writeN a (leBytes 8 (oCanon (s2.me.getO (f.d + 1))).toNat)).writeN (a + 8) (leBytes 8 (s2.me.getX (f.c + 1)).toNat)
    s.issues .cas2 f → check s r0 off 16 16 = .ok () → header s (oCanon r0) = .ok (hAddr, h) → hKind h = 2 →
    fits (oCanon (s.me.getO f.d)) → fits (oCanon (s.me.getO (f.d + 1))) → needAtomicOps s (oCanon r0) = .ok () →
    escape f.a (f.d + 1) 400 [] s = .ok s1 → access s1 (oCanon r) (16 + oView r + off.toNat) 16 = .ok base → s1.poisoned a 16 = false →
    atomicRelease s1 f (homeOf a) = .ok s2 →
    (∀ hd, same → pointerHead s2 p = .ok hd → ∃ t, exec (.cas2 f) s = completes s t f ∧ t.mem = next
        ∧ ∃ p1 p2, t.me.pend = s2.me.pend ++ [p1, p2] ∧ p1.dest = .o f.d ∧ p1.val.setWidth 128 = oMake false false 0 (headLen hd) p
          ∧ p2.dest = .x f.c ∧ p2.val.setWidth 64 = v)
    ∧ (∀ hd, ¬ same → pointerHead s2 p = .ok hd → ∃ t, exec (.cas2 f) s = completes s t f ∧ t.mem = s2.mem
        ∧ ∃ p1 p2, t.me.pend = s2.me.pend ++ [p1, p2] ∧ p1.dest = .o f.d ∧ p1.val.setWidth 128 = oMake false false 0 (headLen hd) p
          ∧ p2.dest = .x f.c ∧ p2.val.setWidth 64 = v)
    ∧ (∀ s3 x, same → pointerHead s2 p = .error (.fault s3 x) → arisesLate x.code → ∃ t, exec (.cas2 f) s = completes s t f ∧ t.mem = next
        ∧ ∃ q, t.me.pend = s2.me.pend ++ [q] ∧ q.fault = some x))
  ∧ (∀ (s : State) (k : TaskKey) (i : Nat) (p : Pend) (ptr off : Word64),
    (s.task k).pend = [p] → i = 0 → p.atomic = some (ptr, off) → (s.task k).status = .ready →
    ∃ t, exec (.atomicResponseError k i) s = .next t ∧ t.mem = s.mem ∧ (t.task k).x = (s.task k).x ∧ (t.task k).pend = []
      ∧ (t.task k).status = .stopped
      ∧ (t.task k).stop.map (fun x => (x.code, x.pos, x.ptr, x.offset)) = some (some .atomicResultLost, p.pc, ptr, off))

/-! ## Tasks -/

/-- FORK counts its child and places a record with the operands' values, at once or when there is room. FORK defers the child's record id, counts the child in the join word first, and places the record, with the entry, argument, join object
and x1 to x4 its operands give (R92, R93, R298). FORK_PLACE ends a FORK that waited for room once its record can be placed (R93). -/
def Obligations.ForksPlaceRecords : Prop :=
  (∀ (f : Fields) (s : State),
    let j := oCanon (s.me.getO f.c)
    let rec0 (t : Task) : Record :=
      { tenant := t.tenant, origin := 1, domain := if t.part < 16 then t.domain else 0
        acore := f.x.getLsbD 3 || f.x.toNat % 4 != 0, width := BitVec.ofNat 2 f.x.toNat, entry := entryOf t f
        arg := oCanon (t.getO f.a), join := oCanon (t.getO f.c), creator := t.tid
        x1 := t.getX 1, x2 := t.getX 2, x3 := t.getX 3, x4 := t.getX 4, launch := t.launch, part := t.part, ctx := t.ctx }
    let put (s1 : State) : Option State :=
      let stamped := s1.stamp s1.myCore (rec0 s1.me)
      let r := stamped.2
      let s2 := stamped.1.deferX f.d ((r.recCore ++ r.recCount).setWidth 64)
      (s2.forkTarget f r).2.forkPut (s2.forkTarget f r).2.myCore (s2.forkTarget f r).1 r
    (∀ u, s.issues .fork f → malformed (oCanon (s.me.getO f.a)) = false → j = 0 → put s = some u →
        exec (.fork f) s = completes s u f)
    ∧ (∀ s1 a u, s.issues .fork f → malformed (oCanon (s.me.getO f.a)) = false → j ≠ 0 → needJoin s (s.me.getO f.c) = .ok () →
        joinPlace s j = .ok (s1, a) → put (s1.joinAdd a 1) = some u → exec (.fork f) s = completes s u f))
  ∧ (∀ (s u : State) (k : TaskKey) (w : Wait) (r : Record),
    let s' : State := { s with cur := k }
    (s.task k).wait = some w → w.record = some r → (s.task k).status = .parked → w.kind = .room → w.op = .fork → s.haltedAt (coreOf k) = false →
    isM (coreOf k) = false ∨ w.aux ≠ 0 → s'.forkPut (coreOf k) w.aux r = some u →
    exec (.forkPlace k) s = .next ((u.wake k).complete k w.f))

/-- HALT ends its task and frees the slot, or with retain starts the successor in it. HALT writes the task's results and stores, takes 1 from its join word, and leaves its slot free with the generation it had
(R89, R95, R302). HALT with retain starts the successor in the same slot: pc from xB, x1 to x4 from words 4 to 7 of the object, x5 the old id, o1 to o7
kept (R95, R302). -/
def Obligations.HaltEndsItsTask : Prop :=
  (∀ (f : Fields) (s l s1 s2 : State) (a : Nat),
    s.issues .halt f → landed s = .ok l → released l = .ok s1 → s1.cur = s.cur →
    (s1.me.join = 0 ∧ s2 = s1 ∨ s1.me.join ≠ 0 ∧ ∃ u, joinPlace s1 s1.me.join = .ok (u, a) ∧ s2 = u.joinAdd a (-1)) → s2.cur = s.cur →
    ∃ t, exec (.halt f) s = .next t ∧ (t.task s.cur).status = .free ∧ (t.task s.cur).gen = (s2.task s.cur).gen ∧ t.mem = s2.mem)
  ∧ (∀ (f : Fields) (s l s1 s2 : State) (ob : Obj) (bs : List Byte),
    let r := l.me.getO f.a
    s.issues .haltRetain f → landed s = .ok l → check l r 0 64 16 = .ok () → objOf l r = .ok ob → hKind ob.hdr = 0 → loadable l.me.priv ob.hdr →
    touch l f.a ob.hdr = .ok s1 → readThrough s1 (s1.me.getO f.a) 0 64 = .ok bs → released s1 = .ok s2 →
    l.cur = s.cur → s2.cur = s.cur → bs.length = 64 →
    ∃ t, exec (.haltRetain f) s = .next t ∧ (t.task s.cur).status = .ready
      ∧ (t.task s.cur).pc = (s2.me.getX f.b).setWidth 32
      ∧ (t.task s.cur).getX 1 = leWord ((bs.drop 32).take 8) ∧ (t.task s.cur).getX 2 = leWord ((bs.drop 40).take 8)
      ∧ (t.task s.cur).getX 3 = leWord ((bs.drop 48).take 8) ∧ (t.task s.cur).getX 4 = leWord ((bs.drop 56).take 8)
      ∧ (t.task s.cur).getX 5 = s2.me.tid.setWidth 64
      ∧ (∀ n : BitVec 6, 1 ≤ n.toNat → n.toNat ≤ 7 → (t.task s.cur).getO n = s2.me.getO n)
      ∧ (t.task s.cur).getO 8 = 0 ∧ (t.task s.cur).getX 8 = 0 ∧ t.mem = s2.mem)

/-- JOIN waits for its word to read 0; YIELD passes its slot over once; IDLE waits for a message or a result. JOIN completes when its word reads 0, parks while it does not, and JOIN_WAKE completes a parked JOIN whose word has come to 0
(R94, R307). YIELD is a switch point after which the rotation skips the slot once, and only a switch point when its guard turns it off; IDLE goes on
when a message or a filled mailbox waits, parks otherwise, and IDLE_WAKE ends the wait once one is there or has come (R96, R304, R399). -/
def Obligations.JoinsYieldsAndIdles : Prop :=
  (∀ (s : State) (f : Fields) (a : Nat) (h : Word64) (bs : List Byte),
    let r := s.me.getO f.a
    let off := litOffset f
    check s r off 8 8 = .ok () → header s (oCanon r) = .ok (a, h) → hKind h = 0 → hStaged h = false →
    readCanon s r off.toNat 8 = .ok bs →
    let read := s.fixObj (oCanon r) (16 + oView r + off.toNat) 8
    (s.issues .join f → leNat bs = 0 → exec (.join f) s = completes s read f)
    ∧ (s.issues .join f → leNat bs ≠ 0 →
        exec (.join f) s = parks s s { kind := .join, op := .join, f := f, object := oCanon r, offset := BitVec.ofInt 32 off })
    ∧ (∀ (u : State) (wt : Wait), (u.task s.cur).wait = some wt → (u.task s.cur).status = .parked → wt.kind = .join → wt.f = f →
        s = { u with cur := s.cur, tasks := u.tasks.set s.cur { u.task s.cur with status := .ready, wait := none } } →
        leNat bs = 0 → exec (.joinWake s.cur) u = .next (read.complete s.cur f)))
  ∧ (∀ (f : Fields) (s l : State), landed s = .ok l →
    (s.issues .yield f → exec (.yield f) s = completes s (l.setMe { l.me with skip := true }) f)
    ∧ (modFits .yield f s.me → hasExt s.myCore Op.yield.row.ext → (s.me.guard f).getLsbD 0 = false → exec (.yield f) s = completes s l f)
    ∧ (s.issues .idle f → l.idleEnds l.cur = true → exec (.idle f) s = completes s l f)
    ∧ (s.issues .idle f → l.idleEnds l.cur = false → exec (.idle f) s = parks s l { kind := .idle, op := .idle, f := f })
    ∧ (∀ k w, (s.task k).wait = some w → (s.task k).status = .parked → w.kind = .idle →
        w.aux = 1 ∨ s.idleEnds k = true → exec (.idleWake k) s = .next ((s.wake k).complete k w.f)))

/-- Pop, steal and spill take records from deques in order; migration moves a task with its registers. DEQUE_POP starts the bottom record of a deque in a free slot: its entry, argument registers and initial x registers are the
record's (R88, R92, R97). STEAL takes the top record of the victim that the round-robin search finds, and starts it in the idle core's free slot; SPILL_RETURN
refills a deque that holds fewer than 64 records, in order (R97, R98). MIGRATION moves a task without private copies to its reserved slot: its registers go along, it gets a new id there, its old slot is
free, and an intercalary entry maps the old id to the new one; a write of 0 clears the entry (R108, R109, R110). That the entry is the
lowest-numbered free one (log entry 52), and that a move is one step (log entry 43), is the model's choice. -/
def Obligations.RecordsAndTasksMove : Prop :=
  (∀ (s : State) (c : CoreId) (r : Record) (rest : List Record) (k : TaskKey),
    (s.core c).deque = r :: rest → s.slotFor c = some k → s.haltedAt c = false → s.available (clusterOf c) → canHost c r → r.recCount ≠ 0 →
    ∃ t, exec (.dequePop c) s = .next t ∧ (t.core c).deque = rest ∧ (t.task k).status = .ready ∧ (t.task k).pc = r.entry
      ∧ (t.task k).gen = nextGen (s.task k).gen ∧ (t.task k).getX 1 = r.x1 ∧ (t.task k).getX 2 = r.x2 ∧ (t.task k).getX 3 = r.x3
      ∧ (t.task k).getX 4 = r.x4 ∧ (t.task k).getX 7 = r.x7 ∧ oCanon ((t.task k).getO 1) = r.arg
      ∧ (t.task k).getX 6 = (r.recCore ++ r.recCount).setWidth 64 ∧ (t.task k).cause = 0 ∧ (t.task k).tvec = 0)
  ∧ (∀ (s : State) (c : CoreId),
    (∀ k v r, s.haltedAt c = false → isM c = false → s.available (clusterOf c) → s.logical c = [] → s.slotFor c = some k → s.victim c = some (v, r) → v ≠ c →
        r.bad = false → r.recCount ≠ 0 →
        ∃ t, exec (.steal c) s = .next t ∧ t.logical v = (s.logical v).dropLast ∧ (t.core c).lastVictim = some v
          ∧ (t.task k).status = .ready ∧ (t.task k).pc = r.entry)
    ∧ ((s.core c).deque.length < 64 →
        ∃ t, exec (.spillReturn c) s = .next t ∧ t.logical c = s.logical c
          ∧ (t.core c).deque.length = min 64 (s.logical c).length))
  ∧ (∀ (s : State) (k d : TaskKey) (w : Wait) (e : Nat),
    let old := coreOf k
    let tid := s.taskId d (nextGen (s.task d).gen)
    ((s.task k).wait = some w → (s.task k).status = .parked → w.kind = .migration → w.aux = d + 1 → s.haltedAt old = false →
      coreOf d ≠ old → (∀ n : BitVec 6, s.copyOf old (oCanon ((s.task k).getO n)) = none) → (s.task k).sb = [] → s.boxesOf old (s.task k).tid true = [] →
      (List.range 16).find? (fun i => ((s.core old).forward[i]?.getD (1, 1)).1 == 0) = some e →
      ∃ t, exec (.migration k) s = .next t ∧ (t.task d).status = .ready ∧ (t.task d).tid = tid ∧ (t.task d).x = (s.task k).x
        ∧ (t.task d).pc = (s.task k).pc ∧ (t.task k).status = .free ∧ (t.core old).forward[e]? = some ((s.task k).tid, tid)
        ∧ t.mem = s.mem)
    ∧ (∀ c i, i < 16 → ∃ t, exec (.icoldWrite c i 0) s = .next t ∧ (t.core c).forward[i]? = some (0, 0)))

/-! ## Messages and job mailboxes -/

/-- SEND puts a message in the mesh; routers pass or drop it; waiting messages find room. SEND of a data message and of a spawn message, to a core whose inbox has an entry: the 64 bytes go into the mesh with the sender's id
and tenant, a spawn message with the record that the hardware completes, and the destination's result is outstanding until the message has
entered the inbox; to a full inbox the sender parks; a message to another package completes too, its count a free value; one whose target is
refused or has no route raises its fault after issue (R63, R101, R104, R247, R344; log entry 2). The router of the destination passes a message that R223 admits, and drops any other, which stops its sender with
`remote-permission` at its SEND, or, when it has ended, is reported; a passed message takes its place in the inbox, and its SEND's result is
the number of entries left, or follows its moved task (R101, R102, R110, R223). SPAWN_PUSH moves the record of a spawn message to a deque once there is room, freeing its inbox entry; SEND_INBOX_ENTRY lets the
sender that has waited longest take a free entry and completes its SEND, whose result comes with its message (R101, R104). -/
def Obligations.MessagesAreSentAndRouted : Prop :=
  (∀ (f : Fields) (s s1 s2 : State) (ob : Obj) (bs0 bs : List Byte) (c : CoreId),
    let r := s.me.getO f.a
    let b := s.me.getX f.b
    let addr : BitVec 16 := BitVec.ofNat 16 (b.toNat / 65536)
    let w0 := leNat (bs0.take 8)
    let word (i : Nat) : Word64 := leWord ((bs.drop (8 * i)).take 8)
    let awaits (t : State) (m : Message) : Prop := ∃ p, t.me.pend = s2.me.pend ++ [p] ∧ p.dest = .x f.d ∧ p.msg = some m.seq
    let performed : Act State := match s1.coreAt addr with
      | some c => releasedAt (scopeCores s1.myCore c) (dieOf c) s1
      | none => released s1
    check s r 0 64 8 = .ok () → objOf s r = .ok ob → loadable s.me.priv ob.hdr → b.toNat < 2 ^ 32 →
    touch s f.a ob.hdr = .ok s1 → readThrough s1 (s1.me.getO f.a) 0 64 = .ok bs →
    performed = .ok s2 →
    (s.issues .send f → readThrough s r 0 0 = .ok bs0 → s2.sendTo addr = .core c → s2.entries c < 64 → s2.senders c = [] →
        ∃ t m, exec (.send f) s = completes s t f ∧ t.mesh = s2.mesh ++ [m] ∧ m.target = c ∧ m.bytes = bs ∧ m.sender = s2.me.tid
          ∧ m.tenant = s2.me.tenant ∧ m.held ∧ m.spawn = false ∧ m.tag = (if b.toNat % 65536 = 0 then 0 else b.setWidth 32)
          ∧ t.mem = s2.mem ∧ awaits t m)
    ∧ (s.issues .send f → readThrough s r 0 0 = .ok bs0 → s2.sendTo addr = .core c → 64 ≤ s2.entries c ∨ s2.senders c ≠ [] →
        ∃ t m w, exec (.send f) s = parks s t w ∧ t.mesh = s2.mesh ++ [m] ∧ m.target = c ∧ m.bytes = bs ∧ m.held = false ∧ w.kind = .send
          ∧ w.aux = m.seq ∧ t.me.pend = s2.me.pend)
    ∧ (s.issues .sendSpawn f → readThrough s r 0 64 = .ok bs0 → bits w0 40 8 = 0 → w0.testBit 34 = false → bits w0 0 32 ≠ 0 →
        s2.sendTo addr = .core c → s2.entries c < 64 → s2.senders c = [] →
        ∃ t m x, exec (.sendSpawn f) s = completes s t f ∧ t.mesh = s2.mesh ++ [m] ∧ m.target = c ∧ m.spawn ∧ m.tag = 0 ∧ m.record = some x
          ∧ x.tenant = s2.me.tenant ∧ x.origin = 2 ∧ x.creator = s2.me.tid ∧ x.domain = s2.me.domain ∧ x.entry = BitVec.ofNat 32 (leNat (bs.take 8))
          ∧ x.arg = word 1 ∧ x.join = word 2 ∧ x.x1 = word 4 ∧ x.x2 = word 5 ∧ x.x3 = word 6 ∧ x.x4 = word 7 ∧ awaits t m)
    ∧ (s.issues .send f → readThrough s r 0 0 = .ok bs0 → s2.sendTo addr = .away →
        ∃ t p n, exec (.send f) s = completes s t f ∧ t.mem = s2.mem ∧ t.mesh = s2.mesh ∧ t.me.pend = s2.me.pend ++ [p] ∧ p.dest = .x f.d
          ∧ p.peer = s2.viaOver (dieOf s2.myCore / 2) (addr.toNat / 512) ∧ p.val.setWidth 64 = Config.word n &&& 0x3F)
    ∧ (s.issues .send f → readThrough s r 0 0 = .ok bs0 → s2.sendTo addr = .refused →
        exec (.send f) s = completes s (s2.defer { dest := .x 0, fault := some { code := .remotePermission, ptr := oCanon r } }) f)
    ∧ (s.issues .send f → readThrough s r 0 0 = .ok bs0 → s2.sendTo addr = .noRoute →
        exec (.send f) s = completes s (s2.defer { dest := .x 0, fault := some { code := .region, ptr := oCanon r } }) f))
  ∧ (∀ (s : State) (i : Nat) (m : Message),
    s.mesh[i]? = some m →
    (m.routed = false → s.delivers m → exec (.routerDelivery i) s = .next { s with mesh := s.mesh.set i { m with routed := true } })
    ∧ (∀ k, m.routed = false → s.delivers m = false → s.taskWithId (s.idNow 16 m.sender) = some k → (s.task k).status ≠ .stopped →
        (∀ p ∈ (s.task k).pend, p.fault = none) →
        ∃ t, exec (.routerDelivery i) s = .next t ∧ t.mesh = s.mesh.eraseIdx i ∧ t.mem = s.mem ∧ (t.task k).status = .stopped
          ∧ (t.task k).stop.map (fun i => (i.code, i.pos)) = some (some .remotePermission, m.pc))
    ∧ (∀ d, let id := s.idNow 16 m.sender
        m.routed = false → s.delivers m = false → s.taskWithId id = none → s.shadow = [] → s.coreAt (BitVec.ofNat 16 (id.toNat / 65536)) = some d →
        ∃ t r, exec (.routerDelivery i) s = .next t ∧ t.mesh = s.mesh.eraseIdx i ∧ (t.halt (min m.part 16)).reports = (s.halt (min m.part 16)).reports ++ [r]
          ∧ r.info.code = some .remotePermission ∧ r.info.pos = m.pc ∧ r.tid = id)
    ∧ (s.mayArrive i → m.tag = 0 →
        let left := 64 - min 64 (({ s with mesh := s.mesh.eraseIdx i } : State).entries m.target + 1)
        ∃ t, exec (.messageArrival i) s = .next t ∧ t.mesh = s.mesh.eraseIdx i ∧ (t.core m.target).inbox = (s.core m.target).inbox ++ [m]
          ∧ ∀ k, (t.task k).pend = (s.task k).pend.map (fun p => if p.msg = some m.seq then { p with msg := none, val := BitVec.ofNat 4096 left } else p))
    ∧ (∀ e d, s.mayArrive i → m.tag ≠ 0 → m.spawn = false → (s.core m.target).forward.toList.find? (fun x => x.1 == m.tag) = some e →
        s.coreAt (BitVec.ofNat 16 (e.2.toNat / 65536)) = some d →
        ∃ t m', exec (.messageArrival i) s = .next t ∧ t.mesh = s.mesh.eraseIdx i ++ [m'] ∧ m'.target = d ∧ m'.tag = e.2
          ∧ m'.bytes = m.bytes ∧ m'.sender = m.sender))
  ∧ (∀ (s : State) (c : CoreId),
    (∀ m rest r s', (s.core c).inbox = m :: rest → m.spawn → m.bad = false → m.record = some r → s.haltedAt c = false → isM c = false →
        s.pushAt c (s.inCluster (clusterOf c) r) = some s' →
        exec (.spawnPush c) s = .next (s'.setCore c { s'.core c with inbox := (s'.core c).inbox.eraseIdx 0 }))
    ∧ (∀ k w rest, s.senders c = (k, w) :: rest → s.entries c < 64 →
        let s' : State := { s with mesh := s.mesh.map (fun m => if m.seq == w.aux && m.target == c then { m with held := true } else m) }
        let s'' : State := { s'.wake k with cur := k }
        exec (.sendInboxEntry c) s = .next ((s''.defer { dest := .x w.f.d, msg := some w.aux }).complete k w.f)))

/-- RECV takes the oldest message it may; JWAIT and JPOLL read and free their mailbox. RECV takes the oldest message its task may take into its object, with result 1, or 2 for an orphan; without one it writes 0 when it
polls and parks otherwise; RECV_DELIVERY completes a parked RECV (R102, R103, R338). JWAIT and JPOLL of a full mailbox with the job's sequence number write its status and free it; of another sequence number, a free
mailbox or no job id they write 3; of an empty one JPOLL writes 0 and JWAIT parks until JWAIT_WAKE finds it full; they read a word of the
cluster pad, so that the task's earlier loads from its die come first, and a block that an error has struck raises `uncorrectable` after issue
(R63, R186, R208, R240, R308). -/
def Obligations.MessagesAndJobsAreReceived : Prop :=
  (∀ (f : Fields) (s : State) (ob : Obj),
    let r := s.me.getO f.d
    let c := s.myCore
    let found := (s.core c).inbox.findIdx? (s.mayTake c s.me.tid)
    check s r 0 64 8 = .ok () → storeObj s r false = .ok ob → storable s (oCanon r) s.me.priv ob.hdr 0 → hSealed ob.hdr = false →
    (∀ i m s1 s2, s.issues .recv f → found = some i → (s.core c).inbox[i]? = some m → m.bad = false → touch s f.d ob.hdr = .ok s1 →
        writeThrough s1 (s1.me.getO f.d) 0 m.bytes = .ok s2 →
        exec (.recv f) s = completes s ((s2.setCore c { s2.core c with inbox := (s2.core c).inbox.erase m }).deferX f.a
          (if m.orphan ∨ m.tag ≠ 0 ∧ m.tag ≠ s.me.tid then 2 else 1)) f)
    ∧ (s.issues .recv f → found = none → f.x.getLsbD 0 = true → exec (.recv f) s = completes s (s.deferX f.a 0) f)
    ∧ (s.issues .recv f → found = none → f.x.getLsbD 0 = false →
        exec (.recv f) s = parks s s { kind := .recv, op := .recv, f := f, object := (s.coreAddr c).setWidth 64 })
    ∧ (∀ u wt i m s1 s2, (u.task s.cur).wait = some wt → (u.task s.cur).status = .parked → wt.kind = .recv → wt.f = f →
        s = { u with cur := s.cur, tasks := u.tasks.set s.cur { u.task s.cur with status := .ready, wait := none } } →
        u.recvTurn s.cur → found = some i → (s.core c).inbox[i]? = some m → m.bad = false → touch s f.d ob.hdr = .ok s1 →
        writeThrough s1 (s1.me.getO f.d) 0 m.bytes = .ok s2 →
        exec (.recvDelivery s.cur) u = .next (((s2.setCore c { s2.core c with inbox := (s2.core c).inbox.erase m }).deferX f.a
          (if m.orphan ∨ m.tag ≠ 0 ∧ m.tag ≠ s.me.tid then 2 else 1)).complete s.cur f)))
  ∧ (∀ (f : Fields) (s : State),
    let a := (s.me.getX f.a).toNat
    let c := s.myCore
    let m := a % 32
    let b := s.mailbox c m
    let isJob := a < 2 ^ 32 ∧ bits a 5 3 ≠ 4 ∧ bits a 5 3 ≠ 7
    let mine := isJob ∧ b.taken = true ∧ b.seq.toNat = a / 256
    let w := s.boxAddr c s.me.ctx m
    let bad := s.poisoned w 8
    let r := s.fixAt w 8
    let taken : State := (r.deferX f.d (BitVec.ofNat 64 ((s.peekWord w).toNat % 256))).releaseMailbox c m
    let struck : State := r.defer { dest := .x 0, fault := some { code := .uncorrectable } }
    (s.issues .jwait f → bad = false → mine → b.full = true → exec (.jwait f) s = completes s taken f)
    ∧ (s.issues .jpoll f → bad = false → mine → b.full = true → exec (.jpoll f) s = completes s taken f)
    ∧ (s.issues .jwait f → ¬ isJob ∨ bad = false ∧ ¬ mine → exec (.jwait f) s = completes s (r.deferX f.d 3) f)
    ∧ (s.issues .jpoll f → ¬ isJob ∨ bad = false ∧ ¬ mine → exec (.jpoll f) s = completes s (r.deferX f.d 3) f)
    ∧ (s.issues .jpoll f → bad = false → mine → b.full = false → exec (.jpoll f) s = completes s (r.deferX f.d 0) f)
    ∧ (s.issues .jwait f → bad = false → mine → b.full = false →
        exec (.jwait f) s = parks s r { kind := .jwait, op := .jwait, f := f, aux := 32 * c + m })
    ∧ (s.issues .jwait f → bad = true → isJob → exec (.jwait f) s = completes s struck f)
    ∧ (s.issues .jpoll f → bad = true → isJob → exec (.jpoll f) s = completes s struck f)
    ∧ (∀ u wt, (u.task s.cur).wait = some wt → (u.task s.cur).status = .parked → wt.kind = .jwait → wt.f = f →
        s = { u with cur := s.cur, tasks := u.tasks.set s.cur { u.task s.cur with status := .ready, wait := none } } →
        bad = false → mine → b.full = true → exec (.jwaitWake s.cur) u = .next (taken.complete s.cur f)))

/-! ## The task graph -/

/-- TGNODE, TGEDGE and TGRUN build and release a graph; nodes become records and finish. TGNODE makes a building node with the count, kind, entry and argument its operands give and defers its id; TGEDGE adds an edge; TGRUN
performs what its release orders, at pkg for nodes of AGX, and then releases its building nodes at one instant (R105, R106, R178, R351, R352, R353). A released node without predecessors becomes a record, placed or held in order of readiness; the first held record that finds room is
placed, another waiting alone; a finished node
takes 1 from each successor's count and is freed with its edges (R105, R106). -/
def Obligations.TaskGraphsBuildRunAndFinish : Prop :=
  (∀ (f : Fields) (s : State),
    let d := dieOf s.myCore
    let arg := oCanon (s.me.getO f.a)
    let count := (s.me.getX f.c).toNat
    (∀ (kind : NodeKind), s.issues .tgnode f → malformed arg = false → tagOf arg ≠ 6 → count ≤ 65535 → (s.die d).nodeRoom ≠ 0 →
        (f.x.toNat % 4 = 0 ∧ kind = .task ∨ 2 ≤ f.x.toNat % 4 ∧ kind = .merge) →
        let made := s.addNode d (nodeOf s.me kind count (entryOf s.me f) arg)
        exec (.tgnode f) s = completes s (made.2.deferX f.d ((nodeId d made.1).setWidth 64)) f)
    ∧ (∀ a h, s.issues .tgnode f → malformed arg = false → tagOf arg ≠ 6 → arg ≠ 0 → count ≤ 65535 → (s.die d).nodeRoom ≠ 0 →
        f.x.toNat % 4 = 1 → header s arg = .ok (a, h) → hKind h = 6 →
        let made := s.addNode d (nodeOf s.me .copy count 0 arg)
        exec (.tgnode f) s = completes s (made.2.deferX f.d ((nodeId d made.1).setWidth 64)) f)
    ∧ (∀ a b na nb, s.issues .tgedge f → needNode s (s.me.getX f.a) = .ok (a, na) → needNode s (s.me.getX f.b) = .ok (b, nb) →
        nb.state = .building → na.state ≠ .finished → (s.die d).edgeRoom ≠ 0 →
        exec (.tgedge f) s = completes s (s.setDie d { s.die d with edges := (s.die d).edges ++ [(a, b)] }) f)
    ∧ (∀ s', s.issues .tgrun f → releasedAt (if s.agxBuilding s.me.tid then 3 else 2) (dieOf s.myCore) s = .ok s' → exec (.tgrun f) s = completes s (s'.releaseNodes s'.me.tid) f))
  ∧ (∀ (s : State) (d i : Nat) (n : Node),
    (s.die d).node i = some n →
    (∀ t, n.ready → n.kind ≠ .copy → s.frozen n.part n.ctx = false → s.placeableHeld d = none →
        let running := s.setDie d { s.die d with nodes := (s.die d).nodes.set i { n with state := .running } }
        running.graphPlace d n.dies (n.record (nodeId d i)) = some t → exec (.tgNodeReady d i) s = .next t)
    ∧ (n.ready → n.kind ≠ .copy → s.frozen n.part n.ctx = false → s.placeableHeld d = none →
        let running := s.setDie d { s.die d with nodes := (s.die d).nodes.set i { n with state := .running } }
        running.graphPlace d n.dies (n.record (nodeId d i)) = none →
        exec (.tgNodeReady d i) s = .next (running.setDie d ((running.die d).hold (n.record (nodeId d i)))))
    ∧ (∀ r rest t, (s.die d).held = r :: rest → s.frozen r.part r.ctx = false → s.graphPlace d (s.maskOf d r) r = some t →
        exec (.tgHeldPlace d) s = .next (t.setDie d { t.die d with held := (t.die d).held.erase r }))
    ∧ (∀ r q rest t, (s.die d).held = q :: r :: rest → s.graphPlace d (s.maskOf d q) q = none → s.frozen r.part r.ctx = false →
        s.graphPlace d (s.maskOf d r) r = some t →
        exec (.tgHeldPlace d) s = .next (t.setDie d { t.die d with held := (t.die d).held.erase r }))
    ∧ (n.state = .finished → s.frozen n.part n.ctx = false →
        ∃ t, exec (.tgNodeFinish d i) s = .next t ∧ t.mem = s.mem
          ∧ t = (s.arrive.2.setDie d ((s.die d).edges.foldl (fun (x : Die) e => if e.1 == i then x.subtract s.order e.2 else x) (s.die d))).freeNode d i))

/-! ## Vector instructions -/

namespace Sys2Proof.Claims

/-- The instruction completes; the active elements of `e` bits of vD take `r`, the others keep their values, and nothing else changes
(R127, R355). -/
def elementwise (s : State) (f : Fields) (e : Nat) (r : Nat → Nat) (out : Result) : Prop :=
  ∃ w : BitVec 2048, out = completes s (s.setV f.d w) f
    ∧ ∀ i, i < s.me.lanes e → getLane w e i = if s.me.active f e i then r i % 2 ^ e else getLane (s.me.getV f.d) e i

/-- As `elementwise`, and the flags of the active elements are set (R123). -/
def elementwiseF (s : State) (f : Fields) (e : Nat) (r : Nat → Nat × BitVec 6) (out : Result) : Prop :=
  ∃ w : BitVec 2048, ∃ fl : BitVec 6, out = completes s ((s.setV f.d w).raiseFlags fl) f
    ∧ (∀ i, i < s.me.lanes e → getLane w e i = if s.me.active f e i then (r i).1 % 2 ^ e else getLane (s.me.getV f.d) e i)
    ∧ ∀ b, fl.getLsbD b = true ↔ ∃ i, i < s.me.lanes e ∧ s.me.active f e i = true ∧ (r i).2.getLsbD b = true

/-- The instruction completes with a deferred result: the active elements of vD are to take `r`, each with its own flags (R60, R62, R364). -/
def deferred (s : State) (f : Fields) (e : Nat) (r : Nat → Nat × BitVec 6) (out : Result) : Prop :=
  ∃ (v : BitVec 2048) (m : BitVec 256) (fl : List (BitVec 6)), out = completes s (s.deferV f.d v m (e / 8) fl) f
    ∧ (∀ i, i < s.me.lanes e → s.me.active f e i = true → getLane v e i = (r i).1 % 2 ^ e)
    ∧ (∀ i, i < s.me.lanes e → ∀ b, b < e / 8 → m.getLsbD (i * (e / 8) + b) = s.me.active f e i)
    ∧ ∀ i, i < s.me.lanes e → fl[i]? = some (if s.me.active f e i then (r i).2 else 0)

/-- The instruction completes; every bit of the active elements of `e` bits of pD takes the test's outcome, and the other bits stay. -/
def predicated (s : State) (f : Fields) (e : Nat) (holds : Nat → Bool) (fl : BitVec 6) (out : Result) : Prop :=
  ∃ w : BitVec 256, out = completes s ((s.setP f.d w).raiseFlags fl) f
    ∧ ∀ i, i < s.me.lanes e → ∀ b, b < e / 8 →
        w.getLsbD (i * (e / 8) + b) = if s.me.active f e i then holds i else (s.me.getP f.d).getLsbD (i * (e / 8) + b)

end Sys2Proof.Claims

/-- The integer vector instructions complete, and each active element of vD takes the op of its elements at the width Z names; inactive
elements, flags and memory stay (R132, R133, R355 to R357, R363, R372, R373, R377 to R379, R388 to R390, R394). -/
def Obligations.VectorIntegerInstructionsWriteActiveElements : Prop := ∀ (f : Fields) (s : State),
  let e : Nat := 8 * 2 ^ f.z.toNat
  let a := getLane (s.me.getV f.a) e
  let b := s.me.laneB f e
  let c := getLane (s.me.getV f.c) e
  let sa (i : Nat) : Int := toSigned e (a i)
  let sb (i : Nat) : Int := toSigned e (b i)
  let n := f.x.getLsbD 8
  let sat := f.x.getLsbD 7
  let each (o : Op) (r : Nat → Nat) (out : Result) : Prop := s.issues o f → elementwise s f e r out
  each .vadd (fun i => cut sat e (sa i + sb i)) (exec (.vadd f) s)
  ∧ each .vsub (fun i => cut sat e (sa i - sb i)) (exec (.vsub f) s)
  ∧ each .vmul (fun i => cut sat e (sa i * sb i)) (exec (.vmul f) s)
  ∧ each .vmulh (fun i => if n then a i * b i / 2 ^ e else wrap e (sa i * sb i / (2 ^ e : Nat))) (exec (.vmulh f) s)
  ∧ each .vmad (fun i => cut sat e (sa i * sb i + toSigned e (c i))) (exec (.vmad f) s)
  ∧ each .vmin (fun i => if n then min (a i) (b i) else if sb i < sa i then b i else a i) (exec (.vmin f) s)
  ∧ each .vmax (fun i => if n then max (a i) (b i) else if sa i < sb i then b i else a i) (exec (.vmax f) s)
  ∧ each .vabs (fun i => cut sat e (sa i).natAbs) (exec (.vabs f) s)
  ∧ each .vand (fun i => a i &&& b i) (exec (.vand f) s)
  ∧ each .vor (fun i => a i ||| b i) (exec (.vor f) s)
  ∧ each .vxor (fun i => a i ^^^ b i) (exec (.vxor f) s)
  ∧ each .vshl (fun i => cut sat e (sa i * 2 ^ (b i % e))) (exec (.vshl f) s)
  ∧ each .vshr (fun i => a i / 2 ^ (b i % e)) (exec (.vshr f) s)
  ∧ each .vsra (fun i => wrap e (sa i / 2 ^ (b i % e))) (exec (.vsra f) s)
  ∧ each .vsel (fun i => if (s.me.getP f.c).getLsbD (i * (e / 8)) then a i else b i) (exec (.vsel f) s)
  ∧ each .vpdep (fun i => pdepW e (a i) (b i)) (exec (.vpdep f) s)
  ∧ each .vpext (fun i => pextW e (a i) (b i)) (exec (.vpext f) s)
  ∧ each .vgfm (fun i => gfm64 (a i) (b i)) (exec (.vgfm f) s)
  ∧ each .vbperm (fun i => bperm64 (a i) (s.me.getG f.b)) (exec (.vbperm f) s)
  ∧ each .viota (fun i => i) (exec (.viota f) s)
  ∧ each .vsplat (fun _ => (s.me.getX f.a).toNat) (exec (.vsplat f) s)
  ∧ (s.issues .vdot4 f → elementwise s f 32 (fun i =>
      let byte (v : BitVec 2048) (k : Nat) : Int := toSigned 8 (getLane v 8 (4 * i + k))
      let dot (k : Nat) : Int := byte (s.me.getV f.a) k * byte (s.me.getV f.b) k
      wrap 32 (getLane (s.me.getV f.d) 32 i + (dot 0 + dot 1 + dot 2 + dot 3))) (exec (.vdot4 f) s))

/-- Floating vector instructions and conversions round each active element once, with its flags. The floating vector instructions complete, and each active element takes its operation rounded once, with the flags of R123; VFMIN and
VFMAX round nothing and set no flag (R115, R123, R358, R365, R384, R395). That a product of 0 and an infinity with a NaN addend sets no
invalid flag is the model's choice (log entry 50). VCVT and VCVTI convert each active element, laid out at its own size, with one predicate bit for each byte of the larger size; the
elements at and above the smaller lane count keep their values; the flags that its active elements' conversions set, and no others, are set
(R112, R123, R361, R362). -/
def Obligations.VectorFloatsRoundOnce : Prop :=
  (∀ (f : Fields) (s : State),
    let m := floatFmt f
    let e := floatBits f
    let a := getLane (s.me.getV f.a) e
    let b := floatB s.me f
    let wide (n : BitVec 6) (i : Nat) : Val := fp32.value (getLane (s.me.getW n) 32 i)
    let each (o : Op) (r : Nat → Nat × BitVec 6) (out : Result) : Prop := s.issues o f → elementwiseF s f e r out
    let nans (vs : List Val) : Bool := vs.any Val.isNan
    each .vfadd (fun i => roundArith m (nans [m.value (a i), m.value (b i)]) ((m.value (a i)).add (m.value (b i)))) (exec (.vfadd f) s)
    ∧ each .vfsub (fun i => roundArith m (nans [m.value (a i), m.value (b i)]) ((m.value (a i)).add (m.value (b i)).neg)) (exec (.vfsub f) s)
    ∧ each .vfmul (fun i => roundArith m (nans [m.value (a i), m.value (b i)]) ((m.value (a i)).mul (m.value (b i)))) (exec (.vfmul f) s)
    ∧ each .vfma (fun i =>
        let c := m.value (getLane (s.me.getV f.c) e i)
        roundArith m (nans [m.value (a i), m.value (b i), c]) (((m.value (a i)).mul (m.value (b i))).add c)) (exec (.vfma f) s)
    ∧ (s.issues .vfmin f → elementwise s f e (fun i => fminmax m false (a i) (b i)) (exec (.vfmin f) s))
    ∧ (s.issues .vfmax f → elementwise s f e (fun i => fminmax m true (a i) (b i)) (exec (.vfmax f) s))
    ∧ (s.issues .vscacc f → elementwiseF s f 32 (fun i =>
        let scale := getLane (s.me.getV f.b) 8 (i / 2 ^ (f.x.toNat / 16 % 16))
        let sc := if f.x.toNat % 16 = 15 then valueOf 15 scale else ue4m3 scale
        let x := fp32.value (getLane (s.me.getV f.a) 32 i)
        let d := fp32.value (getLane (s.me.getV f.d) 32 i)
        roundArith fp32 (nans [x, d, sc]) ((x.mul sc).add d)) (exec (.vscacc f) s))
    ∧ each .vwget (fun i => m.round .ne false (wide f.a i)) (exec (.vwget f) s)
    ∧ (s.issues .vcbx f → elementwise s f 16 (fun i =>
        (s.core s.myCore).codebook.entry (getLane (s.me.getV f.a) 4 i)) (exec (.vcbx f) s))
    ∧ (s.issues .vwacc f → ∃ (w : BitVec 4096) (fl : BitVec 6),
        let sum (i : Nat) : Nat × BitVec 6 := roundArith fp32 (nans [wide f.d i, m.value (a i)]) ((wide f.d i).add (m.value (a i)))
        exec (.vwacc f) s = completes s ((s.setMe (s.me.setW f.d w)).raiseFlags fl) f
        ∧ (∀ i, i < 128 → getLane w 32 i =
            if i < s.me.lanes e ∧ s.me.active f e i = true then (sum i).1 % 2 ^ 32 else getLane (s.me.getW f.d) 32 i)
        ∧ ∀ b, fl.getLsbD b = true ↔ ∃ i, i < s.me.lanes e ∧ s.me.active f e i = true ∧ (sum i).2.getLsbD b = true))
  ∧ (∀ (f : Fields) (s : State),
    let src := f.x.toNat / 16 % 16
    let dst := f.x.toNat % 16
    let ss := storeBits src
    let ds := storeBits dst
    let n := s.me.lanes (max ss ds)
    let converted (out : Result) : Prop := ∃ (w : BitVec 2048) (fl : BitVec 6),
      let on (i : Nat) : Prop := i < n ∧ (s.me.guard f).getLsbD (i * max ss ds / 8) = true
      let conv (i : Nat) : Nat × BitVec 6 := roundCode dst .ne (f.x.getLsbD 8) (valueOf src (getLane (s.me.getV f.a) ss i))
      out = completes s ((s.setV f.d w).raiseFlags fl) f
      ∧ (∀ i, i < s.me.lanes ds → (on i → getLane w ds i = (conv i).1 % 2 ^ ds) ∧ (¬ on i → getLane w ds i = getLane (s.me.getV f.d) ds i))
      ∧ ∀ b, fl.getLsbD b = true ↔ ∃ i, on i ∧ (conv i).2.getLsbD b = true
    (s.issues .vcvt f → converted (exec (.vcvt f) s)) ∧ (s.issues .vcvti f → converted (exec (.vcvti f) s)))

/-- The predicate instructions complete: a compare sets every bit of each active element to its outcome, logic works on single bits, PSET and
VWHILE give runs, and PCNT and VLEN count elements (R127, R129, R333, R359, R366, R376, R396). -/
def Obligations.PredicateInstructionsWriteTheirBits : Prop := ∀ (f : Fields) (s : State),
  let e : Nat := 8 * 2 ^ f.z.toNat
  let n := f.x.getLsbD 8
  let xa := s.me.getX f.a
  let xb := s.me.getX f.b
  let pa := s.me.getP f.a
  let pb := s.me.getP f.b
  let fe := floatBits f
  let cmp (i : Nat) : Bool × BitVec 6 := fcond (floatFmt f) (f.x.toNat % 8) (getLane (s.me.getV f.a) fe i) (floatB s.me f i)
  let logic (g : Bool → Bool → Bool) (out : Result) : Prop := ∃ w : BitVec 256, out = completes s (s.setP f.d w) f
    ∧ ∀ b, b < 256 → w.getLsbD b = if (s.me.guard f).getLsbD b then g (pa.getLsbD b) (pb.getLsbD b) else (s.me.getP f.d).getLsbD b
  (s.issues .vcmp f →
      predicated s f e (fun i => condW n e (f.x.toNat % 8) (getLane (s.me.getV f.a) e i) (s.me.laneB f e i)) 0 (exec (.vcmp f) s))
  ∧ (s.issues .vfcmp f → ∃ fl, predicated s f fe (fun i => (cmp i).1) fl (exec (.vfcmp f) s)
      ∧ ∀ b, fl.getLsbD b = true ↔ ∃ i, i < s.me.lanes fe ∧ s.me.active f fe i = true ∧ (cmp i).2.getLsbD b = true)
  ∧ (s.issues .vwhile f →
      predicated s f e (fun i => if n then decide (xa.toNat + i < xb.toNat) else decide (xa.toInt + i < xb.toInt)) 0 (exec (.vwhile f) s))
  ∧ (s.issues .pset f → predicated s f e (fun i =>
      if f.x.toNat % 4 = 0 then false else if f.x.toNat % 4 = 1 then true else decide (i < xa.toNat)) 0 (exec (.pset f) s))
  ∧ (s.issues .pand f → logic (fun x y => x && y) (exec (.pand f) s))
  ∧ (s.issues .por f → logic (fun x y => x || y) (exec (.por f) s))
  ∧ (s.issues .pxor f → logic (fun x y => x ^^ y) (exec (.pxor f) s))
  ∧ (s.issues .pnot f → logic (fun x _ => !x) (exec (.pnot f) s))
  ∧ (s.issues .pcnt f → exec (.pcnt f) s = completes s (s.setX f.d (BitVec.ofNat 64
      ((List.range (s.me.lanes e)).countP (fun i => pa.getLsbD (i * (e / 8)))))) f)
  ∧ (s.issues .vlen f → exec (.vlen f) s = completes s (s.setX f.d (BitVec.ofNat 64 (s.me.bits / e))) f)

/-- The deferred lane instructions complete: reductions and running sums over the active elements in ascending order, permutation,
compression and expansion, and the special functions; a NaN that goes in comes out canonical (R116, R130, R360, R364, R367, R368, R380, R382, R385).
That this holds for the first element of VFRED and VFSCAN too, which no operation has touched, is the model's reading (log entry 50). -/
def Obligations.LaneInstructionsDeferTheirElements : Prop := ∀ (f : Fields) (s : State),
  let e : Nat := 8 * 2 ^ f.z.toNat
  let a := getLane (s.me.getV f.a) e
  let act := s.me.actives f e
  let n := f.x.getLsbD 8
  let op := f.x.toNat % 8
  let m := floatFmt f
  let fe := floatBits f
  let fa := getLane (s.me.getV f.a) fe
  let out64 (v : Nat) : Word64 := if n then BitVec.ofNat 64 v else signW e v
  let below (i : Nat) : List Nat := (s.me.actives f fe).filter (fun j => j ≤ i)
  let step (r : Nat × BitVec 6) (j : Nat) : Nat × BitVec 6 := ((fadd m r.1 (fa j)).1, (fadd m r.1 (fa j)).2)
  let each (o : Op) (k : Sfu) (out : Result) : Prop :=
    s.issues o f → deferred s f fe (fun i => sfu k (fmtZ f.z) (fa i)) out
  let moved (ps : List (Nat × Nat)) (out : Result) : Prop := ∃ (v : BitVec 2048) (k : BitVec 256),
    out = completes s (s.deferV f.d v k (e / 8)) f
    ∧ (∀ p, p ∈ ps → getLane v e p.1 = a p.2 % 2 ^ e)
    ∧ ∀ i, i < s.me.lanes e → ∀ b, b < e / 8 → (k.getLsbD (i * (e / 8) + b) = true ↔ ∃ p, p ∈ ps ∧ p.1 = i)
  (s.issues .vred f → op = 0 → exec (.vred f) s = completes s (s.deferX f.d (out64 ((act.map a).sum % 2 ^ e))) f)
  ∧ (s.issues .vred f → act = [] → exec (.vred f) s = completes s (s.deferX f.d (out64
      (if op = 1 then (if n then 2 ^ e - 1 else 2 ^ (e - 1) - 1) else if op = 2 then (if n then 0 else 2 ^ (e - 1))
       else if op = 3 then 2 ^ e - 1 else 0))) f)
  ∧ (s.issues .vred f → op ≠ 0 → op < 6 → act ≠ [] →
      ∃ v, exec (.vred f) s = completes s (s.deferX f.d (out64 v)) f
        ∧ (op = 1 → v ∈ act.map a ∧ ∀ x, x ∈ act.map a → if n then v ≤ x else toSigned e v ≤ toSigned e x)
        ∧ (op = 2 → v ∈ act.map a ∧ ∀ x, x ∈ act.map a → if n then x ≤ v else toSigned e x ≤ toSigned e v)
        ∧ (op = 3 → ∀ b, v.testBit b = (act.map a).all (fun x => x.testBit b))
        ∧ (op = 4 → ∀ b, v.testBit b = (act.map a).any (fun x => x.testBit b))
        ∧ (op = 5 → ∀ b, v.testBit b = ((act.map a).countP (fun x => x.testBit b) % 2 == 1)))
  ∧ (s.issues .vscan f →
      deferred s f e (fun i => (((act.filter (fun j => j ≤ i)).map a).sum, 0)) (exec (.vscan f) s))
  ∧ (s.issues .vperm f → deferred s f e (fun i =>
      let k := getLane (s.me.getV f.b) e i
      (if k < s.me.lanes e then a k else 0, 0)) (exec (.vperm f) s))
  ∧ (s.issues .vcomp f → moved (act.zipIdx.map (fun p => (p.2, p.1))) (exec (.vcomp f) s))
  ∧ (s.issues .vexpd f → moved act.zipIdx (exec (.vexpd f) s))
  ∧ each .vrcp .rcp (exec (.vrcp f) s) ∧ each .vrsq .rsq (exec (.vrsq f) s)
  ∧ each .vexp2 .exp2 (exec (.vexp2 f) s) ∧ each .vlog2 .log2 (exec (.vlog2 f) s)
  ∧ (s.issues .vfred f → (s.me.actives f fe) = [] →
      let inf := (2 ^ m.eb - 1) * 2 ^ m.mb
      let none := if f.x.toNat % 4 = 0 then 0 else if f.x.toNat % 4 = 1 then inf else inf + 2 ^ (m.eb + m.mb)
      exec (.vfred f) s = completes s (s.defer { dest := .x f.d, flags := [0], val := BitVec.ofNat 4096 none }) f)
  ∧ (∀ k ks, s.issues .vfred f → s.me.actives f fe = k :: ks → f.x.toNat % 4 = 0 →
      ∃ fl, exec (.vfred f) s = completes s (s.defer { dest := .x f.d, val := BitVec.ofNat 4096 (ks.foldl step (m.canon (fa k), 0)).1, flags := [fl] }) f)
  ∧ (∀ k ks, s.issues .vfred f → s.me.actives f fe = k :: ks → f.x.toNat % 4 = 1 ∨ f.x.toNat % 4 = 2 →
      let v := ks.foldl (fun r j => fminmax m (f.x.toNat % 4 == 2) r (fa j)) (m.canon (fa k))
      exec (.vfred f) s = completes s (s.defer { dest := .x f.d, val := BitVec.ofNat 4096 v, flags := [0] }) f)
  ∧ (s.issues .vfscan f → ∃ (v : BitVec 2048) (k : BitVec 256) (fl : List (BitVec 6)),
      exec (.vfscan f) s = completes s (s.deferV f.d v k (fe / 8) fl) f
      ∧ ∀ i, i ∈ s.me.actives f fe → ∀ j js, below i = j :: js → getLane v fe i = (js.foldl step (m.canon (fa j), 0)).1 % 2 ^ fe)

/-- VGET, VPUT, VSBP and GRANK give their value; outstanding results are written later. VGET, VPUT, VSBP and GRANK complete with their value: VGET the element xB, VPUT in that element alone, GRANK a stable order of the 64
codes, VSBP a rounded sum for each active group of 64 and no width below 1,024 bits; an index outside the register raises `bounds` (R135, R301, R371, R381, R383). DEFERRED_RESULT_WRITE writes the chosen elements of one outstanding result of a task and leaves the rest outstanding (R60, R62). A load
that may still be performed gives what it read at issue, or what its bytes hold now, the task's own earlier stores first (R205, R208): which
elements arrive, and when a load is performed, are free values of the model (log entries 5 and 6). -/
def Obligations.ElementsTablesAndDeferredResults : Prop :=
  (∀ (f : Fields) (s : State),
    let e : Nat := 8 * 2 ^ f.z.toNat
    let k := (s.me.getX f.b).toNat
    let cb := (s.core s.myCore).codebook
    let code (i : Nat) : Nat := getLane (s.me.getV f.a) 4 i
    let key (i : Nat) : Nat := if f.x.getLsbD 0 then cb.rankOf (code i) else code i
    let bad (o : Op) (out : Result) : Prop := s.issues o f → s.me.lanes e ≤ k →
      out = faults s s { code := .bounds, eval := s.me.getX f.b, offset := s.me.getX f.b }
    let group (j : Nat) : Nat × BitVec 6 :=
      sbpGroup cb ((List.range 64).map (fun m => (fmtOf 0).value (getLane (s.me.getV f.a) 16 (64 * j + m))))
        ((List.range 64).map (fun m => getLane (s.me.getV f.b) 4 (64 * j + m)))
    (s.issues .vget f → k < s.me.lanes e → exec (.vget f) s = completes s (s.deferX f.d
        (if f.x.getLsbD 8 then BitVec.ofNat 64 (getLane (s.me.getV f.a) e k) else signW e (getLane (s.me.getV f.a) e k))) f)
    ∧ (s.issues .vput f → k < s.me.lanes e → ∃ w : BitVec 2048, exec (.vput f) s = completes s (s.setV f.d w) f
        ∧ ∀ i, i < s.me.lanes e →
            getLane w e i = if i = k then (s.me.getX f.a).toNat % 2 ^ e else getLane (s.me.getV f.d) e i)
    ∧ bad .vget (exec (.vget f) s) ∧ bad .vput (exec (.vput f) s)
    ∧ (s.issues .grank f → ∃ g : BitVec 384, exec (.grank f) s = completes s (s.defer { dest := .g f.d, val := g.setWidth 4096 }) f
        ∧ ∀ i j, i < j → j < 64 →
            let x := getLane g 6 i
            let y := getLane g 6 j
            x ≠ y ∧ (key x < key y ∨ key x = key y ∧ x < y))
    ∧ (s.issues .vsbp f → s.me.bits < 1024 → exec (.vsbp f) s = faults s s { code := .illegalEncoding })
    ∧ (s.issues .vsbp f → 1024 ≤ s.me.bits → ∃ (v : BitVec 4096) (k : BitVec 256) (fl : List (BitVec 6)),
        exec (.vsbp f) s = completes s (s.defer { dest := .w f.d, val := v, mask := k, flags := fl }) f
        ∧ ∀ j, j < 128 → k.getLsbD j = decide (j < s.me.bits / 1024 ∧ s.me.active f 16 (64 * j) = true)
            ∧ (k.getLsbD j = true → getLane v 32 j = add32 (getLane (s.me.getW f.d) 32 j) (fp32.value (group j).1) % 2 ^ 32)))
  ∧ (∀ (s : State) (k : TaskKey) (i : Nat) (p : Pend) (choice : BitVec 256),
    (s.task k).pend[i]? = some p → p.flags = [] → p.fault = none → p.msg = none →
    (∀ n e z, n ≠ 0 → p.dest = .x n → p.mask = 1 → p.unit = 1 → choice.getLsbD 0 = true → p.src = [e] → p.how = .word z →
        let v := leNat (if e.priv then s.mem.readN e.addr e.size else s.loadAt k p.seq e.addr e.size)
        ∃ t, exec (.deferredResultWrite k i choice) s = .next t ∧ t.mem = s.mem
          ∧ (t.task k).pend.map (·.dest) = ((s.task k).pend.eraseIdx i).map (·.dest)
          ∧ ((t.task k).getX n = p.val.setWidth 64
            ∨ (t.task k).getX n = if z then BitVec.ofNat 64 v else BitVec.ofInt 64 (toSigned (8 * e.size) v)))
    ∧ (∀ n, p.src = [] → p.dest = .x n → p.mask = 1 → p.unit = 1 → choice.getLsbD 0 = true →
        ∃ t, exec (.deferredResultWrite k i choice) s = .next t ∧ (t.task k).pend = (s.task k).pend.eraseIdx i
          ∧ (n ≠ 0 → (t.task k).getX n = p.val.setWidth 64) ∧ (∀ m, m ≠ n → (t.task k).getX m = (s.task k).getX m)
          ∧ (t.task k).pc = (s.task k).pc ∧ t.mem = s.mem)
    ∧ (∀ n, p.src = [] → p.dest = .v n → (∀ b, b < 256 → p.mask.getLsbD b = true → b < (s.task k).bits / 8) →
        (∃ b, b < 256 ∧ (p.mask &&& ~~~ p.chosen choice).getLsbD b = true) →
        ∃ t, exec (.deferredResultWrite k i choice) s = .next t
          ∧ (t.task k).pend = (s.task k).pend.set i { p with mask := p.mask &&& ~~~ p.chosen choice }
          ∧ ∀ b, b < (s.task k).bits / 8 → getLane ((t.task k).getV n) 8 b =
              if (p.chosen choice).getLsbD b then getLane (p.val.setWidth 2048 : BitVec 2048) 8 b
              else getLane ((s.task k).getV n) 8 b))

/-! ## Vector memory -/

/-- Vector loads and stores, table loads and packed tiles move each active element. VLD, VLDS and VGATH complete when their tests pass: each active element defers the bytes at its own offset, or 0 where the out-of-bounds
mode finds it outside; a misaligned element, and without that mode one outside, raises its fault and nothing moves (R131, R369, R374). Each
element may be read again on its own until it arrives (R370; log entry 6). VST, VSTS and VSCAT complete when their tests pass: the elements inside are written in ascending order at one place of the task's program
order, VSCAT combining those that meet at one offset; where one of them must wait, none has been written; GLD and GST move a whole table
register (R131, R300, R386, R387, R391, R392). That the elements enter the store buffer in one step is the model's choice (log entry 34). VLDPK defers the elements of a packed tile, 0 where its mask has no bit; VSTPK appends the nonzero elements as a record and updates the
tile's entry and the used bytes in one step, after the task's earlier stores there (R202, R203, R375, R393). -/
def Obligations.VectorMemoryMovesElements : Prop :=
  (∀ (f : Fields) (s : State),
    let e : Nat := 8 * 2 ^ f.z.toNat
    let n : Nat := 2 ^ f.z.toNat
    let r := s.me.getO f.a
    let act := s.me.actives f e
    let line (i : Nat) : Int := (s.me.getX f.b).toInt + litOffset f + i * n
    let strided (i : Nat) : Int := (s.me.getX f.b).toInt + litOffset f + i * (s.me.getX f.c).toInt
    let gathered (i : Nat) : Int := toSigned e (getLane (s.me.getV f.b) e i) * n
    let flt (c : FaultCode) (v : Int) : Flt :=
      { code := c, eval := BitVec.ofInt 64 v, ptr := oCanon r, offset := BitVec.ofInt 64 v }
    let loads (o : Op) (off : Nat → Int) (out : Result) : Prop := s.issues o f → badPtr (oCanon r) = false →
      (∀ ob s' (vals : Nat → Nat), (∀ i, i ∈ act → off i % (n : Int) = 0) → (f.x.getLsbD 7 = false → ∀ i, i ∈ act → laneInside r n (off i)) →
          objOf s r = .ok ob → loadable s.me.priv ob.hdr → act ≠ [] → touch s f.a ob.hdr = .ok s' → s'.me.width = s.me.width →
          (∀ i, i ∈ act → laneInside (s'.me.getO f.a) n (off i) →
            ∃ bs, readThrough s' (s'.me.getO f.a) (off i).toNat n = .ok bs ∧ leNat bs = vals i) →
          ∃ q : Pend, out = completes s (s'.deferLoad (s'.me.getO f.a) n
              ((act.filter (fun i => laneInside (s'.me.getO f.a) n (off i))).map (fun i => (i, (off i).toNat))) q) f
            ∧ q.dest = .v f.d ∧ q.unit = n ∧ q.flags = [] ∧ q.fault = none ∧ q.how = .lanes
            ∧ (∀ i, i ∈ act → getLane q.val e i = (if laneInside (s'.me.getO f.a) n (off i) then vals i else 0) % 2 ^ e)
            ∧ ∀ i, i < s.me.lanes e → ∀ b, b < n → q.mask.getLsbD (i * n + b) = s.me.active f e i)
      ∧ (∀ i, act.find? (fun i => off i % (n : Int) != 0) = some i → out = faults s s (flt .alignment (off i)))
      ∧ (∀ i, (∀ j, j ∈ act → off j % (n : Int) = 0) → f.x.getLsbD 7 = false → act.find? (fun i => !laneInside r n (off i)) = some i →
          out = faults s s (flt .bounds (off i)))
    loads .vld line (exec (.vld f) s) ∧ loads .vlds strided (exec (.vlds f) s) ∧ loads .vgath gathered (exec (.vgath f) s))
  ∧ (∀ (f : Fields) (s : State) (ob : Obj) (s1 s2 : State),
    let e : Nat := 8 * 2 ^ f.z.toNat
    let n : Nat := 2 ^ f.z.toNat
    let r := s.me.getO f.a
    let r' := s1.me.getO f.a
    let line (i : Nat) : Int := (s.me.getX f.b).toInt + litOffset f + i * n
    let strided (i : Nat) : Int := (s.me.getX f.b).toInt + litOffset f + i * (s.me.getX f.c).toInt
    let scattered (i : Nat) : Int := toSigned e (getLane (s.me.getV f.b) e i) * n
    let ready (off : Nat → Int) : Prop := checkLanes s f r (activeLanes s.me f off) = .ok () ∧ storeObj s r false = .ok ob ∧ storable s (oCanon r) s.me.priv ob.hdr 8 = true
      ∧ (hKind ob.hdr = 2 → ∀ i, i ∈ s.me.actives f e → 8 ≤ off i % 16) ∧ hSealed ob.hdr = false ∧ s.me.actives f e ≠ []
    let writes (off : Nat → Int) : Act State := ((s.me.actives f e).filter (fun i => laneInside r' n (off i))).foldlM (fun t i =>
      putThrough t r' (off i).toNat (leBytes n (getLane (s1.me.getV f.d) e i))) s1.stampSeq
    let inside : List Nat := (s.me.actives f e).filter (fun i => laneInside r' n (scattered i))
    let combined : Act State := ((inside.map scattered).eraseDups).foldlM (fun t off => do
      let old ← if f.x.toNat % 8 = 0 then pure 0 else (do
        let bs ← readThrough t r' off.toNat n
        return leNat bs)
      putThrough t r' off.toNat (leBytes n (((inside.filter (fun i => scattered i == off)).map
        (fun i => getLane (s1.me.getV f.d) e i)).foldl (scatStep (f.x.toNat % 8) e) old))) s1.stampSeq
    let waited (u : State) : Result := .next { s1 with plat := { s1.plat with pages := u.plat.pages } }
    let toff := tableOffset s.me f
    touch s f.a ob.hdr = .ok s1 →
    (s.issues .vst f → ready line → writes line = .ok s2 → exec (.vst f) s = completes s s2 f)
    ∧ (s.issues .vsts f → ready strided → writes strided = .ok s2 → exec (.vsts f) s = completes s s2 f)
    ∧ (s.issues .vscat f → ready scattered → oLen r' = oLen r → combined = .ok s2 → exec (.vscat f) s = completes s s2 f)
    ∧ (s.issues .vst f → ready line → writes line = .error (.retry s2) → exec (.vst f) s = waited s2)
    ∧ (s.issues .vsts f → ready strided → writes strided = .error (.retry s2) → exec (.vsts f) s = waited s2)
    ∧ (s.issues .vscat f → ready scattered → oLen r' = oLen r → combined = .error (.retry s2) → exec (.vscat f) s = waited s2)
    ∧ (∀ bs, s.issues .gld f → check s r toff 48 8 = .ok () → objOf s r = .ok ob → hKind ob.hdr ≠ 7 → loadable s.me.priv ob.hdr →
        readThrough s1 r' toff.toNat 48 = .ok bs →
        exec (.gld f) s = completes s (s1.deferLoad r' 48 [(0, toff.toNat)] { dest := .g f.d, val := BitVec.ofNat 4096 (leNat bs) }) f)
    ∧ (s.issues .gst f → check s r toff 48 8 = .ok () → storeObj s r false = .ok ob → hKind ob.hdr = 0 ∨ hKind ob.hdr = 4 →
        storable s (oCanon r) s.me.priv ob.hdr toff.toNat → hSealed ob.hdr = false →
        writeThrough s1 r' toff.toNat (leBytes 48 (s1.me.getG f.d).toNat) = .ok s2 → exec (.gst f) s = completes s s2 f))
  ∧ (∀ (f : Fields) (s : State) (a : Nat) (d : PackDesc),
    let e : Nat := 8 * 2 ^ f.z.toNat
    let n : Nat := 2 ^ f.z.toNat
    let r := s.me.getO f.a
    let i := (s.me.getX f.b).toNat
    (∀ ent rec0, s.issues .vldpk f → packChecks s f false = .ok (a, d) → readCanon s r (8 + 4 * i) 4 = .ok ent →
        let off := leNat (ent.take 3)
        let count := leNat (ent.drop 3)
        let mask := leNat (rec0.take 8)
        off + recordSize count n ≤ d.used → readCanon s r (d.start + off) (recordSize count n) = .ok rec0 → popW 64 mask = count →
        ∃ q : Pend, exec (.vldpk f) s =
            completes s (s.deferLoad (oSetTouched r false) (oLen r) [(0, 0)] q) f
          ∧ q.how = .tile i n ((s.me.actives f e).filter (· < 64)) ∧ q.dest = .v f.d ∧ q.unit = n ∧ q.flags = [] ∧ q.fault = none
          ∧ ∀ j, j ∈ s.me.actives f e → j < 64 → getLane q.val e j =
              (if mask.testBit j then leNat (((rec0.drop 8).drop (n * popW j mask)).take n) else 0) % 2 ^ e)
    ∧ (∀ (a0 : Nat) (h : Word64) (s1 : State) (x : Nat), s.issues .vstpk f → 64 ≤ s.me.lanes e → checkPtr s r = .ok () →
        header s (oCanon r) = .ok (a0, h) → releasedHome s (homeOf a0) = .ok s1 → s1.me = s.me → packChecks s1 f true = .ok (a, d) →
        let elem (j : Nat) : Nat := if s.me.active f e j then getLane (s.me.getV f.d) e j else 0
        let used := (List.range 64).filter (fun j => elem j != 0)
        let size := recordSize used.length n
        let body := used.flatMap (fun j => leBytes n (elem j))
        let rec0 := leBytes 8 (used.foldl (fun acc j => acc + 2 ^ j) 0) ++ body ++ List.replicate (size - 8 - body.length) 0
        let base := a + 16 + oView r
        d.used + size ≤ oLen r - d.start → access s1 (oCanon r) (16 + oView r) (oLen r) = .ok x →
        ∃ u, exec (.vstpk f) s = completes s u f ∧ u.mem = ((s1.mem.writeN (base + d.start + d.used) rec0).writeN (base + 8 + 4 * i)
          (leBytes 3 d.used ++ leBytes 1 used.length)).writeN (base + 4) (leBytes 4 (d.used + size))))

/-! ## Matrix engine, near-bank units and masks -/

/-- MMA, MSBP, MZERO and MDRAIN, with room in the queue and their checks passed, perform the task's earlier stores to the homes of what they
read or write and enter the queue with what they captured; a step count of 0 takes no entry; MDRAIN takes a mailbox, whose job id it defers, and its object starts to fill
(R141, R147, R153, R315, R320, R323). -/
def Obligations.MatrixCommandsEnterTheQueue : Prop := ∀ (f : Fields) (s s' : State),
  let core := s.core s.myCore
  let steps := if f.x.getLsbD 9 then core.el[f.c.toNat]?.getD 0 else s.me.getX f.c
  let fa := f.x.toNat % 16
  let fb := f.x.toNat / 16 % 16
  let oa := s.me.getO f.a
  let ob := s.me.getO f.b
  let base : MCmd :=
    { kind := .mma, acc := f.d.toNat, fa := fa, fb := fb, steps := steps.toNat, oa := oa, ob := ob, cb := core.slot0
      tid := s.me.tid, part := s.me.part, tenant := s.me.tenant, launch := s.me.launch }
  let scaled : MCmd := { base with scaled := true, scaleA := core.scaleA, scaleB := core.scaleB }
  let summed : MCmd := { base with kind := .msbp, cb := if f.x.getLsbD 8 then core.slot1 else core.slot0 }
  let sorted : MCmd := { summed with scaleB := core.scaleB, tab := core.tab }
  let operands (m : MCmd) : Prop := ∃ a b, needOperand s oa (m.extent fa) = .ok a ∧ needOperand s ob (m.extent fb) = .ok b
  let done (m : MCmd) : Result := completes s (if steps = 0 then s' else s'.accept m) f
  let performed (m : MCmd) : Prop := releasedFor (m.needs.map (fun r => oCanon r.1)) s = .ok s'
  core.queue.length < 16 →
  (s.issues .mma f → steps.toNat ≤ 65535 → f.x.getLsbD 8 = false → operands base → performed base → exec (.mma f) s = done base)
  ∧ (s.issues .mma f → steps.toNat ≤ 65535 → f.x.getLsbD 8 = true → operands scaled → core.scaleA.isSome ∨ core.scaleB.isSome →
      core.scaleA.all (fun b => b.kind != 2) → core.scaleB.all (fun b => b.kind != 2) →
      needRecord s core.scaleA (recordExtent 0 scaled.k) = .ok () → needRecord s core.scaleB (recordExtent 0 scaled.k) = .ok () → performed scaled →
      exec (.mma f) s = done scaled)
  ∧ (s.issues .msbp f → steps.toNat ≤ 65535 → fb = 9 → operands summed → performed summed → exec (.msbp f) s = done summed)
  ∧ (∀ b t, s.issues .msbp f → steps.toNat ≤ 65535 → fb ≠ 9 → operands sorted → core.tab = some t → core.scaleB = some b → b.kind = 2 →
      needRecord s core.scaleB (recordExtent 2 sorted.k) = .ok () → needRecord s core.tab (3072 * (sorted.k / 64)) = .ok () → performed sorted →
      exec (.msbp f) s = done sorted)
  ∧ (s.issues .mzero f → exec (.mzero f) s = completes s
      (s.accept { kind := .mzero, acc := f.d.toNat, tid := s.me.tid, part := s.me.part, tenant := s.me.tenant, launch := s.me.launch }) f)
  ∧ (∀ a u job, s.issues .mdrain f → needOperand s ob (4096 * storeBits fa / 8) = .ok a → hSealed (s.peekWord a) = false →
      releasedFor [oCanon ob] s = .ok s' → takeMailbox s' .mdrain f 1 = .ok (u, job) →
      let v := (u.setStaged a 1).deferX f.d (job.setWidth 64)
      exec (.mdrain f) s = completes s (v.accept { kind := .mdrain, acc := f.a.toNat, fa := fa, ob := ob, sat := f.x.getLsbD 8
                                                   clr := f.x.getLsbD 9, job := job, tid := v.me.tid, part := v.me.part
                                                   tenant := v.me.tenant, launch := v.me.launch }) f)
  ∧ ∀ m, ((s.accept m).core s.myCore).queue = core.queue ++ [m] ∧ (s.accept m).mem = s.mem

/-- MREAD defers a row's lanes of the committed tile and the step counter, or the fault of an accumulator that an error has struck, whose
offset is the model's own number for it and which is outstanding like any fault of a deferred result (log entries 3 and 10); MLOOP, MSCALE,
MTAB and CBLD defer the loop register, the binding (none for `o0`) and the codebook with its rank order and epact table (R138, R149, R150,
R283, R319, R322). -/
def Obligations.EngineRegistersAreReadAndWritten : Prop := ∀ (f : Fields) (s : State),
  let l := s.me.bits / 32
  let row := (s.me.getX f.b).toNat
  let n := f.x.toNat % 64
  let acc := s.accOf s.myCore f.a.toNat
  let r := s.me.getO f.a
  let bound (kind : Nat) : Option Binding := if f.a = 0 then none else some ⟨r, kind⟩
  let bindable : Prop := f.a = 0 ∨ ∃ a h, checkPtr s r = .ok () ∧ header s (oCanon r) = .ok (a, h) ∧ (hKind h = 0 ∨ hKind h = 6)
  let struck : Flt := { code := .uncorrectable, offset := BitVec.ofNat 64 (accAddr s.myCore f.a.toNat) }
  (s.issues .mread f → row ≤ 63 → n * l < 64 → acc.bad = true →
      exec (.mread f) s = completes s (s.defer { dest := .x 0, fault := some struck }) f)
  ∧ (s.issues .mread f → row ≤ 63 → n * l < 64 → acc.bad = false → ∃ (v : BitVec 2048) (m : BitVec 256) (fl : List (BitVec 6)),
      exec (.mread f) s = completes s ((s.deferV f.d v m 4 fl).deferX f.c (acc.count.setWidth 64)) f
      ∧ (∀ x ∈ fl, x = 0)
      ∧ ∀ j, j < l → s.me.active f 32 j = true → getLane v 32 j = (tileAt acc.tile row (n * l + j)).toNat)
  ∧ (s.issues .mread f → 63 < row → exec (.mread f) s = faults s s { code := .bounds, eval := s.me.getX f.b, offset := s.me.getX f.b })
  ∧ (s.issues .mloop f → exec (.mloop f) s = completes s (s.defer { dest := .el f.d, val := (s.me.getX f.a).setWidth 4096 }) f)
  ∧ (s.issues .mscale f → bindable → exec (.mscale f) s =
      completes s (s.defer { dest := .scale (f.x.getLsbD 0) (bound (f.x.toNat / 2 % 8)) }) f)
  ∧ (s.issues .mtab f → bindable → exec (.mtab f) s = completes s (s.defer { dest := .tab (bound 0) }) f)
  ∧ (∀ a h s' bs, s.issues .cbld f → checkPtr s r = .ok () → header s (oCanon r) = .ok (a, h) → hKind h = 0 ∨ hKind h = 6 →
      (hStaged h = false ∨ 2 ≤ hState h) → check s r 0 32 2 = .ok () → releasedFor [oCanon r] s = .ok s' → readCanon s' r 0 32 = .ok bs →
      exec (.cbld f) s = completes s (s'.defer
        { dest := .codebook (f.x.getLsbD 0) (Codebook.make (BitVec.ofNat 256 (leNat bs))) }) f)

/-- Leave and tile passes run the command at the head; a K step adds its rounded sums. POWER_LEAVE_GRANT grants a request that the die's budget lets, and counts the wait in `c.grant` and `PWAIT`; with leave, TILE_PASS runs up
to 4 steps of the command at the head of the arbiter's queue, of which a faulting one leaves those before it committed, zeroes the
accumulator of an MZERO, or writes out the tile of an MDRAIN and fills its mailbox; a fault ends the pass and its leave, and so does a pad
that the routers do not let the command's tenant reach (R142, R148, R151, R155, R156, R223, R240, R254, R320, R323). How long leave waits is
log entry 9; that a pass reads all its blocks in its one step is log entry 55. The K steps of a pass are run one after the other while nothing that they read is poisoned (R155); a K step adds to every element of the working tile a sum rounded to FP32, with bound scales that of the exact sums of 32 products times their two scales, commits the whole tile and counts one
step; MSBP adds its four group sums in turn, of sum by parts for codes and of the sorted group for differences, whose activations stand in
the order of the permutation table and whose base and step are the record's pair (R124, R125, R126, R151, R320). -/
def Obligations.TilePassesAddKSteps : Prop :=
  (∀ (s : State) (k : ClusterId) (m : MCmd) (rest : List MCmd),
    let c := firstCore k + (s.cluster k).queue
    let acc := s.accOf c m.acc
    let r (pl : Placed) : Pass := s.runSteps c m pl (min 4 (m.steps - m.done)) m.done acc
    let reports (t : State) (code : FaultCode) (progress : Nat) : Prop := ∃ x, (t.halt m.part).reports = (s.halt m.part).reports ++ [x]
      ∧ x.agent = .engine k ∧ x.info.code = some code ∧ x.info.progress = BitVec.ofNat 64 progress ∧ (t.cluster k).leave = false
    (∀ i, s.leaves[i]? = some ⟨.engine k, c⟩ → isM c = false → ∃ t, exec (.powerLeaveGrant i) s = .next t ∧ t.mem = s.mem
        ∧ if s.leaveFits ⟨.engine k, c⟩ s.free then (t.cluster k).leave = true ∧ t.leaves = s.leaves.eraseIdx i
            ∧ (t.core c).grant = (s.core c).grant + (Config.leaveWait s.free).setWidth 64
            ∧ (t.die (dieOf c)).pwait = (s.die (dieOf c)).pwait + Config.leaveWait s.free
          else t = s.fresh.2)
    ∧ ((s.core c).queue = m :: rest → (s.cluster k).leave = true → s.stopped (.engine k) m.part = false →
        m.acc < 8 →
        (∀ f, s.cmdRefused k m = some f → ∃ t, exec (.tilePass k) s = .next t ∧ (t.core c).queue = m :: rest ∧ t.mem = s.mem
          ∧ reports t .remotePermission m.done)
        ∧ (s.cmdRefused k m = none → s.cmdWait m = none →
        (m.bad = true → ∃ t, exec (.tilePass k) s = .next t ∧ (t.core c).queue = m :: rest ∧ t.mem = s.mem
          ∧ reports t .uncorrectable m.done)
        ∧ (m.bad = false →
        (m.kind = .mzero → ∃ t, exec (.tilePass k) s = .next t ∧ t.accOf c m.acc = ⟨[], [], 0, false⟩ ∧ (t.core c).queue = rest ∧ t.mem = s.mem)
        ∧ (∀ pl, m.kind = .mma ∨ m.kind = .msbp → s.placeCmd m = .ok pl → (r pl).fault = none → m.steps ≤ (r pl).next →
            ∃ t, exec (.tilePass k) s = .next t ∧ (t.core c).queue = rest ∧ t.mem = s.mem ∧ t.accOf c m.acc = (r pl).acc)
        ∧ (∀ pl, m.kind = .mma ∨ m.kind = .msbp → s.placeCmd m = .ok pl → (r pl).fault = none → (r pl).next < m.steps →
            ∃ t, exec (.tilePass k) s = .next t ∧ (t.core c).queue = { m with done := (r pl).next } :: rest ∧ t.mem = s.mem
              ∧ t.accOf c m.acc = (r pl).acc)
        ∧ (∀ pl f, m.kind = .mma ∨ m.kind = .msbp → s.placeCmd m = .ok pl → (r pl).fault = some f →
            ∃ t, exec (.tilePass k) s = .next t ∧ (t.core c).queue = { m with done := (r pl).next } :: rest ∧ t.mem = s.mem
              ∧ t.accOf c m.acc = (r pl).acc ∧ reports t f.code (r pl).next)
        ∧ (∀ a, m.kind = .mdrain → hSealed (s.peekWord a) = false → acc.bad = false →
            s.placeReg m.part m.ob (drainBytes m.fa m.sat acc.tile).length = .ok a →
            ∃ t, exec (.tilePass k) s = .next t ∧ (t.core c).queue = rest
              ∧ t.mem = (((s.poke (a + 16 + oView m.ob) (drainBytes m.fa m.sat acc.tile)).setStaged a 2).fillMailbox c (s.part m.part).ctx m.job 1 0
                  (fillScope (dieOf c) (some k) (oCanon m.ob) a)).mem
              ∧ t.accOf c m.acc = if m.clr then ⟨[], [], 0, false⟩ else acc)))))
  ∧ (∀ (s : State) (m : MCmd) (pl : Placed) (acc : Acc) (t i c : Nat), i < 64 → c < 64 →
    let k0 := t * m.ks
    let row (r : Nat) : List Nat := s.opSpan pl.a m.oa m.fa m.k r k0 m.ks
    let col (r : Nat) : List Nat := s.opSpan pl.b m.ob m.fb m.k r k0 m.ks
    let products := (((row i).map (operandValue m.cb m.fa)).zip ((col c).map (operandValue m.cb m.fb))).map (fun p => p.1.mul p.2)
    let old := tileAt acc.work i c
    let new := s.kStepRun m pl acc t
    (∀ core n, acc.bad = false → (∀ j, j < n → s.poisonIn (m.stepSpans pl (t + j)) = none) →
      s.runSteps core m pl n t acc = { acc := (List.range n).foldl (fun a j => s.kStepRun m pl a (t + j)) acc, next := t + n })
    ∧ (∀ core n f, acc.bad = false → s.poisonIn (m.stepSpans pl t) = some f →
      s.runSteps core m pl (n + 1) t acc = { acc := acc, next := t, fault := some f })
    ∧ new.count = acc.count + 1 ∧ new.tile = new.work ∧ new.bad = false
    ∧ (m.kind = .mma → m.scaled = false →
        tileAt new.work i c = BitVec.ofNat 32 (add32 old.toNat (fp32.value (fp32.round .ne false (Val.sum products)).1)))
    ∧ (m.kind = .mma → m.scaled = true →
        tileAt new.work i c = BitVec.ofNat 32 (add32 old.toNat (fp32.value (fp32.round .ne false (Val.sum
          ((List.range (m.ks / 32)).map (fun b => (Val.sum ((products.drop (32 * b)).take 32)).mul
            ((s.scaleOf pl.sa m.k i (t * m.ks / 32 + b)).mul (s.scaleOf pl.sb m.k c (t * m.ks / 32 + b))))))).1)))
    ∧ (m.kind = .msbp → m.fb = 9 →
        let acts := (row i).map (valueOf m.fa)
        tileAt new.work i c = BitVec.ofNat 32 ((List.range 4).foldl (fun w g =>
          add32 w (fp32.value (sbpGroup m.cb ((acts.drop (64 * g)).take 64) (((col c).drop (64 * g)).take 64)).1)) old.toNat))
    ∧ (∀ tb ta rb ra, m.kind = .msbp → m.fb ≠ 9 → pl.tab = some (tb, ta) → pl.sb = some (rb, ra) →
        let acts := (row i).map (valueOf m.fa)
        let group (g : Nat) : Nat := c * (m.k / 64) + (4 * t + g)
        let place (g j : Nat) : Nat := bits (leNat (s.engineRead ta tb.reg (48 * group g) 48)) (6 * j) 6
        let half (g i : Nat) : Val := (fmtOf 0).value (leNat (s.engineRead ra rb.reg (4 * group g) 4) / 2 ^ (16 * i) % 2 ^ 16)
        tileAt new.work i c = BitVec.ofNat 32 ((List.range 4).foldl (fun w g =>
          add32 w (fp32.value (sortedGroup ((List.range 64).map (fun j => ((acts.drop (64 * g)).take 64).getD (place g j) (.fin false 0 0)))
            (((col c).drop (64 * g)).take 64) (half g 0) (half g 1)))) old.toNat))
    ∧ ∀ (a : Nat → Val) (d : Nat → Nat) (base step : Val), ∃ U : Nat → Nat,
        U 63 = (fp32.round .ne false (a 63)).1 ∧ (∀ j, j < 63 → U j = add32 (U (j + 1)) (a j))
        ∧ sortedGroup ((List.range 64).map a) ((List.range 64).map d) base step =
          add32 (mul32 base (fp32.value (U 0))) (fp32.value (mul32 step (fp32.value (fp32.round .ne false
            (Val.sum ((List.range 63).map (fun j => (Val.fin false (d (j + 1)) 0).mul (fp32.value (U (j + 1))))))).1))))

/-- NBMV takes a mailbox, then an entry of its stack's queue, for which it waits with the mailbox, and its result starts to fill; the stack
starts the job whose turn it is, and at its end writes every FP32 result, sets a staged result full and fills the mailbox, or raises the fault
of what it cannot reach (R160 to R164, R324). That all results are written in one step is log entry 23; that a waiting NBMV keeps the job it
has captured is log entry 44. -/
def Obligations.NearBankJobsComputeTheirProduct : Prop :=
  (∀ (f : Fields) (s s1 s2 : State) (ac : Nat) (aa ab : Nat) (ha hb hc : Word64) (bs : List Byte) (id : Word32),
    let m := f.x.toNat / 16 % 4 + 1
    let fmt := f.x.toNat % 16
    let oa := s.me.getO f.a
    let ob := s.me.getO f.b
    let oc := s.me.getO f.c
    let sh := shapeOf bs
    let st := s.stackOf (s.tablePart s.me) (oCanon oa)
    let j : NbJob :=
      { job := id, core := s2.myCore, tid := s2.me.tid, part := s2.me.part, ctx := s2.me.ctx, launch := s2.me.launch
        tenant := s2.me.tenant, oa := oa, ob := ob, oc := oc, m := m, fmt := fmt, n := sh.n, k := sh.k, started := false
        waitsLeave := decide (0x100000 < sh.n * sh.k * opBits fmt / 8) }
    s.issues .nbmv f → checkPtr s oa = .ok () → header s (oCanon oa) = .ok (aa, ha) → tagOf (oCanon oa) = 4 → hKind ha = 0 →
    hSpread ha → hSealed ha → check s oa 0 64 8 = .ok () → readCanon s oa 0 64 = .ok bs → sh.fmt = fmt → sh.clean →
    1 ≤ sh.n → sh.n ≤ 65536 → sh.k % 256 = 0 → 256 ≤ sh.k → sh.k ≤ 65536 → 64 + sh.n * sh.k * opBits fmt / 8 ≤ oLen oa →
    needPadObject s ob (fun h => 2 ≤ hState h) = .ok (ab, hb) → check s ob 0 (2 * m * sh.k) 2 = .ok () →
    needPadObject s oc (fun h => hState h == 0 || hState h == 2) = .ok (ac, hc) → check s oc 0 (4 * m * sh.n) 4 = .ok () →
    hSealed hc = false → releasedFor [oCanon oa, oCanon ob, oCanon oc] s = .ok s1 → takeMailbox s1 .nbmv f 2 = .ok (s2, id) →
    (s2.nearRoom st = false →
      exec (.nbmv f) s = parks s s2 { kind := .queue, op := .nbmv, f := f, aux := 2000 + st, near := some j })
    ∧ (s2.nearRoom st = true → exec (.nbmv f) s = completes s (s2.acceptNear f st j) f
      ∧ (s2.acceptNear f st j).nbQueues.find st [] = s2.nbQueues.find st [] ++ [j]
      ∧ (s2.enginePlace j.part (oCanon oc) 16 = .ok ac → (s2.acceptNear f st j).mem = (s2.setStaged ac 1).mem)))
  ∧ ∀ (s : State) (st : Nat) (j : NbJob), s.nearAt st = some j →
    let waits : Bool := [(j.oa, 64 + j.weights), (j.ob, 2 * j.m * j.k), (j.oc, 4 * j.m * j.n)].any (fun r =>
      s.engineWaits j.part (oCanon r.1) (16 + oView r.1 + r.2))
    (j.started = false → j.waitsLeave = false → exec (.nbmvJobStart st) s = .next (s.setNear st j { j with started := true }))
    ∧ (∀ f, j.started = true → waits = false → s.nearPlaces j = .error f →
        exec (.nbmvJobComplete st) s = .next (s.unitFault (.nearBank st) j.part f j.job (Op.nbmv.row.code.setWidth 32)))
    ∧ (∀ wa aa ca, j.started = true → waits = false → s.nearPlaces j = .ok (wa, aa, ca) →
        let cb := Codebook.make (shapeOf (s.engineRead wa j.oa 0 64)).codebook
        let out := (List.range (j.m * j.n)).flatMap (fun e => leBytes 4 (s.nbElement j wa aa cb (e / j.n) (e % j.n)))
        ∃ u, exec (.nbmvJobComplete st) s = .next (u.dropNear st j)
          ∧ u = ((s.poke (ca + 16 + oView j.oc) out).setStaged ca 2).fillBox j.part j.ctx j.core j.job 1 0 (fillScope (st / 2) none (oCanon j.oc) ca)
          ∧ u.mem = ((s.poke (ca + 16 + oView j.oc) out).setStaged ca 2).mem)

/-- AGX expands its tiles; MKLD, MKCLS, MKAPP and MKCNT load, classify, apply and count masks. AGX expands one query tile after the other, each in one step, into a merge node and a compute node for each block that is not empty;
after the last it frees its two templates and defers the number of nodes it made (R177, R178, R269). That a halt or another agent may come
between two tiles, and not within one, is the model's choice (log entry 27). MKLD defers its program into the slot it names; MKCLS classifies and counts a tile; MKAPP gives each element the exact visibility of its
key, as a predicate or as a bias; MKCNT reads a counter and with `.clr` zeroes it (R169 to R174, R318). -/
def Obligations.AttentionTilesAndMasks : Prop :=
  (∀ (f : Fields) (s s1 s2 : State) (g g' : AgxJob),
    let d := dieOf s2.myCore
    let freed := (s2.freeNode d (g'.compute.toNat % 65536)).freeNode d (g'.merge.toNat % 65536)
    s.issues .agx f →
    (s.me.agx = some g ∧ g.pc = s.me.pc ∧ s1 = s)
      ∨ (s.me.agx = none ∧ releasedHome s (s.homeAt (oCanon (s.me.getO f.a))) = .ok s1 ∧ agxStart f s1 = .ok g) →
    AgxJob.run f g s1 = .ok (g', s2) →
    g'.tile = g.tile + 1 ∧ g'.made = g.made + g.live + 1
    ∧ (g'.tile < g'.stop → exec (.agx f) s = .next (s2.setMe { s2.me with agx := some g' }))
    ∧ (g'.stop ≤ g'.tile →
        exec (.agx f) s = completes s ((freed.setMe { freed.me with agx := none }).deferX f.d (BitVec.ofNat 64 g'.made)) f))
  ∧ (∀ (f : Fields) (s : State) (p : MaskProg),
    let one := f.x.getLsbD 0
    let slot := (s.core s.myCore).maskSlot one
    let q := (s.me.getX f.a).toNat
    let k := (s.me.getX f.b).toNat
    let n := min 64 (s.me.lanes 32)
    (∀ a h s' bs, s.issues .mkld f → f.b = 0 → checkPtr s (s.me.getO f.a) = .ok () → header s (oCanon (s.me.getO f.a)) = .ok (a, h) →
        hKind h = 6 → check s (s.me.getO f.a) 0 16 8 = .ok () → releasedHome s (s.homeAt (oCanon (s.me.getO f.a))) = .ok s' →
        readCanon s' (s.me.getO f.a) 0 (min (oLen (s.me.getO f.a)) 208) = .ok bs → parseMask bs [0] = .ok p →
        exec (.mkld f) s = completes s (s'.defer { dest := .mask one p }) f)
    ∧ (s.issues .mkcls f → slot.prog = some p → q ≤ 2 ^ 24 - 64 → k ≤ 2 ^ 24 - 64 →
        exec (.mkcls f) s = completes s ((s.countTiles one (p.classify q k) 1).deferX f.d (BitVec.ofNat 64 (p.classify q k))) f)
    ∧ (s.issues .mkapp f → slot.prog = some p → q < 2 ^ 24 → k + n ≤ 2 ^ 24 → ∃ (v : BitVec 4096) (m : BitVec 256),
        exec (.mkapp f) s = completes s (s.defer { dest := .p f.d, val := v, mask := m, unit := 4 }) f
        ∧ ∀ j, j < n → ∀ b, b < 4 → m.getLsbD (4 * j + b) = s.me.active f 32 j ∧ v.getLsbD (4 * j + b) = p.visible q (k + j))
    ∧ (s.issues .mkappBias f → slot.prog = some p → q < 2 ^ 24 → k + n ≤ 2 ^ 24 →
        deferred s f 32 (fun j => (if p.visible q (k + j) then 0 else 0xFF800000, 0)) (exec (.mkappBias f) s))
    ∧ (let slot := (s.core s.myCore).maskSlot (f.x.getLsbD 3)
        let sel := f.x.toNat % 4
        s.issues .mkcnt f → ∃ u : State, exec (.mkcnt f) s = completes s (u.deferX f.d
            (if sel = 0 then slot.empty else if sel = 1 then slot.partialTiles else if sel = 2 then slot.full
             else slot.empty + slot.partialTiles + slot.full)) f
          ∧ (f.x.getLsbD 2 = false → u = s)
          ∧ (f.x.getLsbD 2 = true → (u.core s.myCore).maskSlot (f.x.getLsbD 3) =
              { slot with empty := if sel = 0 ∨ sel = 3 then 0 else slot.empty
                          partialTiles := if sel = 1 ∨ sel = 3 then 0 else slot.partialTiles
                          full := if sel = 2 ∨ sel = 3 then 0 else slot.full })))

/-- A tile that the classifier calls full holds only visible pairs, and one that it calls empty holds none (R166, R170). -/
def Obligations.TileClassesAreSound : Prop := ∀ (p : MaskProg) (q k i j : Nat), i < 64 → j < 64 →
  (p.classify q k = 2 → p.visible (q + i) (k + j) = true) ∧ (p.classify q k = 0 → p.visible (q + i) (k + j) = false)

/-! ## Streams and collectives -/

/-- SGLD and CPY are accepted with what they captured; a copy job plans, commits chunks and completes. SGLD defers a lawful graph into its slot and the number of its operators; CPY, its checks passed, performs the task's earlier accesses to
its objects' homes, takes a mailbox, captures what its registers and its slot hold, and takes a queue entry, or waits for one with what it captured; it defers
the job id; bound to a node it claims the node (R184, R185, R187, R189 to R192, R290, R345). That the waiting CPY keeps the job it has
captured is log entry 44. FABRIC_JOB_START reads the sources and plans the writes; CHUNK_COMMIT makes the next chunk visible whole; FABRIC_JOB_COMPLETE takes the
job from its queue and fills its mailbox with status 1, or 2 for a mismatch; COPY_NODE_KICK starts a ready copy node, or holds its job while
the queue is full or another ready node comes before it (R184, R186, R191, R193, R196, R199, R200). That the start reads every source byte and
fixes the plan is log entry 22. -/
def Obligations.CopiesAreAcceptedAndRun : Prop :=
  (∀ (f : Fields) (s s1 : State),
    let ra := s.me.getO f.a
    let rb := s.me.getO f.b
    let slot := f.x.toNat % 4
    let engine := copyEngine s1 (oCanon ra) (oCanon rb)
    (∀ a h bs g, s.issues .sgld f → checkPtr s ra = .ok () → header s (oCanon ra) = .ok (a, h) → hKind h = 6 → check s ra 0 16 8 = .ok () →
        isM s.myCore = false → releasedFor [oCanon ra] s = .ok s1 → readCanon s1 ra 0 (min 512 (oLen ra)) = .ok bs → readGraph bs = some g →
        exec (.sgld f) s = completes s
          ((s1.defer { dest := .graph slot g }).deferX f.d (BitVec.ofNat 64 g.ops.length)) f)
    ∧ (∀ s2 job, s.issues .cpy f → copyChecks s ra rb slot false = .ok () → releasedFor [oCanon ra, oCanon rb] s = .ok s1 →
        takeMailbox s1 .cpy f engine.2 = .ok (s2, job) →
        let j := s2.makeCopy engine.1 f false job
        exec (.cpy f) s = if s2.jobRoom engine.1 then completes s (s2.acceptCopy f j) f
          else parks s s2 { kind := .queue, op := .cpy, f := f, aux := 1000 + engine.1, copy := some j })
    ∧ (∀ s2 job n, s.issues .cpyNode f → copyChecks s ra rb slot true = .ok () → releasedFor [oCanon ra, oCanon rb] s = .ok s1 →
        (s.me.getX f.c).toNat / 65536 = dieOf s.myCore → (s.die (dieOf s.myCore)).node ((s.me.getX f.c).toNat % 65536) = some n →
        n.kind = .copy → n.buildingOf s.me.tid → n.count = 0 →
        (s.die (dieOf s.myCore)).edges.any (fun e => e.1 == (s.me.getX f.c).toNat % 65536) = false →
        takeMailbox s1 .cpyNode f engine.2 = .ok (s2, job) →
        let j := s2.makeCopy engine.1 f true job
        exec (.cpyNode f) s = if s2.jobRoom engine.1 then completes s (s2.acceptCopy f j) f
          else parks s s2 { kind := .queue, op := .cpyNode, f := f, aux := 1000 + engine.1, copy := some j })
    ∧ (∀ j : CopyJob, ∃ v, ((s.acceptCopy f j).cluster j.cluster).jobs = (s.cluster j.cluster).jobs ++ [v] ∧ v = { j with srcState := v.srcState })
    ∧ ∀ (k : ClusterId) (bound : Bool) (job : Word32),
        let j := s.makeCopy k f bound job
        j.job = job ∧ j.core = some s.myCore ∧ j.cluster = k ∧ j.tid = s.me.tid ∧ j.src = ra ∧ j.dst = rb ∧ j.started = false ∧ j.committed = 0
          ∧ j.graph = (if slot = 0 ∨ isM s.myCore then none else (s.cluster (clusterOf s.myCore)).graphs.lookup slot)
          ∧ j.node = (if bound then some ((s.me.getX f.c).toNat / 65536, (s.me.getX f.c).toNat % 65536) else none))
  ∧ ((∀ (s : State) (k : ClusterId) (j : CopyJob), s.jobAt k = some j →
    let ns := 16 + oView j.src + oLen j.src
    let nd := 16 + oView j.dst + oLen j.dst
    let m := j.job.toNat % 32
    (∀ a b, j.started = false → j.waitsLeave = false → s.jobPasses k j (oCanon j.src) → s.jobPasses k j (oCanon j.dst) →
        s.engineWaits j.part (oCanon j.src) ns = false → s.engineWaits j.part (oCanon j.dst) nd = false →
        s.enginePlace j.part (oCanon j.src) ns = .ok a → s.enginePlace j.part (oCanon j.dst) nd = .ok b →
        let used := j.packed.getD (j.usedNow s b)
        let p := j.planOf s a b used
        (p.size ≤ 2 ^ 20 ∨ j.asked) →
        exec (.fabricJobStart k) s = .next (s.setJob k j { j with
          started := true, plan := p.chunks, mismatch := p.miss
          drops := j.drops.filter (· < 256 * j.committed) ++ p.drops.filter (256 * j.committed ≤ ·), packed := some used, fault := p.fault }))
    ∧ (∀ b ch, j.started = true → j.plan[j.committed]? = some ch → s.jobPasses k j (oCanon j.dst) →
        s.engineWaits j.part (oCanon j.dst) nd = false → s.enginePlace j.part (oCanon j.dst) nd = .ok b → hSealed (s.peekWord b) = false →
        ∃ t, exec (.chunkCommit k) s = .next t ∧ t.mem = ch.foldl (fun mem p => mem.write (b + p.1) p.2) s.mem
          ∧ (t.cluster k).jobs = (s.cluster k).jobs.map (fun i => if i = j then { j with committed := j.committed + 1 } else i))
    ∧ (∀ c, j.started = true → j.plan.length ≤ j.committed → j.fault = none → j.core = some c → j.node = none → s.runs j.part j.ctx →
        (s.mailbox c m).taken = true → (s.mailbox c m).full = false → (s.mailbox c m).seq.toNat = j.job.toNat / 256 →
        (s.mailbox c m).owner ≠ 0 → s.waiters .queue (1000 + k) = [] →
        ∃ t, exec (.fabricJobComplete k) s = .next t ∧ (t.cluster k).jobs = (s.cluster k).jobs.filter (fun i => i != j)
          ∧ (t.mailbox c m).full = true ∧ t.peekWord (s.boxAddr c j.ctx m) = BitVec.ofNat 64
              (min j.drops.length 0xFFFFFFFF * 2 ^ 32 + (s.mailbox c m).seq.toNat * 256 + (if j.mismatch then 2 else 1))))
    ∧ ∀ (s : State) (k : ClusterId) (d i : Nat) (n : Node) (ra rb : BitVec 128) (g : Option Graph), (s.die d).node i = some n → n.ready → n.kind = .copy →
        s.stopped (.taskGraph d) n.part = false → s.frozen n.part n.ctx = false → s.nodeChecks d n = .ok (k, ra, rb, g) →
        (s.die d).heldKicks = [] →
        ∃ t, exec (.copyNodeKick d i) s = .next t ∧ ∃ v : CopyJob, v.job = nodeJob (nodeId d i) ∧ v.core = none
          ∧ v.src = ra ∧ v.dst = rb ∧ v.graph = g ∧ v.node = some (d, i) ∧ v.tenant = n.tenant ∧ v.cluster = k
          ∧ (if s.jobRoom k && !s.heldBefore d k ((s.die d).readiness i) then (t.die d).node i = some { n with state := .running } ∧ (t.cluster k).jobs = (s.cluster k).jobs ++ [v]
            else (t.die d).heldKicks = [(i, v)] ∧ t.clusters = s.clusters ∧ t.mem = s.mem))

/-- A copy without a graph plans to write its source's bytes, in order and each once, and nothing else; a byte of the destination goes by its
offset from the header (R191, R195). -/
def Obligations.PlainCopiesMoveEachByte : Prop := ∀ (s : State) (j : CopyJob) (a b used : Nat), j.graph = none → s.poison = [] →
  let p := j.planOf s a b used
  p.chunks.flatten = (List.range (oLen j.src)).map (fun i => (16 + oView j.dst + i, s.mem.read (a + 16 + oView j.src + i)))
  ∧ p.fault = none ∧ p.miss = false ∧ p.drops = [] ∧ ∀ ch, ch ∈ p.chunks → ch.length ≤ 256

/-- COLL, its group record and buffer lawful, performs the task's earlier accesses, takes a mailbox and joins its group's round, asking for
leave where it moves more than 1 MiB; once every member of this package has joined and all agree, COLL_ROUND_COMPLETE reads every
contribution into its storage, at its next occurrence writes every buffer here from there and ends the jobs, whose
mailboxes fill, with the fault of a buffer sealed by then; a round that disagrees writes no buffer (R156, R285 to R289, R342). The two steps, what members of other packages give, and
that they agree, which is free, are the model's choices (log entry 23). -/
def Obligations.CollectivesRunInRounds : Prop :=
  (∀ (f : Fields) (s s1 s2 : State) (aa ab : Nat) (ha hb : Word64) (g es : List Byte) (job : Word32),
    let op := f.x.toNat % 8
    let fmt := f.x.toNat / 8 % 16
    let dom := f.x.getLsbD 9
    let ra := s.me.getO f.a
    let rb := s.me.getO f.b
    let w0 := leNat (g.take 8)
    let w1 := leNat (g.drop 8)
    let m := bits w0 32 16
    let n := bits w0 0 32
    let entries := (chunksOf 8 (m + 1) es).map leNat
    let e := storeBits fmt / 8
    let size := (if op = 0 ∨ op = 3 then 1 else m) * n * e
    s.issues .coll f → checkPtr s rb = .ok () → header s (oCanon rb) = .ok (ab, hb) → hKind hb = 6 → check s rb 0 16 8 = .ok () →
    readCanon s rb 0 16 = .ok g → bits w0 56 8 = 0 → bits w0 48 8 ≤ 2 → 2 ≤ m → m ≤ 1024 → n ≠ 0 → bits w1 0 16 < m → bits w1 16 16 < m →
    check s rb 0 (16 + 8 * m) 8 = .ok () → readCanon s rb 16 (8 * m) = .ok es →
    entries.all (fun e => e < 64 && (dom || e == s.plat.package.toNat)) → checkPtr s ra = .ok () → header s (oCanon ra) = .ok (aa, ha) →
    hKind ha = 0 → 1 ≤ tagOf (oCanon ra) → tagOf (oCanon ra) ≤ 4 → (hStaged ha = false ∨ hState ha = 2) → hSealed ha = false →
    check s ra 0 size e = .ok () →
    releasedAt (if dom then 4 else 3) (s.homeAt (oCanon ra)) s = .ok s1 → takeMailbox s1 .coll f 3 = .ok (s2, job) →
    ∃ (u : State) (j : CollJob), exec (.coll f) s = completes s (u.deferX f.d (job.setWidth 64)) f ∧ u.colls = s2.colls ++ [j]
      ∧ u.mem = s2.mem ∧ u.leaves = s2.leaves ++ (if 2 ^ 20 < size then [⟨.collective job, s2.myCore⟩] else []) 
      ∧ j.job = job ∧ j.stored = none ∧ j.tenant = s2.me.tenant ∧ j.object = oCanon rb ∧ j.buf = ra ∧ j.op = op ∧ j.fmt = fmt ∧ j.dom = dom ∧ j.rank = bits w1 0 16
      ∧ j.root = bits w1 16 16 ∧ j.members = m ∧ j.count = n ∧ j.reduce = bits w0 48 8 ∧ j.entries = entries ∧ j.waitsLeave = decide (2 ^ 20 < size))
  ∧ ∀ (s : State) (i : Nat) (j : CollJob), s.colls[i]? = some j →
    let js := sortBy (fun a b => a.rank ≤ b.rank) (s.roundOf j)
    let place (c : CollJob) : Nat := match s.placeBuf c with
      | .ok a => a
      | .error _ => 0
    let write (u : State) (c : CollJob) : State := (roundWrites c (storedElement js) c.rank).foldl (fun u w =>
      u.poke (place c + 16 + oView c.buf + c.es * w.1) (leBytes c.es (storedBits c.fmt w.2))) u
    let after (n : Nat) : State := (js.take n).foldl write s
    let apart (b : Nat) : Prop := ∀ c ∈ js, let w := s.boxAddr c.core c.ctx (c.job.toNat % 32); b < w ∨ w + 8 ≤ b
    let open_ (n : Nat) : Prop := ∀ q c, q < n → js[q]? = some c →
      ∃ a, (after q).placeBuf c = .ok a ∧ a = place c ∧ hSealed ((after q).peekWord a) = false
    s.allIssued j js = true → js.any s.collHeld = false →
    js.any (fun c => s.engineWaits c.part (oCanon c.buf) (16 + oView c.buf + c.size)) = false →
    (∀ xs : CollJob → List Nat, js.findSome? (·.stored) = none → roundAgrees js → (s.allHere j js ∨ Config.remoteAgrees s.free) →
        (∀ c, c ∈ js → s.contribution c = .ok (xs c)) →
        ∃ t, exec (.collRoundComplete i) s = .next t ∧ t.mem = s.mem
          ∧ t.colls = s.colls.map (fun c => if js.contains c then { c with stored := some (s.free, xs c) } else c))
    ∧ (∀ c rest f, js.findSome? (·.stored) = none → roundAgrees js → (s.allHere j js ∨ Config.remoteAgrees s.free) → js = c :: rest →
        s.contribution c = .error f → exec (.collRoundComplete i) s = .next (s.fresh.2.collFault c f))
    ∧ (js.findSome? (·.stored) = none → (roundAgrees js = false ∨ (s.allHere j js = false ∧ Config.remoteAgrees s.free = false)) →
        ∃ t, exec (.collRoundComplete i) s = .next t ∧ t.colls = s.colls.filter (fun c => !js.contains c)
          ∧ ∀ b, apart b → t.mem.read b = s.mem.read b)
    ∧ (js.all (·.stored.isSome) → open_ js.length →
        ∃ t, exec (.collRoundComplete i) s = .next t ∧ t.colls = s.colls.filter (fun c => !js.contains c)
          ∧ ∀ b, apart b → t.mem.read b = (after js.length).mem.read b)
    ∧ (∀ n c a, js.all (·.stored.isSome) → open_ n → js[n]? = some c → (after n).placeBuf c = .ok a → hSealed ((after n).peekWord a) = true →
        exec (.collRoundComplete i) s = .next ((after n).collFault c { code := .sealedStore, eval := oCanon c.buf, ptr := oCanon c.buf }))
    ∧ (∀ c n xs, roundAgrees js → c ∈ js → c.stored = some (n, xs) → ∀ q, storedElement js c.rank (c.gives.1 + q) = xs.getD q 0)
    ∧ ∀ c a xs, s.placeBuf c = .ok a → s.contribution c = .ok xs →
        xs = (List.range c.gives.2).map (fun q => leNat (s.mem.readN (a + 16 + oView c.buf + c.es * (c.gives.1 + q)) c.es))

/-! ## Faults, halts and waits -/

/-- TRAP and undecodable parcels stop their task; a handler is entered with the cause and ERET leaves it. TRAP stops its task with `software-trap`: its outstanding results are written, the report names the instruction, a handler would return
past it and read the 12-bit immediate, and no other part of the task changes (R63, R228, R232, R354). HRES_HANDLER enters the handler of the primary task when its fault is eligible: `c.cause` takes the code with bit 63 set, `c.epc` and
`c.eval` the values R232 gives, and the task goes on at `c.tvec`; ERET writes the outstanding results, clears the flag and continues at
`c.epc`, where no parcel is raises `branch-target`, and outside a handler raises `illegal-encoding` (R231, R232, R293). That the record of
`branch-target` has the target as offset is log entry 39. A parcel that fails the checks of R59 raises their fault against its task, and nothing else of the task changes (R59, R67). -/
def Obligations.TrapsHandlersAndBadParcels : Prop :=
  (∀ (f : Fields) (s : State),
    let l := s.landAll s.cur
    s.issues .trap f → l.me.status ≠ .stopped →
    ∃ (t : State) (i : StopInfo), exec (.trap f) s = .next t
      ∧ t.task s.cur = { l.me with status := .stopped, wait := none, stop := some i }
      ∧ i.code = some .softwareTrap ∧ i.pos = s.me.pc ∧ i.epc = nextPc s.me f ∧ i.eval = (f.a ++ f.b).setWidth 64 ∧ i.atIssue = true
      ∧ (t.halt l.me.controller).reports = (l.halt l.me.controller).reports ++ [{ agent := .task s.cur, info := i, tid := l.me.tid }]
      ∧ t.mem = s.mem)
  ∧ ((∀ (s : State) (p : Nat) (k : TaskKey) (i : StopInfo) (c : FaultCode), p < 16 → (s.halt p).halted = true → (s.halt p).eligible = true →
      (s.halt p).who = some (.task k) → (s.task k).stop = some i → i.code = some c → (s.task k).part = p → (s.task k).pend = [] → settled s →
      ∃ t, exec (.hresHandler p) s = .next t ∧ (t.halt p).halted = false ∧ (t.halt p).records = [] ∧ t.mem = s.mem
        ∧ t.task k = { s.task k with
            status := .ready, stop := none, wait := none, agx := none, past := false, pc := (s.task k).tvec.setWidth 32, epc := i.epc.setWidth 64
            eval := i.eval, cause := BitVec.ofNat 64 (2 ^ 63 + faultNum c) })
    ∧ ∀ (f : Fields) (s : State),
      let l := s.landAll s.cur
      (s.issues .eret f → s.me.cause.getLsbD 63 = true → l.me.status ≠ .stopped → exec (.eret f) s =
          if l.targetOk l.me.epc then transfers s (l.setMe { l.me with cause := l.me.cause &&& 0x7FFFFFFFFFFFFFFF#64 }) (l.me.epc.setWidth 32)
          else faults s l { code := .branchTarget, offset := l.me.epc })
      ∧ (s.issues .eret f → s.me.cause.getLsbD 63 = false → exec (.eret f) s = faults s s { code := .illegalEncoding }))
  ∧ (∀ (s : State) (c : FaultCode), s.me.status = .ready → s.me.pend = [] →
    ∃ t i, exec (.undecodableParcel c) s = .next t ∧ t.task s.cur = { s.me with status := .stopped, wait := none, stop := some i }
      ∧ i.code = some c ∧ i.pos = s.me.pc ∧ t.mem = s.mem)

/-- The first report of a fault to reach a running partition's controller is the primary one: it halts the partition, names its code and
counts the halt; a later one is only recorded; an agent that sees the line then stops where it is and is recorded with code 0; a
report of an M-core task halts no partition (R228 to R231, R403). -/
def Obligations.HaltsRecordTheirAgents : Prop := ∀ (s : State) (p : Nat) (r : Report) (k : TaskKey),
  let h := s.halt p
  ((s.halt p).reports = [r] → r.agent = .task k → h.records = [] → h.halted = false →
      ∃ t x, exec (.haltReport p) s = .next t ∧ (t.halt p).halted = true ∧ (t.halt p).records = [x] ∧ (t.halt p).reports = []
        ∧ (t.halt p).count = h.count + 1 ∧ (t.halt p).who = some (.task k) ∧ (t.halt p).hprim = 0
        ∧ (t.halt p).primary = x.code ∧ x.code = BitVec.ofNat 8 ((r.info.code.map faultNum).getD 0) ∧ x.primary = true
        ∧ x.kind = 0 ∧ x.id = r.tid ∧ x.pos = r.info.pos ∧ x.ptr = r.info.ptr ∧ x.agent = s.coreAddr (coreOf k)
        ∧ (t.halt p).eligible = s.eligible (.task k) r.info)
  ∧ ((s.halt p).reports = [r] → r.agent = .task k → h.records.length < 2048 → h.halted = true →
      ∃ t x, exec (.haltReport p) s = .next t ∧ (t.halt p).records = h.records ++ [x] ∧ x.primary = false ∧ x.id = r.tid
        ∧ (t.halt p).primary = h.primary ∧ (t.halt p).count = h.count)
  ∧ (p < 16 → h.halted = true → (s.task k).part = p → (s.task k).status = .ready ∨ (s.task k).status = .parked → (s.task k).pend = [] →
      s.stopped (.task k) p = false → s.tasks.filter (fun e => e.1 == k) = [(k, s.task k)] → h.records.length < 2048 →
      ∃ t x, exec (.agentStop (.task k)) s = .next t ∧ (t.task k).status = .stopped ∧ (t.task k).pc = (s.task k).pc
        ∧ (t.task k).x = (s.task k).x ∧ (t.task k).wait = (s.task k).wait ∧ (t.halt p).records = h.records ++ [x] ∧ x.code = 0
        ∧ x.pos = (s.task k).pc ∧ x.primary = false ∧ t.mem = s.mem)
  ∧ ((s.halt 16).reports = [r] → r.agent = .task k → (s.halt 16).records.length < 2048 →
      ∃ t, exec (.mCoreFault k) s = .next t ∧ (t.halt 16).records.length = (s.halt 16).records.length + 1
        ∧ ∀ q, q < 16 → t.halt q = s.halt q)

/-- A halt is resumed, ended or aborted as the supervisor says; the Vigil finds cycles of waiters. With nothing else to take up, HRES_GO resumes every stopped task of the partition at its record's position, ready or waiting as before;
HRES_END ends the primary task as HALT ends it; WAIT_ABORT stops the task that WABORT names, while its entry is the one that was read (R231, R238). VIGIL_SCAN reports the cycles of parked tasks whose entries name their signallers: a task that waits for itself, and two that wait for
each other (R238). -/
def Obligations.HaltsAreResumedAndCyclesFound : Prop :=
  (∀ (s : State) (p : Nat) (k : TaskKey), p < 16 →
    let t := s.task k
    ((s.halt p).halted = true → settled s → t.part = p → t.status = .stopped → (k, t) ∈ s.tasks →
        (∃ u, exec (.hresGo p) s = .next u ∧ (u.halt p).halted = false ∧ (u.halt p).records = [] ∧ (u.halt p).reports = []
          ∧ (u.task k).status = (if t.wait.isSome || t.pend.any (·.awaited) then .parked else .ready) ∧ (u.task k).stop = none
          ∧ (u.task k).pc = (t.stop.map (·.pos)).getD t.pc ∧ (u.task k).x = t.x ∧ (u.task k).wait = t.wait ∧ u.mem = s.mem)
        ∧ ((s.halt p).who = some (.task k) → (s.halt p).records.all (fun x => !x.primary || x.id == t.tid) → t.sb = [] → t.join = 0 →
            ∃ u, exec (.hresEnd p) s = .next u ∧ (u.halt p).halted = false ∧ (u.task k).status = .free ∧ (u.task k).gen = t.gen
              ∧ u.mem = s.mem))
    ∧ (∀ w, (s.halt p).halted = false → s.taskWithId (s.halt p).wabort = some k → t.wait = some w → t.status = .parked → t.part = p →
        t.pend.all (fun q => q.fault.isNone) → w.since = (s.halt p).wsince → (s.halt p).records = [] →
        ∃ u x, exec (.waitAbort p) s = .next u ∧ (u.halt p).halted = true ∧ (u.task k).status = .stopped ∧ (u.halt p).records = [x]
          ∧ x.code = 0x10 ∧ x.primary = true ∧ x.ptr = w.object)
    ∧ (∀ w, s.taskWithId (s.halt p).wabort = some k → t.wait = some w → w.since ≠ (s.halt p).wsince → exec (.waitAbort p) s = .next s))
  ∧ (∀ (s : State) (d : Nat) (k j : TaskKey) (w v : Wait),
    (k, w) ∈ s.waitTable d → s.taskWithId (s.task k).tid = some k → (s.task k).wait = some w → (s.task k).status = .parked →
    (w.signaller = (s.task k).tid → (s.task k).tid ≠ 0 →
        ∃ t, exec (.vigilScan d) s = .next t ∧ [(s.task k).tid] ∈ t.findings)
    ∧ (w.signaller = (s.task j).tid → s.taskWithId (s.task j).tid = some j → (s.task j).wait = some v → (s.task j).status = .parked →
        v.signaller = (s.task k).tid → (s.task k).tid ≠ 0 → (s.task j).tid ≠ 0 → (s.task j).tid ≠ (s.task k).tid →
        ∃ t, exec (.vigilScan d) s = .next t ∧ [(s.task k).tid, (s.task j).tid] ∈ t.findings)
    ∧ ∃ t, exec (.vigilScan d) s = .next t ∧ t.tasks = s.tasks ∧ t.mem = s.mem ∧ s.findings <+: t.findings)

/-! ## System registers and instructions -/

/-- MFC and MTC read and write every control register and are refused where R316 says. MFC completes with the register that its 12-bit number names: task, core, tenant, exception, partition and management registers; `c.cycle`
reads, and keeps, a value that has advanced (R14, R75, R143, R156, R222, R232, R316). How far `c.cycle` has advanced is log entry 7; that an
M-core task's partition registers are those of the partition whose tables it uses is log entry 13. MTC completes with its register written, the bits that the register defines as zero stored as zero; a write of weight 0 stores 1
(R123, R143, R232, R316). The registers that an M-core reads as 0 keep nothing that it writes there; the partition registers that it writes
are those of the partition whose tables it uses (log entry 13). A number that names no control register raises `illegal-encoding`, and a supervisor register without privilege raises `privilege`, both
before the guard is looked at; a write to a read-only register raises `privilege` (R59, R316). -/
def Obligations.ControlRegistersAreReadAndWritten : Prop :=
  (∀ (f : Fields) (s : State),
    let n := (f.a ++ f.b).toNat
    let t := s.me
    let c := s.core s.myCore
    let m := isM s.myCore
    let p := s.part (s.tablePart t)
    let gives (v : Word64) : Prop := exec (.mfc f) s = completes s (s.setX f.d v) f
    s.issues .mfc f →
    (n = 0x001 → gives (t.tid.setWidth 64)) ∧ (n = 0x002 → gives ((s.coreAddr s.myCore).setWidth 64))
    ∧ (n = 0x003 → gives (BitVec.ofNat 64 t.bits)) ∧ (n = 0x004 → gives (BitVec.ofNat 64 (s.cur % 8)))
    ∧ (n = 0x005 → gives (t.tenant.setWidth 64)) ∧ (n = 0x006 → gives t.fflags) ∧ (n = 0x007 → gives t.cause) ∧ (n = 0x008 → gives t.epc)
    ∧ (n = 0x009 → gives t.eval) ∧ (n = 0x00A → gives t.tvec) ∧ (n = 0x00B → gives p.htab)
    ∧ (n = 0x00C → gives (if m then 0 else BitVec.ofNat 64 (c.queue.length * 2 ^ 16 + c.weight.toNat)))
    ∧ (n = 0x00D → ∃ (v : Word64) (e : BitVec 16) (u : State), exec (.mfc f) s = completes s (u.setX f.d v) f
        ∧ v = (s.die (dieOf s.myCore)).cycle + e.setWidth 64 + 1 ∧ (u.die (dieOf s.myCore)).cycle = v ∧ u.tasks = s.tasks ∧ u.mem = s.mem)
    ∧ (n = 0x00E → gives (BitVec.ofNat 64 c.inbox.length)) ∧ (n = 0x00F → gives (if m then 0 else c.apred))
    ∧ (n = 0x010 → m = false → isA s.myCore = true → gives 0x7F) ∧ (n = 0x010 → m = false → isA s.myCore = false → gives 0x0F)
    ∧ (n = 0x010 → m = true → gives 0x87) ∧ (n = 0x011 → gives (if m then 0 else c.grant))
    ∧ (t.priv = true → (n = 0x100 → gives p.part) ∧ (n = 0x101 → gives p.member) ∧ (n = 0x102 → gives p.slical)
        ∧ (n = 0x103 → gives p.save)
        ∧ (n = 0x104 → gives (if m then BitVec.ofNat 64 (2 ^ 16 + (s.myCore - 512)) else 0))))
  ∧ (∀ (f : Fields) (s : State),
    let n := (f.a ++ f.b).toNat
    let t := s.me
    let c := s.core s.myCore
    let v := s.me.getX f.d
    let leads (u : State) : Prop := exec (.mtc f) s = completes s u f
    s.issues .mtc f →
    (n = 0x006 → leads (s.setMe { t with fflags := v &&& 0x3F#64 }))
    ∧ (n = 0x007 → leads (s.setMe { t with cause := v &&& 0x80000000000000FF#64 }))
    ∧ (n = 0x008 → leads (s.setMe { t with epc := v &&& 0xFFFFFFFF#64 }))
    ∧ (n = 0x009 → leads (s.setMe { t with eval := v }))
    ∧ (n = 0x00A → leads (s.setMe { t with tvec := v &&& 0xFFFFFFFF#64 }))
    ∧ (isM s.myCore = false →
        (n = 0x00C → leads (s.setCore s.myCore { c with weight := if v.setWidth 4 = 0#4 then 1 else v.setWidth 4 }))
        ∧ (n = 0x00F → leads (s.setCore s.myCore { c with apred := v })) ∧ (n = 0x011 → leads (s.setCore s.myCore { c with grant := v })))
    ∧ (isM s.myCore = true → n = 0x00C ∨ n = 0x00F ∨ n = 0x011 → leads s)
    ∧ (t.priv = true → (n = 0x102 → leads (s.slicalWrite (s.tablePart t) v))
        ∧ (n = 0x103 → leads (s.setPart (s.tablePart t) { s.part (s.tablePart t) with save := v }))))
  ∧ (∀ (f : Fields) (s : State),
    let n := (f.a ++ f.b).toNat
    let illegal : Result := faults s s { code := .illegalEncoding }
    let denied : Result := faults s s { code := .privilege }
    (n = 0 ∨ 0x11 < n ∧ n < 0x100 ∨ 0x104 < n → exec (.mfc f) s = illegal ∧ exec (.mtc f) s = illegal)
    ∧ (f.smClass = 0 → 0x100 ≤ n → n ≤ 0x104 → s.me.priv = false → exec (.mfc f) s = denied ∧ exec (.mtc f) s = denied)
    ∧ (s.issues .mtc f → n ∈ [1, 2, 3, 4, 5, 0xB, 0xD, 0xE, 0x10, 0x100, 0x101, 0x104] → exec (.mtc f) s = denied))

/-- The supervisor's instructions complete with their effect when their operands are lawful: RGSET replaces a region-table entry, TENSET the
group and members of a partition, STOPRD, WFTRD and ATLOG store a record and defer a count, CTXSV saves a context at rest, and CTXLD
replaces it, or reports `save-integrity` for an image whose block fails (R235 to R239, R275, R291, R292, R341, R349, R350, R397). That RGSET and
TENSET want a partition that is configured, and when it is, is log entry 14; that TENSET of the supervisor's group is ignored is log entry 19;
the bytes of an image and its check are log entry 30. -/
def Obligations.SupervisorInstructionsHaveTheirEffect : Prop := ∀ (f : Fields) (s : State),
  let a := (s.me.getX f.a).toNat
  let b := s.me.getX f.b
  let w := b.toNat
  let d := (s.me.getX f.d).toNat
  let r := s.me.getO (f.a &&& 31)
  (s.issues .rgset f → d < 16 → (s.part d).configured → a < 2 ^ 20 → bits w 54 6 = 0 → bits w 8 40 = 0 →
      b.getLsbD 63 = false ∨ bits w 0 8 + bits w 48 6 + 1 ≤ 256 →
      exec (.rgset f) s = completes s { s with regions := s.regions.set (2 ^ 20 * d + a) b } f)
  ∧ (s.issues .tenset f → a < 16 → (s.part a).configured → w < 0x3FF → exec (.tenset f) s = completes s (s.setPart a
      { s.part a with part := ((s.part a).part &&& ~~~(0x3FF#64 <<< 28)) ||| (b <<< 28), member := s.me.getX f.d }) f)
  ∧ (s.issues .tenset f → a < 16 → (s.part a).configured → w = 0x3FF → exec (.tenset f) s = completes s s.ignoredWrite f)
  ∧ (∀ x u, s.issues .stoprd f → needRoomFor s r 64 = .ok () → bits w 16 16 = 0 → w < 2 ^ 37 →
      (w.testBit 36 → bits w 32 4 = 0) → let recs := (s.halt (if w.testBit 36 then 16 else bits w 32 4)).records
      recs[w % 65536]? = some x → writeCanon s r 0 x.bytes = .ok u →
      exec (.stoprd f) s = completes s (u.deferX f.d (BitVec.ofNat 64 recs.length)) f)
  ∧ (∀ e u, s.issues .wftrd f → needRoomFor s r 32 = .ok () → w < 2 ^ 18 → (s.waitTable (w / 65536))[w % 65536]? = some e →
      writeCanon s r 0 (waitEntry (s.task e.1).tid e.2) = .ok u →
      exec (.wftrd f) s = completes s (u.deferX f.d (BitVec.ofNat 64 (s.waitTable (w / 65536)).length)) f)
  ∧ (∀ u, s.issues .atlog f → needRoomFor s r 768 = .ok () → bits w 16 16 = 0 → w < 2 ^ 35 → (w.testBit 34 → bits w 32 2 < 2) →
      let home := if w.testBit 34 then 4 + bits w 32 2 else bits w 32 2
      let logs : List AtomicLog := match s.coreAt (BitVec.ofNat 16 w) with
        | some c => (s.core c).results.filter (fun l => l.home == home)
        | none => []
      writeCanon s r 0 (logs.flatMap AtomicLog.bytes ++ List.replicate (768 - 48 * logs.length) 0) = .ok u →
      exec (.atlog f) s = completes s (u.deferX f.d (BitVec.ofNat 64 logs.length)) f)
  ∧ (∀ p ctx u, s.issues .ctxsv f → needImage f s true = .ok (p, ctx) →
      let im : Image := { context := s.fresh.2.contextAt p ctx, count := (s.halt p).count, blocks := (s.part p).blocks }
      writeCanon s.fresh.2 r 0 (im.bytes s.free) = .ok u →
      exec (.ctxsv f) s = completes s { u with images := u.images.set s.free im } f)
  ∧ (∀ p ctx h, s.issues .ctxld f → needImage f s false = .ok (p, ctx) →
      access s (oCanon r) (16 + oView r) (imageSize (s.part p).blocks) = .ok h →
      exec (.ctxld f) s = match s.checkImage p ctx (h + 16 + oView r) with
        | .ok v => completes s (if (s.part p).ctx = ctx then s.loadContext p v.halted
            else { s with shadow := s.shadow.filter (fun x => !(x.part == p && x.ctx == ctx)) ++ [v] }) f
        | .error n => completes s (s.report p { agent := .restore p, tid := 0, info := {
            code := some .saveIntegrity, ptr := oCanon r, progress := BitVec.ofNat 64 n, atIssue := false } }) f)

/-- HDL, HNEW and HREV use, make and revoke handles; PREF prefetches; FENCE and releases order accesses. HDL turns a live handle into the register of its block's entry; PREF on a pointer that names nothing to copy does nothing, and
otherwise enters a copy that PREF_COPY_COMPLETE fills, some blocks at a time; FENCE orders by its kind and scope (R181, R212, R297, R337). After a release at a scope, and a full fence at pkg, dom or sys, the task has no earlier store in its buffer that the scope orders, and no
earlier canonical load that it orders can still be performed: below pkg those of the written home, at pkg those of the dies, at dom and sys
all. A full fence below pkg marks every store of the buffer, and a load of a marked store's home waits (R206, R209, R212). HNEW writes the token count into its tenant's handle entry and defers the handle; HREV advances the entry's generation, 65,535 to 1, and
zeroes the count (R179, R180). -/
def Obligations.HandlesPrefetchesAndFences : Prop :=
  (∀ (f : Fields) (s : State),
    let canon := oCanon (s.me.getO f.a)
    let hv := s.me.getX f.a
    let b := (s.me.getX f.b).toNat
    let tab := s.htab
    let scope := f.x.toNat % 8
    let index := bits hv.toNat 36 16
    (∀ s1 s2 ta th e dir bs blkAddr, let entry := leNat (e.take 8)
        let blk := leWord bs
        let h := leWord (s2.loadBytes s2.cur blkAddr 8)
        s.issues .hdl f → tagOf hv = 6 → tab ≠ 0 → bits hv.toNat 52 8 = s.me.tenant.toNat % 256 →
        header s tab = .ok (ta, th) → index < hLen th / 32 → loadNow s tab (16 + 32 * index) 16 = .ok (s1, e) →
        bits entry 32 16 = s.me.tenant.toNat → bits entry 48 16 = bits hv.toNat 20 16 → b < bits hv.toNat 0 20 → b < bits entry 0 20 →
        bits entry 28 4 = 0 → dir = leWord (e.drop 8) → loadNow s1 dir (16 + 8 * (b / 64)) 8 = .ok (s2, bs) →
        badPtr blk = false → access s2 blk 0 16 = .ok blkAddr → s2.poisoned blkAddr 16 = false → validHeader h → hKind h = 0 → 36864 ≤ hLen h →
        exec (.hdl f) s = completes s ((s2.fixAt blkAddr 16).deferO f.d (oMake false true (576 * (b % 64)) 576 blk)) f)
    ∧ (s.issues .pref f → badPtr canon = true → exec (.pref f) s = completes s s f)
    ∧ (∀ a h u off, s.issues .pref f → badPtr canon = false → s.copyOf s.myCore canon = none → (s.core s.myCore).copies.length < 512 →
        header s canon = .ok (a, h) → prefPad s f canon h = some u → s.padRoom u s.me.ctx (16 + hLen h) = some off →
        exec (.pref f) s = completes s (s.copyIn s.myCore u s.me.ctx off (16 + hLen h) canon (leBytes 8 h.toNat) true) f)
    ∧ (∀ c ptr e, s.copyOf c ptr = some e → e.pref = true → e.complete = false → e.next < e.blocks →
        ∃ n k, 1 ≤ k ∧ k ≤ e.blocks - e.next ∧ exec (.prefCopyComplete c ptr) s = .next ({ s with free := n }.prefBlocks c ptr k))
    ∧ (∀ c ptr e a, let lo := 16 + 64 * e.next
        s.copyOf c ptr = some e → e.pref = true → e.complete = false → e.blocks = e.next + 1 → s.readerOf e = none →
        s.reach ((s.partOf (clusterOf c)).getD 0) ptr lo (e.blockSize e.next) = .ok a → s.poisoned (a + lo) (e.blockSize e.next) = false →
        exec (.prefCopyComplete c ptr) s = .next ((s.poke (e.copy.toNat + lo) (s.mem.readN (a + lo) (e.blockSize e.next))).setCopy c
          { e with next := e.next + 1, complete := true }))
    ∧ (s.issues .fence f → s.me.faulting = false → f.x.toNat / 8 % 4 = 2 → exec (.fence f) s = completes s (s.fenceAcq scope) f)
    ∧ (∀ s', s.issues .fence f → s.me.faulting = false → f.x.toNat / 8 % 4 = 0 → fenceFull scope s = .ok s' →
        (scope = 5 → s'.ctlHeld s'.me.tid = false) → exec (.fence f) s = completes s s' f)
    ∧ (s.issues .fence f → s.me.faulting = false → f.x.toNat / 8 % 4 = 1 →
        (scope = 5 → s.ctlHeld s.me.tid = false) → exec (.fence f) s = completes s (s.fenceRel scope) f))
  ∧ (∀ (s s' : State) (scope home : Nat),
    let ordered (h : Nat) : Prop := if scope < 3 then h = home else if scope = 3 then h < 4 ∨ h = home else True
    (releasedAt scope home s = .ok s' →
        (∀ st ∈ s'.me.sb, ¬ ordered st.home) ∧ (∀ p ∈ s'.me.pend, ∀ e ∈ p.src, e.priv = false → ¬ ordered (homeOf e.addr)))
    ∧ (fenceFull scope s = .ok s' → 3 ≤ scope →
        (∀ st ∈ s'.me.sb, 4 ≤ st.home ∧ scope = 3) ∧ (∀ p ∈ s'.me.pend, ∀ e ∈ p.src, e.priv = false → 4 ≤ homeOf e.addr ∧ scope = 3))
    ∧ (fenceFull scope s = .ok s' → scope < 3 → s'.me.sb.length = s.me.sb.length ∧ (∀ st ∈ s'.me.sb, st.fenced = true) ∧ s'.mem = s.mem)
    ∧ (∀ ptr lo n a st, s.admits s.cur ptr → s.reach (s.tablePart s.me) ptr lo n = .ok a → st ∈ s.me.sb → st.fenced = true →
        st.home = homeOf a → access s ptr lo n = .error (.retry s)))
  ∧ (∀ (f : Fields) (s s' : State) (a e0 x : Nat) (dir h : Word64),
    let v := s.me.getX f.a
    let n := (s.me.getX f.b).toNat
    let g := bits e0 48 16
    handleEntry s v = .ok (a, e0, dir) → releasedAt 3 (homeOf a) s = .ok s' →
    (s.issues .hnew f → header s dir = .ok (x, h) → n ≤ 64 * (hLen h / 8) → n < 2 ^ 20 → exec (.hnew f) s =
        completes s ((s'.pokeWord a (BitVec.ofNat 64 (e0 / 2 ^ 20 * 2 ^ 20 + n))).deferX f.d
          (BitVec.ofNat 64 (6 * 2 ^ 60 + s'.me.tenant.toNat % 256 * 2 ^ 52 + v.toNat * 2 ^ 36 + g * 2 ^ 20 + n))) f)
    ∧ (s.issues .hrev f → exec (.hrev f) s = completes s
        (s'.pokeWord a (BitVec.ofNat 64 ((if g = 65535 then 1 else g + 1) * 2 ^ 48 + bits e0 20 28 * 2 ^ 20))) f))

/-- MGRD defers, and MGWR writes, the 32-bit register at a management address: HSTAT, QHEAD, a description's words, a route, a power budget;
MGMT_REGISTER_WRITE makes the same plain writes from outside (R156, R217, R222, R231, R247, R261). That MGWR writes its register in the step
that issues it is log entry 18. -/
def Obligations.ManagementRegistersAreReadAndWritten : Prop := ∀ (f : Fields) (s : State),
  let a := (s.me.getX f.a).toNat
  let v : Word32 := (s.me.getX f.d).setWidth 32
  let ok := a < 2 ^ 32 ∧ a % 4 = 0 ∧ s.unitHeld s.me.tid a = false
  let gives (w : Word32) : Prop := exec (.mgrd f) s = completes s (s.deferX f.d (w.setWidth 64)) f
  (s.issues .mgrd f → ok → (∀ p, p < 16 → a = 0x20200000 + 0x100 * p → gives (s.halt p).stat)
    ∧ (∀ p q, p < 16 → q < 64 → a = 0x20000000 + 2 ^ 16 * p + 64 * q + 0x0C → gives (s.queue p q).head)
    ∧ (∀ p, p < 16 → a = 0x20100000 + 32 * p → gives ((s.part p).part.setWidth 32))
    ∧ (∀ io i, io < 2 → i < 64 → a = 0x11000000 + 2 ^ 20 * io + 4 * i → gives (s.plat.routes.find (64 * io + i) 0))
    ∧ (∀ d, d < 4 → a = 0x33000000 + 2 ^ 12 * d → gives ((s.die d).budget.setWidth 32)))
  ∧ (s.issues .mgwr f → ok → exec (.mgwr f) s = completes s (s.mgWrite s.me.tid a v) f)
  ∧ (∀ d, d < 4 → a = 0x33000000 + 2 ^ 12 * d →
      s.mgWrite s.me.tid a v = s.setDie d { s.die d with budget := v.setWidth 16 }
      ∧ exec (.mgmtRegisterWrite (BitVec.ofNat 32 a) v) s = .next (s.setDie d { s.die d with budget := v.setWidth 16 }))
  ∧ (∀ p, p < 16 → a = 0x20200000 + 0x100 * p + 0x08 → s.mgWrite s.me.tid a v = s.hresWrite p v)

/-! ## Collections, launches, partitions -/

/-- Gleaner commands start, reject and end collections; a collection traces its colour. A write of GLCMD with go starts a collection that its Gleaner serves, and is rejected when one runs, the level is not the unit's or the
colour is no context's;
reading GLPAUSE clears it; COLLECTION_END ends the traced collection, counts it and keeps the longest pause (R44, R50). COLLECTION runs the trace of its pad's colour whole, and marks the command traced unless a fault or a stalled channel has ended it early; a
REGION_EVACUATION, which waits for a stalled channel, first pauses the partition's tasks, whose results and stores are performed, and then empties the die's used regions that
take no allocations, fullest first (R40 to R45, R49; how fullest is measured is the model's choice, log entry 20). -/
def Obligations.CollectionsAreCommandedAndRun : Prop :=
  (∀ (s : State) (d unit : Nat) (v : Word32),
    let g := s.gleaner d unit
    let cmd : BitVec 8 := v.setWidth 8 &&& 0xFB
    let done (h : Gleaner) (i : Instr) : Prop := exec i s = .next (s.setGleaner d unit h)
    (∀ u, cmd.toNat % 4 ≠ 0 → glPad d unit cmd.toNat = some u → g.busy = false → bits cmd.toNat 6 2 < s.padContexts u →
        done { g with cmd := cmd, busy := true, traced := false, rejected := false, cascaded := false } (.glcmdGo d unit v))
    ∧ (cmd.toNat % 4 ≠ 0 → glPad d unit cmd.toNat = none ∨ g.busy = true → done { g with rejected := true } (.glcmdGo d unit v))
    ∧ (∀ u, cmd.toNat % 4 ≠ 0 → glPad d unit cmd.toNat = some u → s.padContexts u ≤ bits cmd.toNat 6 2 →
        done { g with rejected := true } (.glcmdGo d unit v))
    ∧ done { g with pause := 0 } (.glpauseRead d unit)
    ∧ ∀ (u : PadUnit) (colour : Nat), gleanerOf u = (d, unit) → g.traced = true → s.collects u colour = true →
        ∃ t, exec (.collectionEnd u colour) s = .next t ∧ (t.gleaner d unit).busy = false ∧ (t.gleaner d unit).count = g.count + 1
          ∧ g.pause.toNat ≤ (t.gleaner d unit).pause.toNat ∧ t.mem = s.mem ∧ t.tasks = s.tasks)
  ∧ (∀ (s : State) (u : PadUnit) (colour : Nat),
    let g := s.gleaner (gleanerOf u).1 (gleanerOf u).2
    (s.collects u colour = true → g.traced = false →
        (∀ t ok, s.collectColour (s.collector u) colour u = .done t ok → exec (.collection u colour) s = .next
            (t.setGleaner (gleanerOf u).1 (gleanerOf u).2 { t.gleaner (gleanerOf u).1 (gleanerOf u).2 with traced := true }))
        ∧ (∀ t, s.collectColour (s.collector u) colour u = .halted t ∨ s.collectColour (s.collector u) colour u = .waits t →
            exec (.collection u colour) s = .next t))
    ∧ (s.collects u colour = false → exec (.collection u colour) s = .next s)
    ∧ ∀ (p d : Nat),
        let s1 := s.tasks.foldl (fun s e => if e.2.status ≠ .free ∧ e.2.part = p then (s.landAll e.1).drainAll e.1 else s) s
        let used := (s1.regionsOn p d).filter (fun r =>
          !(s1.regionAlloc p r).objs.isEmpty && !s1.current.any (fun e => e.1 / 16 == p && e.2 == r))
        exec (.regionEvacuation p d colour) s = .next (if s.evacuationStalls p d then s else
          ((sortBy (fun a b => (s1.regionAlloc p b).bump ≤ (s1.regionAlloc p a).bump) used).foldl
            (evacuateRegion p d colour) (s1, false, s1.liveHeap p)).1))

/-- Queue registers are written; a selected packet becomes a launch or completes refused. A queue's tail and control are written: a tail beyond the ring's size stops the queue with the error bit, and a doorbell has no effect in
recovery; an unusable ring is not enabled; a distributor's error bits written as 1 are cleared (R217, R250, R404). LAUNCH_SELECT, every head and the packet's code and mailbox at hand, takes the selected packet off its queue: a refused packet completes
at once with status 2 and its count, any other becomes a running launch; a packet that is refused for what it says itself needs its mailbox
alone (R218 to R221). -/
def Obligations.QueuesAndPacketsBecomeLaunches : Prop :=
  (∀ (s : State) (p q io : Nat) (v : Word32),
    let k := s.queue p q
    let done (h : Queue) (i : Instr) : Prop := exec i s = .next (s.setQueue p q h)
    (s.plat.recovery = true → exec (.qtailWrite p q v) s = .next s)
    ∧ (s.plat.recovery = false → (v - k.head).toNat ≤ k.ring → done { k with tail := v } (.qtailWrite p q v))
    ∧ (s.plat.recovery = false → k.ring < (v - k.head).toNat → done { k with tail := v, ctl := (k.ctl &&& ~~~1#32) ||| 2#32 } (.qtailWrite p q v))
    ∧ (s.ringOk p k.base (v ||| 1#32) = true →
        done { k with ctl := ((v ||| 1#32) &&& 0x003FFFC1#32) ||| (k.ctl &&& 2#32) } (.qctlEnable p q v))
    ∧ (s.ringOk p k.base (v ||| 1#32) = false → done { k with ctl := k.ctl ||| 2#32 } (.qctlEnable p q v))
    ∧ ∃ t, exec (.derrWrite io v) s = .next t ∧ (t.dist io).derr = (s.dist io).derr &&& ~~~(v &&& 0xE0000000#32)
        ∧ (t.dist io).dcount = (s.dist io).dcount)
  ∧ (∀ (s : State) (io p q : Nat) (bs : List Byte), s.selection io = some (p, q, bs) →
    let k := s.queue p q
    let w0 := packetWord bs 0
    let code : Word64 := BitVec.ofNat 64 (packetWord bs 1)
    let mailbox : Word64 := BitVec.ofNat 64 (packetWord bs 4)
    let usable := bits w0 0 8 = 1 ∧ packetBad bs = false ∧ 1 ≤ bits w0 32 16 ∧ bits w0 32 16 ≤ 4096
      ∧ s.maskClusters p (bits w0 20 4) ≠ [] ∧ s.packetCode p code (bits (packetWord bs 2) 0 32)
      ∧ malformed (BitVec.ofNat 64 (packetWord bs 3)) = false
    s.plat.recovery = false → s.headWaits io = false → s.engineWaits p mailbox 24 = false →
    (s.packetRefused p bs = false → s.engineWaits p code (s.codeSize p code) = false ∧ s.distFault p q code (s.codeSize p code) = none) →
    (∀ a, ¬ usable → s.mailboxAt p mailbox = some a → s.distFault p q mailbox 16 = none →
        ∃ t, exec (.launchSelect io) s = .next t ∧ (t.queue p q).head = k.head + 1 ∧ (t.queue p q).running = k.running
          ∧ t.mem = s.mem.writeN a (leBytes 8 (k.head.toNat * 2 ^ 32 + 2)))
    ∧ (usable → ∃ t, exec (.launchSelect io) s = .next t ∧ (t.queue p q).head = k.head + 1 ∧ (t.queue p q).running = some s.order
        ∧ t.mem = s.mem ∧ ∃ la : Launch, t.launches.lookup s.order = some la ∧ la.part = p ∧ la.queue = q ∧ la.count = k.head
          ∧ la.mailbox = mailbox ∧ la.code = code ∧ la.roots = bits w0 32 16))

/-- Roots are placed and launches complete; partitions are configured and their contexts swapped. A held root is placed in its cluster; a launch whose tasks, records, nodes and jobs have all gone completes: its completion word takes
status 1 with its count, and its queue may start the next packet (R215, R221). A description is written while its partition holds nothing, and ignored with a note otherwise; a slice that starts sends a boundary to the
context it names; CONTEXT_SWAP at a boundary makes that context the active one and keeps the old one in shadow storage (R222, R225, R226).
That the first write of any register of a description configures the partition is log entry 14; that a whole partition is swapped in one
step is log entry 29. -/
def Obligations.LaunchesAndPartitions : Prop :=
  (∀ (s : State),
    (∀ (io i : Nat) (s' : State), (∀ e, e ∈ s.launches → e.2.loaded = true) → s.placeableRoot io = some (i, s') →
        exec (.launchRootPlace io) s = .next (s'.setDist io { s'.dist io with held := (s'.dist io).held.eraseIdx i }))
    ∧ ∀ (l a : Nat) (la : Launch), s.launches.lookup l = some la → la.loaded = true → s.descends l = false →
        s.engineWaits la.part la.mailbox 24 = false → s.mailboxAt la.part la.mailbox = some a →
        s.distFault la.part la.queue la.mailbox 16 = none →
        ∃ t, exec (.launchComplete l) s = .next t ∧ t.mem = s.mem.writeN a (leBytes 8 (la.count.toNat * 2 ^ 32 + 1))
          ∧ (t.queue la.part la.queue).running = none ∧ t.launches.lookup l = none)
  ∧ (∀ (s : State) (p : Nat), p < 16 →
    let q := s.part p
    (∀ v, s.partBusy p = false → exec (.partitionWrite p 8 v) s = .next (if q.group = 0x3FF then s.ignoredWrite
        else s.setPart p { q with member := q.member.extractLsb' 32 32 ++ v, configured := true }))
    ∧ (∀ v, s.partBusy p = false → ({ q with part := partWord p (setHalf q.part false v) } : Partition).group ≠ 0x3FF →
        ∃ t, exec (.partitionWrite p 0 v) s = .next t ∧ t.mem = s.mem ∧ t.part p = { q with
          part := partWord p (setHalf q.part false v), configured := true, ctx := 0, calendar := none, next := none, boundary := none })
    ∧ (∀ off v, s.partBusy p = true → off < 0x18 → off % 4 = 0 →
        ∃ t, exec (.partitionWrite p off v) s = .next t ∧ t.parts = s.parts ∧ (t.dist 0).derr.getLsbD 31 = true
          ∧ (t.dist 1).derr.getLsbD 31 = true)
    ∧ (∀ (c : Calendar) (e : Nat × Nat) (time : Word64), s.plat.time.toNat ≤ time.toNat → q.next = none → q.calendar = some c →
        c.epoch ≤ time.toNat → c.slices.find? (fun e => (time.toNat - c.epoch) % c.period == e.2) = some e → e.1 ≠ q.ctx →
        ∃ t, exec (.sliceBoundary p time) s = .next t ∧ t.part p = { q with boundary := some e.1 } ∧ t.plat.time = time)
    ∧ (∀ ctx, q.boundary = some ctx → q.ctx ≠ ctx → (s.halt p).halted = false → (s.halt p).reports = [] → s.collecting p q.ctx = false →
        s.collecting p ctx = false → (∀ e, e ∈ s.tasks → e.2.part = p → e.2.status = .free ∧ e.2.sb = [] ∧ s.task e.1 = e.2) →
        ∃ t, exec (.contextSwap p ctx) s = .next t ∧ t.part p = { q with ctx := ctx, boundary := none } ∧ s.contextNow p ∈ t.shadow
          ∧ (settled s → s.shadow.all (fun v => v.part != p || v.ctx != ctx) → t.mem = s.mem)))

/-! ## Platform -/

/-- A channel's PHY registers act in train mode; automatic retraining runs on drift. The PHY of a channel: CTL takes effect at once when the channel is idle and waits while it is busy; a run with train mode and quiesce set
makes the channel busy and its results arrive at its end; a write that waits for automatic retraining takes effect when a pseudo-channel is
done, and ends the retraining only where it sets train mode; lane and repair registers are written in train mode only (R255 to R257, R263). Automatic retraining starts at a drift of 8 °C on a channel that nobody holds, retrains pseudo-channel 0 and then 1, and after that the
trained temperature is the current one (R257). -/
def Obligations.ChannelsAreTrainedAndRetrained : Prop :=
  (∀ (s : State) (ch : Nat) (v : Word32),
    let c := s.channel ch
    let idle := c.busy = false ∧ c.waiting = []
    let leads (i : Instr) (d : Channel) : Prop := exec i s = .next (s.setChannel ch d)
    (idle → v.getLsbD 2 = false → leads (.ctlQuiesce ch v) (c.take v) ∧ leads (.ctlTrainMode ch v) (c.take v))
    ∧ (idle → v.getLsbD 2 = true → leads (.ctlRun ch v) (c.take v))
    ∧ (c.busy = true → v.getLsbD 2 = true → leads (.ctlRun ch v) { c with waiting := c.waiting ++ [(0, v)] })
    ∧ (v.toNat % 8 = 7 → bits v.toNat 4 4 < 5 →
        (c.take v).busy = true ∧ (c.take v).done = false ∧ (c.take v).ctl = v.setWidth 8 &&& 0xFB)
    ∧ (v.toNat % 8 = 7 → 5 ≤ bits v.toNat 4 4 → (c.take v).busy = c.busy ∧ (c.take v).done = true ∧ (c.take v).result = 0)
    ∧ (∀ t u rest, c.waiting = (t, u) :: rest → c.busy = false → c.auto = false → leads (.ctlWriteApply ch) (Channel.take { c with waiting := rest } u))
    ∧ (∀ t u, c.waiting = [(t, u)] → c.auto = true → c.run = none → leads (.ctlWriteApply ch) (if u.getLsbD 0
        then { Channel.take { c with auto := false, busy := false, autoPc := false } u with waiting := [] }
        else Channel.retrained { c.take u with waiting := [] }))
    ∧ (∀ pc rep good, c.run = some (pc, rep) → rep.getLsbD 7 = false →
        leads (.patternRunDone ch good) { c.setResult pc good with done := true, busy := false, run := none })
    ∧ (∀ lane, lane ≤ 36 → c.train = true →
        leads (.rdlyWrite ch lane v) { c with rdly := c.rdly.set (c.laneKey lane) (v.setWidth 6) }
        ∧ leads (.wdlyWrite ch lane v) { c with wdly := c.wdly.set (c.laneKey lane) (v.setWidth 6) })
    ∧ (∀ lane, c.train = false ∨ 36 < lane → exec (.rdlyWrite ch lane v) s = .next s ∧ exec (.wdlyWrite ch lane v) s = .next s)
    ∧ (c.train = true → v.getLsbD 7 = false ∨ v.toNat % 128 ≤ 35 → leads (.repairWrite ch v)
        (if c.sel then { c with repair1 := v.setWidth 8 } else { c with repair0 := v.setWidth 8 }))
    ∧ (c.train = false ∨ (v.getLsbD 7 = true ∧ 35 < v.toNat % 128) → exec (.repairWrite ch v) s = .next s))
  ∧ (∀ (s : State) (ch : Nat),
    let c := s.channel ch
    let leads (i : Instr) (d : Channel) : Prop := exec i s = .next (s.setChannel ch d)
    (∀ temp : BitVec 8, c.train = false → c.busy = false → c.waiting = [] → 8 ≤ (temp.toInt - c.trained.toInt).natAbs →
        leads (.autoRetrain ch temp) { c with current := temp, auto := true, busy := true, autoPc := false })
    ∧ (∀ temp : BitVec 8, (temp.toInt - c.trained.toInt).natAbs < 8 ∨ c.train = true →
        leads (.autoRetrain ch temp) { c with current := temp })
    ∧ (c.auto = true → c.waiting = [] → c.autoPc = false → leads (.autoRetrainDone ch) { c with autoPc := true })
    ∧ (c.auto = true → c.waiting = [] → c.autoPc = true →
        leads (.autoRetrainDone ch) { c with auto := false, busy := false, autoPc := false, trained := c.current }))

/-- Errors and the host: a host store writes its bytes where a mapped frame or host memory leads it, and not in recovery; a page response
grants the page, or notes for its task that it is refused, whose instruction then raises `host-translation` there and else asks for the page
and waits; an uncorrectable error poisons its block, corrected errors are counted and at their threshold a row goes to a spare (R239, R240,
R243, R244, R250). That a frame is mapped by HOST_ACCESS, that host memory is apart for each partition and that a granted page stays granted
are log entry 35. -/
def Obligations.HostAndErrorsActOnMemory : Prop := ∀ (s : State),
  (∀ a bs pa, s.plat.recovery = false → s.hostReach a bs.length = some pa →
      isHost pa ∨ (∀ i, i < bs.length → s.deviceStalls (a + i) (pa + i) = false) →
      ∃ t, exec (.hostAccess .write a bs) s = .next t ∧ t.mem = s.mem.writeN pa bs ∧ t.tasks = s.tasks)
  ∧ (∀ a bs, exec (.hostAccess .read a bs) s = .next s)
  ∧ (∀ a bs, s.hostReach a bs.length = none → exec (.hostAccess .write a bs) s = .next s)
  ∧ (∀ what a bs, s.plat.recovery = true → exec (.hostAccess what a bs) s = .next s)
  ∧ (∀ a p r i, s.plat.recovery = false → ∃ t, exec (.hostAccess (.map p r i) a []) s = .next t ∧ t.plat.frameMap.lookup (a / 2 ^ 28) = some (p, r, i) ∧ t.mem = s.mem)
  ∧ (∀ i k tid ptr g, s.plat.pages[i]? = some (.task k tid ptr g) →
      (∃ t, exec (.priResponse i true) s = .next t ∧ g ∈ t.plat.grantedPages ∧ t.tasks = s.tasks ∧ t.mem = s.mem)
      ∧ ∃ t, exec (.priResponse i false) s = .next t ∧ t.mem = s.mem
          ∧ ∀ j, (s.task j).tid = tid → (s.task j).status ≠ .free → t.task j = { s.task j with refused := some g })
  ∧ (∀ ptr off n g, s.admits s.cur ptr = true → s.reach (s.tablePart s.me) ptr off n = .page g →
      access s ptr off n = if s.me.refused = some g
        then .error (.fault (s.setMe { s.me with refused := none }) { code := .hostTranslation, ptr := ptr, offset := BitVec.ofNat 64 (off - 16) })
        else .error (.retry (s.askPage (.task s.cur s.me.tid ptr g))))
  ∧ (∀ a n, 0 < n → ∃ t, exec (.uncorrectableError (.block a)) s = .next t ∧ t.poisoned a n = true ∧ t.mem = s.mem)
  ∧ (∀ c n, n < 8 → ∃ t, exec (.uncorrectableError (.accumulator c n)) s = .next t ∧ (t.accOf c n).bad = true ∧ t.mem = s.mem)
  ∧ (∀ loc time, s.ecc.find? (fun e => e.loc == loc) = none → ∃ t, exec (.correctedError loc time) s = .next t
      ∧ (t.ecc.find? (fun e => e.loc == loc)) = some ⟨loc, 1, time⟩ ∧ t.mem = s.mem)
  ∧ (∀ x y e, s.ecc.find? (fun e => e.loc == .hbmRow x y) = some e → 3 ≤ e.count →
      ∃ t, exec (.lastingFaultAction (.hbmRow x y)) s = .next t ∧ t.spared = s.spared ++ [.hbmRow x y]
        ∧ t.ecc.find? (fun e => e.loc == .hbmRow x y) = none)
  ∧ (∀ x y e time, s.ecc.find? (fun e => e.loc == .hbmRow x y) = some e →
      ∃ t, exec (.errorWindowLapse (.hbmRow x y) time) s = .next t
        ∧ t.ecc = s.ecc.filter (fun e => !(e.loc == .hbmRow x y && decide (e.first + 24 < time))))
  ∧ (∀ fn on, fn < 18 → ∃ t, exec (.deviceControl2Write fn on) s = .next t ∧ t.plat.atomicOps.getLsbD fn = on
      ∧ ∀ j, j < 18 → j ≠ fn → t.plat.atomicOps.getLsbD j = s.plat.atomicOps.getLsbD j)

/-- Links: training brings a port up when the partner speaks version 1, and forming a domain gives the package its number; a good flit in
sequence is delivered, any other is acknowledged negatively and leads to a replay in order; when a port goes down, a request that it carries
goes out again on the alternate port, and without one leads to `region`; frames are recorded (R9, R246 to R248). Which event brings the number,
and that only flits with a payload are numbered, are the model's choices (log entry 41). -/
def Obligations.LinksDeliverInOrder : Prop := ∀ (s : State) (n : Nat),
  let p := s.port n
  let leads (i : Instr) (q : Port) : Prop := exec i s = .next (s.setPort n q)
  let bad : Flit := { version := p.version, kind := Config.flitKind false, seq := p.sendSeq, ack := p.recvSeq, nack := true, payload := [] }
  (∀ low high, n < 18 → low ≤ 1 → 1 ≤ high → leads (.linkTraining n (low, high) none) { Port.initial with up := true, version := 1 })
  ∧ (∀ low high k, n < 18 → low ≤ 1 → 1 ≤ high → ∃ t, exec (.linkTraining n (low, high) (some k)) s = .next t
      ∧ (t.port n).up = true ∧ t.plat.package = k ∧ t.plat.inDomain = true)
  ∧ (∀ low high k, n < 18 → 1 < low ∨ high < 1 → ∃ t, exec (.linkTraining n (low, high) k) s = .next t ∧ (t.port n).up = false)
  ∧ (∀ seq ack nack bs, p.up = true → bs ≠ [] → BitVec.ofNat 12 seq = p.recvSeq → leads (.flitReceive n seq ack true nack bs)
      { p with recvSeq := p.recvSeq + 1, received := p.received ++ [bs], wanted := if nack then some (BitVec.ofNat 12 ack) else p.wanted })
  ∧ (∀ seq ack nack, p.up = true → leads (.flitReceive n seq ack true nack [])
      { p with wanted := if nack then some (BitVec.ofNat 12 ack) else p.wanted })
  ∧ (∀ seq ack nack bs, p.up = true → bs ≠ [] → BitVec.ofNat 12 seq ≠ p.recvSeq →
      leads (.flitReceive n seq ack true nack bs) { p with wire := p.wire ++ [bad] })
  ∧ (∀ seq ack nack bs, p.up = true → leads (.flitReceive n seq ack false nack bs) { p with wire := p.wire ++ [bad] })
  ∧ (∀ seq, p.up = true → p.wanted = some (BitVec.ofNat 12 seq) → leads (.flitReplay n seq)
      { p with wanted := none, wire := p.wire ++ (p.replay.dropWhile (fun e => e.1 != BitVec.ofNat 12 seq)).map (fun e =>
          { version := p.version, kind := Config.flitKind true, seq := e.1, ack := p.recvSeq, nack := false, payload := e.2 }) })
  ∧ (∀ k t q v, s.tasks = [(k, t)] → t.pend = [q] → q.peer = some v → v.port = n →
      let down := (s.setPort n { p with up := false }).viaOver v.io v.pkg
      (down = none → ∃ u, exec (.portDown n) s = .next u ∧ (u.port n).up = false ∧ (u.task k).pend = [{ q with fault := some { code := .region } }])
      ∧ ∀ w, down = some w → ∃ u, exec (.portDown n) s = .next u ∧ (u.port n).up = false ∧ (u.task k).pend = [{ q with peer := some w }])
  ∧ (∀ sent bs, n < 4 → ∃ t, exec (.ethernetFrame n sent false bs) s = .next t ∧ t.plat.frames = s.plat.frames ++ [⟨n, sent, bs, none⟩])
  ∧ (∀ sent bs, n < 4 → ∃ t x, exec (.ethernetFrame n sent true bs) s = .next t ∧ t.plat.time = x
      ∧ t.plat.frames = s.plat.frames ++ [⟨n, sent, bs, some x⟩])

/-- Boot, warming and attestation follow the firmware's rules; clocks stretch, relax and count. Boot counts itself and records its steps in their order, with the method that the boots before choose; a step that has had its last try
leads into recovery, where the module stays, and the steps wait while the package warms; warming begins below its temperatures when its turn
has come and fails at its timeout; an attested report names its nonce, boot, measurements and version ranges; a kernel starts at privileged
level on its M-core, with its code loaded anew (R249 to R252, R262). The entries marked started, the moments of warming and the measurements
are log entry 36; the space of the kernel's code is log entry 2. A cluster's clock stretches by the steps of its monitor and relaxes by one after 32 cycles, its counters take the stretched cycles and
steps, and reading one clears it; a tick of a die's reference clock
adds one to its counter (R14, R253). That a trip counts one stretched cycle and each relaxation the 32 before it is log entry 38. -/
def Obligations.FirmwareAndClocks : Prop :=
  (∀ (s : State),
    let fresh := s.plat.recovery = false ∧ s.plat.warming = false ∧ s.plat.booting = false ∧ s.plat.almanac = []
      ∧ s.cold = false
    (fresh → ∃ t, exec (.boot []) s = .next t ∧ t.plat.boot = s.plat.boot + 1 ∧ t.plat.booted = false ∧ t.plat.recovery = false ∧ t.plat.booting = true)
    ∧ (∀ rs, s.plat.recovery = true ∨ (s.plat.booting = true ∧ s.plat.warming = true ∧ rs.head?.map (·.step) ≠ some 1) →
        exec (.boot rs) s = .next s)
    ∧ (∀ temp cxl passed, fresh → ∃ t, exec (.boot [⟨1, 0, some passed, cxl, temp⟩]) s = .next t ∧ t.plat.booted = false
        ∧ (t.plat.almanac.map (fun e => (e.step, e.unit, e.boot, e.alternate, e.outcome))) =
            [(1, 0, s.plat.boot + 1, false, if passed then 1 else 2)])
    ∧ (∀ temp cxl, fresh → ∃ t, exec (.boot [⟨1, 0, none, cxl, temp⟩]) s = .next t ∧ t.plat.booted = false ∧ t.plat.booting = false
        ∧ (t.plat.almanac.map (fun e => (e.step, e.unit, e.boot, e.alternate, e.outcome))) = [(1, 0, s.plat.boot + 1, false, 0)])
    ∧ (∀ r rs, fresh → 2 ≤ r.step → ∃ t, exec (.boot (r :: rs)) s = .next t ∧ t.plat.almanac = [] ∧ t.plat.booted = false)
    ∧ (∀ temp cxl out, s.plat.recovery = false → s.plat.almanac.all (fun e => e.boot != s.plat.boot + 1) →
        lastTry s.plat.almanac 1 0 (s.plat.boot + 1) = true → out ≠ some true →
        ∃ t, exec (.boot [⟨1, 0, out, cxl, temp⟩]) s = .next t ∧ t.plat.recovery = true ∧ t.plat.booted = false)
    ∧ (∀ x, s.plat.warming = false → s.plat.booting = true → s.stepNext 3 0 = true → x < -10 →
        ∃ t, exec (.coldStartWarming [x] []) s = .next t ∧ t.plat.warming = true)
    ∧ (∀ x, s.plat.warming = true → -10 ≤ x → ∃ t, exec (.coldStartWarming [x] []) s = .next t ∧ t.plat.warming = false)
    ∧ (∀ e, s.plat.warming = true → s.plat.almanac.getLast? = some e → ∃ t v, exec .warmingTimeout s = .next t ∧ t.plat.warming = false
        ∧ t.plat.almanac = s.plat.almanac.dropLast ++ [{ e with outcome := 2, ends := s.plat.temps ++ s.plat.stackTemps, lasted := v }])
    ∧ (∀ nonce, s.plat.mailboxVersion.isSome → s.plat.recovery = false → ∃ t r, exec (.attestationRequest nonce) s = .next t
        ∧ t.plat.reports = s.plat.reports ++ [r] ∧ r.nonce = nonce ∧ r.boot = s.plat.boot
        ∧ r.measurements = s.measurements ∧ r.packetLow = 1 ∧ r.packetHigh = 1 ∧ r.finvenLow = 1 ∧ r.finvenHigh = 1)
    ∧ (∀ v, s.plat.mailboxVersion = none → ∃ t, exec (.firmwareMailboxMessage (.negotiate v)) s = .next t ∧ t.plat.mailboxVersion = some v)
    ∧ (∀ c code arg entry a b k, isM c = true → c < 516 → malformed arg = false →
        ((List.range 8).map (8 * c + ·)).find? (fun k => (s.task k).status == .free) = some k →
        s.packetCode Config.mCorePart.val code entry.toNat → s.place Config.mCorePart.val code 16 = .ok a →
        s.plat.recovery = false → lowestFit [s.kernelCode c] (s.codeParcels a).length = some b →
        ∃ t, exec (.firmwareKernelStart c code arg entry) s = .next t ∧ (t.task k).status = .ready ∧ (t.task k).priv = true
          ∧ (t.task k).pc = entry + BitVec.ofNat 32 b ∧ (t.task k).tenant = 0xFFFF ∧ (t.task k).width = 0 ∧ (t.task k).x = Vector.replicate 64 0
          ∧ oCanon ((t.task k).getO 1) = arg ∧ t.mem = s.mem
          ∧ ∃ r, t.mcode.find c [] = s.kernelCode c ++ [r] ∧ r.base = b ∧ r.parcels = s.codeParcels a))
  ∧ (∀ (s : State) (k : ClusterId) (n : Nat),
    let c := s.cluster k
    let leads (i : Instr) (d : Cluster) : Prop := exec i s = .next (s.setCluster k d)
    (1 ≤ n → n ≤ 8 → leads (.clockStretch k n)
      { c with stretch := max c.stretch n, stretchedCycles := c.stretchedCycles + 1, stretchSteps := c.stretchSteps + BitVec.ofNat 32 n })
    ∧ (n = 0 ∨ 8 < n → exec (.clockStretch k n) s = .next s)
    ∧ (c.stretch ≠ 0 → leads (.stretchRelax k) { c with stretch := c.stretch - 1, stretchedCycles := c.stretchedCycles + 32 })
    ∧ exec (.referenceClockTick n) s = .next (s.setDie n { s.die n with cycle := (s.die n).cycle + 1 })
    ∧ leads (.stretchCountRead k true) { c with stretchSteps := 0 } ∧ leads (.stretchCountRead k false) { c with stretchedCycles := 0 })

/-! ## The machine -/

/-- Checks 5 to 8 of R59 come before an instruction's own effect, in their order: the width test and the number of a control register, the
extension (a move to an A-core, before which the task waits for its outstanding results, or `no-extension`), the privilege, the guard, which
when it is off leaves no effect but YIELD's switch point; and only then may it have its own (R54, R58, R59, R66, R108, R316). -/
def Obligations.IssueTestsComeFirst : Prop := ∀ (i : Instr) (o : Op) (f : Fields) (s : State), i.parts = some (o, f) →
  let fits := modFits o f s.me
  let listed := hasExt s.myCore o.row.ext
  let moves : Bool := o.row.ext != .mgmt && !isM s.myCore
  (fits = false → exec i s = faults s s { code := .illegalEncoding })
  ∧ (fits = true → listed = false → moves = false → exec i s = faults s s { code := .noExtension })
  ∧ (fits = true → listed = false → moves = true → s.me.pend.any (·.awaited) = true → exec i s = .next s)
  ∧ (fits = true → listed = false → moves = true → s.me.pend.any (·.awaited) = false →
      exec i s = parks s (s.landAll s.cur) { kind := .migration, op := o, f := f })
  ∧ (fits = true → listed = true → needsPriv o f = true → s.me.priv = false → exec i s = faults s s { code := .privilege })
  ∧ (fits = true → listed = true → (needsPriv o f = true → s.me.priv = true) → o.row.lanes = false → o ≠ .yield →
      (s.me.guard f).getLsbD 0 = false → exec i s = completes s s f)

/-- Whatever the instruction or event and whatever the state, the machine goes on: a fault is taken as R228 lays down and leads to a next
state. -/
def Obligations.EveryInstructionLeadsToANextState : Prop :=
  (∀ (i : Instr) (s : State), ∃ t, exec i s = .next t) ∧ ∀ s : State, ∃ t, step s = .next t

/-- When only one core may go on, a step issues the instruction that the parcels at its task's pc decode to: `exec` of it in the state with
that task the acting one, the slot the last that issued, the YIELD marks it passed cleared, and all else as before; parcels that do not
decode lead to their fault, and a struck block of the store to `uncorrectable` (R59, R65, R91, R240, R399). -/
def Obligations.StepRunsTheDecodedInstruction : Prop := ∀ (s : State) (c : CoreId) (n : Nat), s.choices = [.issue c] → s.nextSlot c = some n →
  let k : TaskKey := 8 * c + n
  let t := s.task k
  let rs := s.codeOf c
  let bad := badCode rs t.pc.toNat (((parcelsAt rs t.pc.toNat).head?.map lenOf).getD 1)
  ∃ u : State, u.cur = k ∧ (u.core c).lastSlot = n
    ∧ (∀ j, { u.task j with skip := false } = { s.task j with skip := false }) ∧ (u.task k).skip = false
    ∧ (∀ d, d ≠ c → u.core d = s.core d) ∧ { u.core c with lastSlot := (s.core c).lastSlot } = s.core c
    ∧ { u with cur := s.cur, tasks := s.tasks, cores := s.cores } = s
    ∧ (∀ i rest, t.past = false → startBit rs t.pc.toNat = true → bad = false →
        decodeParcels (parcelsAt rs t.pc.toNat) = .ok (i, rest) → step s = exec i u)
    ∧ (∀ e, t.past = false → startBit rs t.pc.toNat = true → bad = false → decodeParcels (parcelsAt rs t.pc.toNat) = .error e →
        step s = exec (.undecodableParcel e.code) u)
    ∧ (t.past = false → startBit rs t.pc.toNat = true → bad = true → step s = exec (.undecodableParcel .uncorrectable) u)
    ∧ (t.past = true ∨ startBit rs t.pc.toNat = false → step s = exec (.undecodableParcel .branchTarget) u)

/-- With several things that may happen, a step is one of them, from the state whose free value the choice has used (the model's order of
what happens, log entry 1); with none, the reference clock of a die ticks. -/
def Obligations.StepTakesOneOfTheChoices : Prop := ∀ s : State,
  (s.choices = [] → step s = exec (.referenceClockTick (s.free % 4)) s.fresh.2)
  ∧ (∀ a b cs, s.choices = a :: b :: cs → ∃ ch ∈ s.choices, step s = exec (s.fresh.2.start ch).2 (s.fresh.2.start ch).1)
  ∧ (∀ i, s.choices = [.event i] → step s = exec i { s.fresh.2 with agenda := s.agenda.erase i })

/-- Words that the spec writes out decode to the instructions they stand for (R51 to R53, R67 to R75). -/
def Obligations.WordsDecodeAsTheSpecGives : Prop :=
  ∀ e ∈ ([([0x01185009, 0x80000240], .add { form := .f2, d := 5, a := 6, b := 1, c := 36, x := 0x200 }),
    ([0x000070A2, 0x00000000, 0x12345678], .li { form := .f3, d := 7, lit := 0x12345678 }),
    ([0x3A27F110], .bnz { d := 63, a := 9, b := 58 }),
    ([0x43084201, 0x00800050], .ld { form := .f2, z := 1, d := 4, a := 2, b := 3, c := 5, x := 2 }),
    ([0x00082291, 0x00400000], .stc { form := .f2, d := 2, a := 2, x := 1 }),
    ([0x00206218], .sto { d := 6, a := 8 }),
    ([0x00244221, 0x06C00000], .alloc { form := .f2, d := 4, a := 9, x := 0x1B }),
    ([0x0018024D, 0x02800000], .acq { form := .f2, m := true, a := 6, x := 0xA }),
    ([0x2A000160], .trap { b := 42 })] : List (List Word32 × Instr)),
    decodeParcels e.1 = .ok (e.2, [])

/-- Encoding and decoding agree: every legal mnemonic with its fields is what the decoder reads from its parcels, whatever parcels follow,
and so is every well-formed instruction; no bit of an encoding is dropped (R51 to R59, R67 to R75). -/
def Obligations.DecodingAnEncodingGivesItBack : Prop :=
  (∀ (o : Op) (f : Fields) (rest : List Word32), o.legal f = true → decodeOp (encodeOp o f ++ rest) = .ok ((o, f), rest))
  ∧ ∀ (i : Instr) (rest : List Word32), i.wellFormed = true → i.parts.isSome → decodeParcels (encode i ++ rest) = .ok (i, rest)

/-- Reset leaves the values that the spec gives: arbitration weights are 1, codebooks hold +0 in code
order with epact 0, mask slots, fabric slots and bindings are empty, accumulators +0, power budgets 400, lane delays 32, controllers,
queues, windows and Gleaners 0 (R50, R138, R143, R150, R151, R169, R189, R217, R231, R245, R254, R255). -/
def Obligations.ResetLeavesTheSpecsValues : Prop :=
  let s := State.reset
  (∀ c : CoreId, (s.core c).weight = 1 ∧ (s.core c).queue = [] ∧ (s.core c).scaleA = none ∧ (s.core c).scaleB = none ∧ (s.core c).tab = none
    ∧ (∀ b ∈ [(s.core c).slot0, (s.core c).slot1, (s.core c).codebook],
        b.entries = 0 ∧ b.epact = 0 ∧ ∀ i, i < 16 → b.ranks.extractLsb' (4 * i) 4 = BitVec.ofNat 4 i)
    ∧ (∀ m ∈ [(s.core c).mask0, (s.core c).mask1], m.prog = none ∧ m.empty = 0 ∧ m.partialTiles = 0 ∧ m.full = 0)
    ∧ ∀ a ∈ (s.core c).acc.toList, a.count = 0 ∧ ∀ e, a.work.find e 0 = 0 ∧ a.tile.find e 0 = 0)
  ∧ (∀ k : ClusterId, (s.cluster k).graphs = [] ∧ (s.cluster k).jobs = [])
  ∧ (∀ d, (s.die d).budget = 400)
  ∧ (∀ u, s.gleaners.find u Gleaner.initial = ⟨0, false, false, false, false, 0, 0, [], []⟩)
  ∧ (∀ q, s.queues.lookup q = none)
  ∧ (∀ p, (s.halt p).halted = false ∧ (s.halt p).eligible = false ∧ (s.halt p).overflow = false ∧ (s.halt p).primary = 0
      ∧ (s.halt p).hprim = 0 ∧ (s.halt p).records = [] ∧ (s.halt p).wabort = 0 ∧ (s.halt p).wsince = 0 ∧ (s.halt p).hres = 0)
  ∧ (∀ p w, s.window p w = (0, 0))
  ∧ (∀ ch lane, (s.channel ch).rdly.find lane 32 = 32 ∧ (s.channel ch).wdly.find lane 32 = 32 ∧ (s.channel ch).ctl = 0
      ∧ (s.channel ch).busy = false ∧ (s.channel ch).done = false ∧ (s.channel ch).repair0 = 0 ∧ (s.channel ch).repair1 = 0)

/-- The machine's own choices for reset: no slot runs, no event is due, and memory lists nothing and has its canonical form
(log entries 1, 3 and 4). -/
def Obligations.ResetMemoryIsEmpty : Prop :=
  (∀ k, (State.reset.task k).status = .free) ∧ State.reset.choices = [] ∧ State.reset.mem.wf = true
    ∧ ∀ a, State.reset.mem.read a = 0

/-- Whatever is executed, memory keeps its canonical form, so that equal memories are equal data (log entry 3): `exec` of any instruction or
event, and so every step, leads from a memory whose addresses rise and that lists no 0 to another. -/
def Obligations.StepsKeepMemoryCanonical : Prop :=
  (∀ (i : Instr) (s t : State), s.mem.wf = true → exec i s = .next t → t.mem.wf = true)
  ∧ ∀ s t : State, s.mem.wf = true → step s = .next t → t.mem.wf = true

namespace Sys2Proof.Claims

/-- Between two states of one task nothing changed but the registers `x`, `v`, `p` and flags given, the pc and what the loop-end check counts
down, and what a refused page has left for the instruction; the counters only when the pc is the loop's end (R312). -/
def onlyMoved (a b : Task) (x : Vector Word64 64) (v : Vector (BitVec 2048) 64) (p : Vector (BitVec 256) 16) (fl : Word64) : Prop :=
  b = { a with x := x, v := v, p := p, fflags := fl, pc := b.pc, past := b.past, lc0 := b.lc0, lc1 := b.lc1, refused := none }
  ∧ (a.pc.setWidth 64 ≠ a.le0 → b.lc0 = a.lc0) ∧ (a.pc.setWidth 64 ≠ a.le1 → b.lc1 = a.lc1)

/-- No result of the acting task arrives with the instruction: none is outstanding, or it is no switch point and takes no loop's wrap (R61). -/
def quiet (s : State) (f : Fields) : Prop :=
  s.me.pend = [] ∨ (f.m = false ∧ (s.me.fallThrough f.form.parcels).2 = false)

/-- Nothing outside the acting task changed. -/
def onlyTask (s t : State) : Prop :=
  t = { s with tasks := t.tasks } ∧ ∀ k, k ≠ s.cur → t.task k = s.task k

end Sys2Proof.Claims

/-- What the register instructions leave unchanged: the scalar ones change one x register and no flag, the vector ones one v register (the
floating ones also raise flags), the predicate ones one predicate; every other register, every other task and core, and memory stay, but
for the pc and the loop counters of R312; a write to `x0` or `p0`'s place changes no register that reads (R55, R123, R267, R355). -/
def Obligations.RegisterInstructionsChangeOnlyTheirDestination : Prop := ∀ (o : Op) (f : Fields) (s t : State),
  s.issues o f = true → quiet s f → exec (o.instr f) s = .next t →
  let a := s.me
  let b := t.task s.cur
  (o ∈ [Op.add, .sub, .mul, .mulh, .div, .rem, .and, .or, .xor, .andn, .shl, .shr, .sra, .ror, .min, .max, .cmp, .sel, .li, .liH, .clz, .ctz,
      .popc, .brev, .ext, .ins, .pdep, .pext, .gfm, .bperm, .mfl, .olen, .oeq, .pcnt, .vlen] →
    onlyTask s t ∧ onlyMoved a b b.x a.v a.p a.fflags ∧ ∀ r, r ≠ f.d → b.getX r = a.getX r)
  ∧ (o ∈ [Op.vadd, .vsub, .vmul, .vmulh, .vmad, .vmin, .vmax, .vabs, .vand, .vor, .vxor, .vshl, .vshr, .vsra, .vsel, .vgfm, .vpdep, .vpext,
      .vbperm, .vdot4, .vsplat, .viota, .vfmin, .vfmax, .vcbx] →
    onlyTask s t ∧ onlyMoved a b a.x b.v a.p a.fflags ∧ ∀ r, r ≠ f.d → b.getV r = a.getV r)
  ∧ (o ∈ [Op.vfadd, .vfsub, .vfmul, .vfma, .vscacc, .vwget, .vcvt, .vcvti] →
    onlyTask s t ∧ onlyMoved a b a.x b.v a.p b.fflags ∧ (∀ r, r ≠ f.d → b.getV r = a.getV r)
      ∧ ∀ i, a.fflags.getLsbD i = true ∨ 6 ≤ i → b.fflags.getLsbD i = a.fflags.getLsbD i)
  ∧ (o ∈ [Op.cmpp, .vcmp, .vwhile, .pset, .pand, .por, .pxor, .pnot] →
    onlyTask s t ∧ onlyMoved a b a.x a.v b.p a.fflags ∧ ∀ r, r ≠ f.d → r.toNat < 16 → b.getP r = a.getP r)

/-- What stores leave unchanged. STC past an empty store buffer writes nothing but its own bytes, and those only in the core's own pad, else
it waits in the buffer; ST through a complete copy writes nothing but the copy's bytes; the register, canonical-load and control
instructions named write no memory; and ST and STC change no register (R34, R205, R208, R309, R347). -/
def Obligations.StoresChangeOnlyTheirBytes : Prop := ∀ (f : Fields) (s t : State),
  let n := 8 / 2 ^ f.z.toNat
  let r := s.me.getO f.a
  let off := 16 + oView r + (memOffset s.me f n).toNat
  let bytes := leBytes n (s.me.getX f.d).toNat
  let keepsRegisters : Prop := let b := t.task s.cur
    b.x = s.me.x ∧ b.v = s.me.v ∧ b.p = s.me.p ∧ b.g = s.me.g ∧ b.w = s.me.w ∧ b.fflags = s.me.fflags
    ∧ b.cause = s.me.cause ∧ b.epc = s.me.epc ∧ b.eval = s.me.eval ∧ b.tvec = s.me.tvec
  (∀ a, s.place (s.tablePart s.me) (oCanon r) (off + n) = .ok a → s.me.sb = [] → exec (.stc f) s = .next t →
      (∀ b, b < a + off ∨ a + off + n ≤ b → t.mem.read b = s.mem.read b)
      ∧ (padOf (oCanon r) ≠ some (.core s.myCore) → t.mem = s.mem)
      ∧ (t.mem = s.mem ∨ t.mem = s.mem.writeN (a + off) bytes)
      ∧ (s.me.pend = [] → keepsRegisters ∧ (t.task s.cur).o = s.me.o))
  ∧ (∀ e, oTouched r = true → s.copyOf s.myCore (oCanon r) = some e → exec (.st f) s = .next t →
      (∀ b, b < e.copy.toNat + off ∨ e.copy.toNat + off + n ≤ b → t.mem.read b = s.mem.read b)
      ∧ (t.mem = s.mem ∨ t.mem = s.mem.writeN (e.copy.toNat + off) bytes)
      ∧ (s.me.pend = [] → keepsRegisters ∧ (t.task s.cur).o = s.me.o))
  ∧ (∀ o ∈ [Op.add, .sub, .mul, .div, .cmp, .cmpp, .li, .br, .bz, .bnz, .bp, .call, .callr, .jmp, .ret, .loop, .lexit, .mfl, .mtl, .trap, .ldc,
        .okind, .olen, .omov, .oview, .oeq, .vadd, .vfma, .vcvt, .vred, .vperm, .pand, .mread, .eret, .yield, .jpoll],
      exec (o.instr f) s = .next t → t.mem = s.mem)
end

