-- ==== Sys2Proof/Laws/Act.lean ====
section
/-!
SUPPORT. How a chain of an instruction's checks is passed or refused, one lemma per check (R4, R26, R28): cite these, and never unfold
`need`, `needOr` or the bind of `Act`.
-/

namespace Sys2Proof.Machine

/-- A check that holds is passed. -/
theorem need_ok {c : Bool} {s : State} {f : Flt} (h : c = true) : need c s f = .ok () := by simp [need, h]

/-- A check that fails ends the instruction in its fault. -/
theorem need_no {c : Bool} {s : State} {f : Flt} (h : c = false) : need c s f = .error (.fault s f) := by simp [need, h]

/-- A check that holds is passed, whatever the other outcome. -/
theorem needOr_ok {c : Bool} {r : Res} (h : c = true) : needOr c r = .ok () := by simp [needOr, h]

/-- A check that fails ends the instruction in the outcome given. -/
theorem needOr_no {c : Bool} {r : Res} (h : c = false) : needOr c r = .error r := by simp [needOr, h]

/-- A kind test that holds is passed. -/
theorem needKind_ok {c : Bool} {s : State} {r : BitVec 128} {h : Word64} {o : Int} (hc : c = true) : needKind c s r h o = .ok () := by
  simp [needKind, need, hc]

/-- An object that is not sealed may be stored to. -/
theorem needOpen_ok {s : State} {r : BitVec 128} {h : Word64} {o : Int} (hc : hSealed h = false) : needOpen s r h o = .ok () := by
  simp [needOpen, need, hc]

/-- What follows a passed check runs. -/
theorem act_bind_ok {α β : Type} (a : α) (g : α → Act β) : ((Except.ok a : Act α) >>= g) = g a := rfl

/-- What follows a refused check does not. -/
theorem act_bind_error {α β : Type} (r : Res) (g : α → Act β) : ((Except.error r : Act α) >>= g) = .error r := rfl

/-- A chain that was not refused ends in the outcome it gives. -/
theorem act_run_ok (r : Res) : Act.run (.ok r) = r := rfl

/-- A refused chain ends in the outcome of the check that refused it. -/
theorem act_run_error (r : Res) : Act.run (.error r) = r := rfl

end Sys2Proof.Machine
end

