-- ==== Sys2Proof/Laws/Memory.lean ====
section
/-!
SUPPORT. Memory: every operation keeps the canonical form; a byte reads what was written last, and every other byte as before.
-/

namespace Sys2Proof.Machine

/-- The canonical form: rising addresses, no listed 0. -/
theorem Memory.wf_iff (m : Memory) : m.wf = true ↔ m.Pairwise (fun c d => c.1 < d.1) ∧ ∀ c ∈ m, c.2 ≠ 0 := by
  induction m with
  | nil => simp [Memory.wf]
  | cons c m ih =>
    obtain ⟨a, b⟩ := c
    cases m with
    | nil => simp [Memory.wf]
    | cons d m =>
      obtain ⟨a', b'⟩ := d
      simp only [Memory.wf, Bool.and_eq_true, bne_iff_ne, decide_eq_true_eq, ih, List.pairwise_cons, List.forall_mem_cons]
      constructor
      · rintro ⟨⟨hb, hlt⟩, ⟨hall, hp⟩, hb', hm⟩
        exact ⟨⟨⟨hlt, fun x hx => Nat.lt_trans hlt (hall x hx)⟩, hall, hp⟩, hb, hb', hm⟩
      · rintro ⟨⟨⟨hlt, _⟩, hall, hp⟩, hb, hb', hm⟩
        exact ⟨⟨hb, hlt⟩, ⟨hall, hp⟩, hb', hm⟩

/-- Taking cells out keeps the form. -/
theorem Memory.wf_filter {m : Memory} (h : m.wf = true) (p : Host.Cell → Bool) : Memory.wf (m.filter p) = true := by
  rw [Memory.wf_iff] at h ⊢
  exact ⟨h.1.filter p, fun c hc => h.2 c (List.mem_filter.mp hc).1⟩

/-- The addresses after a write are those before and the one written. -/
theorem Memory.mem_write {m : Memory} {a : Nat} {v : Byte} {c : Host.Cell} (h : c ∈ m.write a v) : c ∈ m ∨ (c = (a, v) ∧ v ≠ 0) := by
  induction m with
  | nil =>
    simp only [Memory.write] at h
    split at h <;> simp_all
  | cons d m ih =>
    obtain ⟨a', b'⟩ := d
    simp only [Memory.write] at h
    split at h
    · split at h <;> simp_all
      rcases h with h | h | h <;> simp_all
    · split at h
      · split at h <;> simp_all
        rcases h with h | h <;> simp_all
      · rcases List.mem_cons.mp h with h | h
        · simp_all
        · rcases ih h with h | h <;> simp_all

/-- A write of one byte keeps the form. -/
theorem Memory.wf_write {m : Memory} (h : m.wf = true) (a : Nat) (v : Byte) : Memory.wf (m.write a v) = true := by
  rw [Memory.wf_iff] at h ⊢
  refine ⟨?_, ?_⟩
  · induction m with
    | nil => simp only [Memory.write]; split <;> simp
    | cons d m ih =>
      obtain ⟨a', b'⟩ := d
      obtain ⟨hp, hz⟩ := h
      have hm := List.pairwise_cons.mp hp
      simp only [Memory.write]
      split
      · rename_i hlt
        split
        · exact hp
        · refine List.pairwise_cons.mpr ⟨?_, hp⟩
          intro c hc
          rcases List.mem_cons.mp hc with rfl | hc
          · exact hlt
          · exact Nat.lt_trans hlt (hm.1 c hc)
      · rename_i hnlt
        split
        · rename_i he
          split
          · exact hm.2
          · exact List.pairwise_cons.mpr ⟨fun c hc => by subst he; exact hm.1 c hc, hm.2⟩
        · rename_i hne
          refine List.pairwise_cons.mpr ⟨?_, ih ⟨hm.2, fun c hc => hz c (List.mem_cons_of_mem _ hc)⟩⟩
          intro c hc
          rcases Memory.mem_write hc with hc | ⟨rfl, _⟩
          · exact hm.1 c hc
          · show a' < a; omega
  · intro c hc
    rcases Memory.mem_write hc with hc | ⟨rfl, hv⟩
    · exact h.2 c hc
    · exact hv

/-- A write of many bytes keeps the form. -/
theorem Memory.wf_writeN {m : Memory} (h : m.wf = true) (a : Nat) (bs : List Byte) : Memory.wf (m.writeN a bs) = true := by
  induction bs generalizing m a with
  | nil => exact h
  | cons b bs ih => exact ih (Memory.wf_write h a b) (a + 1)

/-- Every byte but the one written reads as before. -/
theorem Memory.read_write_other (m : Memory) {a b : Nat} (h : b ≠ a) (v : Byte) : (m.write a v).read b = m.read b := by
  have hb : (b == a) = false := by simpa using h
  induction m with
  | nil => simp only [Memory.write]; split <;> simp [Memory.read, List.lookup, hb]
  | cons d m ih =>
    obtain ⟨c, w⟩ := d
    simp only [Memory.write]
    split
    · split <;> simp [Memory.read, List.lookup, hb]
    · split
      · rename_i he; subst he
        split <;> simp [Memory.read, List.lookup, hb]
      · cases hbc : b == c
        · simpa [Memory.read, List.lookup, hbc] using ih
        · simp [Memory.read, List.lookup, hbc]

/-- A byte below every listed address reads 0. -/
theorem Memory.read_below {m : Memory} {a : Nat} (h : ∀ c ∈ m, a < c.1) : m.read a = 0 := by
  have : m.lookup a = none := by
    rw [List.lookup_eq_none_iff]
    intro c hc
    have := h c hc
    simp; omega
  simp [Memory.read, this]

/-- The byte that was written reads what was written. -/
theorem Memory.read_write_same {m : Memory} (h : m.wf = true) (a : Nat) (v : Byte) : (m.write a v).read a = v := by
  rw [Memory.wf_iff] at h
  induction m with
  | nil => simp only [Memory.write]; split <;> simp_all [Memory.read, List.lookup]
  | cons d m ih =>
    obtain ⟨c, w⟩ := d
    obtain ⟨hp, hz⟩ := h
    have hm := List.pairwise_cons.mp hp
    simp only [Memory.write]
    split
    · rename_i hlt
      split
      · rename_i hv
        rw [hv]
        apply Memory.read_below
        intro x hx
        rcases List.mem_cons.mp hx with rfl | hx
        · exact hlt
        · exact Nat.lt_trans hlt (hm.1 x hx)
      · simp [Memory.read, List.lookup]
    · split
      · rename_i he; subst he
        split
        · rename_i hv; rw [hv]; exact Memory.read_below hm.1
        · simp [Memory.read, List.lookup]
      · rename_i hne
        have : (a == c) = false := by simpa using hne
        simpa [Memory.read, List.lookup, this] using ih ⟨hm.2, fun x hx => hz x (List.mem_cons_of_mem _ hx)⟩

/-- Every byte outside those written reads as before. -/
theorem Memory.read_writeN_outside (m : Memory) (a : Nat) (bs : List Byte) {b : Nat} (h : b < a ∨ a + bs.length ≤ b) :
    (m.writeN a bs).read b = m.read b := by
  induction bs generalizing m a with
  | nil => rfl
  | cons x bs ih =>
    simp only [List.length_cons] at h
    rw [Memory.writeN, ih (m.write a x) (a + 1) (by omega), Memory.read_write_other m (by omega)]

/-- Every byte written reads what was written. -/
theorem Memory.read_writeN_inside {m : Memory} (h : m.wf = true) (a : Nat) (bs : List Byte) {i : Nat} (hi : i < bs.length) :
    (m.writeN a bs).read (a + i) = bs[i] := by
  induction bs generalizing m a i with
  | nil => exact absurd hi (by simp)
  | cons x bs ih =>
    cases i with
    | zero =>
      rw [Memory.writeN, Memory.read_writeN_outside _ _ _ (by omega)]
      exact Memory.read_write_same h a x
    | succ i =>
      have hi' : i < bs.length := by simpa using hi
      have := ih (Memory.wf_write h a x) (a + 1) hi'
      simpa [Memory.writeN, Nat.add_assoc, Nat.add_comm 1] using this

/-! ## The operations of the machine that write memory -/

theorem State.poke_wf {s : State} (h : s.mem.wf = true) (a : Nat) (bs : List Byte) : (s.poke a bs).mem.wf = true := Memory.wf_writeN h a bs
theorem State.pokeWord_wf {s : State} (h : s.mem.wf = true) (a : Nat) (w : Word64) : (s.pokeWord a w).mem.wf = true := State.poke_wf h a _
theorem State.clear_wf {s : State} (h : s.mem.wf = true) (a n : Nat) : (s.clear a n).mem.wf = true := Memory.wf_filter h _
@[simp] theorem State.poke_task (s : State) (a : Nat) (bs : List Byte) (k : TaskKey) : (s.poke a bs).task k = s.task k := rfl
@[simp] theorem State.poke_me (s : State) (a : Nat) (bs : List Byte) : (s.poke a bs).me = s.me := rfl
@[simp] theorem State.poke_core (s : State) (a : Nat) (bs : List Byte) (c : CoreId) : (s.poke a bs).core c = s.core c := rfl
@[simp] theorem State.poke_mem (s : State) (a : Nat) (bs : List Byte) : (s.poke a bs).mem = s.mem.writeN a bs := rfl
@[simp] theorem State.poke_cur (s : State) (a : Nat) (bs : List Byte) : (s.poke a bs).cur = s.cur := rfl

end Sys2Proof.Machine
end

