-- ==== Sys2Proof/Laws/State.lean ====
section
/-!
SUPPORT. The maps and the parts of the state: reading after writing, in the same place and elsewhere; what an update leaves alone.
-/

namespace Sys2Proof.Machine

/-! ## Maps -/

/-- The entry that was set is found. -/
@[simp] theorem FMap.find_set_same (m : FMap α) (k : Nat) (v d : α) : (m.set k v).find k d = v := by
  induction m with
  | nil => simp [FMap.set, FMap.find]
  | cons e m ih =>
    obtain ⟨j, w⟩ := e
    simp only [FMap.set]
    split
    · simp [FMap.find]
    · split
      · simp [FMap.find]
      · rename_i h1 h2
        have : (k == j) = false := by simpa using h2
        simpa [FMap.find, List.lookup, this] using ih

/-- Every other entry is found as before. -/
@[simp] theorem FMap.find_set_other (m : FMap α) {k j : Nat} (h : j ≠ k) (v d : α) : (m.set k v).find j d = m.find j d := by
  induction m with
  | nil =>
    have : (j == k) = false := by simpa using h
    simp [FMap.set, FMap.find, List.lookup, this]
  | cons e m ih =>
    obtain ⟨i, w⟩ := e
    have hjk : (j == k) = false := by simpa using h
    simp only [FMap.set]
    split
    · simp [FMap.find, List.lookup, hjk]
    · split
      · rename_i h1 h2
        subst h2
        simp [FMap.find, List.lookup, hjk]
      · cases hji : j == i
        · simpa [FMap.find, List.lookup, hji] using ih
        · simp [FMap.find, List.lookup, hji]

/-- Setting an entry twice is setting it once. -/
@[simp] theorem FMap.set_set (m : FMap α) (k : Nat) (v w : α) : (m.set k v).set k w = m.set k w := by
  induction m with
  | nil => simp [FMap.set]
  | cons e m ih =>
    obtain ⟨j, x⟩ := e
    simp only [FMap.set]
    by_cases h1 : k < j
    · simp [h1, FMap.set]
    · by_cases h2 : k = j
      · simp [h2, FMap.set]
      · simp [h1, h2, FMap.set, ih]

/-- A change of every entry, seen at one key. -/
theorem FMap.find_mapKeyed (m : FMap α) (g : Nat → α → α) (k : Nat) (d : α) (h : g k d = d) :
    (m.mapKeyed g).find k d = g k (m.find k d) := by
  induction m with
  | nil => simp [FMap.mapKeyed, FMap.find, h]
  | cons e m ih =>
    obtain ⟨j, w⟩ := e
    simp only [FMap.mapKeyed, FMap.find, List.map_cons, List.lookup_cons] at ih ⊢
    cases hk : k == j
    · simpa using ih
    · have : k = j := by simpa using hk
      subst this; simp

/-! ## Parts of the state -/

@[simp] theorem State.task_setTask (s : State) (k : TaskKey) (t : Task) : (s.setTask k t).task k = t := FMap.find_set_same ..
@[simp] theorem State.task_setTask_other (s : State) {k j : TaskKey} (h : j ≠ k) (t : Task) : (s.setTask k t).task j = s.task j :=
  FMap.find_set_other _ h ..
@[simp] theorem State.setTask_setTask (s : State) (k : TaskKey) (t u : Task) : (s.setTask k t).setTask k u = s.setTask k u := by
  simp [State.setTask]
@[simp] theorem State.setTask_cur (s : State) (k : TaskKey) (t : Task) : (s.setTask k t).cur = s.cur := rfl
@[simp] theorem State.setTask_mem (s : State) (k : TaskKey) (t : Task) : (s.setTask k t).mem = s.mem := rfl
@[simp] theorem State.setTask_cores (s : State) (k : TaskKey) (t : Task) : (s.setTask k t).cores = s.cores := rfl
@[simp] theorem State.setTask_core (s : State) (k : TaskKey) (t : Task) (c : CoreId) : (s.setTask k t).core c = s.core c := rfl
@[simp] theorem State.setTask_codeOf (s : State) (k : TaskKey) (t : Task) (c : CoreId) : (s.setTask k t).codeOf c = s.codeOf c := rfl
@[simp] theorem State.setTask_halt (s : State) (k : TaskKey) (t : Task) (p : Nat) : (s.setTask k t).halt p = s.halt p := rfl
@[simp] theorem State.me_setMe (s : State) (t : Task) : (s.setMe t).me = t := FMap.find_set_same ..
@[simp] theorem State.task_cur_setMe (s : State) (t : Task) : (s.setMe t).task s.cur = t := FMap.find_set_same ..
@[simp] theorem State.task_setMe_other (s : State) {j : TaskKey} (h : j ≠ s.cur) (t : Task) : (s.setMe t).task j = s.task j :=
  FMap.find_set_other _ h ..
@[simp] theorem State.setMe_setMe (s : State) (t u : Task) : (s.setMe t).setMe u = s.setMe u := by
  simp [State.setMe, State.setTask]
@[simp] theorem State.setMe_cur (s : State) (t : Task) : (s.setMe t).cur = s.cur := rfl
@[simp] theorem State.setMe_mem (s : State) (t : Task) : (s.setMe t).mem = s.mem := rfl
@[simp] theorem State.setMe_cores (s : State) (t : Task) : (s.setMe t).cores = s.cores := rfl
@[simp] theorem State.setMe_core (s : State) (t : Task) (c : CoreId) : (s.setMe t).core c = s.core c := rfl
@[simp] theorem State.core_setCore (s : State) (c : CoreId) (v : Core) : (s.setCore c v).core c = v := FMap.find_set_same ..
@[simp] theorem State.core_setCore_other (s : State) {c d : CoreId} (h : d ≠ c) (v : Core) : (s.setCore c v).core d = s.core d :=
  FMap.find_set_other _ h ..
@[simp] theorem State.setCore_cur (s : State) (c : CoreId) (v : Core) : (s.setCore c v).cur = s.cur := rfl
@[simp] theorem State.setCore_mem (s : State) (c : CoreId) (v : Core) : (s.setCore c v).mem = s.mem := rfl
@[simp] theorem State.setCore_tasks (s : State) (c : CoreId) (v : Core) : (s.setCore c v).tasks = s.tasks := rfl
@[simp] theorem State.setCore_task (s : State) (c : CoreId) (v : Core) (k : TaskKey) : (s.setCore c v).task k = s.task k := rfl
@[simp] theorem State.cluster_setCluster (s : State) (k : ClusterId) (v : Cluster) : (s.setCluster k v).cluster k = v :=
  FMap.find_set_same ..
@[simp] theorem State.cluster_setCluster_other (s : State) {k j : ClusterId} (h : j ≠ k) (v : Cluster) :
    (s.setCluster k v).cluster j = s.cluster j := FMap.find_set_other _ h ..
@[simp] theorem State.setCluster_mem (s : State) (k : ClusterId) (v : Cluster) : (s.setCluster k v).mem = s.mem := rfl
@[simp] theorem State.setCluster_task (s : State) (k : ClusterId) (v : Cluster) (j : TaskKey) : (s.setCluster k v).task j = s.task j := rfl
@[simp] theorem State.die_setDie (s : State) (d : Nat) (v : Die) : (s.setDie d v).die d = v := FMap.find_set_same ..
@[simp] theorem State.die_setDie_other (s : State) {d e : Nat} (h : e ≠ d) (v : Die) : (s.setDie d v).die e = s.die e :=
  FMap.find_set_other _ h ..
@[simp] theorem State.setDie_mem (s : State) (d : Nat) (v : Die) : (s.setDie d v).mem = s.mem := rfl
@[simp] theorem State.setDie_task (s : State) (d : Nat) (v : Die) (k : TaskKey) : (s.setDie d v).task k = s.task k := rfl
@[simp] theorem State.halt_setHalt (s : State) (p : Nat) (v : HaltCtl) : (s.setHalt p v).halt p = v := FMap.find_set_same ..
@[simp] theorem State.halt_setHalt_other (s : State) {p q : Nat} (h : q ≠ p) (v : HaltCtl) : (s.setHalt p v).halt q = s.halt q :=
  FMap.find_set_other _ h ..
@[simp] theorem State.setHalt_mem (s : State) (p : Nat) (v : HaltCtl) : (s.setHalt p v).mem = s.mem := rfl
@[simp] theorem State.setHalt_task (s : State) (p : Nat) (v : HaltCtl) (k : TaskKey) : (s.setHalt p v).task k = s.task k := rfl
@[simp] theorem State.part_setPart (s : State) (p : Nat) (v : Partition) : (s.setPart p v).part p = v := FMap.find_set_same ..
@[simp] theorem State.part_setPart_other (s : State) {p q : Nat} (h : q ≠ p) (v : Partition) : (s.setPart p v).part q = s.part q :=
  FMap.find_set_other _ h ..
@[simp] theorem State.setPart_mem (s : State) (p : Nat) (v : Partition) : (s.setPart p v).mem = s.mem := rfl
@[simp] theorem State.setPart_task (s : State) (p : Nat) (v : Partition) (k : TaskKey) : (s.setPart p v).task k = s.task k := rfl
@[simp] theorem State.setPad_mem (s : State) (u : PadUnit) (c : Nat) (v : PadAlloc) : (s.setPad u c v).mem = s.mem := rfl
@[simp] theorem State.post_mem (s : State) (i : Instr) : (s.post i).mem = s.mem := rfl
@[simp] theorem State.post_task (s : State) (i : Instr) (k : TaskKey) : (s.post i).task k = s.task k := rfl

/-! ## Registers -/

@[simp] theorem Task.getX_zero (t : Task) : t.getX 0 = 0 := rfl
@[simp] theorem Task.getO_zero (t : Task) : t.getO 0 = 0 := rfl
@[simp] theorem Task.setX_zero (t : Task) (v : Word64) : t.setX 0 v = t := rfl
@[simp] theorem Task.setO_zero (t : Task) (v : BitVec 128) : t.setO 0 v = t := rfl

/-- An x register other than `x0` reads what was written. -/
theorem Task.getX_setX_same (t : Task) {n : BitVec 6} (h : n ≠ 0) (v : Word64) : (t.setX n v).getX n = v := by
  have hn : n.toNat < 64 := n.isLt
  unfold Task.getX Task.setX
  rw [if_neg h, if_neg h]
  simp [hn]

/-- Every other x register reads as before. -/
theorem Task.getX_setX_other (t : Task) {n m : BitVec 6} (h : m ≠ n) (v : Word64) : (t.setX n v).getX m = t.getX m := by
  have hn : n.toNat ≠ m.toNat := fun e => h (BitVec.eq_of_toNat_eq e.symm)
  unfold Task.getX Task.setX
  split
  · rfl
  · split
    · rfl
    · simp [Vector.getElem?_setIfInBounds_ne, hn]

/-- An o register other than `o0` reads what was written. -/
theorem Task.getO_setO_same (t : Task) {n : BitVec 6} (h : n ≠ 0) (h32 : n.toNat < 32) (v : BitVec 128) : (t.setO n v).getO n = v := by
  unfold Task.getO Task.setO
  rw [if_neg h, if_neg h]
  simp [h32]

/-- Every other o register reads as before. -/
theorem Task.getO_setO_other (t : Task) {n m : BitVec 6} (h : m ≠ n) (v : BitVec 128) : (t.setO n v).getO m = t.getO m := by
  have hn : n.toNat ≠ m.toNat := fun e => h (BitVec.eq_of_toNat_eq e.symm)
  unfold Task.getO Task.setO
  split
  · rfl
  · split
    · rfl
    · simp [Vector.getElem?_setIfInBounds_ne, hn]

/-- A v register reads what was written, at the task's width. -/
theorem Task.getV_setV_same (t : Task) (n : BitVec 6) (v : BitVec 2048) : (t.setV n v).getV n = v &&& t.vMask := by
  have hn : n.toNat < 64 := n.isLt
  simp [Task.getV, Task.setV, hn]

/-- Every other v register reads as before. -/
theorem Task.getV_setV_other (t : Task) {n m : BitVec 6} (h : m ≠ n) (v : BitVec 2048) : (t.setV n v).getV m = t.getV m := by
  have hn : n.toNat ≠ m.toNat := fun e => h (BitVec.eq_of_toNat_eq e.symm)
  simp [Task.getV, Task.setV, Vector.getElem?_setIfInBounds_ne, hn]

/-- A predicate other than `p0` reads what was written, at the task's width. -/
theorem Task.getP_setP_same (t : Task) {n : BitVec 6} (h : n ≠ 0) (h16 : n.toNat < 16) (v : BitVec 256) :
    (t.setP n v).getP n = v &&& t.pMask := by
  unfold Task.getP Task.setP
  rw [if_neg h]
  simp [h16, Task.pMask, Task.bits]

/-- Every other predicate reads as before. -/
theorem Task.getP_setP_other (t : Task) {n m : BitVec 6} (h : m ≠ n) (v : BitVec 256) : (t.setP n v).getP m = t.getP m := by
  have hn : n.toNat ≠ m.toNat := fun e => h (BitVec.eq_of_toNat_eq e.symm)
  unfold Task.getP Task.setP
  split
  · rfl
  · simp [Vector.getElem?_setIfInBounds_ne, hn]

end Sys2Proof.Machine
end

