-- ==== Sys2Proof/Laws/Canonical.lean ====
section
/-!
SUPPORT. What each operation does to memory as a whole, said once: an operation that stores nothing leaves memory as it was (`…_mem`), and
one that stores keeps its canonical form (`…_wf`; log entry 3). For a part of an instruction, `Act.On P Q` says that each way it ends the
instruction has a memory with `P`, and that each value it goes on with has `Q`.
-/

namespace Sys2Proof.Machine

set_option maxRecDepth 2000

/-- Every state of a result has a memory with the property. -/
@[irreducible] def Res.On (P : Memory → Prop) : Res → Prop
  | .ok s | .jump s _ | .fault s _ | .park s _ | .retry s | .gone s => P s.mem

/-- A part of an instruction that ends it does so with the property; else its value has the property given. -/
@[irreducible] def Act.On (P : Memory → Prop) (Q : α → Prop) : Act α → Prop
  | .ok a => Q a
  | .error r => r.On P

/-- The canonical form, as a property. -/
def Canonical (m : Memory) : Prop := m.wf = true

theorem Res.On_ok {P : Memory → Prop} {s : State} (h : P s.mem) : (Res.ok s).On P := by
  unfold Res.On; exact h
theorem Res.On_jump {P : Memory → Prop} {s : State} {t} (h : P s.mem) : (Res.jump s t).On P := by
  unfold Res.On; exact h
theorem Res.On_fault {P : Memory → Prop} {s : State} {t} (h : P s.mem) : (Res.fault s t).On P := by
  unfold Res.On; exact h
theorem Res.On_park {P : Memory → Prop} {s : State} {t} (h : P s.mem) : (Res.park s t).On P := by
  unfold Res.On; exact h
theorem Res.On_retry {P : Memory → Prop} {s : State} (h : P s.mem) : (Res.retry s).On P := by
  unfold Res.On; exact h
theorem Res.On_gone {P : Memory → Prop} {s : State} (h : P s.mem) : (Res.gone s).On P := by
  unfold Res.On; exact h
theorem Act.On_ok {P : Memory → Prop} {Q : α → Prop} {a : α} (h : Q a) : Act.On P Q (Except.ok a) := by
  unfold Act.On; exact h
theorem Act.On_error {P : Memory → Prop} {Q : α → Prop} {r : Res} (h : r.On P) : Act.On P Q (Except.error r) := by
  unfold Act.On; exact h
theorem Act.On_pure {P : Memory → Prop} {Q : α → Prop} {a : α} (h : Q a) : Act.On P Q (pure a) := by
  unfold Act.On; exact h
theorem Act.On_bind {P : Memory → Prop} {Q : β → Prop} {a : Act α} {g : α → Act β}
    (h : Act.On P (fun x => Act.On P Q (g x)) a) : Act.On P Q (a >>= g) := by
  cases a <;> (unfold Act.On at *; exact h)
theorem Act.On_run {P : Memory → Prop} {a : Act Res} (h : Act.On P (Res.On P) a) : (Act.run a).On P := by
  cases a <;> (unfold Act.On at h; exact h)
theorem need_on {P : Memory → Prop} {Q : Unit → Prop} {c : Bool} {s : State} {f : Flt} (h : P s.mem) (hq : Q ()) : Act.On P Q (need c s f) := by
  unfold need
  split
  · exact Act.On_ok hq
  · exact Act.On_error (Res.On_fault h)
theorem needOr_on {P : Memory → Prop} {Q : Unit → Prop} {c : Bool} {r : Res} (h : r.On P) (hq : Q ()) : Act.On P Q (needOr c r) := by
  unfold needOr
  split
  · exact Act.On_ok hq
  · exact Act.On_error h

/-- A fold whose step leaves memory alone leaves it alone. -/
theorem foldl_mem {g : State → β → State} (h : ∀ s x, (g s x).mem = s.mem) {xs : List β} {s : State} : (xs.foldl g s).mem = s.mem := by
  induction xs generalizing s with
  | nil => rfl
  | cons x xs ih => exact (ih (s := g s x)).trans (h s x)
theorem poke_canon {s : State} (h : Canonical s.mem) (a : Nat) (bs : List Byte) : Canonical (s.poke a bs).mem := Memory.wf_writeN h a bs
theorem pokeWord_canon {s : State} (h : Canonical s.mem) (a : Nat) (w : Word64) : Canonical (s.pokeWord a w).mem := Memory.wf_writeN h a _
theorem clear_canon {s : State} (h : Canonical s.mem) (a n : Nat) : Canonical (s.clear a n).mem := Memory.wf_filter h _
/-- A fold whose step keeps memory canonical keeps it. -/
theorem foldl_wf {g : State → β → State} {xs : List β} {s : State} (hs : Canonical s.mem) (h : ∀ s x, Canonical s.mem → Canonical (g s x).mem) :
    Canonical (xs.foldl g s).mem := by
  induction xs generalizing s with
  | nil => exact hs
  | cons x xs ih => exact ih (h s x hs)
theorem foldl_fst_wf {g : State × α → β → State × α} {xs : List β} {s : State × α} (hs : Canonical s.1.mem)
    (h : ∀ s x, Canonical s.1.mem → Canonical (g s x).1.mem) : Canonical (xs.foldl g s).1.mem := by
  induction xs generalizing s with
  | nil => exact hs
  | cons x xs ih => exact ih (h s x hs)
theorem of_mem {s t : State} (h : t.mem = s.mem) (hs : Canonical s.mem) : Canonical t.mem := by rw [h]; exact hs
theorem foldl_option_wf {g : Option (State × α) → β → Option (State × α)} {xs : List β} {s : State} {m : α} {out : State × α}
    (h : ∀ s m x out, Canonical s.mem → g (some (s, m)) x = some out → Canonical out.1.mem) (hs : Canonical s.mem)
    (he : xs.foldl g (some (s, m)) = some out) (h0 : ∀ x, g none x = none := by intro x; rfl) : Canonical out.1.mem := by
  have hn : ∀ xs : List β, xs.foldl g none = none := by
    intro xs; induction xs with
    | nil => rfl
    | cons x xs ih => simp [h0, ih]
  induction xs generalizing s m with
  | nil => cases he; exact hs
  | cons x xs ih =>
    rw [List.foldl_cons] at he
    cases hg : g (some (s, m)) x with
    | none => rw [hg, hn] at he; cases he
    | some v =>
      rw [hg] at he
      exact ih (h _ _ _ _ hs hg) he
theorem foldl_except_wf {g : Except ε State → β → Except ε State} {xs : List β} {s t : State}
    (h : ∀ s x t, Canonical s.mem → g (.ok s) x = .ok t → Canonical t.mem) (hs : Canonical s.mem)
    (he : xs.foldl g (.ok s) = .ok t) (h0 : ∀ e x, g (.error e) x = .error e := by intro e x; rfl) : Canonical t.mem := by
  have hn : ∀ (e : ε) (xs : List β), xs.foldl g (.error e) = .error e := by
    intro e xs; induction xs with
    | nil => rfl
    | cons x xs ih => simp [h0, ih]
  induction xs generalizing s with
  | nil => cases he; exact hs
  | cons x xs ih =>
    rw [List.foldl_cons] at he
    cases hg : g (.ok s) x with
    | error e => rw [hg, hn] at he; cases he
    | ok v => rw [hg] at he; exact ih (h _ _ _ hs hg) he
theorem foldl_except_error_wf {P : ε → Prop} {g : Except ε State → β → Except ε State} {xs : List β} {s : State} {e : ε}
    (h0 : ∀ e x, g (.error e) x = .error e)
    (h : ∀ s x t, Canonical s.mem → g (.ok s) x = .ok t → Canonical t.mem)
    (hp : ∀ s x e, Canonical s.mem → g (.ok s) x = .error e → P e) (hs : Canonical s.mem)
    (he : xs.foldl g (.ok s) = .error e) : P e := by
  have hn : ∀ (e : ε) (xs : List β), xs.foldl g (.error e) = .error e := by
    intro e xs; induction xs with
    | nil => rfl
    | cons x xs ih => simp [h0, ih]
  induction xs generalizing s with
  | nil => cases he
  | cons x xs ih =>
    rw [List.foldl_cons] at he
    cases hg : g (.ok s) x with
    | error e' => rw [hg, hn] at he; cases he; exact hp _ _ _ hs hg
    | ok v => rw [hg] at he; exact ih (h _ _ _ hs hg) he
theorem ite_mem {c : Prop} [Decidable c] {a b s : State} (ha : a.mem = s.mem) (hb : b.mem = s.mem) : (if c then a else b).mem = s.mem := by
  split <;> assumption
theorem ite_canon {c : Prop} [Decidable c] {a b : State} (ha : Canonical a.mem) (hb : Canonical b.mem) : Canonical (if c then a else b).mem := by
  split <;> assumption
theorem ite_snd_mem {c : Prop} [Decidable c] {a b : α × State} {s : State} (ha : a.2.mem = s.mem) (hb : b.2.mem = s.mem) : (if c then a else b).2.mem = s.mem := by
  split <;> assumption
theorem mapM_on {P : Memory → Prop} {g : α → Act β} (h : ∀ x, ∀ Q : β → Prop, (∀ y, Q y) → Act.On P Q (g x)) (xs : List α) :
    ∀ {Q : List β → Prop}, (∀ ys, Q ys) → Act.On P Q (xs.mapM g) := by
  induction xs with
  | nil => intro Q hq; rw [List.mapM_nil]; exact Act.On_pure (hq _)
  | cons x xs ih =>
    intro Q hq
    rw [List.mapM_cons]
    refine Act.On_bind (h x _ (fun y => Act.On_bind (ih (fun ys => Act.On_pure (hq _)))))
theorem foldlM_on {P : Memory → Prop} {g : State → α → Act State} (h : ∀ s x, P s.mem → ∀ Q : State → Prop, (∀ t, P t.mem → Q t) → Act.On P Q (g s x)) (xs : List α) :
    ∀ {Q : State → Prop} (s : State), P s.mem → (∀ t, P t.mem → Q t) → Act.On P Q (xs.foldlM g s) := by
  induction xs with
  | nil => intro Q s hs hq; rw [List.foldlM_nil]; exact Act.On_pure (hq _ hs)
  | cons x xs ih =>
    intro Q s hs hq
    rw [List.foldlM_cons]
    exact Act.On_bind (h s x hs _ (fun t ht => ih t ht hq))
/-- A fold keeps memory canonical, where each of its states is known by an equation. -/
theorem foldl_wf_eq {g : State → β → State} {xs : List β} {s : State} (hs : Canonical s.mem) (h : ∀ s x t, t = g s x → Canonical s.mem → Canonical t.mem) :
    Canonical (xs.foldl g s).mem := foldl_wf hs fun s x => h s x _ rfl
theorem foldl_fst_wf_eq {g : State × α → β → State × α} {xs : List β} {s : State × α} (hs : Canonical s.1.mem)
    (h : ∀ s x t, t = g s x → Canonical s.1.mem → Canonical t.1.mem) : Canonical (xs.foldl g s).1.mem := foldl_fst_wf hs fun s x => h s x _ rfl
/-- However the treatment of a moving task's copies ends, memory is canonical. -/
@[irreducible] def Moving.Keeps (Q : α → Prop) : Moving α → Prop
  | .ok a => Q a
  | .error e => Canonical e.1.mem
theorem Moving.keeps_ok {Q : α → Prop} {a : α} (h : Q a) : Moving.Keeps Q (.ok a) := by unfold Moving.Keeps; exact h
theorem Moving.keeps_error {Q : α → Prop} {e : State × Option Flt} (h : Canonical e.1.mem) : Moving.Keeps Q (.error e : Moving α) := by unfold Moving.Keeps; exact h
theorem Moving.keeps_bind {Q : β → Prop} {a : Moving α} {g : α → Moving β} (h : Moving.Keeps (fun x => Moving.Keeps Q (g x)) a) : Moving.Keeps Q (a >>= g) := by
  cases a <;> (unfold Moving.Keeps at *; exact h)
theorem Act.On_ite {P : Memory → Prop} {Q : α → Prop} {c : Prop} [Decidable c] {a b : Act α} (ha : Act.On P Q a) (hb : Act.On P Q b) :
    Act.On P Q (if c then a else b) := by
  split <;> assumption
theorem Act.On_mono {P : Memory → Prop} {Q : α → Prop} {a : Act α} (h : Act.On P (fun _ => True) a) (hq : ∀ x, Q x) : Act.On P Q a := by
  cases a
  · exact Act.On_error (by unfold Act.On at h; exact h)
  · exact Act.On_ok (hq _)
theorem faultLater_on {P : Memory → Prop} {Q : Except Flt α → Prop} {a : Act α} (h : Act.On P (fun _ => True) a) (hq : ∀ r, Q r) :
    Act.On P Q (faultLater a) := by
  unfold faultLater
  split
  · exact Act.On_ok (hq _)
  · exact Act.On_ok (hq _)
  · exact Act.On_error (by unfold Act.On at h; exact h)
@[simp] theorem State.fixLoads_mem (s : State) (k : TaskKey) (hit : Pend → Elem → Bool) : (State.fixLoads s k hit).mem = s.mem := by
  unfold State.fixLoads
  repeat' (first | rfl | split)
theorem State.pokeStore_wf (s : State) (st : Store) (hm : Canonical s.mem) : Canonical (State.pokeStore s st).mem := by
  unfold State.pokeStore
  repeat' (first | with_reducible exact hm | with_reducible apply poke_canon | with_reducible apply clear_canon | split)
@[simp] theorem State.land_mem (s : State) (k : TaskKey) (p : Pend) (m : BitVec 256) : (State.land s k p m).mem = s.mem := by
  unfold State.land
  repeat' (first | rfl | split)
@[simp] theorem State.landFlags_mem (s : State) (k : TaskKey) (p : Pend) (m : BitVec 256) : (State.landFlags s k p m).mem = s.mem := by
  unfold State.landFlags
  repeat' (first | rfl | split)
@[simp] theorem State.report_mem (s : State) (p : Nat) (r : Report) : (State.report s p r).mem = s.mem := rfl
@[simp] theorem State.stopAt_mem (s : State) (k : TaskKey) (f : Flt) (pos : Word32) (epc : Word32) (atIssue : Bool) : (State.stopAt s k f pos epc atIssue).mem = s.mem := by
  unfold State.stopAt
  repeat' (first | split | simp only [State.setTask_mem, State.report_mem])
@[simp] theorem State.arrives_mem (s : State) (k : TaskKey) (p : Pend) (m : BitVec 256) : (State.arrives s k p m).mem = s.mem := by
  unfold State.arrives
  repeat' (first | split | simp only [State.landFlags_mem, State.land_mem, State.stopAt_mem])
@[simp] theorem State.unpark_mem (s : State) (k : TaskKey) : (State.unpark s k).mem = s.mem := by
  unfold State.unpark
  repeat' (first | split | simp only [State.setTask_mem])
@[simp] theorem State.landAll_mem (s : State) (k : TaskKey) : (State.landAll s k).mem = s.mem := by
  unfold State.landAll
  repeat' (first | simp only [State.setTask_mem, State.arrives_mem, State.unpark_mem] | refine (foldl_mem (fun _ _ => ?_)).trans ?_)
@[simp] theorem State.raiseAt_mem (s : State) (k : TaskKey) (f : Flt) (pos : Word32) (epc : Word32) (atIssue : optParam Bool true) : (State.raiseAt s k f pos epc atIssue).mem = s.mem := by
  unfold State.raiseAt
  repeat' simp only [State.landAll_mem, State.stopAt_mem]
@[simp] theorem State.refuseStore_mem (s : State) (k : TaskKey) (st : Store) : (State.refuseStore s k st).mem = s.mem := by
  unfold State.refuseStore
  repeat' simp only [State.setDie_mem, State.raiseAt_mem]
@[simp] theorem State.fresh_mem (s : State) : (State.fresh s).2.mem = s.mem := rfl
theorem State.fresh_eq (s : State) {out : Nat × State} (he : (State.fresh s) = out) : out.2.mem = s.mem := by rw [← he]; exact State.fresh_mem ..
@[simp] theorem State.setPort_mem (s : State) (n : Nat) (v : Port) : (State.setPort s n v).mem = s.mem := rfl
@[simp] theorem State.sendFlit_mem (s : State) (n : Nat) (payload : List Byte) : (State.sendFlit s n payload).mem = s.mem := rfl
@[simp] theorem State.requestOver_mem (s : State) (io : Nat) (pkg : Nat) : (State.requestOver s io pkg).mem = s.mem := by
  unfold State.requestOver
  repeat' (first | rfl | split)
@[simp] theorem State.requestTo_mem (s : State) (p : Nat) (ptr : Word64) (a : Nat) : (State.requestTo s p ptr a).mem = s.mem := by
  unfold State.requestTo
  repeat' (first | split | simp only [State.requestOver_mem])
theorem State.performStore_wf (s : State) (k : TaskKey) (st : Store) (hm : Canonical s.mem) : Canonical (State.performStore s k st).mem := by
  unfold State.performStore
  repeat' (first | with_reducible apply State.pokeStore_wf | split | simp only [State.raiseAt_mem, State.refuseStore_mem, State.requestTo_mem, State.fixLoads_mem, *])
theorem State.drainStore_wf (k : TaskKey) (needed : List Store) (s : State) (st : Store) (hm : Canonical s.mem) : Canonical (State.drainStore k needed s st).mem := by
  unfold State.drainStore
  repeat' (first | with_reducible apply State.performStore_wf | split | simp only [State.setTask_mem, *])
theorem State.drainSel_wf (s : State) (k : TaskKey) (sel : Store → Bool) (hm : Canonical s.mem) : Canonical (State.drainSel s k sel).mem := by
  unfold State.drainSel
  repeat' (first | with_reducible apply State.drainStore_wf | with_reducible apply foldl_wf | simp only [State.setTask_mem, *])
@[simp] theorem State.fixDies_mem (s : State) : (State.fixDies s).mem = s.mem := by
  unfold State.fixDies
  repeat' simp only [State.fixLoads_mem]
theorem drained_mem {P : Memory → Prop} {Q : State → Prop} (sel : Store → Bool) (s : State) (hm : P s.mem) (hq : ∀ t, t.mem = s.mem → Q t) : Act.On P Q (drained sel s) := by
  unfold drained
  repeat' (first | dsimp only | with_reducible exact hm | with_reducible apply Act.On_ok | with_reducible apply Act.On_error | with_reducible apply Res.On_retry | with_reducible apply Res.On_gone | with_reducible apply hq | split)
theorem releasedDies_wf {Q : State → Prop} (s : State) (hm : Canonical s.mem) (hq : ∀ t, Canonical t.mem → Q t) : Act.On Canonical Q (releasedDies s) := by
  unfold releasedDies
  repeat' (first | with_reducible apply drained_mem | with_reducible apply State.drainSel_wf | with_reducible apply hq | (intro _) | simp only [State.fixDies_mem, *])
@[simp] theorem State.vigilScan_mem (s : State) (d : Nat) : (State.vigilScan s d).mem = s.mem := rfl
@[simp] theorem State.setChannel_mem (s : State) (ch : Nat) (v : Channel) : (State.setChannel s ch v).mem = s.mem := rfl
@[simp] theorem State.setDist_mem (s : State) (io : Nat) (v : Dist) : (State.setDist s io v).mem = s.mem := rfl
@[simp] theorem State.landSome_mem (s : State) (k : TaskKey) (i : Nat) (choice : BitVec 256) : (State.landSome s k i choice).mem = s.mem := by
  unfold State.landSome
  repeat' (first | split | simp only [State.landAll_mem, State.setTask_mem, State.arrives_mem, State.unpark_mem])
theorem check_mem {P : Memory → Prop} {Q : Unit → Prop} (s : State) (r : BitVec 128) (off : Int) (n : Nat) (align : Nat) (hm : P s.mem) (hq : ∀ b, Q b) : Act.On P Q (check s r off n align) := by
  unfold check
  repeat' (first | with_reducible exact hm | with_reducible apply hq | with_reducible apply Act.On_bind | with_reducible apply need_on)
@[simp] theorem State.askPage_mem (s : State) (q : PageReq) : (State.askPage s q).mem = s.mem := by
  unfold State.askPage
  repeat' (first | rfl | split)
theorem accessVia_mem {P : Memory → Prop} {Q : Nat → Prop} (asks : Bool) (s : State) (ptr : Word64) (lo : Nat) (n : Nat) (hm : P s.mem) (hq : ∀ b, Q b) : Act.On P Q (accessVia asks s ptr lo n) := by
  unfold accessVia
  repeat' (first | with_reducible apply Act.On_ok | with_reducible apply Act.On_error | with_reducible apply Res.On_fault | with_reducible apply Res.On_retry | split | simp only [State.setMe_mem, State.askPage_mem, *])
theorem headerVia_mem {P : Memory → Prop} {Q : Nat × Word64 → Prop} (asks : Bool) (s : State) (ptr : Word64) (hm : P s.mem) (hq : ∀ b, Q b) : Act.On P Q (headerVia asks s ptr) := by
  unfold headerVia
  repeat' (first | with_reducible exact hm | with_reducible apply hq | with_reducible apply Act.On_bind | with_reducible apply Act.On_pure | with_reducible apply need_on | with_reducible apply accessVia_mem | (intro _))
theorem header_mem {P : Memory → Prop} {Q : Nat × Word64 → Prop} (s : State) (ptr : Word64) (hm : P s.mem) (hq : ∀ b, Q b) : Act.On P Q (header s ptr) := by
  unfold header
  repeat' (first | with_reducible assumption | with_reducible apply headerVia_mem)
theorem needKind_mem {P : Memory → Prop} {Q : Unit → Prop} (c : Bool) (s : State) (r : BitVec 128) (h : Word64) (off : optParam Int 0) (hm : P s.mem) (hq : ∀ b, Q b) : Act.On P Q (needKind c s r h off) := by
  unfold needKind
  repeat' (first | with_reducible exact hm | with_reducible apply hq | with_reducible apply need_on)
theorem checkPtr_mem {P : Memory → Prop} {Q : Unit → Prop} (s : State) (r : BitVec 128) (hm : P s.mem) (hq : ∀ b, Q b) : Act.On P Q (checkPtr s r) := by
  unfold checkPtr
  repeat' (first | with_reducible exact hm | with_reducible apply hq | with_reducible apply need_on)
theorem needLevel_mem {P : Memory → Prop} {Q : Unit → Prop} (s : State) (r : BitVec 128) (ok : Nat → Bool) (hm : P s.mem) (hq : ∀ b, Q b) : Act.On P Q (needLevel s r ok) := by
  unfold needLevel
  repeat' (first | with_reducible assumption | with_reducible apply Act.On_bind | with_reducible apply needKind_mem | with_reducible apply checkPtr_mem | (intro _))
theorem needOperandOk_mem {P : Memory → Prop} {Q : Unit → Prop} (c : Bool) (s : State) (v : Word64) (hm : P s.mem) (hq : ∀ b, Q b) : Act.On P Q (needOperandOk c s v) := by
  unfold needOperandOk
  repeat' (first | with_reducible exact hm | with_reducible apply hq | with_reducible apply need_on)
theorem needImage_mem {P : Memory → Prop} {Q : Nat × Nat → Prop} (f : Fields) (s : State) (writes : Bool) (hm : P s.mem) (hq : ∀ b, Q b) : Act.On P Q (needImage f s writes) := by
  unfold needImage
  repeat' (first | with_reducible exact hm | with_reducible apply hq | with_reducible apply Act.On_bind | with_reducible apply Act.On_pure | with_reducible apply need_on | with_reducible apply needOperandOk_mem | with_reducible apply check_mem | with_reducible apply needLevel_mem | with_reducible apply needKind_mem | with_reducible apply header_mem | (intro _))
@[simp] theorem State.stampSeq_mem (s : State) : (State.stampSeq s).mem = s.mem := rfl
@[simp] theorem State.fixPrivate_mem (s : State) : (State.fixPrivate s).mem = s.mem := by
  unfold State.fixPrivate
  repeat' simp only [State.fixLoads_mem]
@[simp] theorem State.setCopy_mem (s : State) (c : CoreId) (v : Copy) : (State.setCopy s c v).mem = s.mem := rfl
@[simp] theorem State.arrive_mem (s : State) : (State.arrive s).2.mem = s.mem := rfl
theorem State.arrive_eq (s : State) {out : Nat × State} (he : (State.arrive s) = out) : out.2.mem = s.mem := by rw [← he]; exact State.arrive_mem ..
theorem State.drainHome_wf (s : State) (k : TaskKey) (home : Nat) (hm : Canonical s.mem) : Canonical (State.drainHome s k home).mem := by
  unfold State.drainHome
  repeat' (first | with_reducible exact hm | with_reducible apply State.drainSel_wf)
theorem State.storeOf_wf (s : State) (st : Store) (hm : Canonical s.mem) : Canonical (State.storeOf s st).mem := by
  unfold State.storeOf
  repeat' (first | with_reducible apply State.drainHome_wf | split | simp only [State.arrive_mem, State.setMe_mem, State.setCore_mem, *])
theorem State.store_wf (s : State) (hdr : Nat) (ptr : Word64) (addr : Nat) (bs : List Byte) (isPtr : optParam Bool false) (hm : Canonical s.mem) : Canonical (State.store s hdr ptr addr bs isPtr).mem := by
  unfold State.store
  repeat' (first | with_reducible exact hm | with_reducible apply State.storeOf_wf)
theorem access_mem {P : Memory → Prop} {Q : Nat → Prop} (s : State) (ptr : Word64) (lo : Nat) (n : Nat) (hm : P s.mem) (hq : ∀ b, Q b) : Act.On P Q (access s ptr lo n) := by
  unfold access
  repeat' (first | with_reducible assumption | with_reducible apply accessVia_mem)
theorem putThrough_wf {Q : State → Prop} (s : State) (r : BitVec 128) (off : Nat) (bs : List Byte) (isPtr : optParam Bool false) (hm : Canonical s.mem) (hq : ∀ t, Canonical t.mem → Q t) : Act.On Canonical Q (putThrough s r off bs isPtr) := by
  unfold putThrough
  repeat' (first | with_reducible apply Act.On_bind | with_reducible apply Act.On_pure | with_reducible apply Act.On_error | with_reducible apply needOr_on | with_reducible apply Res.On_fault | with_reducible apply Res.On_retry | with_reducible apply access_mem | with_reducible apply State.store_wf | with_reducible apply hq | with_reducible apply poke_canon | split | (intro _) | simp only [State.setCopy_mem, State.fixPrivate_mem, *])
theorem writeThrough_wf {Q : State → Prop} (s : State) (r : BitVec 128) (off : Nat) (bs : List Byte) (isPtr : optParam Bool false) (hm : Canonical s.mem) (hq : ∀ t, Canonical t.mem → Q t) : Act.On Canonical Q (writeThrough s r off bs isPtr) := by
  unfold writeThrough
  repeat' (first | with_reducible assumption | with_reducible apply putThrough_wf | simp only [State.stampSeq_mem])
theorem writeCanon_wf {Q : State → Prop} (s : State) (r : BitVec 128) (off : Nat) (bs : List Byte) (hm : Canonical s.mem) (hq : ∀ t, Canonical t.mem → Q t) : Act.On Canonical Q (writeCanon s r off bs) := by
  unfold writeCanon
  repeat' (first | with_reducible assumption | with_reducible apply writeThrough_wf)
theorem ctxsvBody_wf (f : Fields) (s : State) (hm : Canonical s.mem) : (ctxsvBody f s).On Canonical := by
  unfold ctxsvBody
  repeat' (first | with_reducible apply Act.On_run | with_reducible apply Act.On_bind | with_reducible apply Act.On_pure | with_reducible apply Res.On_ok | with_reducible apply writeCanon_wf | with_reducible apply needImage_mem | (intro _) | simp only [State.fresh_mem, *])
theorem State.drainAll_wf (s : State) (k : TaskKey) (hm : Canonical s.mem) : Canonical (State.drainAll s k).mem := by
  unfold State.drainAll
  repeat' (first | with_reducible exact hm | with_reducible apply State.drainSel_wf)
theorem State.quietPart_wf (s : State) (p : Nat) (hm : Canonical s.mem) : Canonical (State.quietPart s p).mem := by
  unfold State.quietPart
  repeat' (first | with_reducible apply State.drainAll_wf | with_reducible apply foldl_wf | split | (intro _) | simp only [State.landAll_mem, *])
theorem State.mapHeapObject_wf (s : State) (a : Nat) (f : Word64 → Word64) (hm : Canonical s.mem) : Canonical (State.mapHeapObject s a f).mem := by
  unfold State.mapHeapObject
  repeat' (first | dsimp only | with_reducible assumption | with_reducible apply foldl_wf | with_reducible apply pokeWord_canon | split | (intro _))
theorem State.mapObject_wf (s : State) (a : Nat) (f : Word64 → Word64) (hm : Canonical s.mem) : Canonical (State.mapObject s a f).mem := by
  unfold State.mapObject
  repeat' (first | dsimp only | with_reducible assumption | with_reducible apply foldl_wf | with_reducible apply pokeWord_canon | split | (intro _))
theorem State.mapPtrs_wf (s : State) (f : Word64 → Word64) (hm : Canonical s.mem) : Canonical (State.mapPtrs s f).mem := by
  unfold State.mapPtrs
  repeat' (first | with_reducible assumption | with_reducible apply State.mapObject_wf | with_reducible apply foldl_wf | split | (intro _))
theorem State.followMoves_wf (s : State) (p : Nat) (live : List Word64) (moves : List (Word64 × Word64)) (hs : Canonical s.mem) : Canonical (s.followMoves p live moves).mem := by
  unfold State.followMoves
  refine foldl_wf_eq (State.mapPtrs_wf _ _ hs) ?_
  intro t q u hu ht
  rw [hu]
  generalize t.place p (movedPtr moves q) 16 = r
  cases r with
  | error => exact ht
  | ok => exact State.mapHeapObject_wf _ _ _ ht
theorem State.moveBytes_wf (s : State) (p : Nat) (old new : Word64) (n : Nat) (m : List (Word64 × Word64)) (hs : Canonical s.mem) :
    Canonical (s.moveBytes p old new n m).1.mem := by
  unfold State.moveBytes
  split
  · exact poke_canon (clear_canon hs ..) ..
  · exact hs
@[simp] theorem State.setRegionAlloc_mem (s : State) (p : Nat) (r : Nat) (v : RegionAlloc) : (State.setRegionAlloc s p r v).mem = s.mem := rfl
@[simp] theorem State.regionTake_mem (s : State) (p : Nat) (r : Nat) (size : Nat) : (State.regionTake s p r size).1.mem = s.mem := rfl
theorem moveObject_wf (p r cur : Nat) (acc : State × List (Word64 × Word64)) (o : PadObj) (hs : Canonical acc.1.mem) :
    Canonical (moveObject p r cur acc o).1.mem := by
  have h : moveObject p r cur acc o = (acc.1.regionTake p cur o.size).1.moveBytes p (heapPtr r o.off) (acc.1.regionTake p cur o.size).2 o.size acc.2 := rfl
  rw [h]
  exact State.moveBytes_wf _ _ _ _ _ _ (of_mem (State.regionTake_mem ..) hs)
theorem State.moveObjects_wf (s : State) (p r cur : Nat) (objs : List PadObj) (hs : Canonical s.mem) : Canonical (s.moveObjects p r cur objs).1.mem := by
  unfold State.moveObjects
  refine foldl_fst_wf_eq hs ?_
  intro a o t ht ha
  rw [ht]
  exact moveObject_wf _ _ _ _ _ ha
theorem evacuateInto_cases (p : Nat) (s : State × Bool × List Word64) (r : Nat) (objs : List PadObj) (c : Option Nat) :
    evacuateInto p s r objs c = s ∨ (∃ v l, evacuateInto p s r objs c = (s.1.setRegionAlloc p r v, true, l)) ∨
    (∃ cur m v l l', evacuateInto p s r objs c = ((((s.1.moveObjects p r cur objs).1.followMoves p l' m)).setRegionAlloc p r v, true, l)) := by
  unfold evacuateInto
  split
  · split
    · exact .inr (.inl ⟨_, _, rfl⟩)
    · exact .inl rfl
  · dsimp only
    split
    · exact .inr (.inr ⟨_, _, _, _, _, rfl⟩)
    · exact .inl rfl
theorem evacuateInto_wf (p : Nat) (s : State × Bool × List Word64) (r : Nat) (objs : List PadObj) (c : Option Nat) (hs : Canonical s.1.mem) :
    Canonical (evacuateInto p s r objs c).1.mem := by
  obtain h | ⟨v, l, h⟩ | ⟨cur, m, v, l, l', h⟩ := evacuateInto_cases p s r objs c
  · rw [h]; exact hs
  · rw [h]; exact of_mem (State.setRegionAlloc_mem ..) hs
  · rw [h]; exact of_mem (State.setRegionAlloc_mem ..) (State.followMoves_wf _ _ _ _ (State.moveObjects_wf _ _ _ _ _ hs))
theorem evacuateRegion_wf (p d colour : Nat) (s : State × Bool × List Word64) (r : Nat) (hs : Canonical s.1.mem) :
    Canonical (evacuateRegion p d colour s r).1.mem := by
  unfold evacuateRegion
  exact evacuateInto_wf _ _ _ _ _ hs
theorem State.evacuate_wf (s : State) (p : Nat) (d : Nat) (colour : Nat) {out : State × Bool} (hm : Canonical s.mem) (he : (State.evacuate s p d colour) = out) : Canonical out.1.mem := by
  subst he
  unfold State.evacuate
  exact foldl_fst_wf (State.quietPart_wf _ _ hm) fun _ _ hs => evacuateRegion_wf _ _ _ _ _ hs
theorem State.evacuation_wf (s : State) (p : Nat) (d : Nat) (colour : Nat) (hm : Canonical s.mem) : Canonical (State.evacuation s p d colour).mem := by
  unfold State.evacuation
  repeat' (first | with_reducible exact hm | with_reducible refine State.evacuate_wf (hm := ?_) (he := rfl) .. | split)
theorem State.writeBlocks_wf (c : CoreId) (a : Nat) (bs : List Nat) : ∀ (s : State) (e : Copy), Canonical s.mem → Canonical (s.writeBlocks c e a bs).1.mem := by
  induction bs with
  | nil => intro s e hm; exact hm
  | cons b bs ih =>
    intro s e hm
    unfold State.writeBlocks
    dsimp only
    split
    · exact hm
    · exact ih _ _ (of_mem (State.setCopy_mem ..) (poke_canon hm ..))
theorem State.writeBack_wf (s : State) (p : Nat) (c : CoreId) (e : Copy) {out : State × Option FaultCode} (hm : Canonical s.mem) (he : (State.writeBack s p c e) = out) : Canonical out.1.mem := by
  subst he
  unfold State.writeBack
  split
  · exact hm
  · split
    · split
      · exact hm
      · exact State.writeBlocks_wf _ _ _ _ _ hm
    · exact hm
theorem releasedHome_wf {Q : State → Prop} (s : State) (home : Nat) (hm : Canonical s.mem) (hq : ∀ t, Canonical t.mem → Q t) : Act.On Canonical Q (releasedHome s home) := by
  unfold releasedHome
  repeat' (first | with_reducible apply drained_mem | with_reducible apply State.drainSel_wf | with_reducible apply hq | (intro _) | simp only [State.fixLoads_mem, *])
theorem flush_wf {Q : State → Prop} (s : State) (r : BitVec 128) (hm : Canonical s.mem) (hq : ∀ t, Canonical t.mem → Q t) : Act.On Canonical Q (flush s r) := by
  unfold flush
  repeat' (first | with_reducible assumption | with_reducible apply Act.On_bind | with_reducible apply Act.On_pure | with_reducible apply Act.On_error | with_reducible apply needOr_on | with_reducible apply Res.On_fault | with_reducible apply Res.On_retry | with_reducible apply releasedHome_wf | with_reducible apply access_mem | with_reducible refine State.writeBack_wf (hm := ?_) (he := by assumption) .. | with_reducible apply hq | split | (intro _))
theorem needAtomicOps_mem {P : Memory → Prop} {Q : Unit → Prop} (s : State) (ptr : Word64) (hm : P s.mem) (hq : ∀ b, Q b) : Act.On P Q (needAtomicOps s ptr) := by
  unfold needAtomicOps
  repeat' (first | with_reducible exact hm | with_reducible apply hq | with_reducible apply need_on)
@[simp] theorem State.fixAll_mem (s : State) : (State.fixAll s).mem = s.mem := by
  unfold State.fixAll
  repeat' simp only [State.fixLoads_mem]
theorem released_wf {Q : State → Prop} (s : State) (hm : Canonical s.mem) (hq : ∀ t, Canonical t.mem → Q t) : Act.On Canonical Q (released s) := by
  unfold released
  repeat' (first | with_reducible apply drained_mem | with_reducible apply State.drainAll_wf | with_reducible apply hq | (intro _) | simp only [State.fixAll_mem, *])
theorem releasedAt_wf {Q : State → Prop} (scope : Nat) (home : Nat) (s : State) (hm : Canonical s.mem) (hq : ∀ t, Canonical t.mem → Q t) : Act.On Canonical Q (releasedAt scope home s) := by
  unfold releasedAt
  repeat' (first | with_reducible assumption | with_reducible apply Act.On_bind | with_reducible apply releasedHome_wf | with_reducible apply released_wf | with_reducible apply releasedDies_wf | split | (intro _))
theorem relBody_wf (f : Fields) (s : State) (hm : Canonical s.mem) : (relBody f s).On Canonical := by
  unfold relBody
  repeat' (first | with_reducible assumption | with_reducible apply Act.On_run | with_reducible apply Act.On_bind | with_reducible apply Act.On_pure | with_reducible apply Res.On_ok | with_reducible apply flush_wf | with_reducible apply needKind_mem | with_reducible apply needAtomicOps_mem | with_reducible apply header_mem | with_reducible apply checkPtr_mem | with_reducible apply releasedAt_wf | with_reducible apply pokeWord_canon | (intro _))
@[simp] theorem State.setQueue_mem (s : State) (p : Nat) (q : Nat) (v : Queue) : (State.setQueue s p q v).mem = s.mem := rfl
@[simp] theorem State.qctlWrite_mem (s : State) (p : Nat) (q : Nat) (v : Word32) : (State.qctlWrite s p q v).mem = s.mem := by
  unfold State.qctlWrite
  repeat' (first | split | simp only [State.setQueue_mem])
@[simp] theorem State.setX_mem (s : State) (n : BitVec 6) (v : Word64) : (State.setX s n v).mem = s.mem := rfl
theorem alu_mem {P : Memory → Prop} (op : Nat → Nat → Nat → Nat) (f : Fields) (s : State) (hm : P s.mem) : (alu op f s).On P := by
  unfold alu
  repeat' (first | with_reducible apply Res.On_ok | simp only [State.setX_mem, *])
@[simp] theorem State.defer_mem (s : State) (p : Pend) : (State.defer s p).mem = s.mem := rfl
@[simp] theorem State.switchAt_mem (s : State) (k : TaskKey) : (State.switchAt s k).mem = s.mem := by
  unfold State.switchAt
  repeat' (first | split | simp only [State.landAll_mem, State.setTask_mem])
@[simp] theorem State.complete_mem (s : State) (k : TaskKey) (f : Fields) : (State.complete s k f).mem = s.mem := by
  unfold State.complete
  repeat' (first | split | simp only [State.setTask_mem, State.switchAt_mem])
@[simp] theorem State.readCycle_mem (s : State) (d : Nat) : (State.readCycle s d).2.mem = s.mem := rfl
@[simp] theorem State.parkTask_mem (s : State) (k : TaskKey) (w : Wait) : (State.parkTask s k w).mem = s.mem := by
  unfold State.parkTask
  repeat' (first | rfl | split)
theorem State.settle_on {P : Memory → Prop} (k : TaskKey) (f : Fields) (r : Res) (h : r.On P) : P (State.settle k f r).mem := by
  cases r <;> (unfold Res.On at h; unfold State.settle; dsimp only; first | exact h | (simp only [State.complete_mem, State.setTask_mem, State.switchAt_mem, State.raiseAt_mem, State.parkTask_mem]; exact h))
theorem landed_mem {P : Memory → Prop} {Q : State → Prop} (s : State) (hm : P s.mem) (hq : ∀ t, t.mem = s.mem → Q t) : Act.On P Q (landed s) := by
  unfold landed
  repeat' (first | with_reducible apply Act.On_ok | with_reducible apply Act.On_error | with_reducible apply Res.On_retry | with_reducible apply Res.On_gone | split | simp only [State.landAll_mem, *])
theorem guardedOff_mem {P : Memory → Prop} (o : Op) (s : State) (hm : P s.mem) : (guardedOff o s).On P := by
  unfold guardedOff
  split
  · refine Act.On_run ?_
    have := landed_mem (P := P) (Q := fun t => P t.mem) s hm (fun t ht => by rw [ht]; exact hm)
    revert this
    cases landed s with
    | ok t => intro h; exact Act.On_ok (Res.On_ok (by unfold Act.On at h; exact h))
    | error e => intro h; exact Act.On_error (by unfold Act.On at h; exact h)
  · exact Res.On_ok hm
theorem migrateRes_mem {P : Memory → Prop} (s : State) (o : Op) (f : Fields) (hm : P s.mem) : (migrateRes s o f).On P := by
  unfold migrateRes
  repeat' (first | with_reducible apply Res.On_fault | with_reducible apply Res.On_park | with_reducible apply Res.On_retry | split | simp only [State.landAll_mem, *])
@[simp] theorem State.countTiles_mem (s : State) (one : Bool) (cls : Nat) (n : Nat) : (State.countTiles s one cls n).mem = s.mem := rfl
@[simp] theorem State.endIdle_mem (s : State) (sel : TaskKey → Task → Bool) : (State.endIdle s sel).mem = s.mem := rfl
@[simp] theorem State.boundaryArrives_mem (s : State) (p : Nat) (ctx : Nat) : (State.boundaryArrives s p ctx).mem = s.mem := by
  unfold State.boundaryArrives
  repeat' (first | rfl | split)
@[simp] theorem State.sliceBoundary_mem (s : State) (p : Nat) (time : Word64) : (State.sliceBoundary s p time).mem = s.mem := by
  unfold State.sliceBoundary
  repeat' (first | split | simp only [State.setPart_mem, State.boundaryArrives_mem])
@[simp] theorem State.restartJob_mem (s : State) (k : ClusterId) (id : Word32) (owner : Option CoreId) : (State.restartJob s k id owner).mem = s.mem := rfl
@[simp] theorem State.deferElems_mem (s : State) (ptr : Word64) (es : List Elem) (p : Pend) : (State.deferElems s ptr es p).mem = s.mem := by
  unfold State.deferElems
  repeat' (first | split | simp only [State.requestTo_mem, State.stampSeq_mem, State.defer_mem])
@[simp] theorem State.deferLoad_mem (s : State) (r : BitVec 128) (n : Nat) (offs : List (Nat × Nat)) (p : Pend) : (State.deferLoad s r n offs p).mem = s.mem := by
  unfold State.deferLoad
  repeat' simp only [State.deferElems_mem]
theorem checkLanes_mem {P : Memory → Prop} {Q : Unit → Prop} (s : State) (f : Fields) (r : BitVec 128) (lanes : List (Nat × Int)) (hm : P s.mem) (hq : ∀ b, Q b) : Act.On P Q (checkLanes s f r lanes) := by
  unfold checkLanes
  repeat' (first | with_reducible exact hm | with_reducible apply hq | with_reducible apply Act.On_bind | with_reducible apply Act.On_pure | with_reducible apply Act.On_error | with_reducible apply Res.On_fault | with_reducible apply checkPtr_mem | split | (intro _))
theorem objOf_mem {P : Memory → Prop} {Q : Obj → Prop} (s : State) (r : BitVec 128) (hm : P s.mem) (hq : ∀ b, Q b) : Act.On P Q (objOf s r) := by
  unfold objOf
  repeat' (first | with_reducible exact hm | with_reducible apply hq | with_reducible apply Act.On_bind | with_reducible apply Act.On_pure | with_reducible apply header_mem | (intro _))
theorem loadAct_mem {P : Memory → Prop} {Q : List Byte → Prop} (s : State) (ptr : Word64) (lo : Nat) (n : Nat) (hm : P s.mem) (hq : ∀ b, Q b) : Act.On P Q (loadAct s ptr lo n) := by
  unfold loadAct
  repeat' (first | with_reducible exact hm | with_reducible apply hq | with_reducible apply Act.On_bind | with_reducible apply Act.On_pure | with_reducible apply need_on | with_reducible apply access_mem | (intro _))
theorem readThrough_mem {P : Memory → Prop} {Q : List Byte → Prop} (s : State) (r : BitVec 128) (off : Nat) (n : Nat) (hm : P s.mem) (hq : ∀ b, Q b) : Act.On P Q (readThrough s r off n) := by
  unfold readThrough
  repeat' (first | with_reducible exact hm | with_reducible apply hq | with_reducible apply Act.On_bind | with_reducible apply Act.On_pure | with_reducible apply need_on | with_reducible apply needOr_on | with_reducible apply Res.On_retry | with_reducible apply loadAct_mem | split)
@[simp] theorem State.padTake_mem (s : State) (u : PadUnit) (colour : Nat) (off : Nat) (size : Nat) (cp : Option (CoreId × Word64)) (p : optParam Nat 0) : (State.padTake s u colour off size cp p).mem = s.mem := rfl
theorem State.copyIn_wf (s : State) (c : CoreId) (u : PadUnit) (colour : Nat) (off : Nat) (size : Nat) (canon : Word64) (bytes : List Byte) (pref : Bool) (hm : Canonical s.mem) : Canonical (State.copyIn s c u colour off size canon bytes pref).mem := by
  unfold State.copyIn
  repeat' (first | with_reducible apply poke_canon | with_reducible apply clear_canon | simp only [State.setCore_mem, State.padTake_mem, *])
@[simp] theorem State.resetBump_mem (s : State) (u : PadUnit) (colour : Nat) : (State.resetBump s u colour).mem = s.mem := rfl
@[simp] theorem State.retireBanks_mem (s : State) (u : PadUnit) (colour : Nat) : (State.retireBanks s u colour).mem = s.mem := rfl
@[simp] theorem State.setGleaner_mem (s : State) (d : Nat) (unit : Nat) (g : Gleaner) : (State.setGleaner s d unit g).mem = s.mem := rfl
@[simp] theorem State.collectEnd_mem (s : State) (u : PadUnit) (colour : Nat) : (State.collectEnd s u colour).mem = s.mem := rfl
@[simp] theorem State.unhold_mem (s : State) (u : PadUnit) : (State.unhold s u).mem = s.mem := rfl
@[simp] theorem State.close_mem (s : State) (u : PadUnit) (colour : Nat) : (State.close s u colour).mem = s.mem := by
  unfold State.close
  repeat' (first | split | simp only [State.unhold_mem, State.collectEnd_mem, State.setGleaner_mem])
@[simp] theorem State.exchange_mem (s : State) (p : Nat) (ctx : Nat) : (State.exchange s p ctx).mem = s.mem := by
  unfold State.exchange
  repeat' (first | split | dsimp only)
@[simp] theorem State.bringBack_mem (s : State) (was : List (Nat × Nat)) : (State.bringBack s was).mem = s.mem := by
  unfold State.bringBack
  repeat' (first | simp only [State.exchange_mem] | refine (foldl_mem (fun _ _ => ?_)).trans ?_)
@[simp] theorem State.bringIn_mem (s : State) (u : PadUnit) (colour : Nat) : (State.bringIn s u colour).mem = s.mem := by
  unfold State.bringIn
  repeat' (first | simp only [State.exchange_mem] | refine (foldl_mem (fun _ _ => ?_)).trans ?_)
@[simp] theorem State.dropStale_mem (s : State) (u : PadUnit) (colour : Nat) : (State.dropStale s u colour).mem = s.mem := rfl
@[simp] theorem State.gleanerFault_mem (s : State) (p : Nat) (u : PadUnit) (f : FaultCode) (ptr : Word64) (moved : List (Word64 × Word64)) : (State.gleanerFault s p u f ptr moved).mem = s.mem := rfl
@[simp] theorem State.hold_mem (s : State) (top : PadUnit) (u : PadUnit) (colour : Nat) (p : Nat) : (State.hold s top u colour p).mem = s.mem := by
  unfold State.hold
  repeat' (first | split | simp only [State.setGleaner_mem])
@[simp] theorem State.keepOnly_mem (s : State) (u : PadUnit) (colour : Nat) (p : Nat) (ls : List (Nat × Nat)) : (State.keepOnly s u colour p ls).mem = s.mem := rfl
@[simp] theorem State.pruneIncoming_mem (s : State) (u : PadUnit) (colour : Nat) (p : Nat) : (State.pruneIncoming s u colour p).mem = s.mem := rfl
@[simp] theorem State.keepLive_mem (s : State) (p : Nat) (u : PadUnit) (colour : Nat) : (State.keepLive s p u colour).mem = s.mem := rfl
theorem State.quiet_wf (s : State) (u : PadUnit) (colour : Nat) (p : Nat) (hm : Canonical s.mem) : Canonical (State.quiet s u colour p).mem := by
  unfold State.quiet
  repeat' (first | with_reducible apply State.drainAll_wf | with_reducible apply foldl_wf | split | (intro _) | simp only [State.landAll_mem, *])
@[simp] theorem State.fixCopy_mem (s : State) (c : CoreId) (e : Copy) : (State.fixCopy s c e).mem = s.mem := by
  unfold State.fixCopy
  repeat' (first | split | simp only [State.fixLoads_mem] | refine (foldl_mem (fun _ _ => ?_)).trans ?_)
@[simp] theorem State.untouch_mem (s : State) (c : CoreId) (canon : Word64) : (State.untouch s c canon).mem = s.mem := rfl
@[simp] theorem State.dropCopy_mem (s : State) (c : CoreId) (e : Copy) : (State.dropCopy s c e).mem = s.mem := by
  unfold State.dropCopy
  repeat' simp only [State.fixCopy_mem, State.untouch_mem, State.setCore_mem]
theorem State.retireCopy_wf (s : State) (p : Nat) (c : CoreId) (canon : Word64) {out : Retired} (hm : Canonical s.mem) (he : (State.retireCopy s p c canon) = out) : Canonical out.1.mem := by
  subst he
  unfold State.retireCopy
  split
  · exact hm
  · split
    · exact hm
    · split
      · rename_i h; exact State.writeBack_wf (he := h) (hm := hm) ..
      · rename_i h
        have := State.writeBack_wf (he := h) (hm := hm) ..
        exact ite_canon (of_mem (State.dropCopy_mem ..) this) this
theorem State.retireCopies_wf (p : Nat) (cs : List (CoreId × Word64)) : ∀ (s : State) {out : Retired}, Canonical s.mem → s.retireCopies p cs = out → Canonical out.1.mem := by
  induction cs with
  | nil => intro s out hm he; subst he; exact hm
  | cons c cs ih =>
    intro s out hm he
    unfold State.retireCopies at he
    split at he
    · rename_i h; subst he; exact State.retireCopy_wf (he := h) (hm := hm) ..
    · rename_i h; exact ih _ (State.retireCopy_wf (he := h) (hm := hm) ..) he
theorem State.heapTake_mem (s : State) (p : Nat) (d : Nat) (colour : Nat) (size : Nat) {out : State × Word64} (he : (State.heapTake s p d colour size) = some out) : out.1.mem = s.mem := by
  unfold State.heapTake at he
  repeat' (first | rfl | contradiction | (injection he with he; subst he) | split at he | dsimp only at he ⊢)
theorem State.takeSpace_mem (s : State) (p : Nat) (colour : Nat) (size : Nat) (below : Option PadUnit) (d : Nat) {out : State × Word64 × Nat} (he : (State.takeSpace s p colour size below d) = some out) : out.1.mem = s.mem := by
  unfold State.takeSpace at he
  split at he
  · cases h : s.padRoom ‹PadUnit› colour size with
    | none => rw [h] at he; cases he
    | some off => rw [h] at he; cases he; exact State.padTake_mem _ _ _ _ _ _ _
  · split at he
    · cases he
    · rename_i h
      split at he
      · cases he; exact State.heapTake_mem (he := h) ..
      · cases he
/-- However a move of objects comes out, memory is canonical. -/
def MoveOut.Keeps : MoveOut → Prop
  | .noRoom _ | .stalled => True
  | .failed s _ _ => Canonical s.mem
  | .moved s _ => Canonical s.mem
theorem moveOne_wf (p colour : Nat) (dest : Word64 → Option PadUnit) (acc : MoveOut × Option MoveOut) (o : Word64 × Nat)
    (hm : acc.1.Keeps ∧ ∀ f, acc.2 = some f → f.Keeps) :
    (moveOne p colour dest acc o).1.Keeps ∧ ∀ f, (moveOne p colour dest acc o).2 = some f → f.Keeps := by
  obtain ⟨a, b⟩ := acc
  obtain ⟨ha, hb⟩ := hm
  unfold moveOne
  cases a with
  | noRoom u => exact ⟨trivial, hb⟩
  | stalled => exact ⟨trivial, hb⟩
  | failed s m q => exact ⟨ha, hb⟩
  | moved s m =>
    dsimp only
    cases h : s.takeSpace p colour o.2 (dest o.1) (bits o.1.toNat 58 2) with
    | none => exact ⟨trivial, fun f hf => by cases hf⟩
    | some out =>
      obtain ⟨s', new, a⟩ := out
      dsimp only
      split
      · exact ⟨trivial, fun f hf => by cases hf⟩
      · refine ⟨poke_canon (clear_canon (of_mem (State.takeSpace_mem (he := h) ..) ha) ..) .., ?_⟩
        cases b with
        | some f => exact hb
        | none =>
          intro f hf
          dsimp only at hf
          split at hf
          · cases hf; exact ha
          · cases hf
theorem State.moveAll_wf (s : State) (p colour : Nat) (dest : Word64 → Option PadUnit) (objs : List (Word64 × Nat)) (hm : Canonical s.mem) :
    (s.moveAll p colour dest objs).Keeps := by
  have h : ∀ (objs : List (Word64 × Nat)) (acc : MoveOut × Option MoveOut), (acc.1.Keeps ∧ ∀ f, acc.2 = some f → f.Keeps) →
      ((objs.foldl (moveOne p colour dest) acc).1.Keeps ∧ ∀ f, (objs.foldl (moveOne p colour dest) acc).2 = some f → f.Keeps) := by
    intro objs
    induction objs with
    | nil => intro acc h; exact h
    | cons o objs ih => intro acc h; exact ih _ (moveOne_wf _ _ _ _ _ h)
  have := h objs (.moved s [], none) ⟨hm, fun f hf => by cases hf⟩
  unfold State.moveAll
  split
  · rename_i he; rw [he] at this; exact this.2 _ rfl
  · rename_i he; rw [he] at this; exact this.1
theorem State.moveDown_wf (s : State) (p : Nat) (u : PadUnit) (colour : Nat) (objs : List (Nat × Nat)) (hm : Canonical s.mem) :
    (s.moveDown p u colour objs).Keeps := State.moveAll_wf _ _ _ _ _ hm
@[simp] theorem State.leavePads_mem (s : State) (olds : List Word64) : (State.leavePads s olds).mem = s.mem := rfl
theorem State.patch_wf (s : State) (p : Nat) (moved : List (Word64 × Word64)) (hm : Canonical s.mem) : Canonical (State.patch s p moved).mem := by
  unfold State.patch
  repeat' (first | with_reducible apply State.mapPtrs_wf | with_reducible apply State.mapObject_wf | with_reducible apply foldl_wf | split | (intro _) | simp only [State.leavePads_mem, *])
/-- The state that a collection comes to. -/
def GcOut.state : GcOut → State
  | .done s _ => s
  | .halted s => s
  | .waits s => s
theorem State.sweep_wf (s : State) (p : Nat) (u : PadUnit) (colour : Nat) {out : GcOut} (hm : Canonical s.mem) (he : s.sweep p u colour = some out) :
    Canonical out.state.mem := by
  unfold State.sweep at he
  have := State.moveDown_wf s p u colour (s.gcSplit u colour p).2 hm
  dsimp only at he
  split at he
  · rename_i h; rw [h] at this; cases he
    exact of_mem ((State.resetBump_mem ..).trans (State.pruneIncoming_mem ..)) (State.patch_wf _ _ _ (of_mem (State.keepOnly_mem ..) this))
  · rename_i h; rw [h] at this; cases he; exact of_mem (State.gleanerFault_mem ..) this
  · cases he; exact hm
  · cases he
theorem GcOut.andThen_wf {g : GcOut} {f : State → GcOut} (hg : Canonical g.state.mem) (hf : ∀ s, Canonical s.mem → Canonical (f s).state.mem) :
    Canonical (g.andThen f).state.mem := by
  unfold GcOut.andThen
  cases g with
  | done s b =>
    have := hf s hg
    dsimp only
    split
    · rename_i h; rw [h] at this; exact this
    · exact this
  | halted s => exact hg
  | waits s => exact hg
theorem foldl_gc_wf {f : Nat → State → GcOut} (h : ∀ q s, Canonical s.mem → Canonical (f q s).state.mem) (xs : List Nat) :
    ∀ {g : GcOut}, Canonical g.state.mem → Canonical (xs.foldl (fun acc q => acc.andThen (f q)) g).state.mem := by
  induction xs with
  | nil => intro g hg; exact hg
  | cons x xs ih => intro g hg; exact ih (GcOut.andThen_wf hg (h x))
theorem foldl_gc_eq {f : Nat → State → GcOut} {xs : List Nat} {g out : GcOut} (h : ∀ q s, Canonical s.mem → Canonical (f q s).state.mem)
    (hg : Canonical g.state.mem) (he : xs.foldl (fun acc q => acc.andThen (f q)) g = out) : Canonical out.state.mem :=
  he ▸ foldl_gc_wf h xs hg
theorem State.collect_wf (top : PadUnit) (colour : Nat) (fuel : Nat) : ∀ (p : Nat) (s : State) (u : PadUnit), Canonical s.mem →
    Canonical (s.collect top p colour fuel u).state.mem := by
  induction fuel with
  | zero => intro p s u hm; unfold State.collect; exact hm
  | succ n ih =>
    intro p s u hm
    have hq : Canonical ((s.hold top u colour p).quiet u colour p).mem := State.quiet_wf _ _ _ _ (of_mem (State.hold_mem ..) hm)
    unfold State.collect
    dsimp only
    split
    · exact hq
    · split
      · rename_i h; exact State.retireCopies_wf _ _ _ hq h
      · rename_i h; exact of_mem (State.gleanerFault_mem ..) (State.retireCopies_wf _ _ _ hq h)
      · rename_i s1 h
        have h1 : Canonical (s1.dropStale u colour).mem := of_mem (State.dropStale_mem ..) (State.retireCopies_wf _ _ _ hq h)
        split
        · exact of_mem (State.gleanerFault_mem ..) h1
        · split
          · rename_i h; exact State.sweep_wf (hm := h1) (he := h) ..
          · split
            · rename_i t b hl
              have h2 : Canonical (GcOut.done t b).state.mem := by
                rw [← hl]
                split
                · split
                  · exact h1
                  · exact State.evacuate_wf _ _ _ _ h1 rfl
                · exact h1
                · split
                  · exact of_mem ((State.setGleaner_mem ..).trans (State.close_mem ..)) h1
                  · split
                    · rename_i hk
                      exact of_mem (State.bringBack_mem ..) (foldl_gc_eq (g := GcOut.done _ true) (fun q s hs => ih q s _ hs) (of_mem ((State.bringIn_mem ..).trans (State.setGleaner_mem ..)) h1) hk)
                    · rename_i hk
                      exact of_mem (State.bringBack_mem ..) (foldl_gc_eq (g := GcOut.done _ true) (fun q s hs => ih q s _ hs) (of_mem ((State.bringIn_mem ..).trans (State.setGleaner_mem ..)) h1) hk)
                    · rename_i hk
                      exact of_mem ((State.setGleaner_mem ..).trans ((State.close_mem ..).trans (State.bringBack_mem ..))) (foldl_gc_eq (g := GcOut.done _ true) (fun q s hs => ih q s _ hs) (of_mem ((State.bringIn_mem ..).trans (State.setGleaner_mem ..)) h1) hk)
              cases hs : t.sweep p u colour with
              | none => exact of_mem (State.keepLive_mem ..) h2
              | some out => exact State.sweep_wf (hm := h2) (he := hs) ..
            · split
              · split
                · exact h1
                · exact State.evacuate_wf _ _ _ _ h1 rfl
              · exact h1
              · split
                · exact of_mem ((State.setGleaner_mem ..).trans (State.close_mem ..)) h1
                · split
                  · rename_i hk
                    exact of_mem (State.bringBack_mem ..) (foldl_gc_eq (g := GcOut.done _ true) (fun q s hs => ih q s _ hs) (of_mem ((State.bringIn_mem ..).trans (State.setGleaner_mem ..)) h1) hk)
                  · rename_i hk
                    exact of_mem (State.bringBack_mem ..) (foldl_gc_eq (g := GcOut.done _ true) (fun q s hs => ih q s _ hs) (of_mem ((State.bringIn_mem ..).trans (State.setGleaner_mem ..)) h1) hk)
                  · rename_i hk
                    exact of_mem ((State.setGleaner_mem ..).trans ((State.close_mem ..).trans (State.bringBack_mem ..))) (foldl_gc_eq (g := GcOut.done _ true) (fun q s hs => ih q s _ hs) (of_mem ((State.bringIn_mem ..).trans (State.setGleaner_mem ..)) h1) hk)
theorem State.collectColour_wf (s : State) (acting colour : Nat) (u : PadUnit) (hm : Canonical s.mem) :
    Canonical (s.collectColour acting colour u).state.mem := by
  have h0 := of_mem ((State.bringIn_mem (s.setGleaner (gleanerOf u).1 (gleanerOf u).2
    { s.gleaner (gleanerOf u).1 (gleanerOf u).2 with cascaded := false }) u colour).trans (State.setGleaner_mem ..)) hm
  unfold State.collectColour
  dsimp only
  split <;> (rename_i h; exact of_mem (State.bringBack_mem ..) (foldl_gc_eq (fun q s hs => State.collect_wf u colour 3 q s u hs) (g := GcOut.done _ true) h0 h))
theorem State.collectNow_wf (s : State) (acting : Nat) (colour : Nat) (u : PadUnit) {out : State × Option Bool} (hm : Canonical s.mem) (he : (State.collectNow s acting colour u) = out) : Canonical out.1.mem := by
  subst he
  have hc := State.collectColour_wf s acting colour u hm
  unfold State.collectNow
  dsimp only
  split
  · exact hm
  · split
    · exact of_mem (State.close_mem ..) hm
    · split
      · rename_i h; rw [h] at hc; exact hc
      · rename_i h; rw [h] at hc; exact ite_canon hc (of_mem (State.unhold_mem ..) hc)
      · rename_i h; rw [h] at hc; exact of_mem ((State.unhold_mem ..).trans (State.close_mem ..)) hc
theorem State.emptyMap_wf (s : State) (c : CoreId) (part : Nat) (colour : Nat) {out : State × Option Bool} (hm : Canonical s.mem) (he : (State.emptyMap s c part colour) = out) : Canonical out.1.mem := by
  subst he
  have hq : Canonical (s.quiet (.core c) colour part).mem := State.quiet_wf _ _ _ _ hm
  unfold State.emptyMap
  split
  · exact hm
  · dsimp only
    split
    · exact hq
    · split
      · rename_i h
        exact of_mem ((State.gleanerFault_mem ..).trans (State.hold_mem ..)) (State.retireCopies_wf _ _ _ hq h)
      · rename_i h; exact State.retireCopies_wf _ _ _ hq h
      · rename_i h
        exact State.collectNow_wf (hm := State.retireCopies_wf _ _ _ hq h) (he := rfl) ..
@[simp] theorem State.setO_mem (s : State) (n : BitVec 6) (v : BitVec 128) : (State.setO s n v).mem = s.mem := rfl
@[simp] theorem State.someBlocks_mem (s : State) (e : Copy) : (State.someBlocks s e).2.mem = s.mem := by
  unfold State.someBlocks
  repeat' (first | split | dsimp only | refine (State.fresh_eq (he := by assumption) ..).trans ?_)
theorem State.readBlock_wf (s : State) (c : CoreId) (e : Copy) (a : Nat) (hm : Canonical s.mem) : Canonical (State.readBlock s c e a).mem := by
  unfold State.readBlock
  repeat' (first | with_reducible apply poke_canon | split | simp only [State.setCopy_mem, State.fixLoads_mem, *])
theorem readBlocks_wf {Q : State → Prop} (canon : Word64) (n : Nat) : ∀ (s : State), Canonical s.mem → (∀ t, Canonical t.mem → Q t) → Act.On Canonical Q (readBlocks canon n s) := by
  induction n with
  | zero => intro s hm hq; exact Act.On_ok (hq _ hm)
  | succ n ih =>
    intro s hm hq
    unfold readBlocks
    split
    · exact Act.On_error (Res.On_retry hm)
    · exact Act.On_bind (access_mem _ _ _ _ hm fun a => Act.On_bind (need_on hm (ih _ (State.readBlock_wf _ _ _ _ hm) hq)))
theorem makeCopy_wf {Q : State → Prop} (s : State) (n : BitVec 6) (e : Copy) (hm : Canonical s.mem) (hq : ∀ t, Canonical t.mem → Q t) : Act.On Canonical Q (makeCopy s n e) := by
  unfold makeCopy
  repeat' (first | with_reducible apply Act.On_bind | with_reducible apply Act.On_pure | with_reducible apply needOr_on | with_reducible apply Res.On_retry | with_reducible apply readBlocks_wf | with_reducible apply hq | (intro _) | simp only [State.setO_mem, State.someBlocks_mem, *])
@[simp] theorem State.meet_mem (s : State) (u : PadUnit) (colour : Nat) : (State.meet s u colour).mem = s.mem := by
  unfold State.meet
  repeat' (first | split | simp only [State.close_mem])
theorem padGet_wf {Q : State × Option Nat → Prop} (s : State) (u : PadUnit) (colour : Nat) (size : Nat) (hm : Canonical s.mem) (hq : ∀ t b1, Canonical t.mem → Q (t, b1)) : Act.On Canonical Q (padGet s u colour size) := by
  unfold padGet
  repeat' (first | with_reducible apply Act.On_ok | with_reducible apply Act.On_error | with_reducible apply Res.On_retry | with_reducible refine State.collectNow_wf (hm := ?_) (he := by assumption) .. | with_reducible apply hq | split | simp only [State.meet_mem, *])
theorem touch_wf {Q : State → Prop} (s : State) (n : BitVec 6) (h : Word64) (hm : Canonical s.mem) (hq : ∀ t, Canonical t.mem → Q t) : Act.On Canonical Q (touch s n h) := by
  unfold touch
  dsimp only
  split
  · split
    · exact Act.On_pure (hq _ (ite_canon hm (of_mem (State.setO_mem ..) hm)))
    · exact makeCopy_wf _ _ _ hm hq
  · split
    · exact Act.On_pure (hq _ hm)
    · have rest : ∀ (t : State) (u : PadUnit), Canonical t.mem → Act.On Canonical Q (do
          let (s, room) ← padGet t u t.me.ctx (16 + hLen h)
          match room with
          | none => return s
          | some off =>
            if 512 ≤ (s.core s.myCore).copies.length then return s else
            let canon := oCanon (s.me.getO n)
            let bytes ← loadAct s canon 0 16
            let s := s.copyIn s.myCore u s.me.ctx off (16 + hLen h) canon bytes false
            match s.copyOf s.myCore canon with
            | some e => makeCopy s n e
            | none => return s) := by
        intro t u ht
        refine Act.On_bind (padGet_wf _ _ _ _ ht fun t room ht => ?_)
        cases room with
        | none => exact Act.On_pure (hq _ ht)
        | some off =>
          dsimp only
          split
          · exact Act.On_pure (hq _ ht)
          · refine Act.On_bind (loadAct_mem _ _ _ _ ht fun bs => ?_)
            have := State.copyIn_wf t t.myCore u t.me.ctx off (16 + hLen h) (oCanon (t.me.getO n)) bs false ht
            split
            · exact makeCopy_wf _ _ _ this hq
            · exact Act.On_pure (hq _ this)
      split
      · have he := State.emptyMap_wf s s.myCore (s.tablePart s.me) s.me.ctx hm rfl
        exact Act.On_bind (Act.On_bind (needOr_on (Res.On_retry he) (Act.On_pure (rest _ _ he))))
      · exact Act.On_bind (Act.On_pure (rest _ _ hm))
theorem vloadBody_wf (off : Task → Nat → Int) (f : Fields) (s : State) (hm : Canonical s.mem) : (vloadBody off f s).On Canonical := by
  unfold vloadBody
  refine Act.On_run (Act.On_bind (checkLanes_mem _ _ _ _ hm fun _ => Act.On_bind (objOf_mem _ _ hm fun ob => Act.On_bind (needKind_mem _ _ _ _ _ hm fun _ => ?_))))
  split
  · exact Act.On_pure (Res.On_ok hm)
  · refine Act.On_bind (touch_wf _ _ _ hm fun t ht => Act.On_bind (mapM_on (fun l Q hq => ?_) _ (fun ys => Act.On_pure (Res.On_ok (of_mem (State.deferLoad_mem ..) ht)))))
    split
    · exact Act.On_bind (readThrough_mem _ _ _ _ ht (fun bs => Act.On_pure (hq _)))
    · exact Act.On_pure (hq _)
@[simp] theorem State.setAcc_mem (s : State) (c : CoreId) (n : Nat) (v : Acc) : (State.setAcc s c n v).mem = s.mem := rfl
@[simp] theorem State.agentAddr_mem (s : State) (a : Agent) : (State.agentAddr s a).2.mem = s.mem := by
  unfold State.agentAddr
  repeat' (first | rfl | split)
theorem State.agentAddr_eq (s : State) (a : Agent) {out : BitVec 16 × State} (he : (State.agentAddr s a) = out) : out.2.mem = s.mem := by rw [← he]; exact State.agentAddr_mem ..
@[simp] theorem State.stamp_mem (s : State) (c : CoreId) (r : Record) : (State.stamp s c r).1.mem = s.mem := rfl
@[simp] theorem State.received_mem (s : State) (c : CoreId) (r : Record) : (State.received s c r).1.mem = s.mem := by
  unfold State.received
  repeat' (first | rfl | split)
theorem State.received_eq (s : State) (c : CoreId) (r : Record) {out : State × Record} (he : (State.received s c r) = out) : out.1.mem = s.mem := by rw [← he]; exact State.received_mem ..
@[simp] theorem State.push_mem (s : State) (c : CoreId) (r : Record) : (State.push s c r).mem = s.mem := by
  unfold State.push
  repeat' (first | split | dsimp only | refine (State.received_eq (he := by assumption) ..).trans ?_)
theorem State.pushCluster_mem (s : State) (cl : ClusterId) (r : Record) {out : State} (he : (State.pushCluster s cl r) = some out) : out.mem = s.mem := by
  unfold State.pushCluster at he
  repeat' (first | contradiction | (injection he with he; subst he) | split at he | simp only [State.push_mem])
theorem needOpen_mem {P : Memory → Prop} {Q : Unit → Prop} (s : State) (r : BitVec 128) (h : Word64) (off : optParam Int 0) (hm : P s.mem) (hq : ∀ b, Q b) : Act.On P Q (needOpen s r h off) := by
  unfold needOpen
  repeat' (first | with_reducible exact hm | with_reducible apply hq | with_reducible apply need_on)
theorem storeObj_mem {P : Memory → Prop} {Q : Obj → Prop} (s : State) (r : BitVec 128) (canonical : Bool) (hm : P s.mem) (hq : ∀ b, Q b) : Act.On P Q (storeObj s r canonical) := by
  unfold storeObj
  repeat' (first | with_reducible exact hm | with_reducible apply hq | with_reducible apply Act.On_bind | with_reducible apply Act.On_pure | with_reducible apply headerVia_mem | (intro _))
theorem gstBody_wf (f : Fields) (s : State) (hm : Canonical s.mem) : (gstBody f s).On Canonical := by
  unfold gstBody
  repeat' (first | with_reducible assumption | with_reducible apply Act.On_run | with_reducible apply Act.On_bind | with_reducible apply Act.On_pure | with_reducible apply Res.On_ok | with_reducible apply writeThrough_wf | with_reducible apply check_mem | with_reducible apply needOpen_mem | with_reducible apply touch_wf | with_reducible apply needKind_mem | with_reducible apply storeObj_mem | (intro _))
theorem readCanon_mem {P : Memory → Prop} {Q : List Byte → Prop} (s : State) (r : BitVec 128) (off : Nat) (n : Nat) (hm : P s.mem) (hq : ∀ b, Q b) : Act.On P Q (readCanon s r off n) := by
  unfold readCanon
  repeat' (first | with_reducible assumption | with_reducible apply loadAct_mem)
theorem packChecks_mem {P : Memory → Prop} {Q : Nat × PackDesc → Prop} (s : State) (f : Fields) (isStore : Bool) (hm : P s.mem) (hq : ∀ b, Q b) : Act.On P Q (packChecks s f isStore) := by
  unfold packChecks
  repeat' (first | with_reducible exact hm | with_reducible apply hq | with_reducible apply Act.On_bind | with_reducible apply Act.On_pure | with_reducible apply need_on | with_reducible apply check_mem | with_reducible apply readCanon_mem | with_reducible apply needOpen_mem | with_reducible apply needKind_mem | with_reducible apply header_mem | with_reducible apply checkPtr_mem | split | (intro _))
theorem vldpkBody_mem {P : Memory → Prop} (f : Fields) (s : State) (hm : P s.mem) : (vldpkBody f s).On P := by
  unfold vldpkBody
  repeat' (first | with_reducible apply Act.On_run | with_reducible apply Act.On_bind | with_reducible apply Act.On_pure | with_reducible apply need_on | with_reducible apply Res.On_ok | with_reducible apply readCanon_mem | with_reducible apply needKind_mem | with_reducible apply packChecks_mem | (intro _) | simp only [State.deferLoad_mem, *])
@[simp] theorem State.deferX_mem (s : State) (n : BitVec 6) (v : Word64) : (State.deferX s n v).mem = s.mem := rfl
@[simp] theorem State.fixAt_mem (s : State) (a : Nat) (n : Nat) : (State.fixAt s a n).mem = s.mem := by
  unfold State.fixAt
  repeat' simp only [State.fixLoads_mem]
@[simp] theorem State.setMailbox_mem (s : State) (c : CoreId) (m : Nat) (v : Mailbox) : (State.setMailbox s c m v).mem = s.mem := rfl
@[simp] theorem State.wake_mem (s : State) (k : TaskKey) : (State.wake s k).mem = s.mem := by
  unfold State.wake
  repeat' (first | rfl | split)
@[simp] theorem State.wakeAll_mem (s : State) (kind : WaitKind) (aux : Nat) : (State.wakeAll s kind aux).mem = s.mem := by
  unfold State.wakeAll
  repeat' (first | split | simp only [State.wake_mem] | refine (foldl_mem (fun _ _ => ?_)).trans ?_)
@[simp] theorem State.releaseMailbox_mem (s : State) (c : CoreId) (m : Nat) : (State.releaseMailbox s c m).mem = s.mem := by
  unfold State.releaseMailbox
  repeat' simp only [State.wakeAll_mem, State.setMailbox_mem]
theorem jobTest_mem {P : Memory → Prop} (poll : Bool) (o : Op) (f : Fields) (s : State) (hm : P s.mem) : (jobTest poll o f s).On P := by
  unfold jobTest
  repeat' (first | with_reducible apply Res.On_ok | with_reducible apply Res.On_fault | with_reducible apply Res.On_park | split | simp only [State.fixAt_mem, State.deferX_mem, State.releaseMailbox_mem, *])
@[simp] theorem State.startRecord_mem (s : State) (k : TaskKey) (r : Record) : (State.startRecord s k r).mem = s.mem := by
  unfold State.startRecord
  repeat' (first | rfl | split | refine (State.received_eq (he := by assumption) ..).trans ?_)
theorem State.fillMailbox_wf (s : State) (c : CoreId) (ctx : Nat) (job : Word32) (status : Nat) (dropped : Nat) (scope : Nat) (hm : Canonical s.mem) : Canonical (State.fillMailbox s c ctx job status dropped scope).mem := by
  unfold State.fillMailbox
  repeat' (first | with_reducible exact hm | with_reducible apply pokeWord_canon | split | simp only [State.endIdle_mem, State.setMailbox_mem, State.releaseMailbox_mem, *])
theorem State.fillBox_wf (s : State) (p : Nat) (ctx : Nat) (c : CoreId) (job : Word32) (status : Nat) (dropped : Nat) (scope : Nat) (hm : Canonical s.mem) : Canonical (State.fillBox s p ctx c job status dropped scope).mem := by
  unfold State.fillBox
  split
  · exact State.fillMailbox_wf _ _ _ _ _ _ _ hm
  · split
    · exact hm
    · exact State.fillMailbox_wf _ _ _ _ _ _ _ hm
theorem State.endRound_wf (s : State) (js : List CollJob) (status : Nat) (hm : Canonical s.mem) : Canonical (State.endRound s js status).mem := by
  unfold State.endRound
  exact foldl_wf hm fun _ _ h => State.fillBox_wf _ _ _ _ _ _ _ _ h
@[simp] theorem State.workFault_mem (s : State) (a : Agent) (p : Nat) (f : Flt) (id : Word32) (core : Option CoreId) (pos : Word32) : (State.workFault s a p f id core pos).mem = s.mem := by
  unfold State.workFault
  repeat' (first | rfl | split)
@[simp] theorem State.collFault_mem (s : State) (j : CollJob) (f : Flt) : (State.collFault s j f).mem = s.mem := by
  unfold State.collFault
  repeat' simp only [State.workFault_mem]
@[simp] theorem State.setColl_mem (s : State) (old : CollJob) (new : CollJob) : (State.setColl s old new).mem = s.mem := rfl
@[simp] theorem State.readRound_mem (n : Nat) (js : List CollJob) : ∀ s : State, (s.readRound n js).mem = s.mem := by
  induction js with
  | nil => intro s; rfl
  | cons j js ih =>
    intro s
    unfold State.readRound
    split
    · exact ih _
    · split
      · exact State.collFault_mem ..
      · exact (ih _).trans (State.setColl_mem ..)
theorem State.writeRound_wf (all js : List CollJob) : ∀ s : State, Canonical s.mem → Canonical (s.writeRound all js).mem := by
  induction js with
  | nil => intro s hm; exact State.endRound_wf _ _ _ hm
  | cons j js ih =>
    intro s hm
    unfold State.writeRound
    split
    · exact of_mem (State.collFault_mem ..) hm
    · split
      · exact of_mem (State.collFault_mem ..) hm
      · exact ih _ (foldl_wf hm fun _ _ hs => poke_canon hs ..)
theorem State.completeRound_wf (s : State) (i : Nat) (hm : Canonical s.mem) : Canonical (State.completeRound s i).mem := by
  unfold State.completeRound
  repeat' (first | dsimp only | with_reducible apply State.writeRound_wf | with_reducible apply State.endRound_wf | split | simp only [State.fresh_mem, State.readRound_mem, *])
@[simp] theorem State.bootBegins_mem (s : State) : (State.bootBegins s).mem = s.mem := rfl
@[simp] theorem State.raiseFlags_mem (s : State) (fl : BitVec 6) : (State.raiseFlags s fl).mem = s.mem := by
  unfold State.raiseFlags
  repeat' (first | rfl | split)
@[simp] theorem State.setV_mem (s : State) (n : BitVec 6) (v : BitVec 2048) : (State.setV s n v).mem = s.mem := rfl
theorem vcvtBody_mem {P : Memory → Prop} (f : Fields) (s : State) (hm : P s.mem) : (vcvtBody f s).On P := by
  unfold vcvtBody
  repeat' (first | with_reducible apply Res.On_ok | simp only [State.setV_mem, State.raiseFlags_mem, *])
@[simp] theorem State.almanacEnd_mem (s : State) (outcome : Nat) : (State.almanacEnd s outcome).mem = s.mem := rfl
theorem releasedFor_wf {Q : State → Prop} (ptrs : List Word64) (s : State) (hm : Canonical s.mem) (hq : ∀ t, Canonical t.mem → Q t) : Act.On Canonical Q (releasedFor ptrs s) := by
  unfold releasedFor
  exact foldlM_on (fun s x hs _ hq => releasedHome_wf s x hs hq) _ s hm hq
theorem sgldBody_wf (f : Fields) (s : State) (hm : Canonical s.mem) : (sgldBody f s).On Canonical := by
  unfold sgldBody
  repeat' (first | with_reducible apply Act.On_run | with_reducible apply Act.On_bind | with_reducible apply Act.On_pure | with_reducible apply Act.On_error | with_reducible apply Res.On_ok | with_reducible apply Res.On_fault | with_reducible apply check_mem | with_reducible apply releasedFor_wf | with_reducible apply readCanon_mem | with_reducible apply needKind_mem | with_reducible apply header_mem | with_reducible apply checkPtr_mem | split | (intro _) | simp only [State.defer_mem, State.deferX_mem, *])
@[simp] theorem State.addNode_mem (s : State) (d : Nat) (n : Node) : (State.addNode s d n).2.mem = s.mem := rfl
theorem tgnodeBody_mem {P : Memory → Prop} (f : Fields) (s : State) (hm : P s.mem) : (tgnodeBody f s).On P := by
  unfold tgnodeBody
  repeat' (first | with_reducible apply Act.On_run | with_reducible apply Act.On_bind | with_reducible apply Act.On_pure | with_reducible apply Act.On_error | with_reducible apply need_on | with_reducible apply Res.On_ok | with_reducible apply Res.On_park | with_reducible apply needKind_mem | with_reducible apply header_mem | split | (intro _) | simp only [State.deferX_mem, State.addNode_mem, *])
@[simp] theorem State.forget_mem (s : State) (a : Nat) (n : Nat) : (State.forget s a n).mem = s.mem := rfl
theorem State.initObject_wf (s : State) (a : Nat) (n : Nat) (ptr : Word64) (h : Word64) (hm : Canonical s.mem) : Canonical (State.initObject s a n ptr h).mem := by
  unfold State.initObject
  repeat' (first | with_reducible apply State.storeOf_wf | simp only [State.forget_mem, State.stampSeq_mem, *])
theorem State.heapAlloc_wf (s : State) (p : Nat) (d : Nat) (colour : Nat) (size : Nat) {out : State × Option Word64} (hm : Canonical s.mem) (he : (State.heapAlloc s p d colour size) = out) : Canonical out.1.mem := by
  subst he
  unfold State.heapAlloc
  have hv : Canonical (s.evacuate p d colour).1.mem := State.evacuate_wf _ _ _ _ hm rfl
  split
  · exact of_mem (State.heapTake_mem (he := by assumption) ..) hm
  · dsimp only
    split
    · split
      · exact of_mem (State.heapTake_mem (he := by assumption) ..) hv
      · exact hv
    · exact hv
theorem firstPad_mem (s : State) (size : Nat) (a2 : List PadUnit) {out : State × Word64} (he : (firstPad s size a2) = some out) : out.1.mem = s.mem := by
  induction a2 with
  | nil => cases he
  | cons u us ih =>
    unfold firstPad at he
    split at he
    · cases he; exact (State.padTake_mem _ _ _ _ _ _ _).trans (State.meet_mem _ _ _)
    · exact ih he
theorem placeObject_wf {Q : State × Word64 → Prop} (s : State) (f : Fields) (level : Nat) (kind : Nat) (size : Nat) (hm : Canonical s.mem) (hq : ∀ t b1, Canonical t.mem → Q (t, b1)) : Act.On Canonical Q (placeObject s f level kind size) := by
  unfold placeObject
  repeat' (first | dsimp only | with_reducible apply Act.On_bind | with_reducible apply Act.On_pure | with_reducible apply Act.On_ok | with_reducible apply Act.On_error | with_reducible apply needOr_on | with_reducible apply Res.On_fault | with_reducible apply Res.On_retry | with_reducible apply padGet_wf | with_reducible refine State.heapAlloc_wf (hm := ?_) (he := by assumption) .. | with_reducible refine of_mem (firstPad_mem (he := by assumption) ..) ?_ | with_reducible apply hq | split | (intro _) | simp only [State.padTake_mem, *])
theorem allocBody_wf (f : Fields) (s : State) (hm : Canonical s.mem) : (allocBody f s).On Canonical := by
  unfold allocBody
  repeat' (first | dsimp only | with_reducible apply Act.On_run | with_reducible apply Act.On_bind | with_reducible apply Act.On_pure | with_reducible apply Act.On_error | with_reducible apply need_on | with_reducible apply Res.On_ok | with_reducible apply Res.On_fault | with_reducible apply placeObject_wf | with_reducible apply State.initObject_wf | split | (intro _) | simp only [State.setO_mem, *])
@[simp] theorem State.wakeGraph_mem (s : State) (d : Nat) : (State.wakeGraph s d).mem = s.mem := by
  unfold State.wakeGraph
  repeat' (first | split | simp only [State.wake_mem] | refine (foldl_mem (fun _ _ => ?_)).trans ?_)
@[simp] theorem State.freeNode_mem (s : State) (d : Nat) (i : Nat) : (State.freeNode s d i).mem = s.mem := by
  unfold State.freeNode
  repeat' simp only [State.setDie_mem, State.wakeGraph_mem]
@[simp] theorem State.nodeFinish_mem (s : State) (d : Nat) (i : Nat) : (State.nodeFinish s d i).mem = s.mem := by
  unfold State.nodeFinish
  repeat' (first | split | simp only [State.freeNode_mem] | refine (State.arrive_eq (he := by assumption) ..).trans ?_)
theorem State.evacuateFor_wf (s : State) (p : Nat) (colour : Nat) (set : List Word64) (hm : Canonical s.mem) : Canonical (State.evacuateFor s p colour set).mem := by
  unfold State.evacuateFor
  repeat' (first | with_reducible assumption | with_reducible refine State.evacuate_wf (hm := ?_) (he := rfl) .. | with_reducible apply foldl_wf | (intro _))
theorem State.quietFor_wf (s : State) (colour : Nat) (p : Nat) (l : Nat) (set : List Word64) (hm : Canonical s.mem) : Canonical (State.quietFor s colour p l set).mem := by
  unfold State.quietFor
  repeat' (first | with_reducible apply State.quiet_wf | with_reducible apply foldl_wf | (intro _) | simp only [State.meet_mem, *])
theorem promote_wf {Q : State × List (Option PadUnit) → Prop} (collected : List (Option PadUnit)) (s : State) (p : Word64) (l : Nat) (hm : Canonical s.mem) (hq : ∀ t b1, Canonical t.mem → Q (t, b1)) : Act.On Canonical Q (promote collected s p l) := by
  unfold promote
  dsimp only
  have hs : ∀ c q l xs, Canonical ((s.drainAll s.cur).quietFor c q l xs).mem := fun c q l xs => State.quietFor_wf _ _ _ _ _ (State.drainAll_wf _ _ hm)
  replace hs := hs s.me.ctx (s.tablePart s.me) l (s.promoteSet l 260 [p] [])
  generalize (s.drainAll s.cur).quietFor _ _ _ _ = u at hs ⊢
  replace hs : Canonical u.mem := hs
  refine Act.On_bind (needOr_on (Res.On_gone hs) (Act.On_bind (need_on hs ?_)))
  split
  · exact Act.On_error (Res.On_fault hs)
  · have := fun part ctx dest objs => State.moveAll_wf u part ctx dest objs hs
    split
    · rename_i h
      have := this (s.tablePart s.me) u.me.ctx (lowerPad l)
        ((sortBy (fun a b => a.toNat ≤ b.toNat) (u.promoteSet l 260 [p] [])).map (fun q => (q, u.objectSize q)))
      rw [h] at this
      exact Act.On_pure (hq _ _ (State.patch_wf _ _ _ this))
    · rename_i h
      have := this (s.tablePart s.me) u.me.ctx (lowerPad l)
        ((sortBy (fun a b => a.toNat ≤ b.toNat) (u.promoteSet l 260 [p] [])).map (fun q => (q, u.objectSize q)))
      rw [h] at this
      exact Act.On_error (Res.On_fault (State.patch_wf _ _ _ this))
    · exact Act.On_error (Res.On_retry hs)
    · refine Act.On_bind (needOr_on (Res.On_fault hs) ?_)
      split
      · exact Act.On_bind (needOr_on (Res.On_retry hs) (Act.On_pure (hq _ _ (State.evacuateFor_wf _ _ _ _ hs))))
      · split
        · rename_i h; exact Act.On_error (Res.On_retry (State.collectNow_wf (hm := hs) (he := h) ..))
        · rename_i h; exact Act.On_error (Res.On_fault (State.collectNow_wf (hm := hs) (he := h) ..))
        · rename_i h; exact Act.On_pure (hq _ _ (State.collectNow_wf (hm := hs) (he := h) ..))
theorem escape_wf {Q : State → Prop} (rd : BitVec 6) (rp : BitVec 6) (a2 : Nat) : ∀ (a3 : List (Option PadUnit)) (a4 : State) (_ : Canonical a4.mem) (_ : ∀ t, Canonical t.mem → Q t), Act.On Canonical Q (escape rd rp a2 a3 a4) := by
  induction a2 with
  | zero => intro c s hm hq; exact Act.On_ok (hq _ hm)
  | succ n ih =>
    intro c s hm hq
    unfold escape
    dsimp only
    split
    · exact Act.On_ok (hq _ hm)
    · split
      · refine Act.On_bind (need_on hm ?_)
        refine Act.On_bind (promote_wf _ _ _ _ hm ?_)
        intro t b ht
        exact ih _ _ ht hq
      · split
        · exact Act.On_ok (hq _ hm)
        · split
          · exact Act.On_ok (hq _ hm)
          · split
            · exact Act.On_ok (hq _ hm)
            · refine Act.On_bind (promote_wf _ _ _ _ hm ?_)
              intro t b ht
              exact ih _ _ ht hq
theorem needPosition_mem {P : Memory → Prop} {Q : Nat → Prop} (s : State) (v : Word64) (top : Int) (hm : P s.mem) (hq : ∀ b, Q b) : Act.On P Q (needPosition s v top) := by
  unfold needPosition
  repeat' (first | with_reducible exact hm | with_reducible apply hq | with_reducible apply Act.On_bind | with_reducible apply Act.On_pure | with_reducible apply need_on)
@[simp] theorem State.loadNext_mem (s : State) (ps : List Word32) : (State.loadNext s ps).mem = s.mem := by
  unfold State.loadNext
  exact ite_mem rfl rfl
theorem transfer_mem {P : Memory → Prop} (t : Word64) (change : Task → Task) (s : State) (hm : P s.mem) : (transfer t change s).On P := by
  unfold transfer
  repeat' (first | with_reducible apply Res.On_jump | with_reducible apply Res.On_fault | split | simp only [State.setMe_mem, *])
theorem branchIf_mem {P : Memory → Prop} (c : Bool) (f : Fields) (s : State) (hm : P s.mem) : (branchIf c f s).On P := by
  unfold branchIf
  repeat' (first | with_reducible exact hm | with_reducible apply Res.On_ok | with_reducible apply transfer_mem | split)
@[simp] theorem State.putV_mem (s : State) (n : BitVec 6) (v : BitVec 2048) (m : BitVec 256) : (State.putV s n v m).mem = s.mem := rfl
@[simp] theorem putLanes_mem (s : State) (f : Fields) (eb : Nat) (g : Nat → Nat × BitVec 6) : (putLanes s f eb g).mem = s.mem := by
  unfold putLanes
  repeat' simp only [State.putV_mem, State.raiseFlags_mem]
theorem vmadBody_mem {P : Memory → Prop} (f : Fields) (s : State) (hm : P s.mem) : (vmadBody f s).On P := by
  unfold vmadBody
  repeat' (first | with_reducible apply Res.On_ok | simp only [putLanes_mem, *])
theorem State.reissue_wf (s : State) (k : TaskKey) (kind : WaitKind) (body : Fields → State → Res) (hb : ∀ f t, Canonical t.mem → (body f t).On Canonical) (hm : Canonical s.mem) : Canonical (State.reissue s k kind body).mem := by
  unfold State.reissue
  dsimp only
  split
  · exact hm
  · split
    · exact hm
    · have hr := hb ‹Wait›.f (State.setTask { s with cur := k } k { s.task k with status := .ready, wait := none }) hm
      split
      · exact hm
      · exact State.settle_on _ _ _ hr
@[simp] theorem State.emptyWord_mem (s : State) (w : Nat) : (State.emptyWord s w).mem = s.mem := rfl
theorem State.fillWord_wf (s : State) (w : Nat) (v : Word64) (scope : Nat) (hm : Canonical s.mem) : Canonical (State.fillWord s w v scope).mem := by
  unfold State.fillWord
  repeat' (first | with_reducible exact hm | with_reducible apply pokeWord_canon)
theorem feWord_mem {P : Memory → Prop} {Q : Nat × Wait → Prop} (o : Op) (f : Fields) (s : State) (hm : P s.mem) (hq : ∀ b, Q b) : Act.On P Q (feWord o f s) := by
  unfold feWord
  repeat' (first | with_reducible exact hm | with_reducible apply hq | with_reducible apply Act.On_bind | with_reducible apply Act.On_pure | with_reducible apply need_on | with_reducible apply check_mem | with_reducible apply header_mem | with_reducible apply needKind_mem | (intro _))
theorem feRequest_wf (o : Op) (f : Fields) (s : State) (hm : Canonical s.mem) : (feRequest o f s).On Canonical := by
  unfold feRequest
  repeat' (first | with_reducible apply Act.On_run | with_reducible apply Act.On_bind | with_reducible apply Act.On_pure | with_reducible apply needOr_on | with_reducible apply Res.On_ok | with_reducible apply Res.On_park | with_reducible apply releasedAt_wf | with_reducible apply releasedHome_wf | with_reducible apply feWord_mem | with_reducible apply State.fillWord_wf | split | (intro _) | simp only [State.emptyWord_mem, State.fixAt_mem, State.deferX_mem, *])
theorem State.retryWord_wf (w : Nat) (a2 : Nat) : ∀ (s : State) (hm : Canonical s.mem), Canonical (State.retryWord s w a2).mem := by
  induction a2 with
  | zero => intro s hm; exact hm
  | succ n ih =>
    intro s hm
    unfold State.retryWord
    split
    · exact hm
    · exact ih _ (State.reissue_wf _ _ _ _ (fun f t ht => feRequest_wf _ f t ht) hm)
theorem feBody_wf (o : Op) (f : Fields) (s : State) (hm : Canonical s.mem) : (feBody o f s).On Canonical := by
  unfold feBody
  have hr := feRequest_wf o f s hm
  revert hr
  generalize feRequest o f s = r
  intro hr
  split
  · unfold Res.On at hr
    exact Res.On_ok (State.retryWord_wf _ _ _ hr)
  · exact hr
theorem State.pushAt_mem (s : State) (c : CoreId) (r : Record) {out : State} (he : (State.pushAt s c r) = some out) : out.mem = s.mem := by
  unfold State.pushAt at he
  repeat' (first | contradiction | (injection he with he; subst he) | split at he | simp only [State.push_mem] | refine (State.pushCluster_mem (he := by assumption) ..).trans ?_)
theorem State.forkPut_mem (s : State) (c : CoreId) (target : Nat) (r : Record) {out : State} (he : (State.forkPut s c target r) = some out) : out.mem = s.mem := by
  unfold State.forkPut at he
  repeat' (first | rfl | contradiction | split at he | refine (State.pushCluster_mem (he := by assumption) ..).trans ?_ | refine (State.pushAt_mem (he := by assumption) ..).trans ?_)
@[simp] theorem State.forkTarget_mem (s : State) (f : Fields) (r : Record) : (State.forkTarget s f r).2.mem = s.mem := by
  unfold State.forkTarget
  repeat' (first | split | simp only [State.setCore_mem])
@[simp] theorem State.forkPlaced_mem (s : State) (k : TaskKey) : (State.forkPlaced s k).mem = s.mem := by
  unfold State.forkPlaced
  repeat' (first | split | simp only [State.wake_mem, State.complete_mem, State.forkTarget_mem] | refine (State.forkPut_mem (he := by assumption) ..).trans ?_)
@[simp] theorem State.stepDone_mem (s : State) (r : BootResult) (alternate : Bool) : (State.stepDone s r alternate).mem = s.mem := by
  unfold State.stepDone
  repeat' (first | rfl | split)
theorem needHandle_mem {P : Memory → Prop} {Q : Unit → Prop} (c : Bool) (s : State) (v : Word64) (hm : P s.mem) (hq : ∀ b, Q b) : Act.On P Q (needHandle c s v) := by
  unfold needHandle
  repeat' (first | with_reducible exact hm | with_reducible apply hq | with_reducible apply need_on)
theorem handleEntry_mem {P : Memory → Prop} {Q : Nat × Nat × Word64 → Prop} (s : State) (v : Word64) (hm : P s.mem) (hq : ∀ b, Q b) : Act.On P Q (handleEntry s v) := by
  unfold handleEntry
  repeat' (first | with_reducible exact hm | with_reducible apply hq | with_reducible apply Act.On_bind | with_reducible apply Act.On_pure | with_reducible apply needHandle_mem | with_reducible apply loadAct_mem | with_reducible apply header_mem | (intro _))
theorem hnewBody_wf (f : Fields) (s : State) (hm : Canonical s.mem) : (hnewBody f s).On Canonical := by
  unfold hnewBody
  repeat' (first | with_reducible apply Act.On_run | with_reducible apply Act.On_bind | with_reducible apply Act.On_pure | with_reducible apply need_on | with_reducible apply Res.On_ok | with_reducible apply header_mem | with_reducible apply releasedAt_wf | with_reducible apply handleEntry_mem | with_reducible apply pokeWord_canon | (intro _) | simp only [State.deferX_mem, *])
@[simp] theorem State.bindNode_mem (s : State) (a1 : Option (Nat × Nat)) : (State.bindNode s a1).mem = s.mem := by
  unfold State.bindNode
  repeat' (first | rfl | split)
theorem State.setStaged_wf (s : State) (a : Nat) (st : Nat) (hm : Canonical s.mem) : Canonical (State.setStaged s a st).mem := by
  unfold State.setStaged
  repeat' (first | dsimp only | with_reducible exact hm | with_reducible apply pokeWord_canon | split)
theorem State.kick_wf (s : State) (k : ClusterId) (j : CopyJob) (hm : Canonical s.mem) : Canonical (State.kick s k j).mem := by
  unfold State.kick
  repeat' (first | with_reducible apply State.setStaged_wf | split | simp only [State.setCluster_mem, *])
theorem State.acceptCopy_wf (s : State) (f : Fields) (j : CopyJob) (hm : Canonical s.mem) : Canonical (State.acceptCopy s f j).mem := by
  unfold State.acceptCopy
  repeat' (first | with_reducible apply State.kick_wf | simp only [State.deferX_mem, State.bindNode_mem, *])
theorem State.copyOrWait_wf (s : State) (o : Op) (f : Fields) (j : CopyJob) (hm : Canonical s.mem) : (State.copyOrWait s o f j).On Canonical := by
  unfold State.copyOrWait
  repeat' (first | with_reducible exact hm | with_reducible apply Res.On_ok | with_reducible apply Res.On_park | with_reducible apply State.acceptCopy_wf | split)
@[simp] theorem State.almanacAdd_mem (s : State) (e : Almanac) : (State.almanacAdd s e).mem = s.mem := by unfold State.almanacAdd; rfl
@[simp] theorem State.almanacNote_mem (s : State) (step : Nat) (unit : Nat) (outcome : Nat) (alternate : Bool) (temp : Int) : (State.almanacNote s step unit outcome alternate temp).mem = s.mem := rfl
@[simp] theorem State.bootStep_mem (s : State) (r : BootResult) : (State.bootStep s r).mem = s.mem := by
  unfold State.bootStep
  repeat' (first | split | simp only [State.almanacEnd_mem, State.almanacNote_mem, State.stepDone_mem])
@[simp] theorem State.warmingBegins_mem (s : State) : (State.warmingBegins s).mem = s.mem := by
  unfold State.warmingBegins
  repeat' (first | rfl | split)
@[simp] theorem State.bootSteps_mem (rs : List BootResult) : ∀ s : State, (s.bootSteps rs).mem = s.mem := by
  induction rs with
  | nil => intro s; rfl
  | cons r rs ih =>
    intro s
    have hb : (if 3 < r.step then s.warmingBegins else s).mem = s.mem := ite_mem (State.warmingBegins_mem ..) rfl
    unfold State.bootSteps
    dsimp only
    generalize (if 3 < r.step then s.warmingBegins else s) = t at hb ⊢
    have h := (State.bootStep_mem t r).trans hb
    exact ite_mem hb (ite_mem h (ite_mem h ((ih _).trans h)))

@[simp] theorem State.bootRun_mem (s : State) (rs : List BootResult) : (State.bootRun s rs).mem = s.mem := by
  unfold State.bootRun
  repeat' (first | split | simp only [State.bootSteps_mem, State.bootBegins_mem])
theorem State.refreshBlocks_wf (e : Copy) (a : Nat) (bs : List Nat) : ∀ s : State, Canonical s.mem → Canonical (s.refreshBlocks e a bs).1.mem := by
  induction bs with
  | nil => intro s hm; exact hm
  | cons b bs ih =>
    intro s hm
    unfold State.refreshBlocks
    dsimp only
    split
    · exact hm
    · exact ih _ (poke_canon hm ..)
@[simp] theorem State.deferAtomic_mem (s : State) (a : Nat) (d : Dest) (v : BitVec 128) (ptr : Word64) (off : Word64) : (State.deferAtomic s a d v ptr off).mem = s.mem := rfl
@[simp] theorem State.noteAtomic_mem (s : State) (a : Nat) (l : AtomicLog) : (State.noteAtomic s a l).mem = s.mem := rfl
theorem atomicChecks_mem {P : Memory → Prop} {Q : Nat → Prop} (f : Fields) (s : State) (hostOp : Bool) (hm : P s.mem) (hq : ∀ b, Q b) : Act.On P Q (atomicChecks f s hostOp) := by
  unfold atomicChecks
  repeat' (first | with_reducible exact hm | with_reducible apply hq | with_reducible apply Act.On_bind | with_reducible apply Act.On_pure | with_reducible apply need_on | with_reducible apply check_mem | with_reducible apply needOpen_mem | with_reducible apply loadAct_mem | with_reducible apply needKind_mem | with_reducible apply needAtomicOps_mem | with_reducible apply header_mem | (intro _))
theorem atomicRelease_wf {Q : State → Prop} (s : State) (f : Fields) (home : Nat) (hm : Canonical s.mem) (hq : ∀ t, Canonical t.mem → Q t) : Act.On Canonical Q (atomicRelease s f home) := by
  unfold atomicRelease
  repeat' (first | with_reducible assumption | with_reducible apply Act.On_bind | with_reducible apply Act.On_pure | with_reducible apply releasedHome_wf | with_reducible apply releasedAt_wf | split | (intro _))
theorem amoBody_wf (f : Fields) (s : State) (hm : Canonical s.mem) : (amoBody f s).On Canonical := by
  unfold amoBody
  repeat' (first | with_reducible apply Act.On_run | with_reducible apply Act.On_bind | with_reducible apply Act.On_pure | with_reducible apply Res.On_ok | with_reducible apply atomicChecks_mem | with_reducible apply atomicRelease_wf | with_reducible apply poke_canon | (intro _) | simp only [State.deferAtomic_mem, State.noteAtomic_mem, State.requestTo_mem, *])
@[simp] theorem State.answer_mem (s : State) (n : Nat) (v : Nat) : (State.answer s n v).mem = s.mem := rfl
@[simp] theorem State.enterInbox_mem (s : State) (m : Message) : (State.enterInbox s m).mem = s.mem := rfl
@[simp] theorem State.messageArrives_mem (s : State) (i : Nat) : (State.messageArrives s i).mem = s.mem := by
  unfold State.messageArrives
  repeat' (first | split | simp only [State.arrive_mem, State.answer_mem, State.enterInbox_mem])
@[simp] theorem State.finishNode_mem (s : State) (n : Word32) : (State.finishNode s n).mem = s.mem := rfl
@[simp] theorem State.leaveMailboxes_mem (s : State) (c : CoreId) (tid : Word32) : (State.leaveMailboxes s c tid).mem = s.mem := by
  unfold State.leaveMailboxes
  refine foldl_mem (fun s x => ?_)
  dsimp only
  split
  · split
    · exact State.releaseMailbox_mem ..
    · exact State.setMailbox_mem ..
  · rfl
@[simp] theorem State.releaseNodes_mem (s : State) (tid : Word32) : (State.releaseNodes s tid).mem = s.mem := rfl
@[simp] theorem State.unpin_mem (s : State) (k : TaskKey) : (State.unpin s k).mem = s.mem := rfl
@[simp] theorem State.endTask_mem (s : State) (k : TaskKey) : (State.endTask s k).mem = s.mem := by
  unfold State.endTask
  dsimp only
  rw [State.setTask_mem, State.unpin_mem, State.leaveMailboxes_mem, State.releaseNodes_mem]
  split
  · exact State.finishNode_mem ..
  · rfl
theorem State.joinAdd_wf (s : State) (a : Nat) (n : Word64) (hm : Canonical s.mem) : Canonical (State.joinAdd s a n).mem := by
  unfold State.joinAdd
  repeat' (first | with_reducible exact hm | with_reducible apply pokeWord_canon)
theorem joinPlace_wf {Q : State × Nat → Prop} (s : State) (ptr : Word64) (hm : Canonical s.mem) (hq : ∀ t b1, Canonical t.mem → Q (t, b1)) : Act.On Canonical Q (joinPlace s ptr) := by
  unfold joinPlace
  repeat' (first | with_reducible assumption | with_reducible apply Act.On_bind | with_reducible apply Act.On_pure | with_reducible apply need_on | with_reducible apply releasedHome_wf | with_reducible apply access_mem | with_reducible apply hq | (intro _))
theorem haltBody_wf (s : State) (hm : Canonical s.mem) : (haltBody s).On Canonical := by
  unfold haltBody
  repeat' (first | dsimp only | with_reducible apply Act.On_run | with_reducible apply Act.On_bind | with_reducible apply Act.On_pure | with_reducible apply Res.On_gone | with_reducible apply landed_mem | with_reducible apply joinPlace_wf | with_reducible apply released_wf | with_reducible apply State.joinAdd_wf | split | (intro _) | simp only [State.endTask_mem, *])
theorem vscaccBody_mem {P : Memory → Prop} (f : Fields) (s : State) (hm : P s.mem) : (vscaccBody f s).On P := by
  unfold vscaccBody
  repeat' (first | with_reducible apply Res.On_ok | simp only [putLanes_mem, *])
@[simp] theorem State.deviceControl_mem (s : State) (fn : Nat) (enable : Bool) : (State.deviceControl s fn enable).mem = s.mem := rfl
theorem okindBody_mem {P : Memory → Prop} (f : Fields) (s : State) (hm : P s.mem) : (okindBody f s).On P := by
  unfold okindBody
  repeat' (first | with_reducible apply Act.On_run | with_reducible apply Act.On_bind | with_reducible apply Act.On_pure | with_reducible apply Res.On_ok | with_reducible apply checkPtr_mem | with_reducible apply header_mem | (intro _) | simp only [State.fixAt_mem, State.defer_mem, State.requestTo_mem, *])
@[simp] theorem State.collectFinish_mem (s : State) (u : PadUnit) (colour : Nat) : (State.collectFinish s u colour).mem = s.mem := by
  unfold State.collectFinish
  repeat' (first | split | simp only [State.close_mem])
theorem odropBody_mem {P : Memory → Prop} (f : Fields) (s : State) (hm : P s.mem) : (odropBody f s).On P := by
  unfold odropBody
  repeat' (first | with_reducible apply Res.On_ok | split | simp only [State.untouch_mem, State.dropCopy_mem, *])
@[simp] theorem State.unitFault_mem (s : State) (a : Agent) (p : Nat) (f : Flt) (id : Word32) (pos : Word32) : (State.unitFault s a p f id pos).mem = s.mem := by
  unfold State.unitFault
  repeat' (first | rfl | split)
@[simp] theorem State.badRecord_mem (s : State) (c : CoreId) : (State.badRecord s c).mem = s.mem := by
  unfold State.badRecord
  repeat' (first | split | simp only [State.unitFault_mem])
@[simp] theorem State.stealBy_mem (s : State) (c : CoreId) : (State.stealBy s c).mem = s.mem := by
  unfold State.stealBy
  repeat' (first | split | simp only [State.setCore_mem, State.badRecord_mem, State.startRecord_mem])
theorem mkcntBody_mem {P : Memory → Prop} (f : Fields) (s : State) (hm : P s.mem) : (mkcntBody f s).On P := by
  unfold mkcntBody
  repeat' (first | with_reducible apply Res.On_ok | split | simp only [State.deferX_mem, State.setCore_mem, *])
theorem State.carryCopy_wf {Q : State → Prop} (s : State) (k : TaskKey) (c : CoreId) (e : Copy) (off : Nat) (hm : Canonical s.mem) (hq : ∀ t, Canonical t.mem → Q t) : Moving.Keeps Q (s.carryCopy k c e off) := by
  unfold State.carryCopy
  dsimp only
  split
  · exact Moving.keeps_error hm
  · exact Moving.keeps_ok (hq _ (State.copyIn_wf s c (.core c) (s.task k).ctx off e.size e.canon (s.mem.readN e.copy.toNat e.size) false hm))
@[simp] theorem State.untouchTask_mem (s : State) (k : TaskKey) (canon : Word64) : (State.untouchTask s k canon).mem = s.mem := rfl
theorem State.leaveCopy_wf {Q : State → Prop} (s : State) (k : TaskKey) (canon : Word64) (hm : Canonical s.mem) (hq : ∀ t, Canonical t.mem → Q t) : Moving.Keeps Q (s.leaveCopy k canon) := by
  unfold State.leaveCopy
  split
  · exact Moving.keeps_ok (hq _ hm)
  · split
    · exact Moving.keeps_error hm
    · split
      · rename_i h; exact Moving.keeps_error (State.writeBack_wf (he := h) (hm := hm) ..)
      · rename_i h
        have := State.writeBack_wf (he := h) (hm := hm) ..
        exact Moving.keeps_ok (hq _ (ite_canon (of_mem (State.untouchTask_mem ..) this) (of_mem ((State.dropCopy_mem ..).trans (State.untouchTask_mem ..)) this)))
theorem State.moveEntry_wf {Q : State × Bool → Prop} (s : State) (p colour : Nat) (c : CoreId) (hm : Canonical s.mem) (hq : ∀ t b, Canonical t.mem → Q (t, b)) : Moving.Keeps Q (s.moveEntry p colour c) := by
  unfold State.moveEntry
  split
  · exact Moving.keeps_ok (hq _ _ hm)
  · split
    · rename_i h; exact Moving.keeps_error (State.emptyMap_wf (he := h) (hm := hm) ..)
    · rename_i h; exact Moving.keeps_ok (hq _ _ (State.emptyMap_wf (he := h) (hm := hm) ..))
theorem State.moveRoom_wf {Q : State × Option Nat → Prop} (s : State) (p colour : Nat) (c : CoreId) (size : Nat) (hm : Canonical s.mem) (hq : ∀ t b, Canonical t.mem → Q (t, b)) : Moving.Keeps Q (s.moveRoom p colour c size) := by
  unfold State.moveRoom
  split
  · exact Moving.keeps_ok (hq _ _ hm)
  · split
    · rename_i h; exact Moving.keeps_error (State.collectNow_wf (he := h) (hm := hm) ..)
    · rename_i h; exact Moving.keeps_ok (hq _ _ (State.collectNow_wf (he := h) (hm := hm) ..))
@[simp] theorem State.reassignCopy_mem (s : State) (k : TaskKey) (c : CoreId) (e : Copy) : (State.reassignCopy s k c e).mem = s.mem := by
  unfold State.reassignCopy
  repeat' (first | rfl | split | refine (foldl_mem (fun _ _ => ?_)).trans ?_)
theorem State.moveCopy_wf {Q : State → Prop} (k : TaskKey) (c : CoreId) (s : State) (n : BitVec 6) (hm : Canonical s.mem) (hq : ∀ t, Canonical t.mem → Q t) : Moving.Keeps Q (State.moveCopy k c s n) := by
  unfold State.moveCopy
  dsimp only
  split
  · exact Moving.keeps_ok (hq _ hm)
  · split
    · exact State.leaveCopy_wf _ _ _ hm hq
    · refine Moving.keeps_bind (State.moveEntry_wf _ _ _ _ hm fun t entry ht => ?_)
      have rest : ∀ (b : Bool) (u : State) (room : Option Nat), Canonical u.mem → Moving.Keeps Q (match u.copyOf (coreOf k) (oCanon ((u.task k).getO n)), room with
          | none, _ => (pure u : Moving State)
          | some e, some off => u.carryCopy k c e off
          | some e, none => if b then return u.reassignCopy k c e else u.leaveCopy k (oCanon ((u.task k).getO n))) := by
        intro b u room hu
        split
        · exact Moving.keeps_ok (hq _ hu)
        · exact State.carryCopy_wf _ _ _ _ _ hu hq
        · split
          · exact Moving.keeps_ok (hq _ (of_mem (State.reassignCopy_mem ..) hu))
          · exact State.leaveCopy_wf _ _ _ hu hq
      dsimp only
      split
      · exact Moving.keeps_bind (State.moveRoom_wf _ _ _ _ _ ht fun u room hu => rest _ _ _ hu)
      · exact Moving.keeps_bind (Moving.keeps_ok (rest _ _ _ ht))
theorem State.moveCopies_wf {Q : State → Prop} (k : TaskKey) (c : CoreId) (ns : List Nat) (hq : ∀ t, Canonical t.mem → Q t) : ∀ s : State, Canonical s.mem → Moving.Keeps Q (State.moveCopies k c s ns) := by
  induction ns with
  | nil => intro s hm; exact Moving.keeps_ok (hq _ hm)
  | cons n ns ih =>
    intro s hm
    unfold State.moveCopies
    exact Moving.keeps_bind (State.moveCopy_wf _ _ _ _ hm fun t ht => ih _ ht)
@[simp] theorem State.raise_mem (s : State) (k : TaskKey) (f : Flt) : (State.raise s k f).mem = s.mem := by
  unfold State.raise
  repeat' simp only [State.raiseAt_mem]
@[simp] theorem State.passPins_mem (s : State) (k : TaskKey) (d : TaskKey) : (State.passPins s k d).mem = s.mem := rfl
theorem State.transfer_wf (s : State) (k : TaskKey) (d : TaskKey) (e : Nat) (hm : Canonical s.mem) : Canonical (State.transfer s k d e).mem := by
  unfold State.transfer
  simp only [State.setCore_mem, State.passPins_mem, State.setTask_mem, State.arrive_mem]
  refine foldl_wf hm fun s m h => ?_
  rw [State.releaseMailbox_mem, State.setMailbox_mem]
  exact pokeWord_canon h _ _
theorem State.moveTask_wf (s : State) (k : TaskKey) (d : TaskKey) (e : Nat) (hm : Canonical s.mem) : Canonical (State.moveTask s k d e).mem := by
  unfold State.moveTask
  dsimp only
  have h0 := State.drainAll_wf ((s.meet (.core (coreOf k)) (s.task k).ctx).meet (.core (coreOf d)) (s.task k).ctx) k
    (of_mem ((State.meet_mem ..).trans (State.meet_mem ..)) hm)
  refine ite_canon h0 ?_
  have hc := State.moveCopies_wf (Q := fun t => Canonical t.mem) k (coreOf d) (List.range 32) (fun _ h => h) _ h0
  unfold Moving.Keeps at hc
  split
  · rename_i h; rw [h] at hc; exact of_mem (State.raise_mem ..) hc
  · rename_i h; rw [h] at hc; exact hc
  · rename_i h; rw [h] at hc; exact ite_canon hc (ite_canon (of_mem (State.raise_mem ..) hc) (State.transfer_wf _ _ _ _ hc))
theorem State.migrate_wf (s : State) (k : TaskKey) (hm : Canonical s.mem) : Canonical (State.migrate s k).mem := by
  unfold State.migrate
  repeat' (first | with_reducible apply State.moveTask_wf | split | simp only [State.setTask_mem, *])
@[simp] theorem State.askLeave_mem (s : State) (w : LeaveFor) (c : CoreId) : (State.askLeave s w c).mem = s.mem := rfl
@[simp] theorem State.askPass_mem (s : State) (k : ClusterId) : (State.askPass s k).mem = s.mem := rfl
@[simp] theorem State.arrived_mem (s : State) (c : CoreId) : (State.arrived s c).mem = s.mem := by
  unfold State.arrived
  repeat' (first | split | simp only [State.askPass_mem, State.setCluster_mem])
@[simp] theorem State.accept_mem (s : State) (m : MCmd) : (State.accept s m).mem = s.mem := by
  unfold State.accept
  repeat' simp only [State.arrived_mem, State.setCore_mem]
theorem needRecord_mem {P : Memory → Prop} {Q : Unit → Prop} (s : State) (b : Option Binding) (n : Nat) (hm : P s.mem) (hq : ∀ b, Q b) : Act.On P Q (needRecord s b n) := by
  unfold needRecord
  repeat' (first | with_reducible exact hm | with_reducible apply hq | with_reducible apply Act.On_ok | with_reducible apply check_mem | split)
theorem needBound_mem {P : Memory → Prop} {Q : Unit → Prop} (s : State) (m : MCmd) (sorted : Bool) (hm : P s.mem) (hq : ∀ b, Q b) : Act.On P Q (needBound s m sorted) := by
  unfold needBound
  repeat' (first | with_reducible assumption | with_reducible apply Act.On_bind | with_reducible apply need_on | with_reducible apply needRecord_mem | split | (intro _))
theorem needEntry_mem {P : Memory → Prop} {Q : Unit → Prop} (s : State) (o : Op) (f : Fields) (hm : P s.mem) (hq : ∀ b, Q b) : Act.On P Q (needEntry s o f) := by
  unfold needEntry
  repeat' (first | with_reducible exact hm | with_reducible apply hq | with_reducible apply needOr_on | with_reducible apply Res.On_park)
theorem needOperand_mem {P : Memory → Prop} {Q : Nat → Prop} (s : State) (r : BitVec 128) (n : Nat) (hm : P s.mem) (hq : ∀ b, Q b) : Act.On P Q (needOperand s r n) := by
  unfold needOperand
  repeat' (first | with_reducible exact hm | with_reducible apply hq | with_reducible apply Act.On_bind | with_reducible apply Act.On_pure | with_reducible apply check_mem | with_reducible apply header_mem | with_reducible apply needKind_mem | (intro _))
theorem productBody_wf (kind : MKind) (o : Op) (f : Fields) (s : State) (hm : Canonical s.mem) : (productBody kind o f s).On Canonical := by
  unfold productBody
  exact Act.On_run (Act.On_bind (needEntry_mem _ _ _ hm fun _ => Act.On_bind (need_on hm (
    Act.On_bind (needOperand_mem _ _ _ hm fun _ => Act.On_bind (needOperand_mem _ _ _ hm fun _ =>
      Act.On_bind (needBound_mem _ _ _ hm fun _ => Act.On_bind (releasedFor_wf _ _ hm fun t ht =>
        Act.On_pure (Res.On_ok (ite_canon ht (of_mem (State.accept_mem ..) ht)))))))))))
@[simp] theorem deferPairs_mem (s : State) (f : Fields) (e : Nat) (ps : List (Nat × Nat)) : (deferPairs s f e ps).mem = s.mem := rfl
theorem vcompBody_mem {P : Memory → Prop} (expand : Bool) (f : Fields) (s : State) (hm : P s.mem) : (vcompBody expand f s).On P := by
  unfold vcompBody
  repeat' (first | with_reducible apply Res.On_ok | simp only [deferPairs_mem, *])
@[simp] theorem State.passOver_mem (s : State) (c : Nat) (n : Nat) : (State.passOver s c n).mem = s.mem := rfl
@[simp] theorem State.startIssue_mem (s : State) (c : CoreId) : (State.startIssue s c).1.mem = s.mem := by
  unfold State.startIssue
  repeat' (first | split | simp only [State.passOver_mem, State.setCore_mem])
@[simp] theorem State.start_mem (s : State) (a1 : Choice) : (State.start s a1).1.mem = s.mem := by
  unfold State.start
  repeat' (first | split | simp only [State.startIssue_mem])
@[simp] theorem State.nextPass_mem (s : State) (k : ClusterId) : (State.nextPass s k).mem = s.mem := by
  unfold State.nextPass
  repeat' (first | split | simp only [State.askPass_mem, State.setCluster_mem])
theorem sigdeclBody_wf (f : Fields) (s : State) (hm : Canonical s.mem) : (sigdeclBody f s).On Canonical := by
  unfold sigdeclBody
  repeat' (first | with_reducible assumption | with_reducible apply Act.On_run | with_reducible apply Act.On_bind | with_reducible apply Act.On_pure | with_reducible apply need_on | with_reducible apply Res.On_ok | with_reducible apply needKind_mem | with_reducible apply header_mem | with_reducible apply checkPtr_mem | with_reducible apply releasedHome_wf | with_reducible apply pokeWord_canon | (intro _))
theorem floatOp_mem {P : Memory → Prop} (op : Fmt → Nat → Nat → Nat × BitVec 6) (f : Fields) (s : State) (hm : P s.mem) : (floatOp op f s).On P := by
  unfold floatOp
  repeat' (first | with_reducible apply Res.On_ok | simp only [putLanes_mem, *])
theorem State.drainOne_wf (s : State) (k : TaskKey) (n : Nat) (hm : Canonical s.mem) : Canonical (State.drainOne s k n).mem := by
  unfold State.drainOne
  repeat' (first | with_reducible apply State.performStore_wf | split | simp only [State.setTask_mem, *])
theorem State.refuseOldest_wf (s : State) (k : TaskKey) (hm : Canonical s.mem) : Canonical (State.refuseOldest s k).mem := by
  unfold State.refuseOldest
  repeat' (first | with_reducible exact hm | with_reducible apply State.drainOne_wf | split)
theorem takeMailbox_mem {P : Memory → Prop} {Q : State × Word32 → Prop} (s : State) (o : Op) (f : Fields) (kind : Nat) (hm : P s.mem) (hq : ∀ t b1, t.mem = s.mem → Q (t, b1)) : Act.On P Q (takeMailbox s o f kind) := by
  unfold takeMailbox
  repeat' (first | with_reducible apply Act.On_ok | with_reducible apply Act.On_error | with_reducible apply Res.On_park | with_reducible apply hq | split | simp only [State.setMailbox_mem, State.setCore_mem, *])
theorem mdrainBody_wf (f : Fields) (s : State) (hm : Canonical s.mem) : (mdrainBody f s).On Canonical := by
  unfold mdrainBody
  repeat' (first | with_reducible apply Act.On_run | with_reducible apply Act.On_bind | with_reducible apply Act.On_pure | with_reducible apply Res.On_ok | with_reducible apply releasedFor_wf | with_reducible apply needOpen_mem | with_reducible apply needOperand_mem | with_reducible apply needEntry_mem | with_reducible apply takeMailbox_mem | with_reducible apply State.setStaged_wf | (intro _) | simp only [State.deferX_mem, State.accept_mem, *])
@[simp] theorem State.retrainDone_mem (s : State) (ch : Nat) : (State.retrainDone s ch).mem = s.mem := by
  unfold State.retrainDone
  repeat' (first | split | simp only [State.setChannel_mem])
@[simp] theorem State.stretchRead_mem (s : State) (k : ClusterId) (steps : Bool) : (State.stretchRead s k steps).mem = s.mem := rfl
theorem needIndex_mem {P : Memory → Prop} {Q : Unit → Prop} (f : Fields) (s : State) (hm : P s.mem) (hq : ∀ b, Q b) : Act.On P Q (needIndex f s) := by
  unfold needIndex
  repeat' (first | with_reducible exact hm | with_reducible apply hq | with_reducible apply need_on)
theorem vgetBody_mem {P : Memory → Prop} (f : Fields) (s : State) (hm : P s.mem) : (vgetBody f s).On P := by
  unfold vgetBody
  repeat' (first | with_reducible apply Act.On_run | with_reducible apply Act.On_bind | with_reducible apply Act.On_pure | with_reducible apply Res.On_ok | with_reducible apply needIndex_mem | (intro _) | simp only [State.deferX_mem, *])
theorem together_on {P : Memory → Prop} {Q : State → Prop} (s : State) (a : Act State) (hm : P s.mem) (ha : Act.On P Q a) : Act.On P Q (together s a) := by
  unfold together
  split
  · exact Act.On_error (Res.On_retry hm)
  · exact ha

theorem vstoreObject_mem {P : Memory → Prop} {Q : Obj → Prop} (s : State) (f : Fields) (lanes : List (Nat × Int)) (hm : P s.mem) (hq : ∀ b, Q b) : Act.On P Q (vstoreObject s f lanes) := by
  unfold vstoreObject
  repeat' (first | with_reducible exact hm | with_reducible apply hq | with_reducible apply Act.On_bind | with_reducible apply Act.On_pure | with_reducible apply storeObj_mem | with_reducible apply needKind_mem | (intro _))
theorem vstoreBody_wf (off : Task → Nat → Int) (f : Fields) (s : State) (hm : Canonical s.mem) : (vstoreBody off f s).On Canonical := by
  unfold vstoreBody
  refine Act.On_run (Act.On_bind (checkLanes_mem _ _ _ _ hm fun _ => Act.On_bind (vstoreObject_mem _ _ _ hm fun ob =>
    Act.On_bind (needKind_mem _ _ _ _ _ hm fun _ => Act.On_bind (needOpen_mem _ _ _ _ hm fun _ => ?_)))))
  split
  · exact Act.On_pure (Res.On_ok hm)
  · refine Act.On_bind (touch_wf _ _ _ hm fun t ht => Act.On_bind (together_on _ _ ht (foldlM_on (fun s l hs Q hq => ?_) _ _
      (of_mem (State.stampSeq_mem _) ht) (fun u hu => Act.On_pure (Res.On_ok hu)))))
    exact putThrough_wf _ _ _ _ _ hs hq
theorem storeBody_wf (canonical : Bool) (f : Fields) (s : State) (hm : Canonical s.mem) : (storeBody canonical f s).On Canonical := by
  unfold storeBody
  repeat' (first | with_reducible assumption | with_reducible apply Act.On_run | with_reducible apply Act.On_bind | with_reducible apply Act.On_pure | with_reducible apply Res.On_ok | with_reducible apply writeCanon_wf | with_reducible apply writeThrough_wf | with_reducible apply check_mem | with_reducible apply needOpen_mem | with_reducible apply touch_wf | with_reducible apply needKind_mem | with_reducible apply storeObj_mem | split | (intro _))
@[simp] theorem State.almanacRead_mem (s : State) (step : Nat) (unit : Nat) (outcome : Nat) : (State.almanacRead s step unit outcome).mem = s.mem := rfl
@[simp] theorem State.lastingFault_mem (s : State) (loc : EccLoc) : (State.lastingFault s loc).mem = s.mem := by
  unfold State.lastingFault
  repeat' (first | split | simp only [State.setPad_mem, State.almanacRead_mem])
theorem alu1_mem {P : Memory → Prop} (op : Nat → Nat → Nat) (f : Fields) (s : State) (hm : P s.mem) : (alu1 op f s).On P := by
  unfold alu1
  repeat' (first | with_reducible apply Res.On_ok | simp only [State.setX_mem, *])
theorem State.acceptNear_wf (s : State) (f : Fields) (st : Nat) (j : NbJob) (hm : Canonical s.mem) : Canonical (State.acceptNear s f st j).mem := by
  unfold State.acceptNear
  repeat' (first | with_reducible apply State.setStaged_wf | split | simp only [State.deferX_mem, State.askLeave_mem, *])
theorem State.serveNear_wf (s : State) (st : Nat) (hm : Canonical s.mem) : Canonical (State.serveNear s st).mem := by
  unfold State.serveNear
  repeat' (first | with_reducible apply State.acceptNear_wf | split | simp only [State.wake_mem, State.complete_mem, *])
theorem sealBody_wf (f : Fields) (s : State) (hm : Canonical s.mem) : (sealBody f s).On Canonical := by
  unfold sealBody
  repeat' (first | with_reducible assumption | with_reducible apply Act.On_run | with_reducible apply Act.On_bind | with_reducible apply Act.On_pure | with_reducible apply Res.On_ok | with_reducible apply flush_wf | with_reducible apply needKind_mem | with_reducible apply header_mem | with_reducible apply checkPtr_mem | with_reducible apply releasedAt_wf | with_reducible apply pokeWord_canon | split | (intro _))
theorem yieldBody_mem {P : Memory → Prop} (s : State) (hm : P s.mem) : (yieldBody s).On P := by
  unfold yieldBody
  repeat' (first | with_reducible apply Act.On_run | with_reducible apply Act.On_bind | with_reducible apply Act.On_pure | with_reducible apply Res.On_ok | with_reducible apply landed_mem | (intro _) | simp only [State.setMe_mem, *])
theorem canonOf_mem {P : Memory → Prop} {Q : Obj → Prop} (s : State) (r : BitVec 128) (hm : P s.mem) (hq : ∀ b, Q b) : Act.On P Q (canonOf s r) := by
  unfold canonOf
  repeat' (first | with_reducible exact hm | with_reducible apply hq | with_reducible apply Act.On_bind | with_reducible apply Act.On_pure | with_reducible apply header_mem | (intro _))
@[simp] theorem State.loadContext_mem (s : State) (p : Nat) (v : Saved) : (State.loadContext s p v).mem = s.mem := by
  unfold State.loadContext
  repeat' (first | split | simp only [State.setTask_mem, State.nextPass_mem, State.setCluster_mem, State.setCore_mem] | refine (foldl_mem (fun _ _ => ?_)).trans ?_)
theorem ctxldBody_mem {P : Memory → Prop} (f : Fields) (s : State) (hm : P s.mem) : (ctxldBody f s).On P := by
  unfold ctxldBody
  repeat' (first | with_reducible apply Act.On_run | with_reducible apply Act.On_bind | with_reducible apply Act.On_pure | with_reducible apply Res.On_ok | with_reducible apply needImage_mem | with_reducible apply access_mem | split | (intro _) | simp only [State.loadContext_mem, State.report_mem, *])
@[simp] theorem State.deferO_mem (s : State) (n : BitVec 6) (v : BitVec 128) : (State.deferO s n v).mem = s.mem := rfl
theorem rgsetBody_mem {P : Memory → Prop} (f : Fields) (s : State) (hm : P s.mem) : (rgsetBody f s).On P := by
  unfold rgsetBody
  repeat' (first | with_reducible exact hm | with_reducible apply Act.On_run | with_reducible apply Act.On_bind | with_reducible apply Act.On_pure | with_reducible apply Res.On_ok | with_reducible apply needOperandOk_mem | (intro _))
@[simp] theorem State.distAsks_mem (s : State) (io : Nat) (p : Nat) (ptr : Word64) (lo : Nat) (n : Nat) : (State.distAsks s io p ptr lo n).mem = s.mem := by
  unfold State.distAsks
  repeat' (first | split | simp only [State.askPage_mem])
@[simp] theorem State.headTroubles_mem (s : State) (io : Nat) : (State.headTroubles s io).mem = s.mem := by
  unfold State.headTroubles
  repeat' (first | split | simp only [State.unitFault_mem, State.distAsks_mem] | refine (foldl_mem (fun _ _ => ?_)).trans ?_)
theorem State.completePacket_wf (s : State) (io : Nat) (p : Nat) (q : Nat) (mailbox : Word64) (count : Word32) (status : Nat) (notify : Bool) (hm : Canonical s.mem) : Canonical (State.completePacket s io p q mailbox count status notify).mem := by
  unfold State.completePacket
  repeat' (first | with_reducible apply pokeWord_canon | split | simp only [State.unitFault_mem, State.setDist_mem, *])
@[simp] theorem State.loadLaunch_mem (s : State) (l : Nat) : (State.loadLaunch s l).mem = s.mem := by
  unfold State.loadLaunch
  repeat' (first | split | simp only [State.setCluster_mem] | refine (foldl_mem (fun _ _ => ?_)).trans ?_)
theorem State.startPacket_wf (s : State) (io : Nat) (p : Nat) (q : Nat) (bs : List Byte) (hm : Canonical s.mem) : Canonical (State.startPacket s io p q bs).mem := by
  unfold State.startPacket
  repeat' (first | with_reducible apply State.completePacket_wf | split | simp only [State.setQueue_mem, State.setDist_mem, State.arrive_mem, State.loadLaunch_mem, *])
theorem State.launchSelect_wf (s : State) (io : Nat) (hm : Canonical s.mem) : Canonical (State.launchSelect s io).mem := by
  unfold State.launchSelect
  repeat' (first | with_reducible apply State.startPacket_wf | split | simp only [State.headTroubles_mem, State.distAsks_mem, State.unitFault_mem, *])
@[simp] theorem State.spawnPushed_mem (s : State) (c : CoreId) : (State.spawnPushed s c).mem = s.mem := by
  unfold State.spawnPushed
  dsimp only
  split
  · rename_i i s' h
    obtain ⟨l1, a, l2, h1, h2, h3⟩ := List.findSome?_eq_some_iff.mp h
    split at h2
    · split at h2
      · obtain ⟨u, hu, hp⟩ := Option.map_eq_some_iff.mp h2
        cases hp
        exact ite_mem (State.badRecord_mem ..) ((State.setCore_mem ..).trans (State.pushAt_mem (he := hu) ..))
      · cases h2
    · cases h2
  · rfl
@[simp] theorem State.setP_mem (s : State) (n : BitVec 6) (v : BitVec 256) : (State.setP s n v).mem = s.mem := rfl
@[simp] theorem State.putP_mem (s : State) (n : BitVec 6) (v : BitVec 256) (m : BitVec 256) : (State.putP s n v m).mem = s.mem := rfl
theorem predOp_mem {P : Memory → Prop} (op : BitVec 256 → BitVec 256 → BitVec 256) (f : Fields) (s : State) (hm : P s.mem) : (predOp op f s).On P := by
  unfold predOp
  repeat' (first | with_reducible apply Res.On_ok | simp only [State.putP_mem, *])
theorem pinBody_wf (on : Bool) (f : Fields) (s : State) (hm : Canonical s.mem) : (pinBody on f s).On Canonical := by
  unfold pinBody
  repeat' (first | with_reducible assumption | with_reducible apply Act.On_run | with_reducible apply Act.On_bind | with_reducible apply Act.On_pure | with_reducible apply Res.On_ok | with_reducible apply needKind_mem | with_reducible apply header_mem | with_reducible apply checkPtr_mem | with_reducible apply releasedHome_wf | with_reducible apply pokeWord_canon | (intro _))
@[simp] theorem putWide_mem (s : State) (n : BitVec 6) (rs : List (Nat × Nat × BitVec 6)) : (putWide s n rs).mem = s.mem := by
  unfold putWide
  repeat' simp only [State.setMe_mem, State.raiseFlags_mem]
theorem osyncBody_wf (f : Fields) (s : State) (hm : Canonical s.mem) : (osyncBody f s).On Canonical := by
  unfold osyncBody
  repeat' (first | with_reducible assumption | with_reducible apply Act.On_run | with_reducible apply Act.On_bind | with_reducible apply Act.On_pure | with_reducible apply Res.On_ok | with_reducible apply flush_wf | with_reducible apply releasedAt_wf | with_reducible apply checkPtr_mem | split | (intro _))
theorem casBody_wf (f : Fields) (s : State) (hm : Canonical s.mem) : (casBody f s).On Canonical := by
  unfold casBody
  repeat' (first | with_reducible apply Act.On_run | with_reducible apply Act.On_bind | with_reducible apply Act.On_pure | with_reducible apply Res.On_ok | with_reducible apply atomicChecks_mem | with_reducible apply atomicRelease_wf | with_reducible apply poke_canon | split | (intro _) | simp only [State.deferAtomic_mem, State.noteAtomic_mem, State.requestTo_mem, *])
theorem hrevBody_wf (f : Fields) (s : State) (hm : Canonical s.mem) : (hrevBody f s).On Canonical := by
  unfold hrevBody
  repeat' (first | with_reducible assumption | with_reducible apply Act.On_run | with_reducible apply Act.On_bind | with_reducible apply Act.On_pure | with_reducible apply Res.On_ok | with_reducible apply releasedAt_wf | with_reducible apply handleEntry_mem | with_reducible apply pokeWord_canon | (intro _))
theorem pointerHead_mem {P : Memory → Prop} {Q : Option (Nat × Nat) → Prop} (s : State) (p : Word64) (hm : P s.mem) (hq : ∀ b, Q b) : Act.On P Q (pointerHead s p) := by
  unfold pointerHead
  repeat' (first | with_reducible exact hm | with_reducible apply hq | with_reducible apply Act.On_bind | with_reducible apply Act.On_pure | with_reducible apply need_on | with_reducible apply access_mem | split | (intro _))
theorem ldoBody_wf (f : Fields) (s : State) (hm : Canonical s.mem) : (ldoBody f s).On Canonical := by
  unfold ldoBody
  repeat' (first | with_reducible apply Act.On_run | with_reducible apply Act.On_bind | with_reducible apply Act.On_pure | with_reducible apply need_on | with_reducible apply Res.On_ok | with_reducible apply pointerHead_mem | with_reducible apply check_mem | with_reducible apply touch_wf | with_reducible apply needKind_mem | with_reducible apply objOf_mem | with_reducible apply readThrough_mem | (intro _) | simp only [State.deferElems_mem, *])
@[simp] theorem State.queueBaseWrite_mem (s : State) (r : Nat) (v : Word32) : (State.queueBaseWrite s r v).mem = s.mem := by
  unfold State.queueBaseWrite
  repeat' (first | rfl | split)
@[simp] theorem State.fixObj_mem (s : State) (ptr : Word64) (lo : Nat) (n : Nat) : (State.fixObj s ptr lo n).mem = s.mem := by
  unfold State.fixObj
  repeat' (first | split | simp only [State.fixAt_mem])
theorem joinBody_mem {P : Memory → Prop} (f : Fields) (s : State) (hm : P s.mem) : (joinBody f s).On P := by
  unfold joinBody
  repeat' (first | with_reducible apply Act.On_run | with_reducible apply Act.On_bind | with_reducible apply Act.On_pure | with_reducible apply needOr_on | with_reducible apply Res.On_ok | with_reducible apply Res.On_park | with_reducible apply check_mem | with_reducible apply readCanon_mem | with_reducible apply needKind_mem | with_reducible apply header_mem | (intro _) | simp only [State.fixObj_mem, *])
theorem idleBody_mem {P : Memory → Prop} (f : Fields) (s : State) (hm : P s.mem) : (idleBody f s).On P := by
  unfold idleBody
  repeat' (first | with_reducible apply Act.On_run | with_reducible apply Act.On_bind | with_reducible apply Act.On_pure | with_reducible apply Res.On_ok | with_reducible apply Res.On_park | with_reducible apply landed_mem | split | (intro _) | simp only [*])
@[simp] theorem State.atomicLost_mem (s : State) (k : TaskKey) (i : Nat) : (State.atomicLost s k i).mem = s.mem := by
  unfold State.atomicLost
  repeat' (first | split | simp only [State.setTask_mem, State.raiseAt_mem, State.setCore_mem])
theorem needNode_mem {P : Memory → Prop} {Q : Nat × Node → Prop} (s : State) (v : Word64) (hm : P s.mem) (hq : ∀ b, Q b) : Act.On P Q (needNode s v) := by
  unfold needNode
  repeat' (first | dsimp only | with_reducible exact hm | with_reducible apply hq | with_reducible apply Act.On_ok | with_reducible apply Act.On_error | with_reducible apply Res.On_fault | split)
theorem tgedgeBody_mem {P : Memory → Prop} (f : Fields) (s : State) (hm : P s.mem) : (tgedgeBody f s).On P := by
  unfold tgedgeBody
  repeat' (first | with_reducible apply Act.On_run | with_reducible apply Act.On_bind | with_reducible apply Act.On_pure | with_reducible apply Act.On_error | with_reducible apply need_on | with_reducible apply Res.On_ok | with_reducible apply Res.On_park | with_reducible apply needNode_mem | split | (intro _) | simp only [State.setDie_mem, *])
@[simp] theorem State.wdlyWrite_mem (s : State) (ch : Nat) (lane : Nat) (v : Word32) : (State.wdlyWrite s ch lane v).mem = s.mem := by
  unfold State.wdlyWrite
  repeat' (first | split | simp only [State.setChannel_mem])
@[simp] theorem State.attest_mem (s : State) (nonce : Word64) : (State.attest s nonce).mem = s.mem := by
  unfold State.attest
  repeat' (first | rfl | split)
@[simp] theorem State.deferV_mem (s : State) (n : BitVec 6) (v : BitVec 2048) (m : BitVec 256) (unit : Nat) (fl : optParam (List (BitVec 6)) []) : (State.deferV s n v m unit fl).mem = s.mem := rfl
@[simp] theorem deferLanes_mem (s : State) (f : Fields) (eb : Nat) (g : Nat → Nat × BitVec 6) : (deferLanes s f eb g).mem = s.mem := rfl
theorem vscanBody_mem {P : Memory → Prop} (f : Fields) (s : State) (hm : P s.mem) : (vscanBody f s).On P := by
  unfold vscanBody
  repeat' (first | with_reducible apply Res.On_ok | simp only [deferLanes_mem, *])
@[simp] theorem State.leaveGiven_mem (s : State) (l : Leave) : (State.leaveGiven s l).mem = s.mem := by
  unfold State.leaveGiven
  repeat' (first | rfl | split)
@[simp] theorem State.grantLeave_mem (s : State) (i : Nat) : (State.grantLeave s i).mem = s.mem := by
  unfold State.grantLeave
  repeat' (first | split | simp only [State.leaveGiven_mem] | refine (State.fresh_eq (he := by assumption) ..).trans ?_)
theorem AgxJob.expand_wf {Q : AgxJob × State → Prop} (g : AgxJob) (s : State) (hm : Canonical s.mem) (hq : ∀ b0 t, Canonical t.mem → Q (b0, t)) : Act.On Canonical Q (AgxJob.expand g s) := by
  unfold AgxJob.expand
  repeat' (first | dsimp only | with_reducible apply Act.On_bind | with_reducible apply Act.On_pure | with_reducible apply joinPlace_wf | with_reducible apply State.joinAdd_wf | with_reducible apply hq | with_reducible apply foldl_wf | split | (intro _) | simp only [State.countTiles_mem, State.addNode_mem, State.setDie_mem, *])
theorem vecOp_mem {P : Memory → Prop} (op : Nat → Nat → Nat → Nat) (f : Fields) (s : State) (hm : P s.mem) : (vecOp op f s).On P := by
  unfold vecOp
  repeat' (first | with_reducible apply Res.On_ok | simp only [putLanes_mem, *])
@[simp] theorem State.budgetWrite_mem (s : State) (d : Nat) (v : Word32) : (State.budgetWrite s d v).mem = s.mem := rfl
theorem prefBody_wf (f : Fields) (s : State) (hm : Canonical s.mem) : (prefBody f s).On Canonical := by
  have hh := header_mem (P := Canonical) (Q := fun _ => True) s (oCanon (s.me.getO f.a)) hm (fun _ => trivial)
  unfold prefBody
  dsimp only
  split
  · exact Res.On_ok hm
  · split
    · rename_i h; rw [h] at hh; unfold Act.On at hh; exact hh
    · exact Res.On_ok hm
    · split
      · exact Res.On_ok hm
      · split
        · exact Res.On_ok hm
        · exact Res.On_ok (State.copyIn_wf (hm := hm) ..)
@[simp] theorem State.divide_mem (s : State) (u : PadUnit) : (State.divide s u).mem = s.mem := rfl
@[simp] theorem State.divideFrom_mem (s : State) (before : State) : (State.divideFrom s before).mem = s.mem := by
  unfold State.divideFrom
  repeat' (first | rfl | refine (foldl_mem (fun _ _ => ?_)).trans ?_)
@[simp] theorem putPred_mem (f : Fields) (e : Nat) (g : Nat → Bool) (s : State) : (putPred f e g s).mem = s.mem := rfl
theorem psetBody_mem {P : Memory → Prop} (f : Fields) (s : State) (hm : P s.mem) : (psetBody f s).On P := by
  unfold psetBody
  repeat' (first | with_reducible apply Res.On_ok | simp only [putPred_mem, *])
theorem loadNow_mem {P : Memory → Prop} {Q : State × List Byte → Prop} (s : State) (ptr : Word64) (lo : Nat) (n : Nat) (hm : P s.mem) (hq : ∀ t b1, t.mem = s.mem → Q (t, b1)) : Act.On P Q (loadNow s ptr lo n) := by
  unfold loadNow
  repeat' (first | with_reducible apply Act.On_bind | with_reducible apply Act.On_pure | with_reducible apply loadAct_mem | (intro _) | simp only [State.fixObj_mem, *])
theorem hdlBody_mem {P : Memory → Prop} (f : Fields) (s : State) (hm : P s.mem) : (hdlBody f s).On P := by
  unfold hdlBody
  repeat' (first | with_reducible apply Act.On_run | with_reducible apply Act.On_bind | with_reducible apply Act.On_pure | with_reducible apply need_on | with_reducible apply Res.On_ok | with_reducible apply needHandle_mem | with_reducible apply loadNow_mem | with_reducible apply header_mem | with_reducible apply access_mem | (intro _) | simp only [State.fixAt_mem, State.deferO_mem, *])
theorem State.hostAccess_wf (s : State) (what : HostOp) (a : Nat) (bs : List Byte) (hm : Canonical s.mem) : Canonical (State.hostAccess s what a bs).mem := by
  unfold State.hostAccess
  repeat' (first | with_reducible exact hm | with_reducible apply poke_canon | split)
@[simp] theorem State.reread_mem (s : State) (k : TaskKey) (i : Nat) : (State.reread s k i).mem = s.mem := by
  unfold State.reread
  repeat' (first | split | simp only [State.setTask_mem] | refine (State.fresh_eq (he := by assumption) ..).trans ?_)
theorem bindingOf_mem {P : Memory → Prop} {Q : Option Binding → Prop} (s : State) (f : Fields) (kind : Nat) (hm : P s.mem) (hq : ∀ b, Q b) : Act.On P Q (bindingOf s f kind) := by
  unfold bindingOf
  repeat' (first | with_reducible exact hm | with_reducible apply hq | with_reducible apply Act.On_bind | with_reducible apply Act.On_pure | with_reducible apply needKind_mem | with_reducible apply header_mem | with_reducible apply checkPtr_mem | split | (intro _))
theorem mtabBody_mem {P : Memory → Prop} (f : Fields) (s : State) (hm : P s.mem) : (mtabBody f s).On P := by
  unfold mtabBody
  repeat' (first | with_reducible apply Act.On_run | with_reducible apply Act.On_bind | with_reducible apply Act.On_pure | with_reducible apply Res.On_ok | with_reducible apply bindingOf_mem | (intro _) | simp only [State.defer_mem, *])
@[simp] theorem State.mailboxMessage_mem (s : State) (m : MailboxMessage) : (State.mailboxMessage s m).mem = s.mem := by
  unfold State.mailboxMessage
  repeat' (first | rfl | split)
theorem needMask_mem {P : Memory → Prop} {Q : MaskProg → Prop} (s : State) (one : Bool) (hm : P s.mem) (hq : ∀ b, Q b) : Act.On P Q (needMask s one) := by
  unfold needMask
  repeat' (first | with_reducible exact hm | with_reducible apply hq | with_reducible apply Act.On_ok | with_reducible apply Act.On_error | with_reducible apply Res.On_fault | split)
theorem mkappChecks_mem {P : Memory → Prop} {Q : MaskProg × Nat × Nat → Prop} (f : Fields) (s : State) (hm : P s.mem) (hq : ∀ b, Q b) : Act.On P Q (mkappChecks f s) := by
  unfold mkappChecks
  repeat' (first | with_reducible exact hm | with_reducible apply hq | with_reducible apply Act.On_bind | with_reducible apply Act.On_pure | with_reducible apply needMask_mem | with_reducible apply needPosition_mem | (intro _))
theorem mkappBiasBody_mem {P : Memory → Prop} (f : Fields) (s : State) (hm : P s.mem) : (mkappBiasBody f s).On P := by
  unfold mkappBiasBody
  repeat' (first | with_reducible apply Act.On_run | with_reducible apply Act.On_bind | with_reducible apply Act.On_pure | with_reducible apply Res.On_ok | with_reducible apply mkappChecks_mem | (intro _) | simp only [deferLanes_mem, *])
theorem needRoomFor_mem {P : Memory → Prop} {Q : Unit → Prop} (s : State) (r : BitVec 128) (n : Nat) (hm : P s.mem) (hq : ∀ b, Q b) : Act.On P Q (needRoomFor s r n) := by
  unfold needRoomFor
  repeat' (first | with_reducible assumption | with_reducible apply Act.On_bind | with_reducible apply needKind_mem | with_reducible apply check_mem | with_reducible apply header_mem | with_reducible apply checkPtr_mem | (intro _))
theorem atlogBody_wf (f : Fields) (s : State) (hm : Canonical s.mem) : (atlogBody f s).On Canonical := by
  unfold atlogBody
  repeat' (first | with_reducible apply Act.On_run | with_reducible apply Act.On_bind | with_reducible apply Act.On_pure | with_reducible apply Res.On_ok | with_reducible apply writeCanon_wf | with_reducible apply needOperandOk_mem | with_reducible apply needRoomFor_mem | (intro _) | simp only [State.deferX_mem, *])
theorem graphChecks_mem {P : Memory → Prop} {Q : Unit → Prop} (g : Graph) (oa ob : Word64 × Word64) (rd : Bool → Except Res Nat) (bad : Word64 × Word64 → Res)
    (hr : ∀ b, Act.On P (fun _ => True) (rd b)) (hb : ∀ o, (bad o).On P) (hq : ∀ b, Q b) : ∀ qs, Act.On P Q (graphChecks g oa ob rd bad qs) := by
  intro qs
  induction qs with
  | nil => exact Act.On_ok (hq _)
  | cons q qs ih =>
    unfold graphChecks
    dsimp only
    split
    · refine Act.On_ite (Act.On_error (hb _)) ?_
      have := hr ((q.1.word 0).testBit 12)
      split
      · rename_i h; rw [h] at this; exact Act.On_error (by unfold Act.On at this; exact this)
      · exact Act.On_ite ih (Act.On_error (hb _))
    · exact Act.On_ite ih (Act.On_error (hb _))
    · exact ih
theorem copyChecks_mem {P : Memory → Prop} {Q : Unit → Prop} (s : State) (ra : BitVec 128) (rb : BitVec 128) (slot : Nat) (node : Bool) (hm : P s.mem) (hq : ∀ b, Q b) : Act.On P Q (copyChecks s ra rb slot node) := by
  have hr : ∀ b : Bool, Act.On P (fun _ => True) ((readCanon s (if b then rb else ra) 0 8).map leNat) := by
    intro b
    have := readCanon_mem (P := P) (Q := fun _ => True) s (if b then rb else ra) 0 8 hm (fun _ => trivial)
    cases h : readCanon s (if b then rb else ra) 0 8 with
    | ok v => exact Act.On_ok trivial
    | error e => rw [h] at this; exact Act.On_error (by unfold Act.On at this; exact this)
  unfold copyChecks
  refine Act.On_bind (checkPtr_mem _ _ hm fun _ => Act.On_bind (header_mem _ _ hm fun _ => Act.On_bind (needKind_mem _ _ _ _ _ hm fun _ =>
    Act.On_bind (checkPtr_mem _ _ hm fun _ => Act.On_bind (header_mem _ _ hm fun _ => Act.On_bind (needKind_mem _ _ _ _ _ hm fun _ =>
    Act.On_bind (needOpen_mem _ _ _ _ hm fun _ => Act.On_bind (need_on hm ?_))))))))
  split
  · exact check_mem _ _ _ _ _ hm hq
  · split
    · exact Act.On_error (Res.On_fault hm)
    · exact graphChecks_mem _ _ _ _ _ hr (fun o => Res.On_fault hm) hq _
theorem cpyBody_wf (bound : Bool) (o : Op) (f : Fields) (s : State) (hm : Canonical s.mem) : (cpyBody bound o f s).On Canonical := by
  have rest : ∀ ra rb, Act.On Canonical (Res.On Canonical) (do
      let s ← releasedFor [oCanon ra, oCanon rb] s
      let e := copyEngine s (oCanon ra) (oCanon rb)
      let (s, job) ← takeMailbox s o f e.2
      return s.copyOrWait o f (s.makeCopy e.1 f bound job)) := fun ra rb =>
    Act.On_bind (releasedFor_wf _ _ hm fun t ht => Act.On_bind (takeMailbox_mem _ _ _ _ ht fun u b hu =>
      Act.On_pure (State.copyOrWait_wf _ _ _ _ (of_mem hu ht))))
  unfold cpyBody
  refine Act.On_run (Act.On_bind (copyChecks_mem _ _ _ _ _ hm fun _ => ?_))
  split
  · exact Act.On_bind (need_on hm (rest _ _))
  · exact rest _ _
theorem recvBody_wf (f : Fields) (s : State) (hm : Canonical s.mem) : (recvBody f s).On Canonical := by
  unfold recvBody
  repeat' (first | with_reducible apply Act.On_run | with_reducible apply Act.On_bind | with_reducible apply Act.On_pure | with_reducible apply need_on | with_reducible apply Res.On_ok | with_reducible apply Res.On_park | with_reducible apply writeThrough_wf | with_reducible apply check_mem | with_reducible apply needOpen_mem | with_reducible apply touch_wf | with_reducible apply needKind_mem | with_reducible apply storeObj_mem | split | (intro _) | simp only [State.setCore_mem, State.deferX_mem, *])
theorem oviewBody_mem {P : Memory → Prop} (f : Fields) (s : State) (hm : P s.mem) : (oviewBody f s).On P := by
  unfold oviewBody
  repeat' (first | with_reducible apply Act.On_run | with_reducible apply Act.On_bind | with_reducible apply Act.On_pure | with_reducible apply need_on | with_reducible apply Res.On_ok | with_reducible apply checkPtr_mem | (intro _) | simp only [State.setO_mem, *])
@[simp] theorem State.glpauseRead_mem (s : State) (d : Nat) (unit : Nat) : (State.glpauseRead s d unit).mem = s.mem := rfl
theorem vsbpBody_mem {P : Memory → Prop} (f : Fields) (s : State) (hm : P s.mem) : (vsbpBody f s).On P := by
  unfold vsbpBody
  repeat' (first | with_reducible apply Act.On_run | with_reducible apply Act.On_bind | with_reducible apply Act.On_pure | with_reducible apply need_on | with_reducible apply Res.On_ok | simp only [State.defer_mem, *])
theorem acquiredCopy_mem {P : Memory → Prop} {Q : Option Copy → Prop} (s : State) (r : BitVec 128) (hm : P s.mem) (hq : ∀ b, Q b) : Act.On P Q (acquiredCopy s r) := by
  unfold acquiredCopy
  repeat' (first | with_reducible exact hm | with_reducible apply hq | with_reducible apply Act.On_bind | with_reducible apply Act.On_pure | with_reducible apply needOr_on | with_reducible apply Res.On_retry | with_reducible apply access_mem | split | (intro _))
@[simp] theorem State.popCmd_mem (s : State) (c : CoreId) : (State.popCmd s c).mem = s.mem := by
  unfold State.popCmd
  repeat' simp only [State.wakeAll_mem, State.setCore_mem]
@[simp] theorem State.goOn_mem (s : State) (k : TaskKey) : (State.goOn s k).mem = s.mem := by
  unfold State.goOn
  repeat' (first | split | simp only [State.setTask_mem])
@[simp] theorem State.nextPrimary_mem (s : State) : (State.nextPrimary s).mem = s.mem := by
  unfold State.nextPrimary
  repeat' (first | split | simp only [State.setHalt_mem])
theorem State.closeJob_wf (s : State) (k : ClusterId) (j : CopyJob) (status : Nat) (hm : Canonical s.mem) : Canonical (State.closeJob s k j status).mem := by
  unfold State.closeJob
  repeat' (first | with_reducible apply State.fillBox_wf | split | simp only [State.finishNode_mem, *])
@[simp] theorem State.dropJob_mem (s : State) (k : ClusterId) (j : CopyJob) : (State.dropJob s k j).mem = s.mem := rfl
theorem State.dropNear_wf (s : State) (st : Nat) (j : NbJob) (hm : Canonical s.mem) : Canonical (State.dropNear s st j).mem := by
  unfold State.dropNear
  repeat' (first | with_reducible exact hm | with_reducible apply State.serveNear_wf)
theorem State.finishTask_wf (s : State) (k : TaskKey) (hm : Canonical s.mem) : Canonical (State.finishTask s k).mem := by
  unfold State.finishTask
  repeat' (first | with_reducible apply State.joinAdd_wf | with_reducible apply State.drainAll_wf | split | simp only [State.endTask_mem, *])
theorem State.endPrimary_wf (s : State) (k : TaskKey) (id : Word32) (hm : Canonical s.mem) : Canonical (State.endPrimary s k id).mem := by
  unfold State.endPrimary
  repeat' (first | with_reducible apply State.finishTask_wf | split | simp only [State.exchange_mem, *])
theorem State.serveQueue_wf (s : State) (k : ClusterId) (hm : Canonical s.mem) : Canonical (State.serveQueue s k).mem := by
  unfold State.serveQueue
  repeat' (first | with_reducible apply State.acceptCopy_wf | split | simp only [State.wake_mem, State.complete_mem, *])
theorem State.cancelPrimary_wf (s : State) (a : Agent) (p : Nat) (id : Word32) (owner : Option CoreId) (hm : Canonical s.mem) : Canonical (State.cancelPrimary s a p id owner).mem := by
  unfold State.cancelPrimary
  repeat' (first | with_reducible apply State.serveQueue_wf | with_reducible apply State.dropNear_wf | with_reducible apply State.endPrimary_wf | with_reducible apply State.closeJob_wf | with_reducible apply State.fillBox_wf | with_reducible apply State.endRound_wf | with_reducible apply State.fillMailbox_wf | split | simp only [State.nextPass_mem, State.popCmd_mem, State.dropJob_mem, State.finishNode_mem, *])
@[simp] theorem State.enterHandler_mem (s : State) (k : TaskKey) (code : FaultCode) (epc : Word32) (eval : Word64) : (State.enterHandler s k code epc eval).mem = s.mem := by
  unfold State.enterHandler
  repeat' simp only [State.landAll_mem, State.setTask_mem]
@[simp] theorem State.handlePrimary_mem (s : State) (p : Nat) (a : Agent) : (State.handlePrimary s p a).mem = s.mem := by
  unfold State.handlePrimary
  repeat' (first | split | simp only [State.enterHandler_mem])
theorem State.resumePrimary_wf (s : State) (p : Nat) (r : Resume) (hm : Canonical s.mem) : Canonical (State.resumePrimary s p r).mem := by
  unfold State.resumePrimary
  repeat' (first | with_reducible apply State.cancelPrimary_wf | split | simp only [State.handlePrimary_mem, *])
theorem State.takeUp_wf (s : State) (hm : Canonical s.mem) : Canonical (State.takeUp s).mem := by
  unfold State.takeUp
  repeat' (first | with_reducible apply State.serveNear_wf | with_reducible apply State.serveQueue_wf | with_reducible apply foldl_wf | split | (intro _) | simp only [State.wake_mem, *])
theorem State.resumeSuper_wf (s : State) (r : Resume) (hm : Canonical s.mem) : Canonical (State.resumeSuper s r).mem := by
  unfold State.resumeSuper
  repeat' (first | with_reducible apply State.takeUp_wf | with_reducible apply State.resumePrimary_wf | split | simp only [State.setHalt_mem, State.nextPrimary_mem, State.goOn_mem, State.restartJob_mem, *])
theorem State.finishMoves_wf (s : State) (p : Nat) (d : Nat) (unit : Nat) (hm : Canonical s.mem) : Canonical (State.finishMoves s p d unit).mem := by
  unfold State.finishMoves
  repeat' (first | with_reducible apply State.patch_wf | with_reducible refine State.collectNow_wf (hm := ?_) (he := rfl) .. | split | simp only [State.setGleaner_mem, *])
theorem State.finishAllMoves_wf (s : State) (p : Nat) (hm : Canonical s.mem) : Canonical (State.finishAllMoves s p).mem := by
  unfold State.finishAllMoves
  repeat' (first | with_reducible assumption | with_reducible apply State.finishMoves_wf | with_reducible apply foldl_wf | split | (intro _))
@[simp] theorem State.passAgain_mem (s : State) (k : ClusterId) : (State.passAgain s k).mem = s.mem := by
  unfold State.passAgain
  repeat' (first | split | simp only [State.askPass_mem])
@[simp] theorem State.restartUnits_mem (s : State) (p : Nat) : (State.restartUnits s p).mem = s.mem := by
  unfold State.restartUnits
  repeat' (first | simp only [State.passAgain_mem] | refine (foldl_mem (fun _ _ => ?_)).trans ?_)
theorem State.resumePart_wf (s : State) (p : Nat) (r : Resume) (hm : Canonical s.mem) : Canonical (State.resumePart s p r).mem := by
  unfold State.resumePart
  repeat' (first | with_reducible apply State.takeUp_wf | with_reducible apply State.resumePrimary_wf | with_reducible apply State.finishAllMoves_wf | with_reducible apply foldl_wf | split | (intro _) | simp only [State.setHalt_mem, State.restartUnits_mem, State.goOn_mem, *])
theorem State.resume_wf (s : State) (p : Nat) (r : Resume) (hm : Canonical s.mem) : Canonical (State.resume s p r).mem := by
  unfold State.resume
  repeat' (first | with_reducible exact hm | with_reducible apply State.resumePart_wf | with_reducible apply State.resumeSuper_wf | split)
@[simp] theorem State.senderEnters_mem (s : State) (c : CoreId) : (State.senderEnters s c).mem = s.mem := by
  unfold State.senderEnters
  repeat' (first | split | simp only [State.wake_mem, State.complete_mem, State.defer_mem])
@[simp] theorem State.qtailWrite_mem (s : State) (p : Nat) (q : Nat) (v : Word32) : (State.qtailWrite s p q v).mem = s.mem := by
  unfold State.qtailWrite
  repeat' (first | rfl | split)
@[simp] theorem State.fenceRel_mem (s : State) (scope : Nat) : (State.fenceRel s scope).mem = s.mem := by
  unfold State.fenceRel
  repeat' (first | rfl | split)
@[simp] theorem State.retryRequest_mem (s : State) (k : TaskKey) (i : Nat) (v : Via) : (State.retryRequest s k i v).mem = s.mem := by
  unfold State.retryRequest
  repeat' (first | split | simp only [State.setTask_mem, State.requestOver_mem])
@[simp] theorem State.portDown_mem (s : State) (n : Nat) : (State.portDown s n).mem = s.mem := by
  unfold State.portDown
  repeat' (first | simp only [State.retryRequest_mem, State.setPort_mem] | refine (foldl_mem (fun _ _ => ?_)).trans ?_)
theorem State.prefBlocks_wf (c : CoreId) (ptr : Word64) (n : Nat) : ∀ s : State, Canonical s.mem → Canonical (State.prefBlocks c ptr n s).mem := by
  induction n with
  | zero => intro s hm; exact hm
  | succ n ih =>
    intro s hm
    unfold State.prefBlocks
    split
    · exact hm
    · split
      · exact ite_canon (of_mem (State.dropCopy_mem ..) hm) (ih _ (State.readBlock_wf (hm := hm) ..))
      · exact of_mem (State.dropCopy_mem ..) hm
      · exact of_mem (State.askPage_mem ..) hm
      · exact hm
@[simp] theorem State.fixArriving_mem (s : State) (k : TaskKey) (i : Nat) (choice : BitVec 256) : (State.fixArriving s k i choice).mem = s.mem := by
  unfold State.fixArriving
  repeat' (first | split | simp only [State.fixLoads_mem])
@[simp] theorem State.stopRec_mem (s : State) (p : Nat) (a : Agent) (i : StopInfo) (id : Word32) (owner : Option CoreId) (primary : Bool) (skid : Word32) : (State.stopRec s p a i id owner primary skid).2.mem = s.mem := by
  unfold State.stopRec
  repeat' (first | rfl | split | refine (State.agentAddr_eq (he := by assumption) ..).trans ?_)
@[simp] theorem State.writeRec_mem (s : State) (p : Nat) (r : StopRec) : (State.writeRec s p r).mem = s.mem := by
  unfold State.writeRec
  repeat' (first | split | simp only [State.setHalt_mem])
@[simp] theorem State.takeReport_mem (s : State) (p : Nat) (i : Nat) : (State.takeReport s p i).mem = s.mem := by
  unfold State.takeReport
  repeat' (first | split | simp only [State.setHalt_mem, State.writeRec_mem, State.stopRec_mem])
@[simp] theorem State.waitAborted_mem (s : State) (p : Nat) : (State.waitAborted s p).mem = s.mem := by
  unfold State.waitAborted
  dsimp only
  split
  · rfl
  · split
    · rfl
    · exact ite_mem rfl ((State.takeReport_mem ..).trans (State.raise_mem ..))
theorem mkldBody_wf (f : Fields) (s : State) (hm : Canonical s.mem) : (mkldBody f s).On Canonical := by
  unfold mkldBody
  repeat' (first | with_reducible apply Act.On_run | with_reducible apply Act.On_bind | with_reducible apply Act.On_pure | with_reducible apply Act.On_error | with_reducible apply Res.On_ok | with_reducible apply Res.On_fault | with_reducible apply check_mem | with_reducible apply readCanon_mem | with_reducible apply needKind_mem | with_reducible apply header_mem | with_reducible apply checkPtr_mem | with_reducible apply releasedHome_wf | split | (intro _) | simp only [State.defer_mem, *])
theorem forkGo_mem {P : Memory → Prop} (f : Fields) (s : State) (hm : P s.mem) : (forkGo f s).On P := by
  unfold forkGo
  dsimp only
  generalize ht : State.forkTarget _ _ _ = out
  have h1 : out.2.mem = s.mem := by
    rw [← ht]; exact (State.forkTarget_mem ..).trans ((State.deferX_mem ..).trans (State.stamp_mem ..))
  split
  · rename_i h; exact Res.On_ok (by rw [State.forkPut_mem (he := h) .., h1]; exact hm)
  · exact Res.On_park (by rw [h1]; exact hm)
theorem needJoin_mem {P : Memory → Prop} {Q : Unit → Prop} (s : State) (r : BitVec 128) (hm : P s.mem) (hq : ∀ b, Q b) : Act.On P Q (needJoin s r) := by
  unfold needJoin
  repeat' (first | with_reducible assumption | with_reducible apply Act.On_bind | with_reducible apply check_mem | with_reducible apply needOpen_mem | with_reducible apply header_mem | with_reducible apply needKind_mem | (intro _))
theorem forkBody_wf (f : Fields) (s : State) (hm : Canonical s.mem) : (forkBody f s).On Canonical := by
  unfold forkBody
  repeat' (first | dsimp only | with_reducible assumption | with_reducible apply Act.On_run | with_reducible apply Act.On_bind | with_reducible apply Act.On_pure | with_reducible apply need_on | with_reducible apply forkGo_mem | with_reducible apply needJoin_mem | with_reducible apply joinPlace_wf | with_reducible apply State.joinAdd_wf | split | (intro _))
@[simp] theorem State.glcmdWrite_mem (s : State) (d : Nat) (unit : Nat) (v : Word32) : (State.glcmdWrite s d unit v).mem = s.mem := by
  unfold State.glcmdWrite
  repeat' (first | split | simp only [State.setGleaner_mem])
theorem loopBody_mem {P : Memory → Prop} (f : Fields) (s : State) (hm : P s.mem) : (loopBody f s).On P := by
  unfold loopBody
  repeat' (first | with_reducible apply Res.On_ok | with_reducible apply Res.On_fault | with_reducible apply transfer_mem | split | simp only [State.setMe_mem, *])
theorem vwaccBody_mem {P : Memory → Prop} (f : Fields) (s : State) (hm : P s.mem) : (vwaccBody f s).On P := by
  unfold vwaccBody
  repeat' (first | with_reducible apply Res.On_ok | simp only [putWide_mem, *])
theorem mkappBody_mem {P : Memory → Prop} (f : Fields) (s : State) (hm : P s.mem) : (mkappBody f s).On P := by
  unfold mkappBody
  repeat' (first | with_reducible apply Act.On_run | with_reducible apply Act.On_bind | with_reducible apply Act.On_pure | with_reducible apply Res.On_ok | with_reducible apply mkappChecks_mem | (intro _) | simp only [State.defer_mem, *])
theorem vredBody_mem {P : Memory → Prop} (f : Fields) (s : State) (hm : P s.mem) : (vredBody f s).On P := by
  unfold vredBody
  repeat' (first | with_reducible apply Res.On_ok | simp only [State.deferX_mem, *])
@[simp] theorem State.kernelStart_mem (s : State) (c : CoreId) (code : Word64) (argument : Word64) (entry : Word32) : (State.kernelStart s c code argument entry).mem = s.mem := by
  unfold State.kernelStart
  repeat' (first | split | simp only [State.setTask_mem])
@[simp] theorem State.setJob_mem (s : State) (k : ClusterId) (old : CopyJob) (new : CopyJob) : (State.setJob s k old new).mem = s.mem := rfl
@[simp] theorem State.ctlWrite_mem (s : State) (ch : Nat) (tid : Word32) (v : Word32) : (State.ctlWrite s ch tid v).mem = s.mem := by
  unfold State.ctlWrite
  repeat' (first | split | simp only [State.setChannel_mem])
theorem pcntBody_mem {P : Memory → Prop} (f : Fields) (s : State) (hm : P s.mem) : (pcntBody f s).On P := by
  unfold pcntBody
  repeat' (first | with_reducible apply Res.On_ok | simp only [State.setX_mem, *])
@[simp] theorem State.jobFault_mem (s : State) (k : ClusterId) (j : CopyJob) (f : Flt) : (State.jobFault s k j f).mem = s.mem := by
  unfold State.jobFault
  repeat' simp only [State.workFault_mem]
@[simp] theorem State.jobFaultAt_mem (s : State) (k : ClusterId) (j : CopyJob) (c : FaultCode) (ptr : Word64) (off : optParam Nat 0) : (State.jobFaultAt s k j c ptr off).mem = s.mem := by
  unfold State.jobFaultAt
  repeat' simp only [State.jobFault_mem]
theorem vputBody_mem {P : Memory → Prop} (f : Fields) (s : State) (hm : P s.mem) : (vputBody f s).On P := by
  unfold vputBody
  repeat' (first | with_reducible apply Act.On_run | with_reducible apply Act.On_bind | with_reducible apply Act.On_pure | with_reducible apply Res.On_ok | with_reducible apply needIndex_mem | (intro _) | simp only [State.putV_mem, *])
@[simp] theorem State.rdlyWrite_mem (s : State) (ch : Nat) (lane : Nat) (v : Word32) : (State.rdlyWrite s ch lane v).mem = s.mem := by
  unfold State.rdlyWrite
  repeat' (first | split | simp only [State.setChannel_mem])
@[simp] theorem State.repairWrite_mem (s : State) (ch : Nat) (v : Word32) : (State.repairWrite s ch v).mem = s.mem := by
  unfold State.repairWrite
  repeat' (first | split | simp only [State.setChannel_mem])
@[simp] theorem State.channelWrite_mem (s : State) (ch : Nat) (off : Nat) (tid : Word32) (v : Word32) : (State.channelWrite s ch off tid v).mem = s.mem := by
  unfold State.channelWrite
  repeat' (first | split | simp only [State.wdlyWrite_mem, State.rdlyWrite_mem, State.ctlWrite_mem, State.repairWrite_mem])
@[simp] theorem State.derrWrite_mem (s : State) (io : Nat) (v : Word32) : (State.derrWrite s io v).mem = s.mem := rfl
theorem State.hresWrite_wf (s : State) (p : Nat) (v : Word32) (hm : Canonical s.mem) : Canonical (State.hresWrite s p v).mem := by
  unfold State.hresWrite
  repeat' (first | with_reducible apply State.resume_wf | split | simp only [State.setHalt_mem, *])
@[simp] theorem State.ignoredWrite_mem (s : State) : (State.ignoredWrite s).mem = s.mem := rfl
@[simp] theorem State.partitionWrite_mem (s : State) (p : Nat) (off : Nat) (v : Word32) : (State.partitionWrite s p off v).mem = s.mem := by
  unfold State.partitionWrite
  refine ite_mem rfl (ite_mem (State.ignoredWrite_mem ..) ?_)
  exact ite_mem (State.ignoredWrite_mem ..) (ite_mem (State.divideFrom_mem ..) rfl)
@[simp] theorem State.abortOperandWrite_mem (s : State) (p : Option Nat) (r : Nat) (v : Word32) : (State.abortOperandWrite s p r v).mem = s.mem := by
  unfold State.abortOperandWrite
  repeat' (first | rfl | split)
@[simp] theorem State.routeWrite_mem (s : State) (r : Nat) (v : Word32) : (State.routeWrite s r v).mem = s.mem := by
  unfold State.routeWrite
  repeat' (first | rfl | split)
@[simp] theorem State.windowWrite_mem (s : State) (r : Nat) (v : Word32) : (State.windowWrite s r v).mem = s.mem := rfl
@[simp] theorem State.plainWrite_mem (s : State) (a : Nat) (v : Word32) : (State.plainWrite s a v).mem = s.mem := by
  unfold State.plainWrite
  exact ite_mem (State.routeWrite_mem ..) (ite_mem (State.queueBaseWrite_mem ..) (ite_mem (State.abortOperandWrite_mem ..) (ite_mem (State.windowWrite_mem ..)
    (ite_mem (ite_mem (State.budgetWrite_mem ..) rfl) rfl))))
theorem State.mgWrite_wf (s : State) (tid : Word32) (a : Nat) (v : Word32) (hm : Canonical s.mem) : Canonical (State.mgWrite s tid a v).mem := by
  unfold State.mgWrite
  refine ite_canon (of_mem (State.qctlWrite_mem ..) hm) (ite_canon (of_mem (State.qtailWrite_mem ..) hm) (ite_canon (of_mem (State.partitionWrite_mem ..) hm)
    (ite_canon ?_ (ite_canon (ite_canon (of_mem (State.derrWrite_mem ..) hm) hm) (ite_canon (ite_canon (of_mem (State.glcmdWrite_mem ..) hm) hm)
    (ite_canon (ite_canon hm hm) (ite_canon (ite_canon hm (of_mem (State.channelWrite_mem ..) hm)) (of_mem (State.plainWrite_mem ..) hm))))))))
  generalize haltOf a = h
  cases h with
  | none => exact hm
  | some p => exact ite_canon (State.hresWrite_wf _ _ _ hm) (of_mem ((State.waitAborted_mem ..).trans (State.setHalt_mem ..)) hm)
theorem managementAddress_mem {P : Memory → Prop} {Q : Nat → Prop} (s : State) (f : Fields) (hm : P s.mem) (hq : ∀ b, Q b) : Act.On P Q (managementAddress s f) := by
  unfold managementAddress
  repeat' (first | with_reducible exact hm | with_reducible apply hq | with_reducible apply Act.On_bind | with_reducible apply Act.On_pure | with_reducible apply need_on | with_reducible apply needOr_on | with_reducible apply Res.On_retry)
theorem mgwrBody_wf (f : Fields) (s : State) (hm : Canonical s.mem) : (mgwrBody f s).On Canonical := by
  unfold mgwrBody
  repeat' (first | with_reducible exact hm | with_reducible apply Act.On_run | with_reducible apply Act.On_bind | with_reducible apply Act.On_pure | with_reducible apply Res.On_ok | with_reducible apply managementAddress_mem | with_reducible apply State.mgWrite_wf | (intro _))
@[simp] theorem State.flitReceive_mem (s : State) (n : Nat) (seq : Nat) (ack : Nat) (good : Bool) (nack : Bool) (payload : List Byte) : (State.flitReceive s n seq ack good nack payload).mem = s.mem := by
  unfold State.flitReceive
  repeat' (first | split | simp only [State.setPort_mem])
@[simp] theorem State.askForJob_mem (s : State) (k : ClusterId) (j : CopyJob) (ptr : Word64) (n : Nat) : (State.askForJob s k j ptr n).mem = s.mem := by
  unfold State.askForJob
  repeat' (first | split | simp only [State.askPage_mem])
@[simp] theorem State.startJob_mem (s : State) (k : ClusterId) : (State.startJob s k).mem = s.mem := by
  unfold State.startJob
  repeat' (first | split | simp only [State.askLeave_mem, State.jobFaultAt_mem, State.askForJob_mem, State.setJob_mem])
theorem cbldBody_wf (f : Fields) (s : State) (hm : Canonical s.mem) : (cbldBody f s).On Canonical := by
  unfold cbldBody
  repeat' (first | with_reducible apply Act.On_run | with_reducible apply Act.On_bind | with_reducible apply Act.On_pure | with_reducible apply Res.On_ok | with_reducible apply check_mem | with_reducible apply releasedFor_wf | with_reducible apply readCanon_mem | with_reducible apply needKind_mem | with_reducible apply header_mem | with_reducible apply checkPtr_mem | (intro _) | simp only [State.defer_mem, *])
@[simp] theorem State.dropMessage_mem (s : State) (m : Message) : (State.dropMessage s m).mem = s.mem := by
  unfold State.dropMessage
  repeat' (first | split | simp only [State.setTask_mem, State.raiseAt_mem, State.report_mem])
theorem tgrunBody_wf (s : State) (hm : Canonical s.mem) : (tgrunBody s).On Canonical := by
  unfold tgrunBody
  repeat' (first | with_reducible apply Act.On_run | with_reducible apply Act.On_bind | with_reducible apply Act.On_pure | with_reducible apply Res.On_ok | with_reducible apply releasedAt_wf | (intro _) | simp only [State.releaseNodes_mem, *])
@[simp] theorem State.engineFault_mem (s : State) (k : ClusterId) (m : MCmd) (f : Flt) : (State.engineFault s k m f).mem = s.mem := by
  unfold State.engineFault
  repeat' simp only [State.unitFault_mem, State.setCluster_mem]
@[simp] theorem State.refusePage_mem (s : State) (tid : Word32) (g : Nat) : (State.refusePage s tid g).mem = s.mem := rfl
@[simp] theorem State.pageFails_mem (s : State) (q : PageReq) (addr : Word64) : (State.pageFails s q addr).mem = s.mem := by
  unfold State.pageFails
  repeat' (first | split | simp only [State.refusePage_mem, State.unitFault_mem, State.engineFault_mem, State.jobFault_mem, State.dropCopy_mem])
@[simp] theorem State.priAnswer_mem (s : State) (i : Nat) (ok : Bool) : (State.priAnswer s i ok).mem = s.mem := by
  unfold State.priAnswer
  repeat' (first | split | simp only [State.pageFails_mem])
theorem eretBody_mem {P : Memory → Prop} (s : State) (hm : P s.mem) : (eretBody s).On P := by
  unfold eretBody
  repeat' (first | with_reducible apply Res.On_jump | with_reducible apply Res.On_fault | with_reducible apply Res.On_retry | with_reducible apply Res.On_gone | split | simp only [State.landAll_mem, State.setMe_mem, *])
theorem State.collectStart_wf (s : State) (u : PadUnit) (colour : Nat) (hm : Canonical s.mem) : Canonical (State.collectStart s u colour).mem := by
  have hc := State.collectColour_wf s (s.collector u) colour u hm
  unfold State.collectStart
  dsimp only
  split
  · exact hm
  · split
    · rename_i h; rw [h] at hc; exact hc
    · rename_i h; rw [h] at hc; exact hc
    · rename_i h; rw [h] at hc; exact of_mem (State.setGleaner_mem ..) hc
theorem mzeroBody_mem {P : Memory → Prop} (f : Fields) (s : State) (hm : P s.mem) : (mzeroBody f s).On P := by
  unfold mzeroBody
  repeat' (first | with_reducible apply Act.On_run | with_reducible apply Act.On_bind | with_reducible apply Act.On_pure | with_reducible apply Res.On_ok | with_reducible apply needEntry_mem | (intro _) | simp only [State.accept_mem, *])
@[simp] theorem State.inContext_mem (s : State) (k : ClusterId) (ctx : Nat) (c : CoreId) (f : Core → Core) : (State.inContext s k ctx c f).mem = s.mem := by
  unfold State.inContext
  repeat' (first | rfl | split)
@[simp] theorem State.strikeReserved_mem (s : State) (a : Nat) : (State.strikeReserved s a).mem = s.mem := by
  unfold State.strikeReserved
  repeat' (first | split | simp only [State.inContext_mem])
theorem gldBody_wf (f : Fields) (s : State) (hm : Canonical s.mem) : (gldBody f s).On Canonical := by
  unfold gldBody
  repeat' (first | with_reducible apply Act.On_run | with_reducible apply Act.On_bind | with_reducible apply Act.On_pure | with_reducible apply Res.On_ok | with_reducible apply check_mem | with_reducible apply touch_wf | with_reducible apply needKind_mem | with_reducible apply objOf_mem | with_reducible apply readThrough_mem | (intro _) | simp only [State.deferLoad_mem, *])
@[simp] theorem readControl_mem (s : State) (n : Nat) : (readControl s n).2.mem = s.mem := by
  unfold readControl
  repeat' (first | rfl | split)
theorem mfcBody_mem {P : Memory → Prop} (f : Fields) (s : State) (hm : P s.mem) : (mfcBody f s).On P := by
  unfold mfcBody
  repeat' (first | with_reducible apply Res.On_ok | simp only [State.setX_mem, readControl_mem, *])
theorem cas2Body_wf (f : Fields) (s : State) (hm : Canonical s.mem) : (cas2Body f s).On Canonical := by
  unfold cas2Body
  refine Act.On_run (Act.On_bind (check_mem _ _ _ _ _ hm fun _ => Act.On_bind (header_mem _ _ hm fun _ => Act.On_bind (needKind_mem _ _ _ _ _ hm fun _ => ?_))))
  refine Act.On_bind (need_on hm (Act.On_bind (need_on hm (Act.On_bind (needAtomicOps_mem _ _ hm fun _ => Act.On_bind (escape_wf _ _ _ _ _ hm fun s hm => ?_))))))
  refine Act.On_bind (access_mem _ _ _ _ hm fun b => Act.On_bind (need_on hm (Act.On_bind (atomicRelease_wf _ _ _ hm fun s hm => ?_))))
  refine Act.On_bind (faultLater_on (pointerHead_mem _ _ hm fun _ => trivial) fun len => ?_)
  have hs : ∀ (c : Prop) [Decidable c] (w v : Word64) (a b : Nat), Canonical (if c then (s.pokeWord a w).pokeWord b v else s).mem :=
    fun c _ w v a b => ite_canon (pokeWord_canon (pokeWord_canon hm _ _) _ _) hm
  dsimp only
  split
  · exact Act.On_pure (Res.On_fault (of_mem ((State.setMe_mem ..).trans (State.noteAtomic_mem ..)) (hs ..)))
  · exact Act.On_pure (Res.On_ok (of_mem ((State.deferAtomic_mem ..).trans ((State.deferAtomic_mem ..).trans ((State.requestTo_mem ..).trans
      (State.noteAtomic_mem ..)))) (hs ..)))
theorem vwgetBody_mem {P : Memory → Prop} (f : Fields) (s : State) (hm : P s.mem) : (vwgetBody f s).On P := by
  unfold vwgetBody
  repeat' (first | with_reducible apply Res.On_ok | simp only [putLanes_mem, *])
theorem vfscanBody_mem {P : Memory → Prop} (f : Fields) (s : State) (hm : P s.mem) : (vfscanBody f s).On P := by
  unfold vfscanBody
  repeat' (first | with_reducible apply Res.On_ok | simp only [deferLanes_mem, *])
@[simp] theorem State.corrected_mem (s : State) (loc : EccLoc) (time : Nat) : (State.corrected s loc time).mem = s.mem := by
  unfold State.corrected
  repeat' (first | split | simp only [State.post_mem])
@[simp] theorem State.fenceAcq_mem (s : State) (scope : Nat) : (State.fenceAcq s scope).mem = s.mem := by
  unfold State.fenceAcq
  repeat' (first | split | simp only [State.fixAll_mem, State.fixDies_mem])
theorem fenceFull_wf {Q : State → Prop} (scope : Nat) (s : State) (hm : Canonical s.mem) (hq : ∀ t, Canonical t.mem → Q t) : Act.On Canonical Q (fenceFull scope s) := by
  unfold fenceFull
  repeat' (first | with_reducible apply Act.On_ok | with_reducible apply released_wf | with_reducible apply releasedDies_wf | with_reducible apply hq | split | simp only [State.setMe_mem, *])
theorem fenceBody_wf (f : Fields) (s : State) (hm : Canonical s.mem) : (fenceBody f s).On Canonical := by
  unfold fenceBody
  repeat' (first | with_reducible apply Act.On_run | with_reducible apply Act.On_bind | with_reducible apply Act.On_pure | with_reducible apply needOr_on | with_reducible apply Res.On_ok | with_reducible apply Res.On_retry | with_reducible apply Res.On_gone | with_reducible apply fenceFull_wf | split | (intro _) | simp only [State.fenceRel_mem, State.landAll_mem, State.fenceAcq_mem, *])
theorem State.restoreStates_wf (s : State) (j : CopyJob) (hm : Canonical s.mem) : Canonical (State.restoreStates s j).mem := by
  unfold State.restoreStates
  repeat' (first | dsimp only | with_reducible exact hm | with_reducible apply State.setStaged_wf | split)
theorem State.jobDone_wf (s : State) (k : ClusterId) (hm : Canonical s.mem) : Canonical (State.jobDone s k).mem := by
  unfold State.jobDone
  repeat' (first | with_reducible apply State.restoreStates_wf | with_reducible apply State.serveQueue_wf | with_reducible apply State.closeJob_wf | split | simp only [State.dropJob_mem, *])
@[simp] theorem State.route_mem (s : State) (i : Nat) : (State.route s i).mem = s.mem := by
  unfold State.route
  repeat' (first | split | simp only [State.dropMessage_mem])
theorem vdot4Body_mem {P : Memory → Prop} (f : Fields) (s : State) (hm : P s.mem) : (vdot4Body f s).On P := by
  unfold vdot4Body
  repeat' (first | with_reducible apply Res.On_ok | simp only [putLanes_mem, *])
@[simp] theorem State.idleWoken_mem (s : State) (k : TaskKey) : (State.idleWoken s k).mem = s.mem := by
  unfold State.idleWoken
  repeat' (first | split | simp only [State.wake_mem, State.complete_mem])
theorem State.refresh_wf (s : State) (e : Copy) (a : Nat) {out : State × Bool} (hm : Canonical s.mem) (he : (State.refresh s e a) = out) : Canonical out.1.mem := by
  subst he
  exact State.refreshBlocks_wf _ _ _ _ hm
theorem acqBody_wf (f : Fields) (s : State) (hm : Canonical s.mem) : (acqBody f s).On Canonical := by
  unfold acqBody
  repeat' (first | with_reducible apply Act.On_run | with_reducible apply Act.On_bind | with_reducible apply Act.On_pure | with_reducible apply needOr_on | with_reducible apply Res.On_ok | with_reducible apply Res.On_fault | with_reducible apply Res.On_park | with_reducible apply needKind_mem | with_reducible apply needAtomicOps_mem | with_reducible apply header_mem | with_reducible apply checkPtr_mem | with_reducible apply releasedHome_wf | with_reducible apply acquiredCopy_mem | with_reducible refine State.refresh_wf (hm := ?_) (he := by assumption) .. | with_reducible apply pokeWord_canon | split | (intro _) | simp only [State.fixPrivate_mem, *])
theorem vpermBody_mem {P : Memory → Prop} (f : Fields) (s : State) (hm : P s.mem) : (vpermBody f s).On P := by
  unfold vpermBody
  repeat' (first | with_reducible apply Res.On_ok | simp only [deferLanes_mem, *])
theorem sfuBody_mem {P : Memory → Prop} (op : Sfu) (f : Fields) (s : State) (hm : P s.mem) : (sfuBody op f s).On P := by
  unfold sfuBody
  repeat' (first | with_reducible apply Res.On_ok | simp only [deferLanes_mem, *])
@[simp] theorem State.setNear_mem (s : State) (st : Nat) (old : NbJob) (new : NbJob) : (State.setNear s st old new).mem = s.mem := rfl
theorem vecOp1_mem {P : Memory → Prop} (op : Nat → Nat → Nat) (f : Fields) (s : State) (hm : P s.mem) : (vecOp1 op f s).On P := by
  unfold vecOp1
  repeat' (first | with_reducible apply Res.On_ok | simp only [putLanes_mem, *])
@[simp] theorem State.acceptColl_mem (s : State) (f : Fields) (j : CollJob) : (State.acceptColl s f j).mem = s.mem := by
  unfold State.acceptColl
  repeat' (first | rfl | split)
theorem collBody_wf (f : Fields) (s : State) (hm : Canonical s.mem) : (collBody f s).On Canonical := by
  unfold collBody
  refine Act.On_run (Act.On_bind (checkPtr_mem _ _ hm fun _ => Act.On_bind (header_mem _ _ hm fun _ => Act.On_bind (needKind_mem _ _ _ _ _ hm fun _ =>
    Act.On_bind (check_mem _ _ _ _ _ hm fun _ => Act.On_bind (readCanon_mem _ _ _ _ hm fun _ => Act.On_bind (needKind_mem _ _ _ _ _ hm fun _ =>
    Act.On_bind (check_mem _ _ _ _ _ hm fun _ => Act.On_bind (readCanon_mem _ _ _ _ hm fun _ => Act.On_bind (needKind_mem _ _ _ _ _ hm fun _ =>
    Act.On_bind (checkPtr_mem _ _ hm fun _ => Act.On_bind (header_mem _ _ hm fun _ => Act.On_bind (needKind_mem _ _ _ _ _ hm fun _ =>
    Act.On_bind (needOpen_mem _ _ _ _ hm fun _ => Act.On_bind (check_mem _ _ _ _ _ hm fun _ => Act.On_bind (releasedAt_wf _ _ _ hm fun t ht =>
    Act.On_bind (takeMailbox_mem _ _ _ _ ht fun u b hu => Act.On_pure (Res.On_ok
      (of_mem ((State.acceptColl_mem ..).trans hu) ht)))))))))))))))))))
theorem State.graphPlace_mem (s : State) (d : Nat) (mask : BitVec 4) (r : Record) {out : State} (he : (State.graphPlace s d mask r) = some out) : out.mem = s.mem := by
  unfold State.graphPlace at he
  dsimp only at he
  split at he
  · obtain ⟨u, hu, hp⟩ := Option.map_eq_some_iff.mp he
    cases hp
    exact (State.startRecord_mem ..).trans (State.setDie_mem ..)
  · split at he
    · split at he
      · cases he; exact State.push_mem ..
      · cases he
    · cases he
theorem State.placeableHeld_mem (s : State) (d : Nat) {out : Record × State} (he : (State.placeableHeld s d) = some out) : out.2.mem = s.mem := by
  unfold State.placeableHeld at he
  obtain ⟨r, _, h⟩ := List.exists_of_findSome?_eq_some he
  split at h
  · cases h
  · cases hg : s.graphPlace d (s.maskOf d r) r with
    | none => rw [hg] at h; cases h
    | some t => rw [hg] at h; cases h; exact State.graphPlace_mem (he := hg) ..
theorem stoBody_wf (f : Fields) (s : State) (hm : Canonical s.mem) : (stoBody f s).On Canonical := by
  unfold stoBody
  repeat' (first | with_reducible assumption | with_reducible apply Act.On_run | with_reducible apply Act.On_bind | with_reducible apply Act.On_pure | with_reducible apply need_on | with_reducible apply Res.On_ok | with_reducible apply check_mem | with_reducible apply needOpen_mem | with_reducible apply escape_wf | with_reducible apply touch_wf | with_reducible apply storeObj_mem | with_reducible apply needKind_mem | with_reducible apply writeThrough_wf | (intro _))
@[simp] theorem State.pop_mem (s : State) (c : CoreId) : (State.pop s c).mem = s.mem := by
  unfold State.pop
  repeat' (first | split | simp only [State.setCore_mem, State.startRecord_mem])
theorem haltRetainBody_wf (f : Fields) (s : State) (hm : Canonical s.mem) : (haltRetainBody f s).On Canonical := by
  unfold haltRetainBody
  repeat' (first | with_reducible apply Act.On_run | with_reducible apply Act.On_bind | with_reducible apply Act.On_pure | with_reducible apply Res.On_gone | with_reducible apply check_mem | with_reducible apply touch_wf | with_reducible apply needKind_mem | with_reducible apply landed_mem | with_reducible apply objOf_mem | with_reducible apply released_wf | with_reducible apply readThrough_mem | split | (intro _) | simp only [State.setTask_mem, State.setCore_mem, State.unpin_mem, State.releaseNodes_mem, State.finishNode_mem, *])
theorem mkclsBody_mem {P : Memory → Prop} (f : Fields) (s : State) (hm : P s.mem) : (mkclsBody f s).On P := by
  unfold mkclsBody
  repeat' (first | with_reducible apply Act.On_run | with_reducible apply Act.On_bind | with_reducible apply Act.On_pure | with_reducible apply Res.On_ok | with_reducible apply needMask_mem | with_reducible apply needPosition_mem | (intro _) | simp only [State.deferX_mem, State.countTiles_mem, *])
theorem stoprdBody_wf (f : Fields) (s : State) (hm : Canonical s.mem) : (stoprdBody f s).On Canonical := by
  unfold stoprdBody
  repeat' (first | with_reducible apply Act.On_run | with_reducible apply Act.On_bind | with_reducible apply Act.On_pure | with_reducible apply Act.On_error | with_reducible apply Res.On_ok | with_reducible apply Res.On_fault | with_reducible apply writeCanon_wf | with_reducible apply needOperandOk_mem | with_reducible apply needRoomFor_mem | split | (intro _) | simp only [State.deferX_mem, *])
@[simp] theorem State.nodeReady_mem (s : State) (d : Nat) (i : Nat) : (State.nodeReady s d i).mem = s.mem := by
  unfold State.nodeReady
  dsimp only
  split
  · rfl
  · split
    · rfl
    · split
      · rename_i h; exact (State.graphPlace_mem (he := h) ..).trans (State.setDie_mem ..)
      · exact (State.setDie_mem ..).trans (State.setDie_mem ..)
@[simp] theorem State.readTime_mem (s : State) : (State.readTime s).2.mem = s.mem := rfl
theorem vscatBody_wf (f : Fields) (s : State) (hm : Canonical s.mem) : (vscatBody f s).On Canonical := by
  unfold vscatBody
  refine Act.On_run (Act.On_bind (checkLanes_mem _ _ _ _ hm fun _ => Act.On_bind (vstoreObject_mem _ _ _ hm fun ob =>
    Act.On_bind (needKind_mem _ _ _ _ _ hm fun _ => Act.On_bind (needOpen_mem _ _ _ _ hm fun _ => ?_)))))
  split
  · exact Act.On_pure (Res.On_ok hm)
  · refine Act.On_bind (touch_wf _ _ _ hm fun t ht => Act.On_bind (together_on _ _ ht (foldlM_on (fun s l hs Q hq => ?_) _ _
      (of_mem (State.stampSeq_mem _) ht) (fun u hu => Act.On_pure (Res.On_ok hu)))))
    dsimp only
    split
    · exact Act.On_bind (Act.On_pure (putThrough_wf _ _ _ _ _ hs hq))
    · exact Act.On_bind (Act.On_bind (readThrough_mem _ _ _ _ hs fun bs => Act.On_pure (putThrough_wf _ _ _ _ _ hs hq)))
theorem vfcmpBody_mem {P : Memory → Prop} (f : Fields) (s : State) (hm : P s.mem) : (vfcmpBody f s).On P := by
  unfold vfcmpBody
  repeat' (first | with_reducible apply Res.On_ok | simp only [putPred_mem, State.raiseFlags_mem, *])
theorem State.placeableRoot_mem (s : State) (io : Nat) {out : Nat × State} (he : (State.placeableRoot s io) = some out) : out.2.mem = s.mem := by
  unfold State.placeableRoot at he
  obtain ⟨l1, a, l2, h1, h2, h3⟩ := List.findSome?_eq_some_iff.mp he
  dsimp only at h2
  split at h2
  · cases h2
  · obtain ⟨u, hu, hp⟩ := Option.map_eq_some_iff.mp h2
    cases hp
    exact State.pushCluster_mem (he := hu) ..
@[simp] theorem State.rootPlace_mem (s : State) (io : Nat) : (State.rootPlace s io).mem = s.mem := by
  unfold State.rootPlace
  repeat' (first | split | simp only [State.loadLaunch_mem] | refine (foldl_mem (fun _ _ => ?_)).trans ?_ | refine (State.placeableRoot_mem (he := by assumption) ..).trans ?_)
theorem wftrdBody_wf (f : Fields) (s : State) (hm : Canonical s.mem) : (wftrdBody f s).On Canonical := by
  unfold wftrdBody
  repeat' (first | with_reducible apply Act.On_run | with_reducible apply Act.On_bind | with_reducible apply Act.On_pure | with_reducible apply Act.On_error | with_reducible apply Res.On_ok | with_reducible apply Res.On_fault | with_reducible apply writeCanon_wf | with_reducible apply needOperandOk_mem | with_reducible apply needRoomFor_mem | split | (intro _) | simp only [State.deferX_mem, *])
theorem State.launchDone_wf (s : State) (l : Nat) (hm : Canonical s.mem) : Canonical (State.launchDone s l).mem := by
  unfold State.launchDone
  repeat' (first | with_reducible apply State.completePacket_wf | with_reducible apply foldl_wf | split | (intro _) | simp only [State.setQueue_mem, State.setCluster_mem, State.distAsks_mem, *])
@[simp] theorem State.runDone_mem (s : State) (ch : Nat) (good : BitVec 37) : (State.runDone s ch good).mem = s.mem := by
  unfold State.runDone
  repeat' (first | split | simp only [State.setChannel_mem])
theorem State.contextSwap_wf (s : State) (p : Nat) (ctx : Nat) (hm : Canonical s.mem) : Canonical (State.contextSwap s p ctx).mem := by
  unfold State.contextSwap
  repeat' (first | with_reducible apply State.takeUp_wf | with_reducible apply State.drainAll_wf | with_reducible apply foldl_wf | split | (intro _) | simp only [State.landAll_mem, State.loadContext_mem, State.setPart_mem, *])
theorem vwhileBody_mem {P : Memory → Prop} (f : Fields) (s : State) (hm : P s.mem) : (vwhileBody f s).On P := by
  unfold vwhileBody
  repeat' (first | with_reducible apply Res.On_ok | simp only [putPred_mem, *])
theorem mreadBody_mem {P : Memory → Prop} (f : Fields) (s : State) (hm : P s.mem) : (mreadBody f s).On P := by
  unfold mreadBody
  repeat' (first | with_reducible apply Act.On_run | with_reducible apply Act.On_bind | with_reducible apply Act.On_pure | with_reducible apply need_on | with_reducible apply Res.On_ok | simp only [State.deferX_mem, deferLanes_mem, *])
@[simp] theorem State.mgRead_mem (s : State) (a : Nat) : (State.mgRead s a).2.mem = s.mem := by
  unfold State.mgRead
  refine ite_snd_mem rfl (ite_snd_mem rfl (ite_snd_mem rfl (ite_snd_mem rfl (ite_snd_mem rfl (ite_snd_mem rfl (ite_snd_mem (ite_snd_mem rfl ?_)
    (ite_snd_mem (ite_snd_mem rfl (ite_snd_mem rfl rfl)) (ite_snd_mem (ite_snd_mem rfl (ite_snd_mem ?_ (ite_snd_mem ?_ rfl)))
    (ite_snd_mem rfl (ite_snd_mem ?_ rfl))))))))))
  · exact ite_mem (State.glpauseRead_mem ..) rfl
  · exact State.stretchRead_mem ..
  · exact State.stretchRead_mem ..
  · generalize a % 2 ^ 20 % 4096 = r
    rfl
theorem mgrdBody_mem {P : Memory → Prop} (f : Fields) (s : State) (hm : P s.mem) : (mgrdBody f s).On P := by
  unfold mgrdBody
  repeat' (first | with_reducible apply Act.On_run | with_reducible apply Act.On_bind | with_reducible apply Act.On_pure | with_reducible apply Res.On_ok | with_reducible apply managementAddress_mem | (intro _) | simp only [State.deferX_mem, State.mgRead_mem, *])
@[simp] theorem State.mCoreFault_mem (s : State) (t : TaskKey) : (State.mCoreFault s t).mem = s.mem := by
  unfold State.mCoreFault
  repeat' (first | split | simp only [State.takeReport_mem])
theorem sendBody_wf (spawn : Bool) (o : Op) (f : Fields) (s : State) (hm : Canonical s.mem) : (sendBody spawn o f s).On Canonical := by
  unfold sendBody
  repeat' (first | with_reducible apply Act.On_run | with_reducible apply Act.On_bind | with_reducible apply Act.On_pure | with_reducible apply Act.On_error | with_reducible apply need_on | with_reducible apply Res.On_ok | with_reducible apply Res.On_fault | with_reducible apply Res.On_park | with_reducible apply check_mem | with_reducible apply touch_wf | with_reducible apply needKind_mem | with_reducible apply objOf_mem | with_reducible apply releasedAt_wf | with_reducible apply released_wf | with_reducible apply readThrough_mem | split | (intro _) | simp only [State.stamp_mem, State.arrive_mem, State.requestOver_mem, State.defer_mem, State.fresh_mem, *])
@[simp] theorem State.runProduct_mem (s : State) (k : ClusterId) (c : CoreId) (m : MCmd) : (State.runProduct s k c m).mem = s.mem := by
  unfold State.runProduct
  repeat' (first | split | simp only [State.nextPass_mem, State.setCore_mem, State.popCmd_mem, State.engineFault_mem, State.setAcc_mem])
@[simp] theorem State.warmingEnds_mem (s : State) (outcome : Nat) : (State.warmingEnds s outcome).mem = s.mem := rfl
@[simp] theorem State.warm_mem (s : State) (dies : List Int) (bases : List Int) : (State.warm s dies bases).mem = s.mem := by
  unfold State.warm
  repeat' (first | split | simp only [State.warmingBegins_mem, State.warmingEnds_mem])
theorem grankBody_mem {P : Memory → Prop} (f : Fields) (s : State) (hm : P s.mem) : (grankBody f s).On P := by
  unfold grankBody
  repeat' (first | with_reducible apply Res.On_ok | simp only [State.defer_mem, *])
theorem State.commitChunk_wf (s : State) (k : ClusterId) (hm : Canonical s.mem) : Canonical (State.commitChunk s k).mem := by
  unfold State.commitChunk
  repeat' (first | with_reducible apply foldl_wf | with_reducible apply poke_canon | split | (intro _) | simp only [State.askForJob_mem, State.jobFault_mem, State.setJob_mem, State.jobFaultAt_mem, *])
@[simp] theorem State.warmingFails_mem (s : State) : (State.warmingFails s).mem = s.mem := by
  unfold State.warmingFails
  repeat' (first | rfl | split)
@[simp] theorem State.haltReport_mem (s : State) (p : Nat) : (State.haltReport s p).mem = s.mem := by
  unfold State.haltReport
  repeat' (first | split | simp only [State.takeReport_mem] | refine (State.fresh_eq (he := by assumption) ..).trans ?_)
theorem vstpkBody_wf (f : Fields) (s : State) (hm : Canonical s.mem) : (vstpkBody f s).On Canonical := by
  unfold vstpkBody
  repeat' (first | with_reducible assumption | with_reducible apply Act.On_run | with_reducible apply Act.On_bind | with_reducible apply Act.On_pure | with_reducible apply need_on | with_reducible apply Res.On_ok | with_reducible apply access_mem | with_reducible apply header_mem | with_reducible apply checkPtr_mem | with_reducible apply releasedHome_wf | with_reducible apply packChecks_mem | with_reducible apply poke_canon | (intro _))
theorem vfmaBody_mem {P : Memory → Prop} (f : Fields) (s : State) (hm : P s.mem) : (vfmaBody f s).On P := by
  unfold vfmaBody
  repeat' (first | with_reducible apply Res.On_ok | simp only [putLanes_mem, *])
@[simp] theorem State.stretch_mem (s : State) (k : ClusterId) (steps : Nat) : (State.stretch s k steps).mem = s.mem := by
  unfold State.stretch
  repeat' (first | rfl | split)
@[simp] theorem State.nbStart_mem (s : State) (st : Nat) : (State.nbStart s st).mem = s.mem := by
  unfold State.nbStart
  repeat' (first | rfl | split)
theorem State.nbComplete_wf (s : State) (st : Nat) (hm : Canonical s.mem) : Canonical (State.nbComplete s st).mem := by
  unfold State.nbComplete
  repeat' (first | with_reducible apply State.setStaged_wf | with_reducible apply State.dropNear_wf | with_reducible apply poke_canon | with_reducible apply State.fillBox_wf | split | simp only [State.unitFault_mem, *])
@[simp] theorem State.autoRetrain_mem (s : State) (ch : Nat) (temp : BitVec 8) : (State.autoRetrain s ch temp).mem = s.mem := rfl
theorem mtlBody_mem {P : Memory → Prop} (f : Fields) (s : State) (hm : P s.mem) : (mtlBody f s).On P := by
  unfold mtlBody
  repeat' (first | with_reducible apply Res.On_ok | with_reducible apply Res.On_fault | split | simp only [State.setMe_mem, *])
@[simp] theorem State.slicalWrite_mem (s : State) (p : Nat) (v : Word64) : (State.slicalWrite s p v).mem = s.mem := by
  unfold State.slicalWrite
  repeat' (first | split | simp only [State.setPart_mem, State.boundaryArrives_mem])
@[simp] theorem writeControl_mem (s : State) (n : Nat) (v : Word64) : (writeControl s n v).mem = s.mem := by
  unfold writeControl
  repeat' (first | split | simp only [State.setPart_mem, State.setMe_mem, State.setCore_mem, State.slicalWrite_mem])
theorem mtcBody_mem {P : Memory → Prop} (f : Fields) (s : State) (hm : P s.mem) : (mtcBody f s).On P := by
  unfold mtcBody
  repeat' (first | with_reducible apply Act.On_run | with_reducible apply Act.On_bind | with_reducible apply Act.On_pure | with_reducible apply need_on | with_reducible apply Res.On_ok | simp only [writeControl_mem, *])
theorem loadBody_wf (canonical : Bool) (f : Fields) (s : State) (hm : Canonical s.mem) : (loadBody canonical f s).On Canonical := by
  unfold loadBody
  repeat' (first | with_reducible apply Act.On_run | with_reducible apply Act.On_bind | with_reducible apply Act.On_pure | with_reducible apply Res.On_ok | with_reducible apply canonOf_mem | with_reducible apply check_mem | with_reducible apply readCanon_mem | with_reducible apply touch_wf | with_reducible apply needKind_mem | with_reducible apply objOf_mem | with_reducible apply readThrough_mem | split | (intro _) | simp only [State.deferLoad_mem, *])
theorem State.prefComplete_wf (s : State) (c : CoreId) (ptr : Word64) (hm : Canonical s.mem) : Canonical (State.prefComplete s c ptr).mem := by
  unfold State.prefComplete
  repeat' (first | with_reducible apply State.prefBlocks_wf | split | simp only [State.someBlocks_mem, *])
@[simp] theorem State.writeStop_mem (s : State) (a : Agent) (p : Nat) : (State.writeStop s a p).mem = s.mem := by
  unfold State.writeStop
  repeat' (first | split | simp only [State.setTask_mem, State.fresh_mem, State.writeRec_mem, State.stopRec_mem])
@[simp] theorem State.agentStops_mem (s : State) (a : Agent) (p : Nat) : (State.agentStops s a p).mem = s.mem := by
  unfold State.agentStops
  refine ite_mem rfl ?_
  split
  · exact ite_mem (State.landAll_mem ..) ((State.writeStop_mem ..).trans (State.landAll_mem ..))
  · exact State.writeStop_mem ..
theorem AgxJob.run_wf {Q : AgxJob × State → Prop} (f : Fields) (g : AgxJob) (s : State) (hm : Canonical s.mem) (hq : ∀ b t, Canonical t.mem → Q (b, t)) :
    Act.On Canonical Q (AgxJob.run f g s) := by
  unfold AgxJob.run
  dsimp only
  have h : Canonical (s.setMe { s.me with agx := some g }).mem := hm
  exact Act.On_bind (need_on h (Act.On_bind (needOr_on (Res.On_park h) (AgxJob.expand_wf _ _ h hq))))
theorem agxStart_mem {P : Memory → Prop} {Q : AgxJob → Prop} (f : Fields) (s : State) (hm : P s.mem) (hq : ∀ b, Q b) : Act.On P Q (agxStart f s) := by
  unfold agxStart
  repeat' (first | with_reducible exact hm | with_reducible apply hq | with_reducible apply Act.On_bind | with_reducible apply Act.On_pure | with_reducible apply need_on | with_reducible apply needJoin_mem | with_reducible apply check_mem | with_reducible apply readCanon_mem | with_reducible apply needMask_mem | with_reducible apply needKind_mem | with_reducible apply header_mem | with_reducible apply checkPtr_mem | split | (intro _))
theorem agxBody_wf (f : Fields) (s : State) (hm : Canonical s.mem) : (agxBody f s).On Canonical := by
  have run : ∀ (g : AgxJob) (s : State), Canonical s.mem → Act.On Canonical (Res.On Canonical) (do
      let (g, s) ← g.run f s
      if g.tile < g.stop then return .retry (s.setMe { s.me with agx := some g })
      let d := dieOf s.myCore
      let s := (s.freeNode d (g.compute.toNat % 65536)).freeNode d (g.merge.toNat % 65536)
      return .ok ((s.setMe { s.me with agx := none }).deferX f.d (BitVec.ofNat 64 g.made))) := by
    intro g s hm
    refine Act.On_bind (AgxJob.run_wf _ _ _ hm fun g t ht => ?_)
    dsimp only
    split
    · exact Act.On_pure (Res.On_retry (of_mem (State.setMe_mem ..) ht))
    · exact Act.On_pure (Res.On_ok (of_mem ((State.deferX_mem ..).trans ((State.setMe_mem ..).trans ((State.freeNode_mem ..).trans (State.freeNode_mem ..)))) ht))
  unfold agxBody
  dsimp only
  refine Act.On_run ?_
  split
  · refine Act.On_bind (Act.On_pure ?_)
    split
    · exact Act.On_bind (Act.On_pure (run _ _ hm))
    · exact Act.On_bind (agxStart_mem _ _ hm fun g => run _ _ hm)
  · refine Act.On_bind (releasedHome_wf _ _ hm fun t ht => ?_)
    split
    · exact Act.On_bind (Act.On_pure (run _ _ ht))
    · exact Act.On_bind (agxStart_mem _ _ ht fun g => run _ _ ht)
theorem State.startNode_wf (s : State) (d : Nat) (i : Nat) (j : CopyJob) (hm : Canonical s.mem) : Canonical (State.startNode s d i j).mem := by
  unfold State.startNode
  repeat' (first | with_reducible apply State.kick_wf | simp only [State.setDie_mem, *])
theorem State.kickNode_wf (s : State) (d : Nat) (i : Nat) (hm : Canonical s.mem) : Canonical (State.kickNode s d i).mem := by
  unfold State.kickNode
  repeat' (first | with_reducible apply State.startNode_wf | split | simp only [State.unitFault_mem, State.setDie_mem, *])
@[simp] theorem State.ctlApply_mem (s : State) (ch : Nat) : (State.ctlApply s ch).mem = s.mem := by
  unfold State.ctlApply
  repeat' (first | split | simp only [State.setChannel_mem])
@[simp] theorem State.windowLapse_mem (s : State) (loc : EccLoc) (time : Nat) : (State.windowLapse s loc time).mem = s.mem := rfl
@[simp] theorem State.ethernetFrame_mem (s : State) (n : Nat) (sent : Bool) (ptp : Bool) (bytes : List Byte) : (State.ethernetFrame s n sent ptp bytes).mem = s.mem := by
  unfold State.ethernetFrame
  repeat' (first | rfl | split)
@[simp] theorem State.flitReplay_mem (s : State) (n : Nat) (seq : Nat) : (State.flitReplay s n seq).mem = s.mem := by
  unfold State.flitReplay
  repeat' (first | split | simp only [State.setPort_mem])
@[simp] theorem State.linkTraining_mem (s : State) (n : Nat) (range : Nat × Nat) (number : Option (BitVec 6)) : (State.linkTraining s n range number).mem = s.mem := by
  unfold State.linkTraining
  repeat' (first | rfl | split)
theorem mscaleBody_mem {P : Memory → Prop} (f : Fields) (s : State) (hm : P s.mem) : (mscaleBody f s).On P := by
  unfold mscaleBody
  repeat' (first | with_reducible apply Act.On_run | with_reducible apply Act.On_bind | with_reducible apply Act.On_pure | with_reducible apply Res.On_ok | with_reducible apply bindingOf_mem | (intro _) | simp only [State.defer_mem, *])
theorem needPadObject_mem {P : Memory → Prop} {Q : Nat × Word64 → Prop} (s : State) (r : BitVec 128) (staged : Word64 → Bool) (hm : P s.mem) (hq : ∀ b, Q b) : Act.On P Q (needPadObject s r staged) := by
  unfold needPadObject
  repeat' (first | with_reducible exact hm | with_reducible apply hq | with_reducible apply Act.On_bind | with_reducible apply Act.On_pure | with_reducible apply needLevel_mem | with_reducible apply header_mem | with_reducible apply needKind_mem | (intro _))
theorem nbmvBody_wf (f : Fields) (s : State) (hm : Canonical s.mem) : (nbmvBody f s).On Canonical := by
  unfold nbmvBody
  refine Act.On_run (Act.On_bind (needLevel_mem _ _ _ hm fun _ => Act.On_bind (header_mem _ _ hm fun _ => Act.On_bind (needKind_mem _ _ _ _ _ hm fun _ =>
    Act.On_bind (check_mem _ _ _ _ _ hm fun _ => Act.On_bind (readCanon_mem _ _ _ _ hm fun _ => ?_))))))
  refine Act.On_bind (needKind_mem _ _ _ _ _ hm fun _ => Act.On_bind (need_on hm (Act.On_bind (need_on hm
    (Act.On_bind (needPadObject_mem _ _ _ hm fun _ => Act.On_bind (check_mem _ _ _ _ _ hm fun _ => ?_)))))))
  refine Act.On_bind (needPadObject_mem _ _ _ hm fun _ => Act.On_bind (check_mem _ _ _ _ _ hm fun _ => Act.On_bind (needOpen_mem _ _ _ _ hm fun _ =>
    Act.On_bind (releasedFor_wf _ _ hm fun t ht => Act.On_bind (takeMailbox_mem _ _ _ _ ht fun u b hu => ?_)))))
  have hu := of_mem hu ht
  dsimp only
  refine Act.On_pure ?_
  split
  · exact Res.On_ok (State.acceptNear_wf _ _ _ _ hu)
  · exact Res.On_park hu
@[simp] theorem State.unspill_mem (s : State) (c : CoreId) : (State.unspill s c).mem = s.mem := by
  unfold State.unspill
  repeat' (first | split | simp only [State.setCore_mem, State.badRecord_mem])
@[simp] theorem State.relax_mem (s : State) (k : ClusterId) : (State.relax s k).mem = s.mem := by
  unfold State.relax
  repeat' (first | split | simp only [State.setCluster_mem])
theorem tensetBody_mem {P : Memory → Prop} (f : Fields) (s : State) (hm : P s.mem) : (tensetBody f s).On P := by
  unfold tensetBody
  repeat' (first | with_reducible apply Act.On_run | with_reducible apply Act.On_bind | with_reducible apply Act.On_pure | with_reducible apply Res.On_ok | with_reducible apply needOperandOk_mem | split | (intro _) | simp only [State.setPart_mem, State.ignoredWrite_mem, *])
@[simp] theorem State.placeHeld_mem (s : State) (d : Nat) : (State.placeHeld s d).mem = s.mem := by
  unfold State.placeHeld
  repeat' (first | rfl | split | refine (State.placeableHeld_mem (he := by assumption) ..).trans ?_)
theorem State.runDrain_wf (s : State) (k : ClusterId) (c : CoreId) (m : MCmd) (hm : Canonical s.mem) : Canonical (State.runDrain s k c m).mem := by
  unfold State.runDrain
  repeat' (first | with_reducible apply State.setStaged_wf | with_reducible apply poke_canon | with_reducible apply State.fillMailbox_wf | split | simp only [State.nextPass_mem, State.popCmd_mem, State.engineFault_mem, State.setAcc_mem, *])
theorem State.runPass_wf (s : State) (k : ClusterId) (c : CoreId) (m : MCmd) (hm : Canonical s.mem) : Canonical (State.runPass s k c m).mem := by
  unfold State.runPass
  repeat' (first | with_reducible apply State.runDrain_wf | split | simp only [State.nextPass_mem, State.popCmd_mem, State.runProduct_mem, State.engineFault_mem, State.setAcc_mem, *])
theorem State.tilePass_wf (s : State) (k : ClusterId) (hm : Canonical s.mem) : Canonical (State.tilePass s k).mem := by
  unfold State.tilePass
  repeat' (first | with_reducible apply State.runPass_wf | split | simp only [State.engineFault_mem, State.askPage_mem, *])
@[simp] theorem State.poisonBlock_mem (s : State) (a : Nat) : (State.poisonBlock s a).mem = s.mem := by
  unfold State.poisonBlock
  repeat' (first | split | dsimp only)
@[simp] theorem State.strike_mem (s : State) (loc : ErrorLoc) : (State.strike s loc).mem = s.mem := by
  unfold State.strike
  repeat' (first | split | simp only [State.poisonBlock_mem, State.setCluster_mem, State.strikeReserved_mem, State.setCore_mem])
theorem vcmpBody_mem {P : Memory → Prop} (f : Fields) (s : State) (hm : P s.mem) : (vcmpBody f s).On P := by
  unfold vcmpBody
  repeat' (first | with_reducible apply Res.On_ok | simp only [putPred_mem, *])
theorem vfredBody_mem {P : Memory → Prop} (f : Fields) (s : State) (hm : P s.mem) : (vfredBody f s).On P := by
  unfold vfredBody
  repeat' (first | with_reducible apply Res.On_ok | simp only [State.defer_mem, *])
theorem vselBody_mem {P : Memory → Prop} (f : Fields) (s : State) (hm : P s.mem) : (vselBody f s).On P := by
  unfold vselBody
  repeat' (first | with_reducible apply Res.On_ok | simp only [putLanes_mem, *])
@[simp] theorem State.pickNext_mem (s : State) : (State.pickNext s).1.mem = s.mem := by
  unfold State.pickNext
  split
  · exact State.startIssue_mem ..
  · rfl
  · exact (State.start_mem ..).trans rfl
@[simp] theorem State.withFetchWord_mem (s : State) (nbits : Nat) (w : Nat) : (State.withFetchWord s nbits w).mem = s.mem := by
  unfold State.withFetchWord
  repeat' simp only [State.loadNext_mem]

end Sys2Proof.Machine
end

