-- ==== Sys2Proof/Laws/CanonicalExec.lean ====
section
/-!
SUPPORT. Every instruction and every event of the opcode table keeps memory canonical, each said of its meaning (log entry 3).
-/

namespace Sys2Proof.Machine

theorem State.raise_canonical (s : State) (k : TaskKey) (f : Flt) (hm : Canonical s.mem) : Canonical (s.raise k f).mem := by
  rw [State.raise_mem]; exact hm
/-- Postponing a late fault changes no memory. -/
theorem Res.postponed_on {P : Memory → Prop} {r : Res} (o : Op) (h : r.On P) : (r.postponed o).On P := by
  unfold Res.postponed
  split
  · unfold Res.On at h
    split
    · exact Res.On_ok h
    · exact Res.On_fault h
  · exact h
theorem run_canonical {o : Op} {f : Fields} {body : State → Res} {s t : State} (hm : Canonical s.mem) (hb : (body s).On Canonical)
    (he : run o f body s = .next t) : Canonical t.mem := by
  unfold run issue at he
  injection he with he
  subst he
  apply State.settle_on
  repeat' split
  · exact Res.On_fault hm
  · exact migrateRes_mem _ _ _ hm
  · exact Res.On_fault hm
  · exact guardedOff_mem _ _ hm
  · exact Res.postponed_on o hb
theorem happen_canonical {g : State → State} {s t : State} (hb : Canonical (g s).mem)
    (he : happen g s = .next t) : Canonical t.mem := by
  unfold happen at he
  injection he with he
  subst he
  exact hb
theorem execCtlRun_canonical (ch : Nat) (v : Word32) (s : State) {out : State} (hm : Canonical s.mem) (he : execCtlRun ch v s = .next out) : Canonical out.mem := by
  refine happen_canonical ?_ he
  repeat' (first | split | simp only [State.ctlWrite_mem, *])
theorem execCtlQuiesce_canonical (ch : Nat) (v : Word32) (s : State) {out : State} (hm : Canonical s.mem) (he : execCtlQuiesce ch v s = .next out) : Canonical out.mem := by
  refine happen_canonical ?_ he
  repeat' (first | split | simp only [State.ctlWrite_mem, *])
theorem execCtlTrainMode_canonical (ch : Nat) (v : Word32) (s : State) {out : State} (hm : Canonical s.mem) (he : execCtlTrainMode ch v s = .next out) : Canonical out.mem := by
  refine happen_canonical ?_ he
  repeat' (first | split | simp only [State.ctlWrite_mem, *])
theorem execCtlWriteApply_canonical (ch : Nat) (s : State) {out : State} (hm : Canonical s.mem) (he : execCtlWriteApply ch s = .next out) : Canonical out.mem := by
  refine happen_canonical ?_ he
  repeat' simp only [State.ctlApply_mem, *]
theorem execPatternRunDone_canonical (ch : Nat) (good : BitVec 37) (s : State) {out : State} (hm : Canonical s.mem) (he : execPatternRunDone ch good s = .next out) : Canonical out.mem := by
  refine happen_canonical ?_ he
  repeat' simp only [State.runDone_mem, *]
theorem execRdlyWrite_canonical (ch lane : Nat) (v : Word32) (s : State) {out : State} (hm : Canonical s.mem) (he : execRdlyWrite ch lane v s = .next out) : Canonical out.mem := by
  refine happen_canonical ?_ he
  repeat' simp only [State.rdlyWrite_mem, *]
theorem execWdlyWrite_canonical (ch lane : Nat) (v : Word32) (s : State) {out : State} (hm : Canonical s.mem) (he : execWdlyWrite ch lane v s = .next out) : Canonical out.mem := by
  refine happen_canonical ?_ he
  repeat' simp only [State.wdlyWrite_mem, *]
theorem execRepairWrite_canonical (ch : Nat) (v : Word32) (s : State) {out : State} (hm : Canonical s.mem) (he : execRepairWrite ch v s = .next out) : Canonical out.mem := by
  refine happen_canonical ?_ he
  repeat' simp only [State.repairWrite_mem, *]
theorem execAutoRetrain_canonical (ch : Nat) (temp : BitVec 8) (s : State) {out : State} (hm : Canonical s.mem) (he : execAutoRetrain ch temp s = .next out) : Canonical out.mem := by
  refine happen_canonical ?_ he
  repeat' simp only [State.autoRetrain_mem, *]
theorem execAutoRetrainDone_canonical (ch : Nat) (s : State) {out : State} (hm : Canonical s.mem) (he : execAutoRetrainDone ch s = .next out) : Canonical out.mem := by
  refine happen_canonical ?_ he
  repeat' simp only [State.retrainDone_mem, *]
theorem execGlcmdGo_canonical (d unit : Nat) (v : Word32) (s : State) {out : State} (hm : Canonical s.mem) (he : execGlcmdGo d unit v s = .next out) : Canonical out.mem := by
  refine happen_canonical ?_ he
  repeat' simp only [State.glcmdWrite_mem, *]
theorem execGlpauseRead_canonical (d unit : Nat) (s : State) {out : State} (hm : Canonical s.mem) (he : execGlpauseRead d unit s = .next out) : Canonical out.mem := by
  refine happen_canonical ?_ he
  repeat' simp only [State.glpauseRead_mem, *]
theorem execCollection_canonical (u : PadUnit) (colour : Nat) (s : State) {out : State} (hm : Canonical s.mem) (he : execCollection u colour s = .next out) : Canonical out.mem := by
  refine happen_canonical ?_ he
  repeat' (first | with_reducible exact hm | with_reducible apply State.collectStart_wf)
theorem execCollectionEnd_canonical (u : PadUnit) (colour : Nat) (s : State) {out : State} (hm : Canonical s.mem) (he : execCollectionEnd u colour s = .next out) : Canonical out.mem := by
  refine happen_canonical ?_ he
  repeat' simp only [State.collectFinish_mem, *]
theorem execRegionEvacuation_canonical (p d colour : Nat) (s : State) {out : State} (hm : Canonical s.mem) (he : execRegionEvacuation p d colour s = .next out) : Canonical out.mem := by
  refine happen_canonical ?_ he
  repeat' (first | with_reducible exact hm | with_reducible apply State.evacuation_wf)
theorem execColl_canonical (f : Fields) (s : State) {out : State} (hm : Canonical s.mem) (he : execColl f s = .next out) : Canonical out.mem := by
  refine run_canonical hm ?_ he
  repeat' (first | with_reducible exact hm | with_reducible apply collBody_wf)
theorem execCollRoundComplete_canonical (i : Nat) (s : State) {out : State} (hm : Canonical s.mem) (he : execCollRoundComplete i s = .next out) : Canonical out.mem := by
  refine happen_canonical ?_ he
  repeat' (first | with_reducible exact hm | with_reducible apply State.completeRound_wf)
theorem execHaltReport_canonical (p : Nat) (s : State) {out : State} (hm : Canonical s.mem) (he : execHaltReport p s = .next out) : Canonical out.mem := by
  refine happen_canonical ?_ he
  repeat' simp only [State.haltReport_mem, *]
theorem execMCoreFault_canonical (t : TaskKey) (s : State) {out : State} (hm : Canonical s.mem) (he : execMCoreFault t s = .next out) : Canonical out.mem := by
  refine happen_canonical ?_ he
  repeat' simp only [State.mCoreFault_mem, *]
theorem execAgentStop_canonical (a : Agent) (s : State) {out : State} (hm : Canonical s.mem) (he : execAgentStop a s = .next out) : Canonical out.mem := by
  refine happen_canonical ?_ he
  repeat' (first | with_reducible apply foldl_wf | (intro _) | simp only [State.agentStops_mem, *])
theorem execHresGo_canonical (p : Nat) (s : State) {out : State} (hm : Canonical s.mem) (he : execHresGo p s = .next out) : Canonical out.mem := by
  refine happen_canonical ?_ he
  repeat' (first | with_reducible exact hm | with_reducible apply State.resume_wf)
theorem execHresHandler_canonical (p : Nat) (s : State) {out : State} (hm : Canonical s.mem) (he : execHresHandler p s = .next out) : Canonical out.mem := by
  refine happen_canonical ?_ he
  repeat' (first | with_reducible exact hm | with_reducible apply State.resume_wf)
theorem execHresEnd_canonical (p : Nat) (s : State) {out : State} (hm : Canonical s.mem) (he : execHresEnd p s = .next out) : Canonical out.mem := by
  refine happen_canonical ?_ he
  repeat' (first | with_reducible exact hm | with_reducible apply State.resume_wf)
theorem execWaitAbort_canonical (p : Nat) (s : State) {out : State} (hm : Canonical s.mem) (he : execWaitAbort p s = .next out) : Canonical out.mem := by
  refine happen_canonical ?_ he
  repeat' simp only [State.waitAborted_mem, *]
theorem execVigilScan_canonical (d : Nat) (s : State) {out : State} (hm : Canonical s.mem) (he : execVigilScan d s = .next out) : Canonical out.mem := by
  refine happen_canonical ?_ he
  repeat' simp only [State.vigilScan_mem, *]
theorem execJwait_canonical (f : Fields) (s : State) {out : State} (hm : Canonical s.mem) (he : execJwait f s = .next out) : Canonical out.mem := by
  refine run_canonical hm ?_ he
  repeat' (first | with_reducible exact hm | with_reducible apply jobTest_mem)
theorem execJpoll_canonical (f : Fields) (s : State) {out : State} (hm : Canonical s.mem) (he : execJpoll f s = .next out) : Canonical out.mem := by
  refine run_canonical hm ?_ he
  repeat' (first | with_reducible exact hm | with_reducible apply jobTest_mem)
theorem execJwaitWake_canonical (t : TaskKey) (s : State) {out : State} (hm : Canonical s.mem) (he : execJwaitWake t s = .next out) : Canonical out.mem := by
  refine happen_canonical ?_ he
  repeat' (first | with_reducible exact hm | with_reducible apply State.reissue_wf | with_reducible apply jobTest_mem)
theorem execPowerLeaveGrant_canonical (i : Nat) (s : State) {out : State} (hm : Canonical s.mem) (he : execPowerLeaveGrant i s = .next out) : Canonical out.mem := by
  refine happen_canonical ?_ he
  repeat' simp only [State.grantLeave_mem, *]
theorem execQtailWrite_canonical (p q : Nat) (v : Word32) (s : State) {out : State} (hm : Canonical s.mem) (he : execQtailWrite p q v s = .next out) : Canonical out.mem := by
  refine happen_canonical ?_ he
  repeat' simp only [State.qtailWrite_mem, *]
theorem execQctlEnable_canonical (p q : Nat) (v : Word32) (s : State) {out : State} (hm : Canonical s.mem) (he : execQctlEnable p q v s = .next out) : Canonical out.mem := by
  refine happen_canonical ?_ he
  repeat' simp only [State.qctlWrite_mem, *]
theorem execDerrWrite_canonical (io : Nat) (v : Word32) (s : State) {out : State} (hm : Canonical s.mem) (he : execDerrWrite io v s = .next out) : Canonical out.mem := by
  refine happen_canonical ?_ he
  repeat' simp only [State.derrWrite_mem, *]
theorem execLaunchSelect_canonical (io : Nat) (s : State) {out : State} (hm : Canonical s.mem) (he : execLaunchSelect io s = .next out) : Canonical out.mem := by
  refine happen_canonical ?_ he
  repeat' (first | with_reducible exact hm | with_reducible apply State.launchSelect_wf)
theorem execLaunchRootPlace_canonical (io : Nat) (s : State) {out : State} (hm : Canonical s.mem) (he : execLaunchRootPlace io s = .next out) : Canonical out.mem := by
  refine happen_canonical ?_ he
  repeat' simp only [State.rootPlace_mem, *]
theorem execLaunchComplete_canonical (l : Nat) (s : State) {out : State} (hm : Canonical s.mem) (he : execLaunchComplete l s = .next out) : Canonical out.mem := by
  refine happen_canonical ?_ he
  repeat' (first | with_reducible exact hm | with_reducible apply State.launchDone_wf)
theorem execPartitionWrite_canonical (p off : Nat) (v : Word32) (s : State) {out : State} (hm : Canonical s.mem) (he : execPartitionWrite p off v s = .next out) : Canonical out.mem := by
  refine happen_canonical ?_ he
  repeat' simp only [State.partitionWrite_mem, *]
theorem execSliceBoundary_canonical (p : Nat) (time : Word64) (s : State) {out : State} (hm : Canonical s.mem) (he : execSliceBoundary p time s = .next out) : Canonical out.mem := by
  refine happen_canonical ?_ he
  repeat' simp only [State.sliceBoundary_mem, *]
theorem execContextSwap_canonical (p ctx : Nat) (s : State) {out : State} (hm : Canonical s.mem) (he : execContextSwap p ctx s = .next out) : Canonical out.mem := by
  refine happen_canonical ?_ he
  repeat' (first | with_reducible exact hm | with_reducible apply State.contextSwap_wf)
theorem execMkld_canonical (f : Fields) (s : State) {out : State} (hm : Canonical s.mem) (he : execMkld f s = .next out) : Canonical out.mem := by
  refine run_canonical hm ?_ he
  repeat' (first | with_reducible exact hm | with_reducible apply mkldBody_wf)
theorem execMkcls_canonical (f : Fields) (s : State) {out : State} (hm : Canonical s.mem) (he : execMkcls f s = .next out) : Canonical out.mem := by
  refine run_canonical hm ?_ he
  repeat' (first | with_reducible exact hm | with_reducible apply mkclsBody_mem)
theorem execMkapp_canonical (f : Fields) (s : State) {out : State} (hm : Canonical s.mem) (he : execMkapp f s = .next out) : Canonical out.mem := by
  refine run_canonical hm ?_ he
  repeat' (first | with_reducible exact hm | with_reducible apply mkappBody_mem)
theorem execMkappBias_canonical (f : Fields) (s : State) {out : State} (hm : Canonical s.mem) (he : execMkappBias f s = .next out) : Canonical out.mem := by
  refine run_canonical hm ?_ he
  repeat' (first | with_reducible exact hm | with_reducible apply mkappBiasBody_mem)
theorem execMkcnt_canonical (f : Fields) (s : State) {out : State} (hm : Canonical s.mem) (he : execMkcnt f s = .next out) : Canonical out.mem := by
  refine run_canonical hm ?_ he
  repeat' (first | with_reducible exact hm | with_reducible apply mkcntBody_mem)
theorem execTilePass_canonical (k : ClusterId) (s : State) {out : State} (hm : Canonical s.mem) (he : execTilePass k s = .next out) : Canonical out.mem := by
  refine happen_canonical ?_ he
  repeat' (first | with_reducible exact hm | with_reducible apply State.tilePass_wf)
theorem execMma_canonical (f : Fields) (s : State) {out : State} (hm : Canonical s.mem) (he : execMma f s = .next out) : Canonical out.mem := by
  refine run_canonical hm ?_ he
  repeat' (first | with_reducible exact hm | with_reducible apply productBody_wf)
theorem execMsbp_canonical (f : Fields) (s : State) {out : State} (hm : Canonical s.mem) (he : execMsbp f s = .next out) : Canonical out.mem := by
  refine run_canonical hm ?_ he
  repeat' (first | with_reducible exact hm | with_reducible apply productBody_wf)
theorem execMzero_canonical (f : Fields) (s : State) {out : State} (hm : Canonical s.mem) (he : execMzero f s = .next out) : Canonical out.mem := by
  refine run_canonical hm ?_ he
  repeat' (first | with_reducible exact hm | with_reducible apply mzeroBody_mem)
theorem execMdrain_canonical (f : Fields) (s : State) {out : State} (hm : Canonical s.mem) (he : execMdrain f s = .next out) : Canonical out.mem := by
  refine run_canonical hm ?_ he
  repeat' (first | with_reducible exact hm | with_reducible apply mdrainBody_wf)
theorem execMread_canonical (f : Fields) (s : State) {out : State} (hm : Canonical s.mem) (he : execMread f s = .next out) : Canonical out.mem := by
  refine run_canonical hm ?_ he
  repeat' (first | with_reducible exact hm | with_reducible apply mreadBody_mem)
theorem execMloop_canonical (f : Fields) (s : State) {out : State} (hm : Canonical s.mem) (he : execMloop f s = .next out) : Canonical out.mem := by
  refine run_canonical hm ?_ he
  repeat' (first | with_reducible apply Res.On_ok | simp only [State.defer_mem, *])
theorem execMscale_canonical (f : Fields) (s : State) {out : State} (hm : Canonical s.mem) (he : execMscale f s = .next out) : Canonical out.mem := by
  refine run_canonical hm ?_ he
  repeat' (first | with_reducible exact hm | with_reducible apply mscaleBody_mem)
theorem execMtab_canonical (f : Fields) (s : State) {out : State} (hm : Canonical s.mem) (he : execMtab f s = .next out) : Canonical out.mem := by
  refine run_canonical hm ?_ he
  repeat' (first | with_reducible exact hm | with_reducible apply mtabBody_mem)
theorem execCbld_canonical (f : Fields) (s : State) {out : State} (hm : Canonical s.mem) (he : execCbld f s = .next out) : Canonical out.mem := by
  refine run_canonical hm ?_ he
  repeat' (first | with_reducible exact hm | with_reducible apply cbldBody_wf)
theorem execLd_canonical (f : Fields) (s : State) {out : State} (hm : Canonical s.mem) (he : execLd f s = .next out) : Canonical out.mem := by
  refine run_canonical hm ?_ he
  repeat' (first | with_reducible exact hm | with_reducible apply loadBody_wf)
theorem execLdc_canonical (f : Fields) (s : State) {out : State} (hm : Canonical s.mem) (he : execLdc f s = .next out) : Canonical out.mem := by
  refine run_canonical hm ?_ he
  repeat' (first | with_reducible exact hm | with_reducible apply loadBody_wf)
theorem execSt_canonical (f : Fields) (s : State) {out : State} (hm : Canonical s.mem) (he : execSt f s = .next out) : Canonical out.mem := by
  refine run_canonical hm ?_ he
  repeat' (first | with_reducible exact hm | with_reducible apply storeBody_wf)
theorem execStc_canonical (f : Fields) (s : State) {out : State} (hm : Canonical s.mem) (he : execStc f s = .next out) : Canonical out.mem := by
  refine run_canonical hm ?_ he
  repeat' (first | with_reducible exact hm | with_reducible apply storeBody_wf)
theorem execLdo_canonical (f : Fields) (s : State) {out : State} (hm : Canonical s.mem) (he : execLdo f s = .next out) : Canonical out.mem := by
  refine run_canonical hm ?_ he
  repeat' (first | with_reducible exact hm | with_reducible apply ldoBody_wf)
theorem execSto_canonical (f : Fields) (s : State) {out : State} (hm : Canonical s.mem) (he : execSto f s = .next out) : Canonical out.mem := by
  refine run_canonical hm ?_ he
  repeat' (first | with_reducible exact hm | with_reducible apply stoBody_wf)
theorem execAlloc_canonical (f : Fields) (s : State) {out : State} (hm : Canonical s.mem) (he : execAlloc f s = .next out) : Canonical out.mem := by
  refine run_canonical hm ?_ he
  repeat' (first | with_reducible exact hm | with_reducible apply allocBody_wf)
theorem execOlen_canonical (f : Fields) (s : State) {out : State} (hm : Canonical s.mem) (he : execOlen f s = .next out) : Canonical out.mem := by
  refine run_canonical hm ?_ he
  repeat' (first | with_reducible apply Res.On_ok | simp only [State.setX_mem, *])
theorem execOmov_canonical (f : Fields) (s : State) {out : State} (hm : Canonical s.mem) (he : execOmov f s = .next out) : Canonical out.mem := by
  refine run_canonical hm ?_ he
  repeat' (first | with_reducible apply Res.On_ok | simp only [State.setO_mem, *])
theorem execOview_canonical (f : Fields) (s : State) {out : State} (hm : Canonical s.mem) (he : execOview f s = .next out) : Canonical out.mem := by
  refine run_canonical hm ?_ he
  repeat' (first | with_reducible exact hm | with_reducible apply oviewBody_mem)
theorem execOeq_canonical (f : Fields) (s : State) {out : State} (hm : Canonical s.mem) (he : execOeq f s = .next out) : Canonical out.mem := by
  refine run_canonical hm ?_ he
  repeat' (first | with_reducible apply Res.On_ok | simp only [State.setX_mem, *])
theorem execOkind_canonical (f : Fields) (s : State) {out : State} (hm : Canonical s.mem) (he : execOkind f s = .next out) : Canonical out.mem := by
  refine run_canonical hm ?_ he
  repeat' (first | with_reducible exact hm | with_reducible apply okindBody_mem)
theorem execAcq_canonical (f : Fields) (s : State) {out : State} (hm : Canonical s.mem) (he : execAcq f s = .next out) : Canonical out.mem := by
  refine run_canonical hm ?_ he
  repeat' (first | with_reducible exact hm | with_reducible apply acqBody_wf)
theorem execRel_canonical (f : Fields) (s : State) {out : State} (hm : Canonical s.mem) (he : execRel f s = .next out) : Canonical out.mem := by
  refine run_canonical hm ?_ he
  repeat' (first | with_reducible exact hm | with_reducible apply relBody_wf)
theorem execOsync_canonical (f : Fields) (s : State) {out : State} (hm : Canonical s.mem) (he : execOsync f s = .next out) : Canonical out.mem := by
  refine run_canonical hm ?_ he
  repeat' (first | with_reducible exact hm | with_reducible apply osyncBody_wf)
theorem execOdrop_canonical (f : Fields) (s : State) {out : State} (hm : Canonical s.mem) (he : execOdrop f s = .next out) : Canonical out.mem := by
  refine run_canonical hm ?_ he
  repeat' (first | with_reducible exact hm | with_reducible apply odropBody_mem)
theorem execPin_canonical (f : Fields) (s : State) {out : State} (hm : Canonical s.mem) (he : execPin f s = .next out) : Canonical out.mem := by
  refine run_canonical hm ?_ he
  repeat' (first | with_reducible exact hm | with_reducible apply pinBody_wf)
theorem execUnpin_canonical (f : Fields) (s : State) {out : State} (hm : Canonical s.mem) (he : execUnpin f s = .next out) : Canonical out.mem := by
  refine run_canonical hm ?_ he
  repeat' (first | with_reducible exact hm | with_reducible apply pinBody_wf)
theorem execSeal_canonical (f : Fields) (s : State) {out : State} (hm : Canonical s.mem) (he : execSeal f s = .next out) : Canonical out.mem := by
  refine run_canonical hm ?_ he
  repeat' (first | with_reducible exact hm | with_reducible apply sealBody_wf)
theorem execHdl_canonical (f : Fields) (s : State) {out : State} (hm : Canonical s.mem) (he : execHdl f s = .next out) : Canonical out.mem := by
  refine run_canonical hm ?_ he
  repeat' (first | with_reducible exact hm | with_reducible apply hdlBody_mem)
theorem execPref_canonical (f : Fields) (s : State) {out : State} (hm : Canonical s.mem) (he : execPref f s = .next out) : Canonical out.mem := by
  refine run_canonical hm ?_ he
  repeat' (first | with_reducible exact hm | with_reducible apply prefBody_wf)
theorem execFence_canonical (f : Fields) (s : State) {out : State} (hm : Canonical s.mem) (he : execFence f s = .next out) : Canonical out.mem := by
  refine run_canonical hm ?_ he
  repeat' (first | with_reducible exact hm | with_reducible apply fenceBody_wf)
theorem execPrefCopyComplete_canonical (c : CoreId) (ptr : Word64) (s : State) {out : State} (hm : Canonical s.mem) (he : execPrefCopyComplete c ptr s = .next out) : Canonical out.mem := by
  refine happen_canonical ?_ he
  repeat' (first | with_reducible exact hm | with_reducible apply State.prefComplete_wf)
theorem execAcqGrant_canonical (t : TaskKey) (s : State) {out : State} (hm : Canonical s.mem) (he : execAcqGrant t s = .next out) : Canonical out.mem := by
  refine happen_canonical ?_ he
  repeat' (first | with_reducible exact hm | with_reducible apply State.reissue_wf | with_reducible apply acqBody_wf)
theorem execStoreBufferDrain_canonical (t : TaskKey) (home : Nat) (s : State) {out : State} (hm : Canonical s.mem) (he : execStoreBufferDrain t home s = .next out) : Canonical out.mem := by
  refine happen_canonical ?_ he
  repeat' (first | with_reducible exact hm | with_reducible apply State.drainOne_wf)
theorem execRemoteStoreRefused_canonical (t : TaskKey) (s : State) {out : State} (hm : Canonical s.mem) (he : execRemoteStoreRefused t s = .next out) : Canonical out.mem := by
  refine happen_canonical ?_ he
  repeat' (first | with_reducible exact hm | with_reducible apply State.refuseOldest_wf)
theorem execDeferredResultWrite_canonical (t : TaskKey) (i : Nat) (lanes : BitVec 256) (s : State) {out : State} (hm : Canonical s.mem) (he : execDeferredResultWrite t i lanes s = .next out) : Canonical out.mem := by
  refine happen_canonical ?_ he
  repeat' simp only [State.fixArriving_mem, State.landSome_mem, State.reread_mem, *]
theorem execUndecodableParcel_canonical (code : FaultCode) (s : State) {out : State} (hm : Canonical s.mem) (he : execUndecodableParcel code s = .next out) : Canonical out.mem := by
  refine happen_canonical ?_ he
  repeat' simp only [State.raise_mem, *]
theorem execReferenceClockTick_canonical (d : Nat) (s : State) {out : State} (hm : Canonical s.mem) (he : execReferenceClockTick d s = .next out) : Canonical out.mem := by
  refine happen_canonical ?_ he
  repeat' simp only [State.setDie_mem, *]
theorem execSend_canonical (f : Fields) (s : State) {out : State} (hm : Canonical s.mem) (he : execSend f s = .next out) : Canonical out.mem := by
  refine run_canonical hm ?_ he
  repeat' (first | with_reducible exact hm | with_reducible apply sendBody_wf)
theorem execSendSpawn_canonical (f : Fields) (s : State) {out : State} (hm : Canonical s.mem) (he : execSendSpawn f s = .next out) : Canonical out.mem := by
  refine run_canonical hm ?_ he
  repeat' (first | with_reducible exact hm | with_reducible apply sendBody_wf)
theorem execSendInboxEntry_canonical (c : CoreId) (s : State) {out : State} (hm : Canonical s.mem) (he : execSendInboxEntry c s = .next out) : Canonical out.mem := by
  refine happen_canonical ?_ he
  repeat' simp only [State.senderEnters_mem, *]
theorem execRouterDelivery_canonical (i : Nat) (s : State) {out : State} (hm : Canonical s.mem) (he : execRouterDelivery i s = .next out) : Canonical out.mem := by
  refine happen_canonical ?_ he
  repeat' simp only [State.route_mem, *]
theorem execMessageArrival_canonical (i : Nat) (s : State) {out : State} (hm : Canonical s.mem) (he : execMessageArrival i s = .next out) : Canonical out.mem := by
  refine happen_canonical ?_ he
  repeat' simp only [State.messageArrives_mem, *]
theorem execSpawnPush_canonical (c : CoreId) (s : State) {out : State} (hm : Canonical s.mem) (he : execSpawnPush c s = .next out) : Canonical out.mem := by
  refine happen_canonical ?_ he
  repeat' (first | split | simp only [State.spawnPushed_mem, *])
theorem execRecv_canonical (f : Fields) (s : State) {out : State} (hm : Canonical s.mem) (he : execRecv f s = .next out) : Canonical out.mem := by
  refine run_canonical hm ?_ he
  repeat' (first | with_reducible exact hm | with_reducible apply recvBody_wf)
theorem execRecvDelivery_canonical (t : TaskKey) (s : State) {out : State} (hm : Canonical s.mem) (he : execRecvDelivery t s = .next out) : Canonical out.mem := by
  refine happen_canonical ?_ he
  repeat' (first | with_reducible exact hm | with_reducible apply State.reissue_wf | with_reducible apply recvBody_wf | split)
theorem execNbmv_canonical (f : Fields) (s : State) {out : State} (hm : Canonical s.mem) (he : execNbmv f s = .next out) : Canonical out.mem := by
  refine run_canonical hm ?_ he
  repeat' (first | with_reducible exact hm | with_reducible apply nbmvBody_wf)
theorem execNbmvJobStart_canonical (stack : Nat) (s : State) {out : State} (hm : Canonical s.mem) (he : execNbmvJobStart stack s = .next out) : Canonical out.mem := by
  refine happen_canonical ?_ he
  repeat' simp only [State.nbStart_mem, *]
theorem execNbmvJobComplete_canonical (stack : Nat) (s : State) {out : State} (hm : Canonical s.mem) (he : execNbmvJobComplete stack s = .next out) : Canonical out.mem := by
  refine happen_canonical ?_ he
  repeat' (first | with_reducible exact hm | with_reducible apply State.nbComplete_wf)
theorem execHostAccess_canonical (what : HostOp) (addr : Nat) (bytes : List Byte) (s : State) {out : State} (hm : Canonical s.mem) (he : execHostAccess what addr bytes s = .next out) : Canonical out.mem := by
  refine happen_canonical ?_ he
  repeat' (first | with_reducible exact hm | with_reducible apply State.hostAccess_wf)
theorem execDeviceControl2Write_canonical (fn : Nat) (enable : Bool) (s : State) {out : State} (hm : Canonical s.mem) (he : execDeviceControl2Write fn enable s = .next out) : Canonical out.mem := by
  refine happen_canonical ?_ he
  repeat' simp only [State.deviceControl_mem, *]
theorem execPriResponse_canonical (i : Nat) (ok : Bool) (s : State) {out : State} (hm : Canonical s.mem) (he : execPriResponse i ok s = .next out) : Canonical out.mem := by
  refine happen_canonical ?_ he
  repeat' simp only [State.priAnswer_mem, *]
theorem execCorrectedError_canonical (loc : EccLoc) (time : Nat) (s : State) {out : State} (hm : Canonical s.mem) (he : execCorrectedError loc time s = .next out) : Canonical out.mem := by
  refine happen_canonical ?_ he
  repeat' simp only [State.corrected_mem, *]
theorem execUncorrectableError_canonical (loc : ErrorLoc) (s : State) {out : State} (hm : Canonical s.mem) (he : execUncorrectableError loc s = .next out) : Canonical out.mem := by
  refine happen_canonical ?_ he
  repeat' simp only [State.strike_mem, *]
theorem execLastingFaultAction_canonical (loc : EccLoc) (s : State) {out : State} (hm : Canonical s.mem) (he : execLastingFaultAction loc s = .next out) : Canonical out.mem := by
  refine happen_canonical ?_ he
  repeat' simp only [State.lastingFault_mem, *]
theorem execErrorWindowLapse_canonical (loc : EccLoc) (time : Nat) (s : State) {out : State} (hm : Canonical s.mem) (he : execErrorWindowLapse loc time s = .next out) : Canonical out.mem := by
  refine happen_canonical ?_ he
  repeat' simp only [State.windowLapse_mem, *]
theorem execFlitReceive_canonical (port seq ack : Nat) (good nack : Bool) (payload : List Byte) (s : State) {out : State} (hm : Canonical s.mem) (he : execFlitReceive port seq ack good nack payload s = .next out) : Canonical out.mem := by
  refine happen_canonical ?_ he
  repeat' simp only [State.flitReceive_mem, *]
theorem execFlitReplay_canonical (port seq : Nat) (s : State) {out : State} (hm : Canonical s.mem) (he : execFlitReplay port seq s = .next out) : Canonical out.mem := by
  refine happen_canonical ?_ he
  repeat' simp only [State.flitReplay_mem, *]
theorem execLinkTraining_canonical (port : Nat) (range : Nat × Nat) (number : Option (BitVec 6)) (s : State) {out : State} (hm : Canonical s.mem) (he : execLinkTraining port range number s = .next out) : Canonical out.mem := by
  refine happen_canonical ?_ he
  repeat' simp only [State.linkTraining_mem, *]
theorem execPortDown_canonical (port : Nat) (s : State) {out : State} (hm : Canonical s.mem) (he : execPortDown port s = .next out) : Canonical out.mem := by
  refine happen_canonical ?_ he
  repeat' simp only [State.portDown_mem, *]
theorem execEthernetFrame_canonical (port : Nat) (sent ptp : Bool) (frame : List Byte) (s : State) {out : State} (hm : Canonical s.mem) (he : execEthernetFrame port sent ptp frame s = .next out) : Canonical out.mem := by
  refine happen_canonical ?_ he
  repeat' simp only [State.ethernetFrame_mem, *]
theorem execBoot_canonical (results : List BootResult) (s : State) {out : State} (hm : Canonical s.mem) (he : execBoot results s = .next out) : Canonical out.mem := by
  refine happen_canonical ?_ he
  repeat' simp only [State.bootRun_mem, *]
theorem execColdStartWarming_canonical (dies bases : List Int) (s : State) {out : State} (hm : Canonical s.mem) (he : execColdStartWarming dies bases s = .next out) : Canonical out.mem := by
  refine happen_canonical ?_ he
  repeat' simp only [State.warm_mem, *]
theorem execWarmingTimeout_canonical (s : State) {out : State} (hm : Canonical s.mem) (he : execWarmingTimeout s = .next out) : Canonical out.mem := by
  refine happen_canonical ?_ he
  repeat' simp only [State.warmingFails_mem, *]
theorem execAttestationRequest_canonical (nonce : Word64) (s : State) {out : State} (hm : Canonical s.mem) (he : execAttestationRequest nonce s = .next out) : Canonical out.mem := by
  refine happen_canonical ?_ he
  repeat' simp only [State.attest_mem, *]
theorem execFirmwareMailboxMessage_canonical (m : MailboxMessage) (s : State) {out : State} (hm : Canonical s.mem) (he : execFirmwareMailboxMessage m s = .next out) : Canonical out.mem := by
  refine happen_canonical ?_ he
  repeat' simp only [State.mailboxMessage_mem, *]
theorem execFirmwareKernelStart_canonical (c : CoreId) (code argument : Word64) (entry : Word32) (s : State) {out : State} (hm : Canonical s.mem) (he : execFirmwareKernelStart c code argument entry s = .next out) : Canonical out.mem := by
  refine happen_canonical ?_ he
  repeat' simp only [State.kernelStart_mem, *]
theorem execClockStretch_canonical (k : ClusterId) (steps : Nat) (s : State) {out : State} (hm : Canonical s.mem) (he : execClockStretch k steps s = .next out) : Canonical out.mem := by
  refine happen_canonical ?_ he
  repeat' simp only [State.stretch_mem, *]
theorem execStretchRelax_canonical (k : ClusterId) (s : State) {out : State} (hm : Canonical s.mem) (he : execStretchRelax k s = .next out) : Canonical out.mem := by
  refine happen_canonical ?_ he
  repeat' simp only [State.relax_mem, *]
theorem execStretchCountRead_canonical (k : ClusterId) (steps : Bool) (s : State) {out : State} (hm : Canonical s.mem) (he : execStretchCountRead k steps s = .next out) : Canonical out.mem := by
  refine happen_canonical ?_ he
  repeat' simp only [State.stretchRead_mem, *]
theorem execNop_canonical (f : Fields) (s : State) {out : State} (hm : Canonical s.mem) (he : execNop f s = .next out) : Canonical out.mem := by
  refine run_canonical hm ?_ he
  repeat' (first | with_reducible exact hm | with_reducible apply Res.On_ok)
theorem execAdd_canonical (f : Fields) (s : State) {out : State} (hm : Canonical s.mem) (he : execAdd f s = .next out) : Canonical out.mem := by
  refine run_canonical hm ?_ he
  repeat' (first | with_reducible exact hm | with_reducible apply alu_mem)
theorem execSub_canonical (f : Fields) (s : State) {out : State} (hm : Canonical s.mem) (he : execSub f s = .next out) : Canonical out.mem := by
  refine run_canonical hm ?_ he
  repeat' (first | with_reducible exact hm | with_reducible apply alu_mem)
theorem execMul_canonical (f : Fields) (s : State) {out : State} (hm : Canonical s.mem) (he : execMul f s = .next out) : Canonical out.mem := by
  refine run_canonical hm ?_ he
  repeat' (first | with_reducible exact hm | with_reducible apply alu_mem)
theorem execMulh_canonical (f : Fields) (s : State) {out : State} (hm : Canonical s.mem) (he : execMulh f s = .next out) : Canonical out.mem := by
  refine run_canonical hm ?_ he
  repeat' (first | with_reducible exact hm | with_reducible apply alu_mem)
theorem execDiv_canonical (f : Fields) (s : State) {out : State} (hm : Canonical s.mem) (he : execDiv f s = .next out) : Canonical out.mem := by
  refine run_canonical hm ?_ he
  repeat' (first | with_reducible exact hm | with_reducible apply alu_mem)
theorem execRem_canonical (f : Fields) (s : State) {out : State} (hm : Canonical s.mem) (he : execRem f s = .next out) : Canonical out.mem := by
  refine run_canonical hm ?_ he
  repeat' (first | with_reducible exact hm | with_reducible apply alu_mem)
theorem execAnd_canonical (f : Fields) (s : State) {out : State} (hm : Canonical s.mem) (he : execAnd f s = .next out) : Canonical out.mem := by
  refine run_canonical hm ?_ he
  repeat' (first | with_reducible exact hm | with_reducible apply alu_mem)
theorem execOr_canonical (f : Fields) (s : State) {out : State} (hm : Canonical s.mem) (he : execOr f s = .next out) : Canonical out.mem := by
  refine run_canonical hm ?_ he
  repeat' (first | with_reducible exact hm | with_reducible apply alu_mem)
theorem execXor_canonical (f : Fields) (s : State) {out : State} (hm : Canonical s.mem) (he : execXor f s = .next out) : Canonical out.mem := by
  refine run_canonical hm ?_ he
  repeat' (first | with_reducible exact hm | with_reducible apply alu_mem)
theorem execAndn_canonical (f : Fields) (s : State) {out : State} (hm : Canonical s.mem) (he : execAndn f s = .next out) : Canonical out.mem := by
  refine run_canonical hm ?_ he
  repeat' (first | with_reducible exact hm | with_reducible apply alu_mem)
theorem execShl_canonical (f : Fields) (s : State) {out : State} (hm : Canonical s.mem) (he : execShl f s = .next out) : Canonical out.mem := by
  refine run_canonical hm ?_ he
  repeat' (first | with_reducible exact hm | with_reducible apply alu_mem)
theorem execShr_canonical (f : Fields) (s : State) {out : State} (hm : Canonical s.mem) (he : execShr f s = .next out) : Canonical out.mem := by
  refine run_canonical hm ?_ he
  repeat' (first | with_reducible exact hm | with_reducible apply alu_mem)
theorem execSra_canonical (f : Fields) (s : State) {out : State} (hm : Canonical s.mem) (he : execSra f s = .next out) : Canonical out.mem := by
  refine run_canonical hm ?_ he
  repeat' (first | with_reducible exact hm | with_reducible apply alu_mem)
theorem execRor_canonical (f : Fields) (s : State) {out : State} (hm : Canonical s.mem) (he : execRor f s = .next out) : Canonical out.mem := by
  refine run_canonical hm ?_ he
  repeat' (first | with_reducible exact hm | with_reducible apply alu_mem)
theorem execMin_canonical (f : Fields) (s : State) {out : State} (hm : Canonical s.mem) (he : execMin f s = .next out) : Canonical out.mem := by
  refine run_canonical hm ?_ he
  repeat' (first | with_reducible exact hm | with_reducible apply alu_mem)
theorem execMax_canonical (f : Fields) (s : State) {out : State} (hm : Canonical s.mem) (he : execMax f s = .next out) : Canonical out.mem := by
  refine run_canonical hm ?_ he
  repeat' (first | with_reducible exact hm | with_reducible apply alu_mem)
theorem execCmp_canonical (f : Fields) (s : State) {out : State} (hm : Canonical s.mem) (he : execCmp f s = .next out) : Canonical out.mem := by
  refine run_canonical hm ?_ he
  repeat' (first | with_reducible apply Res.On_ok | simp only [State.setX_mem, *])
theorem execCmpp_canonical (f : Fields) (s : State) {out : State} (hm : Canonical s.mem) (he : execCmpp f s = .next out) : Canonical out.mem := by
  refine run_canonical hm ?_ he
  repeat' (first | with_reducible apply Res.On_ok | simp only [State.setP_mem, *])
theorem execSel_canonical (f : Fields) (s : State) {out : State} (hm : Canonical s.mem) (he : execSel f s = .next out) : Canonical out.mem := by
  refine run_canonical hm ?_ he
  repeat' (first | with_reducible apply Res.On_ok | simp only [State.setX_mem, *])
theorem execLi_canonical (f : Fields) (s : State) {out : State} (hm : Canonical s.mem) (he : execLi f s = .next out) : Canonical out.mem := by
  refine run_canonical hm ?_ he
  repeat' (first | with_reducible apply Res.On_ok | simp only [State.setX_mem, *])
theorem execLiH_canonical (f : Fields) (s : State) {out : State} (hm : Canonical s.mem) (he : execLiH f s = .next out) : Canonical out.mem := by
  refine run_canonical hm ?_ he
  repeat' (first | with_reducible apply Res.On_ok | simp only [State.setX_mem, *])
theorem execClz_canonical (f : Fields) (s : State) {out : State} (hm : Canonical s.mem) (he : execClz f s = .next out) : Canonical out.mem := by
  refine run_canonical hm ?_ he
  repeat' (first | with_reducible exact hm | with_reducible apply alu1_mem)
theorem execCtz_canonical (f : Fields) (s : State) {out : State} (hm : Canonical s.mem) (he : execCtz f s = .next out) : Canonical out.mem := by
  refine run_canonical hm ?_ he
  repeat' (first | with_reducible exact hm | with_reducible apply alu1_mem)
theorem execPopc_canonical (f : Fields) (s : State) {out : State} (hm : Canonical s.mem) (he : execPopc f s = .next out) : Canonical out.mem := by
  refine run_canonical hm ?_ he
  repeat' (first | with_reducible apply Res.On_ok | simp only [State.setX_mem, *])
theorem execBrev_canonical (f : Fields) (s : State) {out : State} (hm : Canonical s.mem) (he : execBrev f s = .next out) : Canonical out.mem := by
  refine run_canonical hm ?_ he
  repeat' (first | with_reducible exact hm | with_reducible apply alu1_mem)
theorem execExt_canonical (f : Fields) (s : State) {out : State} (hm : Canonical s.mem) (he : execExt f s = .next out) : Canonical out.mem := by
  refine run_canonical hm ?_ he
  repeat' (first | with_reducible apply Res.On_ok | simp only [State.setX_mem, *])
theorem execIns_canonical (f : Fields) (s : State) {out : State} (hm : Canonical s.mem) (he : execIns f s = .next out) : Canonical out.mem := by
  refine run_canonical hm ?_ he
  repeat' (first | with_reducible apply Res.On_ok | simp only [State.setX_mem, *])
theorem execPdep_canonical (f : Fields) (s : State) {out : State} (hm : Canonical s.mem) (he : execPdep f s = .next out) : Canonical out.mem := by
  refine run_canonical hm ?_ he
  repeat' (first | with_reducible apply Res.On_ok | simp only [State.setX_mem, *])
theorem execPext_canonical (f : Fields) (s : State) {out : State} (hm : Canonical s.mem) (he : execPext f s = .next out) : Canonical out.mem := by
  refine run_canonical hm ?_ he
  repeat' (first | with_reducible apply Res.On_ok | simp only [State.setX_mem, *])
theorem execGfm_canonical (f : Fields) (s : State) {out : State} (hm : Canonical s.mem) (he : execGfm f s = .next out) : Canonical out.mem := by
  refine run_canonical hm ?_ he
  repeat' (first | with_reducible apply Res.On_ok | simp only [State.setX_mem, *])
theorem execBperm_canonical (f : Fields) (s : State) {out : State} (hm : Canonical s.mem) (he : execBperm f s = .next out) : Canonical out.mem := by
  refine run_canonical hm ?_ he
  repeat' (first | with_reducible apply Res.On_ok | simp only [State.setX_mem, *])
theorem execBr_canonical (f : Fields) (s : State) {out : State} (hm : Canonical s.mem) (he : execBr f s = .next out) : Canonical out.mem := by
  refine run_canonical hm ?_ he
  repeat' (first | with_reducible exact hm | with_reducible apply transfer_mem)
theorem execBz_canonical (f : Fields) (s : State) {out : State} (hm : Canonical s.mem) (he : execBz f s = .next out) : Canonical out.mem := by
  refine run_canonical hm ?_ he
  repeat' (first | with_reducible exact hm | with_reducible apply branchIf_mem)
theorem execBnz_canonical (f : Fields) (s : State) {out : State} (hm : Canonical s.mem) (he : execBnz f s = .next out) : Canonical out.mem := by
  refine run_canonical hm ?_ he
  repeat' (first | with_reducible exact hm | with_reducible apply branchIf_mem)
theorem execBp_canonical (f : Fields) (s : State) {out : State} (hm : Canonical s.mem) (he : execBp f s = .next out) : Canonical out.mem := by
  refine run_canonical hm ?_ he
  repeat' (first | with_reducible exact hm | with_reducible apply branchIf_mem)
theorem execCall_canonical (f : Fields) (s : State) {out : State} (hm : Canonical s.mem) (he : execCall f s = .next out) : Canonical out.mem := by
  refine run_canonical hm ?_ he
  repeat' (first | with_reducible exact hm | with_reducible apply transfer_mem)
theorem execCallr_canonical (f : Fields) (s : State) {out : State} (hm : Canonical s.mem) (he : execCallr f s = .next out) : Canonical out.mem := by
  refine run_canonical hm ?_ he
  repeat' (first | with_reducible exact hm | with_reducible apply transfer_mem)
theorem execJmp_canonical (f : Fields) (s : State) {out : State} (hm : Canonical s.mem) (he : execJmp f s = .next out) : Canonical out.mem := by
  refine run_canonical hm ?_ he
  repeat' (first | with_reducible exact hm | with_reducible apply transfer_mem)
theorem execRet_canonical (f : Fields) (s : State) {out : State} (hm : Canonical s.mem) (he : execRet f s = .next out) : Canonical out.mem := by
  refine run_canonical hm ?_ he
  repeat' (first | with_reducible exact hm | with_reducible apply transfer_mem)
theorem execLoop_canonical (f : Fields) (s : State) {out : State} (hm : Canonical s.mem) (he : execLoop f s = .next out) : Canonical out.mem := by
  refine run_canonical hm ?_ he
  repeat' (first | with_reducible exact hm | with_reducible apply loopBody_mem)
theorem execLexit_canonical (f : Fields) (s : State) {out : State} (hm : Canonical s.mem) (he : execLexit f s = .next out) : Canonical out.mem := by
  refine run_canonical hm ?_ he
  repeat' (first | with_reducible exact hm | with_reducible apply transfer_mem)
theorem execMfl_canonical (f : Fields) (s : State) {out : State} (hm : Canonical s.mem) (he : execMfl f s = .next out) : Canonical out.mem := by
  refine run_canonical hm ?_ he
  repeat' (first | with_reducible apply Res.On_ok | simp only [State.setX_mem, *])
theorem execMtl_canonical (f : Fields) (s : State) {out : State} (hm : Canonical s.mem) (he : execMtl f s = .next out) : Canonical out.mem := by
  refine run_canonical hm ?_ he
  repeat' (first | with_reducible exact hm | with_reducible apply mtlBody_mem)
theorem execTrap_canonical (f : Fields) (s : State) {out : State} (hm : Canonical s.mem) (he : execTrap f s = .next out) : Canonical out.mem := by
  refine run_canonical hm ?_ he
  repeat' (first | with_reducible exact hm | with_reducible apply Res.On_fault)
theorem execFabricJobStart_canonical (k : ClusterId) (s : State) {out : State} (hm : Canonical s.mem) (he : execFabricJobStart k s = .next out) : Canonical out.mem := by
  refine happen_canonical ?_ he
  repeat' simp only [State.startJob_mem, *]
theorem execChunkCommit_canonical (k : ClusterId) (s : State) {out : State} (hm : Canonical s.mem) (he : execChunkCommit k s = .next out) : Canonical out.mem := by
  refine happen_canonical ?_ he
  repeat' (first | with_reducible exact hm | with_reducible apply State.commitChunk_wf)
theorem execCpy_canonical (f : Fields) (s : State) {out : State} (hm : Canonical s.mem) (he : execCpy f s = .next out) : Canonical out.mem := by
  refine run_canonical hm ?_ he
  repeat' (first | with_reducible exact hm | with_reducible apply cpyBody_wf)
theorem execCpyNode_canonical (f : Fields) (s : State) {out : State} (hm : Canonical s.mem) (he : execCpyNode f s = .next out) : Canonical out.mem := by
  refine run_canonical hm ?_ he
  repeat' (first | with_reducible exact hm | with_reducible apply cpyBody_wf)
theorem execFabricJobComplete_canonical (k : ClusterId) (s : State) {out : State} (hm : Canonical s.mem) (he : execFabricJobComplete k s = .next out) : Canonical out.mem := by
  refine happen_canonical ?_ he
  repeat' (first | with_reducible exact hm | with_reducible apply State.jobDone_wf)
theorem execSgld_canonical (f : Fields) (s : State) {out : State} (hm : Canonical s.mem) (he : execSgld f s = .next out) : Canonical out.mem := by
  refine run_canonical hm ?_ he
  repeat' (first | with_reducible exact hm | with_reducible apply sgldBody_wf)
theorem execCopyNodeKick_canonical (d n : Nat) (s : State) {out : State} (hm : Canonical s.mem) (he : execCopyNodeKick d n s = .next out) : Canonical out.mem := by
  refine happen_canonical ?_ he
  repeat' (first | with_reducible exact hm | with_reducible apply State.kickNode_wf)
theorem execFld_canonical (f : Fields) (s : State) {out : State} (hm : Canonical s.mem) (he : execFld f s = .next out) : Canonical out.mem := by
  refine run_canonical hm ?_ he
  repeat' (first | with_reducible exact hm | with_reducible apply feBody_wf)
theorem execFtake_canonical (f : Fields) (s : State) {out : State} (hm : Canonical s.mem) (he : execFtake f s = .next out) : Canonical out.mem := by
  refine run_canonical hm ?_ he
  repeat' (first | with_reducible exact hm | with_reducible apply feBody_wf)
theorem execFput_canonical (f : Fields) (s : State) {out : State} (hm : Canonical s.mem) (he : execFput f s = .next out) : Canonical out.mem := by
  refine run_canonical hm ?_ he
  repeat' (first | with_reducible exact hm | with_reducible apply feBody_wf)
theorem execFset_canonical (f : Fields) (s : State) {out : State} (hm : Canonical s.mem) (he : execFset f s = .next out) : Canonical out.mem := by
  refine run_canonical hm ?_ he
  repeat' (first | with_reducible exact hm | with_reducible apply feBody_wf)
theorem execFclr_canonical (f : Fields) (s : State) {out : State} (hm : Canonical s.mem) (he : execFclr f s = .next out) : Canonical out.mem := by
  refine run_canonical hm ?_ he
  repeat' (first | with_reducible exact hm | with_reducible apply feBody_wf)
theorem execFullEmptyRetry_canonical (word : Nat) (s : State) {out : State} (hm : Canonical s.mem) (he : execFullEmptyRetry word s = .next out) : Canonical out.mem := by
  refine happen_canonical ?_ he
  repeat' (first | with_reducible exact hm | with_reducible apply State.retryWord_wf)
theorem execSigdecl_canonical (f : Fields) (s : State) {out : State} (hm : Canonical s.mem) (he : execSigdecl f s = .next out) : Canonical out.mem := by
  refine run_canonical hm ?_ he
  repeat' (first | with_reducible exact hm | with_reducible apply sigdeclBody_wf)
theorem execAmo_canonical (f : Fields) (s : State) {out : State} (hm : Canonical s.mem) (he : execAmo f s = .next out) : Canonical out.mem := by
  refine run_canonical hm ?_ he
  repeat' (first | with_reducible exact hm | with_reducible apply amoBody_wf)
theorem execCas_canonical (f : Fields) (s : State) {out : State} (hm : Canonical s.mem) (he : execCas f s = .next out) : Canonical out.mem := by
  refine run_canonical hm ?_ he
  repeat' (first | with_reducible exact hm | with_reducible apply casBody_wf)
theorem execCas2_canonical (f : Fields) (s : State) {out : State} (hm : Canonical s.mem) (he : execCas2 f s = .next out) : Canonical out.mem := by
  refine run_canonical hm ?_ he
  repeat' (first | with_reducible exact hm | with_reducible apply cas2Body_wf)
theorem execAtomicResponseError_canonical (t : TaskKey) (i : Nat) (s : State) {out : State} (hm : Canonical s.mem) (he : execAtomicResponseError t i s = .next out) : Canonical out.mem := by
  refine happen_canonical ?_ he
  repeat' simp only [State.atomicLost_mem, *]
theorem execMfc_canonical (f : Fields) (s : State) {out : State} (hm : Canonical s.mem) (he : execMfc f s = .next out) : Canonical out.mem := by
  refine run_canonical hm ?_ he
  repeat' (first | with_reducible exact hm | with_reducible apply mfcBody_mem)
theorem execMtc_canonical (f : Fields) (s : State) {out : State} (hm : Canonical s.mem) (he : execMtc f s = .next out) : Canonical out.mem := by
  refine run_canonical hm ?_ he
  repeat' (first | with_reducible exact hm | with_reducible apply mtcBody_mem)
theorem execEret_canonical (f : Fields) (s : State) {out : State} (hm : Canonical s.mem) (he : execEret f s = .next out) : Canonical out.mem := by
  refine run_canonical hm ?_ he
  repeat' (first | with_reducible exact hm | with_reducible apply eretBody_mem)
theorem execHnew_canonical (f : Fields) (s : State) {out : State} (hm : Canonical s.mem) (he : execHnew f s = .next out) : Canonical out.mem := by
  refine run_canonical hm ?_ he
  repeat' (first | with_reducible exact hm | with_reducible apply hnewBody_wf)
theorem execHrev_canonical (f : Fields) (s : State) {out : State} (hm : Canonical s.mem) (he : execHrev f s = .next out) : Canonical out.mem := by
  refine run_canonical hm ?_ he
  repeat' (first | with_reducible exact hm | with_reducible apply hrevBody_wf)
theorem execRgset_canonical (f : Fields) (s : State) {out : State} (hm : Canonical s.mem) (he : execRgset f s = .next out) : Canonical out.mem := by
  refine run_canonical hm ?_ he
  repeat' (first | with_reducible exact hm | with_reducible apply rgsetBody_mem)
theorem execTenset_canonical (f : Fields) (s : State) {out : State} (hm : Canonical s.mem) (he : execTenset f s = .next out) : Canonical out.mem := by
  refine run_canonical hm ?_ he
  repeat' (first | with_reducible exact hm | with_reducible apply tensetBody_mem)
theorem execStoprd_canonical (f : Fields) (s : State) {out : State} (hm : Canonical s.mem) (he : execStoprd f s = .next out) : Canonical out.mem := by
  refine run_canonical hm ?_ he
  repeat' (first | with_reducible exact hm | with_reducible apply stoprdBody_wf)
theorem execWftrd_canonical (f : Fields) (s : State) {out : State} (hm : Canonical s.mem) (he : execWftrd f s = .next out) : Canonical out.mem := by
  refine run_canonical hm ?_ he
  repeat' (first | with_reducible exact hm | with_reducible apply wftrdBody_wf)
theorem execAtlog_canonical (f : Fields) (s : State) {out : State} (hm : Canonical s.mem) (he : execAtlog f s = .next out) : Canonical out.mem := by
  refine run_canonical hm ?_ he
  repeat' (first | with_reducible exact hm | with_reducible apply atlogBody_wf)
theorem execCtxsv_canonical (f : Fields) (s : State) {out : State} (hm : Canonical s.mem) (he : execCtxsv f s = .next out) : Canonical out.mem := by
  refine run_canonical hm ?_ he
  repeat' (first | with_reducible exact hm | with_reducible apply ctxsvBody_wf)
theorem execCtxld_canonical (f : Fields) (s : State) {out : State} (hm : Canonical s.mem) (he : execCtxld f s = .next out) : Canonical out.mem := by
  refine run_canonical hm ?_ he
  repeat' (first | with_reducible exact hm | with_reducible apply ctxldBody_mem)
theorem execMgrd_canonical (f : Fields) (s : State) {out : State} (hm : Canonical s.mem) (he : execMgrd f s = .next out) : Canonical out.mem := by
  refine run_canonical hm ?_ he
  repeat' (first | with_reducible exact hm | with_reducible apply mgrdBody_mem)
theorem execMgwr_canonical (f : Fields) (s : State) {out : State} (hm : Canonical s.mem) (he : execMgwr f s = .next out) : Canonical out.mem := by
  refine run_canonical hm ?_ he
  repeat' (first | with_reducible exact hm | with_reducible apply mgwrBody_wf)
theorem execMgmtRegisterWrite_canonical (addr : Word32) (v : Word32) (s : State) {out : State} (hm : Canonical s.mem) (he : execMgmtRegisterWrite addr v s = .next out) : Canonical out.mem := by
  refine happen_canonical ?_ he
  repeat' (first | split | simp only [State.plainWrite_mem, *])
theorem execTgnode_canonical (f : Fields) (s : State) {out : State} (hm : Canonical s.mem) (he : execTgnode f s = .next out) : Canonical out.mem := by
  refine run_canonical hm ?_ he
  repeat' (first | with_reducible exact hm | with_reducible apply tgnodeBody_mem)
theorem execTgedge_canonical (f : Fields) (s : State) {out : State} (hm : Canonical s.mem) (he : execTgedge f s = .next out) : Canonical out.mem := by
  refine run_canonical hm ?_ he
  repeat' (first | with_reducible exact hm | with_reducible apply tgedgeBody_mem)
theorem execTgrun_canonical (f : Fields) (s : State) {out : State} (hm : Canonical s.mem) (he : execTgrun f s = .next out) : Canonical out.mem := by
  refine run_canonical hm ?_ he
  repeat' (first | with_reducible exact hm | with_reducible apply tgrunBody_wf)
theorem execAgx_canonical (f : Fields) (s : State) {out : State} (hm : Canonical s.mem) (he : execAgx f s = .next out) : Canonical out.mem := by
  refine run_canonical hm ?_ he
  repeat' (first | with_reducible exact hm | with_reducible apply agxBody_wf)
theorem execTgNodeReady_canonical (d n : Nat) (s : State) {out : State} (hm : Canonical s.mem) (he : execTgNodeReady d n s = .next out) : Canonical out.mem := by
  refine happen_canonical ?_ he
  repeat' simp only [State.nodeReady_mem, *]
theorem execTgHeldPlace_canonical (d : Nat) (s : State) {out : State} (hm : Canonical s.mem) (he : execTgHeldPlace d s = .next out) : Canonical out.mem := by
  refine happen_canonical ?_ he
  repeat' simp only [State.placeHeld_mem, *]
theorem execTgNodeFinish_canonical (d n : Nat) (s : State) {out : State} (hm : Canonical s.mem) (he : execTgNodeFinish d n s = .next out) : Canonical out.mem := by
  refine happen_canonical ?_ he
  repeat' simp only [State.nodeFinish_mem, *]
theorem execDequePop_canonical (c : CoreId) (s : State) {out : State} (hm : Canonical s.mem) (he : execDequePop c s = .next out) : Canonical out.mem := by
  refine happen_canonical ?_ he
  repeat' simp only [State.pop_mem, *]
theorem execSpillReturn_canonical (c : CoreId) (s : State) {out : State} (hm : Canonical s.mem) (he : execSpillReturn c s = .next out) : Canonical out.mem := by
  refine happen_canonical ?_ he
  repeat' simp only [State.unspill_mem, *]
theorem execSteal_canonical (c : CoreId) (s : State) {out : State} (hm : Canonical s.mem) (he : execSteal c s = .next out) : Canonical out.mem := by
  refine happen_canonical ?_ he
  repeat' simp only [State.stealBy_mem, *]
theorem execFork_canonical (f : Fields) (s : State) {out : State} (hm : Canonical s.mem) (he : execFork f s = .next out) : Canonical out.mem := by
  refine run_canonical hm ?_ he
  repeat' (first | with_reducible exact hm | with_reducible apply forkBody_wf)
theorem execForkPlace_canonical (t : TaskKey) (s : State) {out : State} (hm : Canonical s.mem) (he : execForkPlace t s = .next out) : Canonical out.mem := by
  refine happen_canonical ?_ he
  repeat' simp only [State.forkPlaced_mem, *]
theorem execJoin_canonical (f : Fields) (s : State) {out : State} (hm : Canonical s.mem) (he : execJoin f s = .next out) : Canonical out.mem := by
  refine run_canonical hm ?_ he
  repeat' (first | with_reducible exact hm | with_reducible apply joinBody_mem)
theorem execJoinWake_canonical (t : TaskKey) (s : State) {out : State} (hm : Canonical s.mem) (he : execJoinWake t s = .next out) : Canonical out.mem := by
  refine happen_canonical ?_ he
  repeat' (first | with_reducible exact hm | with_reducible apply State.reissue_wf | with_reducible apply joinBody_mem)
theorem execHalt_canonical (f : Fields) (s : State) {out : State} (hm : Canonical s.mem) (he : execHalt f s = .next out) : Canonical out.mem := by
  refine run_canonical hm ?_ he
  repeat' (first | with_reducible exact hm | with_reducible apply haltBody_wf)
theorem execHaltRetain_canonical (f : Fields) (s : State) {out : State} (hm : Canonical s.mem) (he : execHaltRetain f s = .next out) : Canonical out.mem := by
  refine run_canonical hm ?_ he
  repeat' (first | with_reducible exact hm | with_reducible apply haltRetainBody_wf)
theorem execYield_canonical (f : Fields) (s : State) {out : State} (hm : Canonical s.mem) (he : execYield f s = .next out) : Canonical out.mem := by
  refine run_canonical hm ?_ he
  repeat' (first | with_reducible exact hm | with_reducible apply yieldBody_mem)
theorem execIdle_canonical (f : Fields) (s : State) {out : State} (hm : Canonical s.mem) (he : execIdle f s = .next out) : Canonical out.mem := by
  refine run_canonical hm ?_ he
  repeat' (first | with_reducible exact hm | with_reducible apply idleBody_mem)
theorem execIdleWake_canonical (t : TaskKey) (s : State) {out : State} (hm : Canonical s.mem) (he : execIdleWake t s = .next out) : Canonical out.mem := by
  refine happen_canonical ?_ he
  repeat' simp only [State.idleWoken_mem, *]
theorem execMigration_canonical (t : TaskKey) (s : State) {out : State} (hm : Canonical s.mem) (he : execMigration t s = .next out) : Canonical out.mem := by
  refine happen_canonical ?_ he
  repeat' (first | with_reducible exact hm | with_reducible apply State.migrate_wf)
theorem execIcoldWrite_canonical (c : CoreId) (e : Nat) (v : Word32) (s : State) {out : State} (hm : Canonical s.mem) (he : execIcoldWrite c e v s = .next out) : Canonical out.mem := by
  refine happen_canonical ?_ he
  repeat' (first | split | simp only [State.setCore_mem, *])
theorem execVadd_canonical (f : Fields) (s : State) {out : State} (hm : Canonical s.mem) (he : execVadd f s = .next out) : Canonical out.mem := by
  refine run_canonical hm ?_ he
  repeat' (first | with_reducible exact hm | with_reducible apply vecOp_mem)
theorem execVsub_canonical (f : Fields) (s : State) {out : State} (hm : Canonical s.mem) (he : execVsub f s = .next out) : Canonical out.mem := by
  refine run_canonical hm ?_ he
  repeat' (first | with_reducible exact hm | with_reducible apply vecOp_mem)
theorem execVmul_canonical (f : Fields) (s : State) {out : State} (hm : Canonical s.mem) (he : execVmul f s = .next out) : Canonical out.mem := by
  refine run_canonical hm ?_ he
  repeat' (first | with_reducible exact hm | with_reducible apply vecOp_mem)
theorem execVmulh_canonical (f : Fields) (s : State) {out : State} (hm : Canonical s.mem) (he : execVmulh f s = .next out) : Canonical out.mem := by
  refine run_canonical hm ?_ he
  repeat' (first | with_reducible exact hm | with_reducible apply vecOp_mem)
theorem execVmad_canonical (f : Fields) (s : State) {out : State} (hm : Canonical s.mem) (he : execVmad f s = .next out) : Canonical out.mem := by
  refine run_canonical hm ?_ he
  repeat' (first | with_reducible exact hm | with_reducible apply vmadBody_mem)
theorem execVmin_canonical (f : Fields) (s : State) {out : State} (hm : Canonical s.mem) (he : execVmin f s = .next out) : Canonical out.mem := by
  refine run_canonical hm ?_ he
  repeat' (first | with_reducible exact hm | with_reducible apply vecOp_mem)
theorem execVmax_canonical (f : Fields) (s : State) {out : State} (hm : Canonical s.mem) (he : execVmax f s = .next out) : Canonical out.mem := by
  refine run_canonical hm ?_ he
  repeat' (first | with_reducible exact hm | with_reducible apply vecOp_mem)
theorem execVabs_canonical (f : Fields) (s : State) {out : State} (hm : Canonical s.mem) (he : execVabs f s = .next out) : Canonical out.mem := by
  refine run_canonical hm ?_ he
  repeat' (first | with_reducible exact hm | with_reducible apply vecOp1_mem)
theorem execVand_canonical (f : Fields) (s : State) {out : State} (hm : Canonical s.mem) (he : execVand f s = .next out) : Canonical out.mem := by
  refine run_canonical hm ?_ he
  repeat' (first | with_reducible exact hm | with_reducible apply vecOp_mem)
theorem execVor_canonical (f : Fields) (s : State) {out : State} (hm : Canonical s.mem) (he : execVor f s = .next out) : Canonical out.mem := by
  refine run_canonical hm ?_ he
  repeat' (first | with_reducible exact hm | with_reducible apply vecOp_mem)
theorem execVxor_canonical (f : Fields) (s : State) {out : State} (hm : Canonical s.mem) (he : execVxor f s = .next out) : Canonical out.mem := by
  refine run_canonical hm ?_ he
  repeat' (first | with_reducible exact hm | with_reducible apply vecOp_mem)
theorem execVshl_canonical (f : Fields) (s : State) {out : State} (hm : Canonical s.mem) (he : execVshl f s = .next out) : Canonical out.mem := by
  refine run_canonical hm ?_ he
  repeat' (first | with_reducible exact hm | with_reducible apply vecOp_mem)
theorem execVshr_canonical (f : Fields) (s : State) {out : State} (hm : Canonical s.mem) (he : execVshr f s = .next out) : Canonical out.mem := by
  refine run_canonical hm ?_ he
  repeat' (first | with_reducible exact hm | with_reducible apply vecOp_mem)
theorem execVsra_canonical (f : Fields) (s : State) {out : State} (hm : Canonical s.mem) (he : execVsra f s = .next out) : Canonical out.mem := by
  refine run_canonical hm ?_ he
  repeat' (first | with_reducible exact hm | with_reducible apply vecOp_mem)
theorem execVpdep_canonical (f : Fields) (s : State) {out : State} (hm : Canonical s.mem) (he : execVpdep f s = .next out) : Canonical out.mem := by
  refine run_canonical hm ?_ he
  repeat' (first | with_reducible exact hm | with_reducible apply vecOp_mem)
theorem execVpext_canonical (f : Fields) (s : State) {out : State} (hm : Canonical s.mem) (he : execVpext f s = .next out) : Canonical out.mem := by
  refine run_canonical hm ?_ he
  repeat' (first | with_reducible exact hm | with_reducible apply vecOp_mem)
theorem execVgfm_canonical (f : Fields) (s : State) {out : State} (hm : Canonical s.mem) (he : execVgfm f s = .next out) : Canonical out.mem := by
  refine run_canonical hm ?_ he
  repeat' (first | with_reducible exact hm | with_reducible apply vecOp_mem)
theorem execVbperm_canonical (f : Fields) (s : State) {out : State} (hm : Canonical s.mem) (he : execVbperm f s = .next out) : Canonical out.mem := by
  refine run_canonical hm ?_ he
  repeat' (first | with_reducible exact hm | with_reducible apply vecOp1_mem)
theorem execVsel_canonical (f : Fields) (s : State) {out : State} (hm : Canonical s.mem) (he : execVsel f s = .next out) : Canonical out.mem := by
  refine run_canonical hm ?_ he
  repeat' (first | with_reducible exact hm | with_reducible apply vselBody_mem)
theorem execVdot4_canonical (f : Fields) (s : State) {out : State} (hm : Canonical s.mem) (he : execVdot4 f s = .next out) : Canonical out.mem := by
  refine run_canonical hm ?_ he
  repeat' (first | with_reducible exact hm | with_reducible apply vdot4Body_mem)
theorem execViota_canonical (f : Fields) (s : State) {out : State} (hm : Canonical s.mem) (he : execViota f s = .next out) : Canonical out.mem := by
  refine run_canonical hm ?_ he
  repeat' (first | with_reducible apply Res.On_ok | simp only [putLanes_mem, *])
theorem execVsplat_canonical (f : Fields) (s : State) {out : State} (hm : Canonical s.mem) (he : execVsplat f s = .next out) : Canonical out.mem := by
  refine run_canonical hm ?_ he
  repeat' (first | with_reducible apply Res.On_ok | simp only [putLanes_mem, *])
theorem execVcmp_canonical (f : Fields) (s : State) {out : State} (hm : Canonical s.mem) (he : execVcmp f s = .next out) : Canonical out.mem := by
  refine run_canonical hm ?_ he
  repeat' (first | with_reducible exact hm | with_reducible apply vcmpBody_mem)
theorem execVwhile_canonical (f : Fields) (s : State) {out : State} (hm : Canonical s.mem) (he : execVwhile f s = .next out) : Canonical out.mem := by
  refine run_canonical hm ?_ he
  repeat' (first | with_reducible exact hm | with_reducible apply vwhileBody_mem)
theorem execVlen_canonical (f : Fields) (s : State) {out : State} (hm : Canonical s.mem) (he : execVlen f s = .next out) : Canonical out.mem := by
  refine run_canonical hm ?_ he
  repeat' (first | with_reducible apply Res.On_ok | simp only [State.setX_mem, *])
theorem execPand_canonical (f : Fields) (s : State) {out : State} (hm : Canonical s.mem) (he : execPand f s = .next out) : Canonical out.mem := by
  refine run_canonical hm ?_ he
  repeat' (first | with_reducible exact hm | with_reducible apply predOp_mem)
theorem execPor_canonical (f : Fields) (s : State) {out : State} (hm : Canonical s.mem) (he : execPor f s = .next out) : Canonical out.mem := by
  refine run_canonical hm ?_ he
  repeat' (first | with_reducible exact hm | with_reducible apply predOp_mem)
theorem execPxor_canonical (f : Fields) (s : State) {out : State} (hm : Canonical s.mem) (he : execPxor f s = .next out) : Canonical out.mem := by
  refine run_canonical hm ?_ he
  repeat' (first | with_reducible exact hm | with_reducible apply predOp_mem)
theorem execPnot_canonical (f : Fields) (s : State) {out : State} (hm : Canonical s.mem) (he : execPnot f s = .next out) : Canonical out.mem := by
  refine run_canonical hm ?_ he
  repeat' (first | with_reducible exact hm | with_reducible apply predOp_mem)
theorem execPcnt_canonical (f : Fields) (s : State) {out : State} (hm : Canonical s.mem) (he : execPcnt f s = .next out) : Canonical out.mem := by
  refine run_canonical hm ?_ he
  repeat' (first | with_reducible exact hm | with_reducible apply pcntBody_mem)
theorem execPset_canonical (f : Fields) (s : State) {out : State} (hm : Canonical s.mem) (he : execPset f s = .next out) : Canonical out.mem := by
  refine run_canonical hm ?_ he
  repeat' (first | with_reducible exact hm | with_reducible apply psetBody_mem)
theorem execVred_canonical (f : Fields) (s : State) {out : State} (hm : Canonical s.mem) (he : execVred f s = .next out) : Canonical out.mem := by
  refine run_canonical hm ?_ he
  repeat' (first | with_reducible exact hm | with_reducible apply vredBody_mem)
theorem execVscan_canonical (f : Fields) (s : State) {out : State} (hm : Canonical s.mem) (he : execVscan f s = .next out) : Canonical out.mem := by
  refine run_canonical hm ?_ he
  repeat' (first | with_reducible exact hm | with_reducible apply vscanBody_mem)
theorem execVperm_canonical (f : Fields) (s : State) {out : State} (hm : Canonical s.mem) (he : execVperm f s = .next out) : Canonical out.mem := by
  refine run_canonical hm ?_ he
  repeat' (first | with_reducible exact hm | with_reducible apply vpermBody_mem)
theorem execVcomp_canonical (f : Fields) (s : State) {out : State} (hm : Canonical s.mem) (he : execVcomp f s = .next out) : Canonical out.mem := by
  refine run_canonical hm ?_ he
  repeat' (first | with_reducible exact hm | with_reducible apply vcompBody_mem)
theorem execVexpd_canonical (f : Fields) (s : State) {out : State} (hm : Canonical s.mem) (he : execVexpd f s = .next out) : Canonical out.mem := by
  refine run_canonical hm ?_ he
  repeat' (first | with_reducible exact hm | with_reducible apply vcompBody_mem)
theorem execVget_canonical (f : Fields) (s : State) {out : State} (hm : Canonical s.mem) (he : execVget f s = .next out) : Canonical out.mem := by
  refine run_canonical hm ?_ he
  repeat' (first | with_reducible exact hm | with_reducible apply vgetBody_mem)
theorem execVput_canonical (f : Fields) (s : State) {out : State} (hm : Canonical s.mem) (he : execVput f s = .next out) : Canonical out.mem := by
  refine run_canonical hm ?_ he
  repeat' (first | with_reducible exact hm | with_reducible apply vputBody_mem)
theorem execVfadd_canonical (f : Fields) (s : State) {out : State} (hm : Canonical s.mem) (he : execVfadd f s = .next out) : Canonical out.mem := by
  refine run_canonical hm ?_ he
  repeat' (first | with_reducible exact hm | with_reducible apply floatOp_mem)
theorem execVfsub_canonical (f : Fields) (s : State) {out : State} (hm : Canonical s.mem) (he : execVfsub f s = .next out) : Canonical out.mem := by
  refine run_canonical hm ?_ he
  repeat' (first | with_reducible exact hm | with_reducible apply floatOp_mem)
theorem execVfmul_canonical (f : Fields) (s : State) {out : State} (hm : Canonical s.mem) (he : execVfmul f s = .next out) : Canonical out.mem := by
  refine run_canonical hm ?_ he
  repeat' (first | with_reducible exact hm | with_reducible apply floatOp_mem)
theorem execVfma_canonical (f : Fields) (s : State) {out : State} (hm : Canonical s.mem) (he : execVfma f s = .next out) : Canonical out.mem := by
  refine run_canonical hm ?_ he
  repeat' (first | with_reducible exact hm | with_reducible apply vfmaBody_mem)
theorem execVfmin_canonical (f : Fields) (s : State) {out : State} (hm : Canonical s.mem) (he : execVfmin f s = .next out) : Canonical out.mem := by
  refine run_canonical hm ?_ he
  repeat' (first | with_reducible exact hm | with_reducible apply floatOp_mem)
theorem execVfmax_canonical (f : Fields) (s : State) {out : State} (hm : Canonical s.mem) (he : execVfmax f s = .next out) : Canonical out.mem := by
  refine run_canonical hm ?_ he
  repeat' (first | with_reducible exact hm | with_reducible apply floatOp_mem)
theorem execVrcp_canonical (f : Fields) (s : State) {out : State} (hm : Canonical s.mem) (he : execVrcp f s = .next out) : Canonical out.mem := by
  refine run_canonical hm ?_ he
  repeat' (first | with_reducible exact hm | with_reducible apply sfuBody_mem)
theorem execVrsq_canonical (f : Fields) (s : State) {out : State} (hm : Canonical s.mem) (he : execVrsq f s = .next out) : Canonical out.mem := by
  refine run_canonical hm ?_ he
  repeat' (first | with_reducible exact hm | with_reducible apply sfuBody_mem)
theorem execVexp2_canonical (f : Fields) (s : State) {out : State} (hm : Canonical s.mem) (he : execVexp2 f s = .next out) : Canonical out.mem := by
  refine run_canonical hm ?_ he
  repeat' (first | with_reducible exact hm | with_reducible apply sfuBody_mem)
theorem execVlog2_canonical (f : Fields) (s : State) {out : State} (hm : Canonical s.mem) (he : execVlog2 f s = .next out) : Canonical out.mem := by
  refine run_canonical hm ?_ he
  repeat' (first | with_reducible exact hm | with_reducible apply sfuBody_mem)
theorem execVfcmp_canonical (f : Fields) (s : State) {out : State} (hm : Canonical s.mem) (he : execVfcmp f s = .next out) : Canonical out.mem := by
  refine run_canonical hm ?_ he
  repeat' (first | with_reducible exact hm | with_reducible apply vfcmpBody_mem)
theorem execVfred_canonical (f : Fields) (s : State) {out : State} (hm : Canonical s.mem) (he : execVfred f s = .next out) : Canonical out.mem := by
  refine run_canonical hm ?_ he
  repeat' (first | with_reducible exact hm | with_reducible apply vfredBody_mem)
theorem execVfscan_canonical (f : Fields) (s : State) {out : State} (hm : Canonical s.mem) (he : execVfscan f s = .next out) : Canonical out.mem := by
  refine run_canonical hm ?_ he
  repeat' (first | with_reducible exact hm | with_reducible apply vfscanBody_mem)
theorem execVcvt_canonical (f : Fields) (s : State) {out : State} (hm : Canonical s.mem) (he : execVcvt f s = .next out) : Canonical out.mem := by
  refine run_canonical hm ?_ he
  repeat' (first | with_reducible exact hm | with_reducible apply vcvtBody_mem)
theorem execVcvti_canonical (f : Fields) (s : State) {out : State} (hm : Canonical s.mem) (he : execVcvti f s = .next out) : Canonical out.mem := by
  refine run_canonical hm ?_ he
  repeat' (first | with_reducible exact hm | with_reducible apply vcvtBody_mem)
theorem execVscacc_canonical (f : Fields) (s : State) {out : State} (hm : Canonical s.mem) (he : execVscacc f s = .next out) : Canonical out.mem := by
  refine run_canonical hm ?_ he
  repeat' (first | with_reducible exact hm | with_reducible apply vscaccBody_mem)
theorem execVwacc_canonical (f : Fields) (s : State) {out : State} (hm : Canonical s.mem) (he : execVwacc f s = .next out) : Canonical out.mem := by
  refine run_canonical hm ?_ he
  repeat' (first | with_reducible exact hm | with_reducible apply vwaccBody_mem)
theorem execVwget_canonical (f : Fields) (s : State) {out : State} (hm : Canonical s.mem) (he : execVwget f s = .next out) : Canonical out.mem := by
  refine run_canonical hm ?_ he
  repeat' (first | with_reducible exact hm | with_reducible apply vwgetBody_mem)
theorem execVcbx_canonical (f : Fields) (s : State) {out : State} (hm : Canonical s.mem) (he : execVcbx f s = .next out) : Canonical out.mem := by
  refine run_canonical hm ?_ he
  repeat' (first | with_reducible apply Res.On_ok | simp only [putLanes_mem, *])
theorem execVsbp_canonical (f : Fields) (s : State) {out : State} (hm : Canonical s.mem) (he : execVsbp f s = .next out) : Canonical out.mem := by
  refine run_canonical hm ?_ he
  repeat' (first | with_reducible exact hm | with_reducible apply vsbpBody_mem)
theorem execGrank_canonical (f : Fields) (s : State) {out : State} (hm : Canonical s.mem) (he : execGrank f s = .next out) : Canonical out.mem := by
  refine run_canonical hm ?_ he
  repeat' (first | with_reducible exact hm | with_reducible apply grankBody_mem)
theorem execVld_canonical (f : Fields) (s : State) {out : State} (hm : Canonical s.mem) (he : execVld f s = .next out) : Canonical out.mem := by
  refine run_canonical hm ?_ he
  repeat' (first | with_reducible exact hm | with_reducible apply vloadBody_wf)
theorem execVlds_canonical (f : Fields) (s : State) {out : State} (hm : Canonical s.mem) (he : execVlds f s = .next out) : Canonical out.mem := by
  refine run_canonical hm ?_ he
  repeat' (first | with_reducible exact hm | with_reducible apply vloadBody_wf)
theorem execVgath_canonical (f : Fields) (s : State) {out : State} (hm : Canonical s.mem) (he : execVgath f s = .next out) : Canonical out.mem := by
  refine run_canonical hm ?_ he
  repeat' (first | with_reducible exact hm | with_reducible apply vloadBody_wf)
theorem execVst_canonical (f : Fields) (s : State) {out : State} (hm : Canonical s.mem) (he : execVst f s = .next out) : Canonical out.mem := by
  refine run_canonical hm ?_ he
  repeat' (first | with_reducible exact hm | with_reducible apply vstoreBody_wf)
theorem execVsts_canonical (f : Fields) (s : State) {out : State} (hm : Canonical s.mem) (he : execVsts f s = .next out) : Canonical out.mem := by
  refine run_canonical hm ?_ he
  repeat' (first | with_reducible exact hm | with_reducible apply vstoreBody_wf)
theorem execVscat_canonical (f : Fields) (s : State) {out : State} (hm : Canonical s.mem) (he : execVscat f s = .next out) : Canonical out.mem := by
  refine run_canonical hm ?_ he
  repeat' (first | with_reducible exact hm | with_reducible apply vscatBody_wf)
theorem execVldpk_canonical (f : Fields) (s : State) {out : State} (hm : Canonical s.mem) (he : execVldpk f s = .next out) : Canonical out.mem := by
  refine run_canonical hm ?_ he
  repeat' (first | with_reducible exact hm | with_reducible apply vldpkBody_mem)
theorem execVstpk_canonical (f : Fields) (s : State) {out : State} (hm : Canonical s.mem) (he : execVstpk f s = .next out) : Canonical out.mem := by
  refine run_canonical hm ?_ he
  repeat' (first | with_reducible exact hm | with_reducible apply vstpkBody_wf)
theorem execGld_canonical (f : Fields) (s : State) {out : State} (hm : Canonical s.mem) (he : execGld f s = .next out) : Canonical out.mem := by
  refine run_canonical hm ?_ he
  repeat' (first | with_reducible exact hm | with_reducible apply gldBody_wf)
theorem execGst_canonical (f : Fields) (s : State) {out : State} (hm : Canonical s.mem) (he : execGst f s = .next out) : Canonical out.mem := by
  refine run_canonical hm ?_ he
  repeat' (first | with_reducible exact hm | with_reducible apply gstBody_wf)

end Sys2Proof.Machine
end

