-- ==== Sys2Proof/Laws/Exec.lean ====
section
/-!
SUPPORT. How `exec` runs an instruction, said once for all of them: an instruction goes through `run` with its own effect, an event is a
function of the state (R59).
-/

namespace Sys2Proof.Machine

/-- Each instruction of the spec is its operation run on its fields with an effect of its own; each event answers a next state. -/
theorem exec_parts (i : Instr) : match i.parts with
    | some (o, f) => ∃ body, ∀ s, exec i s = run o f body s
    | none => ∃ g : State → State, ∀ s, exec i s = .next (g s) := by
  cases i <;> exact ⟨_, fun _ => rfl⟩

/-- An instruction of the spec is its operation run on its fields. -/
theorem exec_issue {i : Instr} {o : Op} {f : Fields} (h : i.parts = some (o, f)) : ∃ body, ∀ s, exec i s = run o f body s := by
  have := exec_parts i
  rw [h] at this
  exact this

/-- An event answers a next state. -/
theorem exec_event {i : Instr} (h : i.parts = none) : ∃ g : State → State, ∀ s, exec i s = .next (g s) := by
  have := exec_parts i
  rw [h] at this
  exact this

end Sys2Proof.Machine
end

