-- ==== Sys2Proof/Laws/Issue.lean ====
section
/-!
SUPPORT. What issuing an instruction comes to, said once for each way it can end (R59, R61, R228): cite these, and never unfold
`run`, `issue` or `State.settle`.
-/

namespace Sys2Proof.Machine

/-- An instruction that may issue leads to what its own effect comes to, with a fault that arises late postponed (R63). -/
theorem issue_body {o : Op} {f : Fields} {s : State} (h : s.issues o f = true) (body : State → Res) :
    run o f body s = .next (State.settle s.cur f ((body s).postponed o)) := by
  simp only [State.issues, Bool.and_eq_true, Bool.or_eq_true, Bool.not_eq_true'] at h
  obtain ⟨⟨⟨h1, h2⟩, h3⟩, h4⟩ := h
  have h5 : (needsPriv o f && !s.me.priv) = false := by cases h3 with | inl h => simp [h] | inr h => simp [h]
  have h6 : (!o.row.lanes && !(s.me.guard f).getLsbD 0) = false := by cases h4 with | inl h => simp [h] | inr h => simp [h]
  simp only [run, issue, h1, h2, h5, h6]; rfl

/-- An instruction that completes falls through. -/
theorem run_ok {o : Op} {f : Fields} {s t : State} {body : State → Res} (h : s.issues o f = true) (hb : body s = .ok t) :
    run o f body s = .next (t.complete s.cur f) := by
  rw [issue_body h, hb]; rfl

/-- An instruction that transfers control is a switch point of its task, which continues at the target (R61). -/
theorem run_jump {o : Op} {f : Fields} {s t : State} {a : Word32} {body : State → Res} (h : s.issues o f = true)
    (hb : body s = .jump t a) :
    run o f body s = .next ((t.switchAt s.cur).setTask s.cur { (t.switchAt s.cur).task s.cur with pc := a, past := false, refused := none }) := by
  rw [issue_body h, hb]; rfl

/-- An instruction that parks leaves its task parked. -/
theorem run_park {o : Op} {f : Fields} {s t : State} {w : Wait} {body : State → Res} (h : s.issues o f = true)
    (hb : body s = .park t w) : run o f body s = .next (t.parkTask s.cur w) := by
  rw [issue_body h, hb]; rfl

/-- An instruction that its task does not outlive, or that settles its task itself. -/
theorem run_gone {o : Op} {f : Fields} {s t : State} {body : State → Res} (h : s.issues o f = true)
    (hb : body s = .gone t) : run o f body s = .next t := by
  rw [issue_body h, hb]; rfl

/-- An instruction that is tried again leaves its task where it is. -/
theorem run_retry {o : Op} {f : Fields} {s t : State} {body : State → Res} (h : s.issues o f = true)
    (hb : body s = .retry t) : run o f body s = .next t := by
  rw [issue_body h, hb]; rfl

/-- An instruction that raises a fault at its issue stops its task there. -/
theorem run_fault {o : Op} {f : Fields} {s t : State} {x : Flt} {body : State → Res} (h : s.issues o f = true)
    (hb : body s = .fault t x) (hl : (runsOn o && arisesLate x.code) = false) (hc : x.code ≠ .softwareTrap) :
    run o f body s = .next (t.raise s.cur x) := by
  rw [issue_body h, hb]
  simp [Res.postponed, hl, State.settle, State.raise, hc]

/-- A fault that arises late is outstanding, and the instruction falls through (R63). -/
theorem run_late {o : Op} {f : Fields} {s t : State} {x : Flt} {body : State → Res} (h : s.issues o f = true)
    (hb : body s = .fault t x) (hl : (runsOn o && arisesLate x.code) = true) :
    run o f body s = .next ((t.defer { dest := .x 0, fault := some x }).complete s.cur f) := by
  rw [issue_body h, hb]
  simp [Res.postponed, hl, State.settle]

/-- A guarded instruction whose guard is false only falls through; a YIELD stays a switch point (R54, R399). -/
theorem run_skipped {o : Op} {f : Fields} {s : State} (body : State → Res) (h1 : modFits o f s.me = true)
    (h2 : hasExt s.myCore o.row.ext = true) (h3 : (needsPriv o f && !s.me.priv) = false) (h4 : o.row.lanes = false)
    (h5 : (s.me.guard f).getLsbD 0 = false) :
    run o f body s = .next (State.settle s.cur f (guardedOff o s)) := by
  have h6 : (!o.row.lanes && !(s.me.guard f).getLsbD 0) = true := by simp only [h4, h5]; rfl
  simp only [run, issue, h1, h2, h3, h6]; rfl

/-- A privileged instruction in a task without privilege raises `privilege` (R59). -/
theorem run_unprivileged {o : Op} {f : Fields} {s : State} (body : State → Res) (h1 : modFits o f s.me = true)
    (h2 : hasExt s.myCore o.row.ext = true) (h3 : needsPriv o f = true) (h4 : s.me.priv = false) :
    run o f body s = .next (s.raise s.cur { code := .privilege }) := by
  simp [run, issue, State.settle, State.raise, h1, h2, h3, h4]

/-- An event always leads to a next state. -/
theorem happen_next (g : State → State) (s : State) : happen g s = .next (g s) := rfl

end Sys2Proof.Machine
end

