-- ==== Sys2Proof/Laws/Lanes.lean ====
section
/-!
SUPPORT. What the lane operations of Operands.lean and Vector.lean do, element by element: `putLanes_spec`, `deferLanes_spec` and
`putPred_spec` say all of it, and the lemmas before them say what bits the helpers have (R127 to R130, R355).
-/

namespace Sys2Proof.Machine

/-- A bit of values joined by or. -/
theorem foldl_or_testBit (l : List Nat) (c : Nat → Bool) (g : Nat → Nat) (a b : Nat) :
    (l.foldl (fun acc i => if c i then acc ||| g i else acc) a).testBit b = (a.testBit b || l.any (fun i => c i && (g i).testBit b)) := by
  induction l generalizing a with
  | nil => simp
  | cons x xs ih =>
    simp only [List.foldl_cons, ih, List.any_cons]
    cases hc : c x <;> simp [Bool.or_assoc]

/-- `spread` gives each bit of `m` to `w` bits in a row. -/
theorem spread_testBit {w : Nat} (hw : 0 < w) (n m b : Nat) : (spread n w m).testBit b = (decide (b < n * w) && m.testBit (b / w)) := by
  unfold spread
  rw [foldl_or_testBit, Bool.eq_iff_iff]
  simp only [Nat.zero_testBit, Bool.false_or, List.any_eq_true, List.mem_range, Bool.and_eq_true, decide_eq_true_eq,
    Nat.testBit_shiftLeft, Nat.testBit_two_pow_sub_one]
  constructor
  · rintro ⟨i, hi, hm, h1, h2⟩
    have : b / w = i := Nat.div_eq_of_lt_le (by omega) (by rw [Nat.add_mul]; omega)
    exact ⟨by nlinarith [Nat.div_add_mod b w, Nat.mod_lt b hw, Nat.mul_le_mul_left w (show i + 1 ≤ n by omega)], this ▸ hm⟩
  · rintro ⟨hb, hm⟩
    have := Nat.div_add_mod b w
    have := Nat.mod_lt b hw
    exact ⟨b / w, (Nat.div_lt_iff_lt_mul hw).2 hb, hm, by rw [Nat.mul_comm]; omega, by rw [Nat.mul_comm]; omega⟩

/-- A bit of elements put one after another. -/
theorem foldr_testBit (e : Nat) (he : 0 < e) (es : List Nat) (b : Nat) :
    (es.foldr (fun x acc => x % 2 ^ e + acc * 2 ^ e) 0).testBit b = (((es[b / e]?).getD 0).testBit (b % e)) := by
  induction es generalizing b with
  | nil => simp
  | cons x xs ih =>
    rw [List.foldr_cons, Nat.add_comm, Nat.mul_comm, Nat.testBit_two_pow_mul_add _ (Nat.mod_lt _ (Nat.two_pow_pos e))]
    split
    · next h => simp [Nat.div_eq_of_lt h, Nat.mod_eq_of_lt h, Nat.testBit_mod_two_pow, h]
    · next h =>
      obtain ⟨c, rfl⟩ : ∃ c, b = e + c := ⟨b - e, by omega⟩
      rw [ih]
      simp [Nat.add_div_left _ he]

/-- A bit of a register made of elements. -/
theorem makeLanes_getLsbD {n e : Nat} (he : 0 < e) (es : List Nat) (b : Nat) :
    (makeLanes n e es).getLsbD b = (decide (b < n) && ((es[b / e]?).getD 0).testBit (b % e)) := by
  simp only [makeLanes, BitVec.getLsbD_ofNat, foldr_testBit e he]

/-- A bit of an element of a register. -/
theorem getLane_testBit (v : BitVec n) (e i b : Nat) : (getLane v e i).testBit b = (decide (b < e) && v.getLsbD (e * i + b)) := by
  simp [getLane, bits, Nat.testBit_mod_two_pow, Nat.testBit_div_two_pow, BitVec.getLsbD, Nat.add_comm]

/-- An element has its width. -/
theorem getLane_lt (v : BitVec n) (e i : Nat) : getLane v e i < 2 ^ e := Nat.mod_lt _ (Nat.two_pow_pos e)

/-- A power of two added where its bit is 0 sets that bit alone. -/
theorem add_two_pow_testBit {a x : Nat} (h : a.testBit x = false) (j : Nat) :
    (a + 2 ^ x).testBit j = (a.testBit j || decide (j = x)) := by
  have hq : a / 2 ^ x % 2 = 0 := by simpa [Nat.testBit_eq_decide_div_mod_eq] using h
  obtain ⟨q, hq⟩ : ∃ q, a / 2 ^ x = 2 * q := ⟨a / 2 ^ x / 2, by omega⟩
  have ha : a = 2 ^ x * (2 * q) + a % 2 ^ x := by rw [← hq, Nat.div_add_mod]
  have hs : a + 2 ^ x = 2 ^ x * (2 * q + 1) + a % 2 ^ x := by rw [Nat.mul_add, Nat.mul_one]; omega
  have hr := Nat.mod_lt a (Nat.two_pow_pos x)
  rw [hs, Nat.testBit_two_pow_mul_add _ hr]
  conv_rhs => rw [ha, Nat.testBit_two_pow_mul_add _ hr]
  split
  · next hj => simp [show j ≠ x by omega]
  · next hj =>
    obtain ⟨k, rfl⟩ : ∃ k, j = x + k := ⟨j - x, by omega⟩
    rcases k with _ | k
    · simp
    · simp [Nat.testBit_succ, show x + (k + 1) - x = k + 1 by omega, Nat.add_div_of_dvd_right]

/-- A bit of a sum of different powers of two. -/
theorem sum_testBit (l : List Nat) (hl : l.Nodup) (b a : Nat) (ha : ∀ i ∈ l, a.testBit i = false) :
    (l.foldl (fun acc i => acc + 2 ^ i) a).testBit b = (a.testBit b || decide (b ∈ l)) := by
  induction l generalizing a with
  | nil => simp
  | cons x xs ih =>
    have hadd := add_two_pow_testBit (ha x (by simp))
    have hn := List.nodup_cons.1 hl
    rw [List.foldl_cons, ih hn.2]
    · rw [hadd]; by_cases h : b = x <;> simp [h]
    · intro i hi
      rw [hadd, ha i (by simp [hi])]
      simpa using fun h : i = x => hn.1 (h ▸ hi)

/-- No element is active twice. -/
theorem actives_nodup (t : Task) (f : Fields) (e : Nat) : (t.actives f e).Nodup := List.nodup_range.filter _

/-- The active elements are those below the lane count whose guard bit is true. -/
theorem mem_actives {t : Task} {f : Fields} {e i : Nat} : i ∈ t.actives f e ↔ i < t.lanes e ∧ t.active f e i = true := by
  simp [Task.actives]

/-- The bytes of the active elements. -/
theorem activeBytes_getLsbD (t : Task) (f : Fields) {e : Nat} (he : 8 ≤ e) (b : Nat) : (t.activeBytes f e).getLsbD b =
    (decide (b < 256) && decide (b / (e / 8) < t.lanes e) && t.active f e (b / (e / 8))) := by
  have h8 : 0 < e / 8 := by omega
  rw [Task.activeBytes, BitVec.getLsbD_ofNat, spread_testBit h8, sum_testBit _ (actives_nodup t f e) _ _ (by simp)]
  simp only [Nat.zero_testBit, Bool.false_or, mem_actives, Bool.decide_and, Nat.div_lt_iff_lt_mul h8]
  cases decide (b < 256) <;> simp

/-- A flag of flags joined by or. -/
theorem foldl_flags (l : List α) (g : α → BitVec 6) (a : BitVec 6) (b : Nat) :
    (l.foldl (fun acc x => acc ||| g x) a).getLsbD b = (a.getLsbD b || l.any (fun x => (g x).getLsbD b)) := by
  induction l generalizing a with
  | nil => simp
  | cons x xs ih => simp [ih, Bool.or_assoc]

/-- The values that lane instructions write: `g` at the active lanes. -/
theorem lanesOf_getLane {n e k : Nat} (he : 0 < e) (act : Nat → Bool) (g : Nat → Nat × BitVec 6) {i : Nat} (hi : i < k) (hn : e * k ≤ n) :
    getLane (makeLanes n e (((List.range k).map (fun i => if act i then g i else (0, 0))).map (·.1))) e i =
      if act i then (g i).1 % 2 ^ e else 0 := by
  refine Nat.eq_of_testBit_eq fun b => ?_
  rw [getLane_testBit, makeLanes_getLsbD he]
  by_cases hb : b < e
  · have h1 : (e * i + b) / e = i := by rw [Nat.mul_add_div he, Nat.div_eq_of_lt hb, Nat.add_zero]
    have h2 : (e * i + b) % e = b := by rw [Nat.mul_add_mod, Nat.mod_eq_of_lt hb]
    have h3 : e * i + b < n := lt_of_lt_of_le (by nlinarith) hn
    rw [h1, h2]
    simp [hb, h3, hi]
    split <;> simp [Nat.testBit_mod_two_pow, hb]
  · simp [hb]
    split <;> simp [Nat.testBit_mod_two_pow, hb]

/-- The flags of the active lanes. -/
theorem lanesOf_flags {k : Nat} (act : Nat → Bool) (g : Nat → Nat × BitVec 6) (b : Nat) :
    (((List.range k).map (fun i => if act i then g i else (0, 0))).foldl (fun acc e => acc ||| e.2) (0 : BitVec 6)).getLsbD b = true
      ↔ ∃ i, i < k ∧ act i = true ∧ (g i).2.getLsbD b = true := by
  rw [foldl_flags]
  simp only [BitVec.ofNat_eq_ofNat, BitVec.getLsbD_zero, Bool.false_or, List.any_map, List.any_eq_true, List.mem_range, Function.comp]
  exact exists_congr fun i => and_congr_right fun _ => by cases act i <;> simp

/-- No width is above 2048 bits. -/
theorem bits_le (t : Task) : t.bits ≤ 2048 := by
  unfold Task.bits
  have := t.width.isLt
  interval_cases t.width.toNat <;> simp

/-- The lanes of a width fit in it. -/
theorem lanes_mul_le (t : Task) (e : Nat) : e * t.lanes e ≤ t.bits := Nat.mul_div_le _ _

/-- `putLanes` writes `g` in the active elements of vD alone and sets their flags (R127, R355). -/
theorem putLanes_spec (s : State) (f : Fields) {e : Nat} (h8 : 8 ∣ e) (he : 0 < e) (g : Nat → Nat × BitVec 6) :
    ∃ (w : BitVec 2048) (fl : BitVec 6), putLanes s f e g = (s.setV f.d w).raiseFlags fl
      ∧ (∀ i, i < s.me.lanes e → getLane w e i = if s.me.active f e i then (g i).1 % 2 ^ e else getLane (s.me.getV f.d) e i)
      ∧ ∀ b, fl.getLsbD b = true ↔ ∃ i, i < s.me.lanes e ∧ s.me.active f e i = true ∧ (g i).2.getLsbD b = true := by
  refine ⟨_, _, rfl, fun i hi => ?_, fun b => lanesOf_flags _ g b⟩
  have hle := (lanes_mul_le s.me e).trans (bits_le s.me)
  have hv := lanesOf_getLane (n := 2048) he (s.me.active f e) g hi hle
  refine Nat.eq_of_testBit_eq fun b => ?_
  have hvb := congrArg (Nat.testBit · b) hv
  simp only [getLane_testBit] at hvb ⊢
  obtain ⟨m, rfl⟩ := h8
  have hm : 0 < m := by omega
  by_cases hb : b < 8 * m
  · have hlt : 8 * m * i + b < 2048 := lt_of_lt_of_le (by nlinarith) hle
    have hbyte : (8 * m * i + b) / 8 / m = i := by
      rw [Nat.div_div_eq_div_mul, Nat.mul_add_div (by omega), Nat.div_eq_of_lt hb, Nat.add_zero]
    simp only [hb, decide_true, Bool.true_and] at hvb
    simp only [blend, BitVec.getLsbD_or, BitVec.getLsbD_and, BitVec.getLsbD_not, BitVec.getLsbD_ofNat, spread_testBit (show 0 < 8 by omega), hvb]
    rw [show ((s.me.activeBytes f (8 * m)).toNat).testBit ((8 * m * i + b) / 8) = (s.me.activeBytes f (8 * m)).getLsbD ((8 * m * i + b) / 8) from rfl,
      activeBytes_getLsbD _ _ (by omega), Nat.mul_div_cancel_left m (by omega : 0 < 8), hbyte]
    have h256 : (8 * m * i + b) / 8 < 256 := by omega
    cases ha : s.me.active f (8 * m) i <;> simp [hb, hlt, hi, h256, getLane_testBit]
  · simp [hb]
    split <;> simp [Nat.testBit_mod_two_pow, getLane_testBit, hb]

/-- `deferLanes` defers `g` for the active elements of vD alone, each with its own flags (R60, R130, R364). -/
theorem deferLanes_spec (s : State) (f : Fields) {e : Nat} (h8 : 8 ∣ e) (he : 0 < e) (g : Nat → Nat × BitVec 6) :
    ∃ (v : BitVec 2048) (m : BitVec 256) (fl : List (BitVec 6)), deferLanes s f e g = s.deferV f.d v m (e / 8) fl
      ∧ (∀ i, i < s.me.lanes e → s.me.active f e i = true → getLane v e i = (g i).1 % 2 ^ e)
      ∧ (∀ i, i < s.me.lanes e → ∀ b, b < e / 8 → m.getLsbD (i * (e / 8) + b) = s.me.active f e i)
      ∧ ∀ i, i < s.me.lanes e → fl[i]? = some (if s.me.active f e i then (g i).2 else 0) := by
  have hle := (lanes_mul_le s.me e).trans (bits_le s.me)
  refine ⟨_, _, _, rfl, fun i hi ha => ?_, fun i hi b hb => ?_, fun i hi => ?_⟩
  · rw [lanesOf_getLane he _ g hi hle, if_pos ha]
  · obtain ⟨m, rfl⟩ := h8
    rw [Nat.mul_div_cancel_left m (by omega : 0 < 8)] at hb ⊢
    have : (i * m + b) / m = i := by rw [Nat.mul_comm, Nat.mul_add_div (by omega), Nat.div_eq_of_lt hb, Nat.add_zero]
    rw [activeBytes_getLsbD _ _ (by omega), Nat.mul_div_cancel_left m (by omega : 0 < 8), this]
    have : i * m + b < 256 := by nlinarith
    simp [hi, this]
  · simp only [List.getElem?_map, List.getElem?_range hi, Option.map_some]
    split <;> rfl

/-- The lane of a byte. -/
theorem div_lane {i m b : Nat} (hb : b < m) : (i * m + b) / m = i := by
  rw [Nat.mul_comm, Nat.mul_add_div (by omega), Nat.div_eq_of_lt hb, Nat.add_zero]

/-- A bit of a sum of the powers of two that a test picks. -/
theorem sum_filter_testBit (l : List Nat) (hl : l.Nodup) (c : Nat → Bool) (b a : Nat) (ha : ∀ i ∈ l, a.testBit i = false) :
    (l.foldl (fun acc i => if c i then acc + 2 ^ i else acc) a).testBit b = (a.testBit b || (decide (b ∈ l) && c b)) := by
  induction l generalizing a with
  | nil => simp
  | cons x xs ih =>
    have hadd := add_two_pow_testBit (ha x (by simp))
    have hn := List.nodup_cons.1 hl
    rw [List.foldl_cons]
    cases hc : c x
    · simp only [Bool.false_eq_true, if_false]; rw [ih hn.2 _ (fun i hi => ha i (by simp [hi]))]; by_cases h : b = x <;> simp [h, hc]
    · simp only [if_true]; rw [ih hn.2]
      · rw [hadd]; by_cases h : b = x <;> simp [h, hc]
      · intro i hi
        rw [hadd, ha i (by simp [hi])]
        simpa using fun h : i = x => hn.1 (h ▸ hi)

/-- `putPred` writes the test to every bit of the active elements of pD alone (R127). -/
theorem putPred_spec (f : Fields) {e : Nat} (h8 : 8 ∣ e) (he : 0 < e) (g : Nat → Bool) (s : State) :
    ∃ w : BitVec 256, putPred f e g s = s.setP f.d w ∧ ∀ i, i < s.me.lanes e → ∀ b, b < e / 8 →
        w.getLsbD (i * (e / 8) + b) = if s.me.active f e i then g i else (s.me.getP f.d).getLsbD (i * (e / 8) + b) := by
  refine ⟨_, rfl, fun i hi b hb => ?_⟩
  have hle := (lanes_mul_le s.me e).trans (bits_le s.me)
  obtain ⟨m, rfl⟩ := h8
  rw [Nat.mul_div_cancel_left m (by omega : 0 < 8)] at hb ⊢
  simp only [blend, predLanes, BitVec.getLsbD_or, BitVec.getLsbD_and, BitVec.getLsbD_not,
    activeBytes_getLsbD _ _ (show 8 ≤ 8 * m by omega), Nat.mul_div_cancel_left m (by omega : 0 < 8), div_lane hb,
    BitVec.getLsbD_ofNat]
  rw [spread_testBit (by omega), sum_filter_testBit _ List.nodup_range _ _ _ (by simp), div_lane hb]
  have : i * m + b < 256 := by nlinarith
  have : i * m + b < s.me.lanes (8 * m) * m := by nlinarith
  cases h : s.me.active f (8*m) i <;> simp [*]

end Sys2Proof.Machine
end

