-- ==== Sys2Proof/Laws/Parts.lean ====
section
/-!
SUPPORT. The parts of the state outside the tasks (channels, ports, queues, the distributors, the Gleaners, the pads): reading a part
after it was written, and the tasks, which such a write leaves alone.
-/

namespace Sys2Proof.Machine

@[simp] theorem State.channel_setChannel (s : State) (ch : Nat) (v : Channel) : (s.setChannel ch v).channel ch = v := FMap.find_set_same ..
@[simp] theorem State.channel_setChannel_other (s : State) {ch n : Nat} (h : n ≠ ch) (v : Channel) :
    (s.setChannel ch v).channel n = s.channel n := FMap.find_set_other _ h ..
@[simp] theorem State.setChannel_task (s : State) (ch : Nat) (v : Channel) (k : TaskKey) : (s.setChannel ch v).task k = s.task k := rfl
@[simp] theorem State.port_setPort (s : State) (n : Nat) (v : Port) : (s.setPort n v).port n = v := FMap.find_set_same ..
@[simp] theorem State.port_setPort_other (s : State) {n m : Nat} (h : m ≠ n) (v : Port) : (s.setPort n v).port m = s.port m :=
  FMap.find_set_other _ h ..
@[simp] theorem State.setPort_task (s : State) (n : Nat) (v : Port) (k : TaskKey) : (s.setPort n v).task k = s.task k := rfl
@[simp] theorem State.queue_setQueue (s : State) (p q : Nat) (v : Queue) : (s.setQueue p q v).queue p q = v := FMap.find_set_same ..
@[simp] theorem State.setQueue_task (s : State) (p q : Nat) (v : Queue) (k : TaskKey) : (s.setQueue p q v).task k = s.task k := rfl
@[simp] theorem State.dist_setDist (s : State) (io : Nat) (v : Dist) : (s.setDist io v).dist io = v := FMap.find_set_same ..
@[simp] theorem State.dist_setDist_other (s : State) {io n : Nat} (h : n ≠ io) (v : Dist) : (s.setDist io v).dist n = s.dist n :=
  FMap.find_set_other _ h ..
@[simp] theorem State.setDist_task (s : State) (io : Nat) (v : Dist) (k : TaskKey) : (s.setDist io v).task k = s.task k := rfl
@[simp] theorem State.gleaner_setGleaner (s : State) (d unit : Nat) (g : Gleaner) : (s.setGleaner d unit g).gleaner d unit = g :=
  FMap.find_set_same ..
@[simp] theorem State.setGleaner_task (s : State) (d unit : Nat) (g : Gleaner) (k : TaskKey) : (s.setGleaner d unit g).task k = s.task k := rfl
@[simp] theorem State.pad_setPad (s : State) (u : PadUnit) (c : Nat) (v : PadAlloc) : (s.setPad u c v).pad u c = v := FMap.find_set_same ..
@[simp] theorem State.setPad_task (s : State) (u : PadUnit) (c : Nat) (v : PadAlloc) (k : TaskKey) : (s.setPad u c v).task k = s.task k := rfl

end Sys2Proof.Machine
end

