-- ==== Sys2Proof/Safety.lean ====
section
/-!
DEFINITION. What counts as a safe run: no step ends in a fault or a refusal of the model. A fault of the package is a next
state, in which a task has stopped (R228).
-/

namespace Sys2Proof

/-- A step goes on. -/
def Goes (s : Machine.State) : Prop := ∃ s', Machine.step s = .next s'

/-- The first `n` steps go on. -/
def SafeRun (n : Nat) (s : Machine.State) : Prop := ∃ s', core.run n s = .next s'

end Sys2Proof
end

