-- ==== Sys2Proof/Tests/Slice0.lean ====
section
/-!
SUPPORT. Tests of one step each, with the expected results worked out by hand from the spec, and the witnesses of the statements: each
`witness_…` evaluates, in a concrete state, every hypothesis of a clause of the statement it names, and the result where it is short.
-/

open Sys2Proof Sys2Proof.Machine Sys2Proof.Claims

namespace Sys2Proof.Tests

-- one theorem after another: their kernel evaluations side by side would need too many threads
set_option Elab.async false

/-- The value of a part of an instruction, if it has one, meets the test. -/
def gives (x : Except ε α) (p : α → Bool) : Bool :=
  match x with
  | .ok a => p a
  | .error _ => false

/-- A part of an instruction passes. -/
def passes (x : Except ε α) : Bool := gives x (fun _ => true)

/-- The outcome is a next state that meets the test. -/
def leads (x : Host.Outcome State Fault Refusal) (p : State → Bool) : Bool :=
  match x with
  | .next t => p t
  | _ => false

/-- The instruction with its fields does `p` from `s`, where its tests at issue pass. -/
def does (o : Op) (f : Fields) (s : State) (p : State → Bool) : Bool := s.issues o f && leads (exec (o.instr f) s) p

/-- Both outcomes are the same next state. -/
def agrees (a b : Host.Outcome State Fault Refusal) : Bool :=
  match a, b with
  | .next s, .next t => decide (s = t)
  | _, _ => false

/-- A part of an instruction answers true. -/
def ok (x : Except ε Bool) : Bool := gives x id

/-- All of them hold. -/
def every (l : List Bool) : Bool := l.all id

/-- A ready task on core 0, at unprivileged level, at full width. -/
def task : Machine.Task := { Task.empty with status := .ready, tid := 1, width := 3 }

/-- Right after reset but for the task in slot 0 of core 0. -/
def st (g : Machine.Task → Machine.Task) : State := { State.reset with tasks := [(0, g task)] }

/-- The task's x registers named. -/
def xs (l : List (Nat × Word64)) (t : Machine.Task) : Machine.Task := l.foldl (fun t e => t.setX (BitVec.ofNat 6 e.1) e.2) t

/-- A pointer into the pad of core 0. -/
def pad (off : Nat) : Word64 := padPtr (.core 0) off

/-- The state with an object of a kind at a pad offset of core 0, zero but for its header. -/
def obj (off kind len : Nat) (s : State) : State := s.pokeWord (pad off).toNat (newHeader len kind false false)

/-- An o register that names the object at a pad offset. -/
def reg (off len : Nat) : BitVec 128 := oMake false false 0 len (pad off)

/-- The outstanding results of the task. -/
def results (t : State) : List (Dest × Word64) := t.me.pend.map (fun p => (p.dest, p.val.setWidth 64))

/-! ## Scalar instructions -/

/-- x1 = -8, x2 = 3, x3 = 0x0123456789ABCDEF, x4 = 0xFF00, x5 the least signed number, x6 = 64, o1 an object of 48 bytes. -/
def s10 : State := st (fun t => (xs [(1, 0xFFFFFFFFFFFFFFF8), (2, 3), (3, 0x0123456789ABCDEF), (4, 0xFF00), (5, 0x8000000000000000), (6, 64),
  (62, 2)] t))

/-- Where the task's code has start bits: parcels 0 to 7 are one-parcel instructions. -/
def s10c : State := { s10 with clusters := [(0, { s10.cluster 0 with code := [{ base := 0, parcels := List.replicate 8 0x000#32, ptr := 0 }] })] }

/-- D = 9, A and B as given. -/
def r (a b : BitVec 6) : Fields := { d := 9, a := a, b := b }

/-- The same with a second parcel: Z, X and C. -/
def r2 (a b : BitVec 6) (z : BitVec 2) (x : BitVec 10) (c : BitVec 6 := 0) : Fields := { form := .f2, z := z, d := 9, a := a, b := b, c := c, x := x }

/-- The instruction completes with the value in x9. -/
def puts (e : Op × Fields × Word64) : Bool := does e.1 e.2.1 s10 (fun t => t.me.getX 9 == e.2.2 && t.me.pc == BitVec.ofNat 32 e.2.1.form.parcels)

theorem test_alu : ∀ e ∈ ([(.add, r 1 2, 0xFFFFFFFFFFFFFFFB), (.sub, r 2 1, 11), (.mul, r 1 2, 0xFFFFFFFFFFFFFFE8),
    (.mulh, r 1 2, 0xFFFFFFFFFFFFFFFF), (.mulh, r2 1 2 0 0x100, 2), (.div, r 1 2, 0xFFFFFFFFFFFFFFFE), (.rem, r 1 2, 0xFFFFFFFFFFFFFFFE),
    (.div, r 1 0, 0xFFFFFFFFFFFFFFFF), (.rem, r 1 0, 0xFFFFFFFFFFFFFFF8), (.and, r 3 4, 0xCD00), (.or, r 2 4, 0xFF03), (.xor, r 3 4, 0x01234567_89AB32EF),
    (.andn, r 3 4, 0x01234567_89AB00EF), (.shl, r 3 2, 0x091A2B3C4D5E6F78), (.shr, r 1 2, 0x1FFFFFFFFFFFFFFF), (.sra, r 1 2, 0xFFFFFFFFFFFFFFFF),
    (.ror, r 3 2, 0xE02468ACF13579BD), (.min, r 1 2, 0xFFFFFFFFFFFFFFF8), (.min, r2 1 2 0 0x100, 3), (.max, r 1 2, 3), (.shl, r 2 6, 3),
    (.add, r2 5 5 0 0x80, 0x8000000000000000), (.sub, r2 2 1 3 0x100, 11)] : List (Op × Fields × Word64)), puts e = true := by decide +kernel

theorem test_select_and_bits : ∀ e ∈ ([(.cmp, r2 1 2 0 2, 1), (.cmp, r2 1 2 0 0x102, 0), (.sel, r2 1 2 0 0 0, 3), (.sel, r2 1 2 0 0 4, 0xFFFFFFFFFFFFFFF8),
    (.li, { d := 9, a := 63, b := 62 }, 0xFFFFFFFFFFFFFFFE), (.li, { form := .f2, d := 9, a := 0, b := 1, c := 1 }, 65),
    (.li, { form := .f3, d := 9, lit := 0x80000000 }, 0xFFFFFFFF80000000), (.liH, { form := .f3, d := 9, x := 1, lit := 0x12345678 }, 0x1234567800000000),
    (.clz, r 3 0, 7), (.clz, r 0 0, 64), (.ctz, r 4 0, 8), (.ctz, r 0 0, 64), (.popc, r 3 0, 32), (.brev, r 4 0, 0x00FF000000000000),
    (.ext, r2 3 0 0 8 8, 0xFFFFFFFFFFFFFFCD), (.ext, r2 3 0 0 0x108 8, 0xCD), (.ins, r2 3 0 0 4 8, 0xEF0), (.pdep, r 2 4, 0x300), (.pext, r 3 4, 0xCD),
    (.gfm, r 2 2, 0), (.bperm, r 1 0, 0)] : List (Op × Fields × Word64)), puts e = true := by decide +kernel

theorem test_cmpp : does .cmpp { form := .f2, d := 3, a := 1, b := 2, x := 2 } s10 (fun t => t.me.getP 3 == task.pMask) = true := by decide +kernel

/-- Every hypothesis of IntegerAluWritesItsResult and of CompareSelectAndBitsWriteTheirResult is met in `s10`. -/
theorem witness_scalar_issues : ∀ o ∈ [Op.nop, .add, .sub, .mul, .mulh, .div, .rem, .and, .or, .xor, .andn, .shl, .shr, .sra, .ror, .min, .max, .cmp,
    .cmpp, .sel, .li, .liH, .clz, .ctz, .popc, .brev, .ext, .ins, .pdep, .pext, .gfm, .bperm, .br, .bz, .bnz, .bp, .call, .callr, .jmp, .ret, .loop,
    .lexit, .mfl, .mtl], s10.issues o {} = true := by decide +kernel

theorem test_nop : does .nop {} s10 (fun t => t.me.pc == 1 && t.me.x == s10.me.x) = true := by decide +kernel

/-- BitFunctionsPlaceEachBit: its hypothesis at both ends of the range. -/
theorem witness_bit_functions : (0 < 2 ^ 0 ∧ 0 < 2 ^ 64 ∧ 2 ^ 64 - 1 < 2 ^ 64) ∧ brevW 8 0x13 = 0xC8 ∧ ctzW 8 0x28 = 3 := by decide +kernel

/-- BranchesTransferOrFallThrough: each clause in `s10c`, whose parcels 0 to 7 have start bits (target 3, or the one in x2 or x62). -/
theorem witness_branches :
    (does .br { b := 3 } s10c (fun t => t.me.pc == 3) && s10c.targetOk (relTarget s10c.me (offDAB { b := 3 }))
    && does .bz { a := 0, b := 3 } s10c (fun t => t.me.pc == 3) && does .bz { a := 2, b := 3 } s10c (fun t => t.me.pc == 1)
    && does .bnz { a := 2, b := 3 } s10c (fun t => t.me.pc == 3) && does .bnz { a := 0, b := 3 } s10c (fun t => t.me.pc == 1)
    && does .bp { a := 0, b := 3 } s10c (fun t => t.me.pc == 3) && does .bp { a := 1, b := 3 } s10c (fun t => t.me.pc == 1)
    && does .bp { a := 0, b := 3, z := 1 } s10c (fun t => t.me.pc == 3) && does .bp { a := 1, b := 3, z := 2 } s10c (fun t => t.me.pc == 3)
    && does .call { b := 3 } s10c (fun t => t.me.pc == 3 && t.me.getX 62 == 1)
    && does .callr { a := 2 } s10c (fun t => t.me.pc == 3 && t.me.getX 62 == 1) && does .jmp { a := 2 } s10c (fun t => t.me.pc == 3)
    && does .ret {} s10c (fun t => t.me.pc == 2)) = true := by decide +kernel

/-- IllegalTargetsRaiseBranchTarget: each clause in `s10`, where no parcel is loaded. -/
theorem witness_illegal_targets :
    ([(.br, { b := 3 }), (.bz, { b := 3 }), (.bnz, { a := 2, b := 3 }), (.bp, { b := 3 }), (.lexit, { b := 3 }), (.call, { b := 3 }), (.callr, { a := 2 }),
      (.jmp, { a := 2 }), (.ret, {})] : List (Op × Fields)).all (fun e => does e.1 e.2 s10 (fun t =>
        t.me.status == .stopped && t.me.pc == 0 && t.me.x == s10.me.x && t.me.stop.map (·.code) == some (some .branchTarget))) = true := by
  decide +kernel

/-- LoopInstructionsSetTheLoopRegisters: each clause in `s10c`; the loop's end is parcel 3. -/
theorem witness_loops :
    (does .loop { a := 2, b := 3 } s10c (fun t => t.me.ls0 == 1 && t.me.le0 == 3 && t.me.lc0 == 3 && t.me.pc == 1)
    && does .loop { a := 2, b := 3, z := 1 } s10c (fun t => t.me.ls1 == 1 && t.me.le1 == 3 && t.me.lc1 == 3 && t.me.pc == 1)
    && does .loop { a := 0, b := 3 } s10c (fun t => t.me.pc == 4 && t.me.lc0 == 0)
    && does .lexit { b := 3 } (s10c.setMe { s10c.me with lc0 := 7 }) (fun t => t.me.lc0 == 0 && t.me.pc == 3)
    && does .mtl { d := 2, a := 2 } s10c (fun t => t.me.lc0 == 2 && t.me.pc == 0) && does .mtl { d := 1, a := 2 } s10c (fun t => t.me.le0 == 3)
    && does .mtl { d := 3, a := 0 } s10c (fun t => t.me.ls1 == 0)
    && does .mfl { d := 9, a := 2 } (s10c.setMe { s10c.me with lc0 := 7 }) (fun t => t.me.getX 9 == 7)) = true := by decide +kernel

/-- LoopEndsWrapOrFallThrough: a task for each clause, at pc 4. -/
def looping (e0 c0 e1 c1 : Word64) : Machine.Task := { task with pc := 4, ls0 := 1, le0 := e0, lc0 := c0, ls1 := 2, le1 := e1, lc1 := c1 }

theorem witness_loop_ends : ((looping 0 0 4 3).fallThrough 1).1.pc = 2 ∧ ((looping 4 5 4 1).fallThrough 1).1.pc = 1
    ∧ ((looping 4 1 4 1).fallThrough 1).1.pc = 5 ∧ ((looping 0 0 4 1).fallThrough 2).1.pc = 6 ∧ ((looping 4 2 0 0).fallThrough 1).1.lc0 = 1
    ∧ ((looping 4 1 0 0).fallThrough 1).1.lc0 = 0 ∧ ((looping 0 0 0 0).fallThrough 3).1.pc = 7 := by decide +kernel

/-! ## Objects and scalar memory -/

/-- Object of 48 bytes at pad offset 0x100 with words 0xF0, 0x40 (a pointer to itself), 7; registers o1 and o2 name it and x2 = 3. -/
def s20 : State :=
  (obj 0x100 0 48 (st (fun t => (xs [(2, 3), (3, 32), (5, 16)] t).setO 1 (reg 0x100 48)))).pokeWord ((pad 0x100).toNat + 16) 0x80F0

/-- The same object as a pointer object whose word at 8 is the object's own pointer. -/
def s20p : State := ((obj 0x100 1 48 s20).pokeWord ((pad 0x100).toNat + 24) (pad 0x100))

/-- A load's fields: width of 2 bytes with its sign, at offset 0. -/
def ldF : Fields := { form := .f2, z := 2, d := 9, a := 1 }

/-- LDO's: the pointer at offset 8. -/
def loF : Fields := { form := .f2, d := 9, a := 1, x := 1 }

/-- LoadsDeferTheLoadedValue: each clause. -/
theorem witness_loads : every [
    ok (do
        check s20 (s20.me.getO 1) (memOffset s20.me ldF 2) 2 2
        let ob ← objOf s20 (s20.me.getO 1)
        let s' ← touch s20 1 ob.hdr
        let bs ← readThrough s' (s'.me.getO 1) 0 2
        pure (s20.issues .ld ldF && decide (loadable false ob.hdr) && bs == [0xF0, 0x80]
          && agrees (exec (.ld ldF) s20) (completes s20 (s'.deferLoad (s'.me.getO 1) 2 [(0, 0)]
            { dest := .x 9, val := (0xFFFFFFFFFFFF80F0#64).setWidth 4096, how := .word false }) ldF))),
    ok (do
        check s20 (s20.me.getO 1) (memOffset s20.me ldF 2) 2 2
        let ob ← canonOf s20 (s20.me.getO 1)
        let bs ← readCanon s20 (s20.me.getO 1) 0 2
        pure (s20.issues .ldc ldF && decide (loadable false ob.hdr) && bs == [0xF0, 0x80]
          && agrees (exec (.ldc ldF) s20) (completes s20 (s20.deferLoad (oSetTouched (s20.me.getO 1) false) 2 [(0, 0)]
            { dest := .x 9, val := (0xFFFFFFFFFFFF80F0#64).setWidth 4096, how := .word false }) ldF))),
    ok (do
        check s20p (s20p.me.getO 1) (memOffset s20p.me loF 8) 8 8
        let ob ← objOf s20p (s20p.me.getO 1)
        let s' ← touch s20p 1 ob.hdr
        let bs ← readThrough s' (s'.me.getO 1) 8 8
        let hd ← pointerHead s' (leWord bs)
        pure (s20p.issues .ldo loF && hKind ob.hdr == 1 && !hStaged ob.hdr && leWord bs == pad 0x100 && headLen hd == 48
          && agrees (exec (.ldo loF) s20p) (completes s20p (s'.deferElems (pad 0x100)
            (s'.elems (s'.me.getO 1) 8 [(0, 8)] ++ headElem hd) { dest := .o 9, val := (reg 0x100 48).setWidth 4096, how := .pointer }) loF))),
    ok (do
        checkPtr s20 (s20.me.getO 1)
        let (a, h) ← header s20 (pad 0x100)
        pure (s20.issues .okind ldF && agrees (exec (.okind ldF) s20)
          (completes s20 (((s20.fixAt a 8).requestTo (s20.tablePart s20.me) (pad 0x100) a).defer { dest := .x 9, val := h.setWidth 4096, peer := s20.via (s20.tablePart s20.me) (pad 0x100) a }) ldF)
          && h == newHeader 48 0 false false))] = true := by decide +kernel

/-- LoadsWaitWithTheirValue: its last clause's copy is that of the die's object, which the register touches. -/
theorem witness_load_through_copy :
    (let e : Copy := { canon := padPtr (.die 0) 0x100, copy := pad 0x1000, size := 80, dirty := [], pins := [], complete := true }
     let s := (st id).setCore 0 { Core.initial with copies := [e] }
     s.copyOf s.myCore (oCanon (oMake true false 0 64 (padPtr (.die 0) 0x100))) == some e && oTouched (oMake true false 0 64 (padPtr (.die 0) 0x100))) = true := by
  decide +kernel

/-- CanonicalLoadsReadTheBytesThere in `s20`. -/
theorem witness_canonical_loads : every [s20.admits 0 (pad 0x100),
    (match s20.reach (s20.tablePart s20.me) (pad 0x100) 16 8 with | .ok a => a == (pad 0x100).toNat | _ => false),
    !s20.fencedTo (pad 0x100).toNat, !s20.poisoned ((pad 0x100).toNat + 16) 8, s20.me.sb.isEmpty, gives (readCanon s20 (s20.me.getO 1) 0 2) (· == [0xF0, 0x80])] = true := by
  decide +kernel

/-- A pointer into the pad of die 0. -/
def diePad (off : Nat) : Word64 := padPtr (.die 0) off

/-- Its copy, complete. -/
def e20 : Copy := { canon := diePad 0x100, copy := pad 0x1000, size := 80, dirty := [], pins := [], complete := true }
/-- An object of 64 bytes of the die's pad, with a copy in the core's pad: o1 names both, o2 the canonical object only. -/
def s20c : State :=
  let s := (st (fun t => ((xs [(2, 3), (5, 16), (6, 32)] t).setO 1 (oMake true false 0 64 (diePad 0x100))).setO 2 (oMake false false 0 64 (diePad 0x100)))).pokeWord
    (diePad 0x100).toNat (newHeader 64 0 false false)
  let s := s.copyIn 0 (.core 0) 0 0x1000 80 (diePad 0x100) (s.mem.readN (diePad 0x100).toNat 80) false
  s.setCore 0 { s.core 0 with copies := [e20] }

/-- A store's fields: one byte of x2 at offset 0 of o1; STO's: oD into offset 8 of o1. -/
def stF : Fields := { form := .f2, z := 3, d := 2, a := 1 }
def soF : Fields := { form := .f2, d := 1, a := 1, x := 1 }

/-- StoresWriteTheirBytes: each clause. -/
theorem witness_stores : every [
    ok (do
      check s20c (s20c.me.getO 1) (memOffset s20c.me stF 1) 1 1
      let ob ← storeObj s20c (s20c.me.getO 1) false
      let s' ← touch s20c 1 ob.hdr
      let t ← writeThrough s' (s'.me.getO 1) 0 [3]
      pure (s20c.issues .st stF && storable s20c (diePad 0x100) false ob.hdr 0 && !hSealed ob.hdr
        && agrees (exec (.st stF) s20c) (completes s20c t stF) && t.mem.read ((pad 0x1000).toNat + 16) == 3)),
    ok (do
      check s20c (s20c.me.getO 1) (memOffset s20c.me stF 1) 1 1
      let ob ← storeObj s20c (s20c.me.getO 1) true
      let t ← writeCanon s20c (s20c.me.getO 1) 0 [3]
      pure (s20c.issues .stc stF && storable s20c (diePad 0x100) false ob.hdr 0 && !hSealed ob.hdr
        && agrees (exec (.stc stF) s20c) (completes s20c t stF) && t.me.sb.map (·.bytes) == [[3]])),
    ok (do
      check s20p (s20p.me.getO 1) (memOffset s20p.me soF 8) 8 8
      let ob ← storeObj s20p (s20p.me.getO 1) false
      let s1 ← escape 1 1 400 [] s20p
      let s2 ← touch s1 1 ob.hdr
      let t ← writeThrough s2 (s2.me.getO 1) 8 (leBytes 8 (pad 0x100).toNat)
      pure (s20p.issues .sto soF && hKind ob.hdr == 1 && !hStaged ob.hdr && !hSealed ob.hdr && !malformed (pad 0x100) && tagOf (pad 0x100) != 6
        && agrees (exec (.sto soF) s20p) (completes s20p t soF)))] = true := by decide +kernel

/-- `s20c` with a store of 9 to the canonical object's first payload byte in the buffer. -/
def store20 : Store :=
  { addr := (diePad 0x100).toNat + 16, hdr := (diePad 0x100).toNat, bytes := [9], home := 0, posted := false, ptr := diePad 0x100, pc := 0, seq := 1 }
def s20b : State := s20c.setMe { s20c.me with sb := [store20] }

/-- StoresReachTheirHomes: each clause; of one instruction either element first, of two the earlier. -/
theorem witness_homes : every [oTouched (s20c.me.getO 1), s20c.copyOf s20c.myCore (diePad 0x100) == some e20,
    gives (writeThrough s20c (s20c.me.getO 1) 3 [1]) (fun t => t.mem.read ((pad 0x1000).toNat + 19) == 1
      && (t.copyOf 0 (diePad 0x100)).map (·.dirty) == some [0]),
    !{ store20 with addr := 0 }.waits store20, { store20 with addr := 0, seq := 2 }.waits store20, { store20 with home := 5 }.waits store20,
    { store20 with addr := 0, home := 1, seq := 2, pkgBar := 1 }.waits store20, { store20 with addr := 0, home := 5, seq := 2, sysBar := 1 }.waits store20,
    !{ store20 with addr := 0, home := 5, seq := 2, pkgBar := 1 }.waits store20,
    (let u := s20b.setMe { s20b.me with sb := [store20, { store20 with addr := store20.addr + 8 }] }
     (u.task 0).drainable 5 == some { store20 with addr := store20.addr + 8 } && (u.task 0).drainable 0 == some store20),
    (s20b.task 0).drainable 0 == some store20 && s20b.admits 0 (diePad 0x100) && !s20b.storeStalls store20 && !hSealed (s20b.peekWord (diePad 0x100).toNat)
      && leads (exec (.storeBufferDrain 0 0) s20b) (fun t => t.mem.read ((diePad 0x100).toNat + 16) == 9 && t.me.sb.isEmpty)] = true := by decide +kernel

/-- A store posted to a core's pad of die 1, whose router admits no tenant. -/
def far : Word64 := padPtr (.core 128) 0x100
def s20r : State :=
  s20c.setMe { s20c.me with tenant := 5, sb := [{ store20 with addr := far.toNat + 16, hdr := far.toNat, home := 1, posted := true, ptr := far }] }

/-- RefusedPostedStoresAreLogged in `s20r`. -/
theorem witness_refused_store : every [!s20r.admits 0 far, (s20r.task 0).drainable 1 == (s20r.task 0).sb.find? (fun x => x.posted && !s20r.admits 0 x.ptr),
    s20r.me.sb.all (fun x => !s20r.storeStalls x), s20r.me.status == .ready,
    leads (exec (.remoteStoreRefused 0) s20r) (fun t => t.mem == s20r.mem && t.me.status == .stopped && (t.die 1).refusals.length == 1
      && t.me.stop.map (fun x => (x.code, x.pos, x.lost)) == some (some .remotePermission, 0xFFFFFFFF, true)),
    leads (exec (.remoteStoreRefused 0) (s20r.setCore 0 { s20r.core 0 with storeLog := [{ pc := 4, tid := 1, ptr := far, num := 0 }] }))
      (fun t => t.me.stop.map (fun x => (x.code, x.pos, x.lost)) == some (some .remotePermission, 0, false))] = true := by
  decide +kernel

/-- ALLOC's fields: 32 bytes (x6) of kind data at core level into o3. -/
def alF : Fields := { form := .f2, d := 3, a := 6, x := 1 }

/-- AllocMakesAnObject in `s20c`; the registers there give 32 bytes. -/
theorem witness_alloc : every [
    ok (do
      let (s', q) ← placeObject s20c alF 1 0 48
      match s'.place (s'.tablePart s'.me) q 48 with
      | .ok a => pure (s20c.issues .alloc alF && (s20c.me.getX 6).toNat == 32 && padOf q == some (.core 0) && s'.me.sb.isEmpty
          && agrees (exec (.alloc alF) s20c) (completes s20c ((s'.initObject a 32 q (newHeader 32 0 false false)).setO 3 (oMake false false 0 32 q)) alF))
      | .error _ => pure false),
    ok (do
      let (s', q) ← placeObject s20c { alF with x := 3 } 3 0 48
      match s'.place (s'.tablePart s'.me) q 48 with
      | .ok a => pure (padOf q == some (.die 0) && does .alloc { alF with x := 3 } s20c (fun t => t.me.getO 3 == oMake false false 0 32 q
          && t.mem == s'.mem && t.me.sb.map (fun x => (x.addr, x.size)) == [(a, 48)]))
      | .error _ => pure false)] = true := by decide +kernel

/-- ObjectRegisterInstructionsWriteTheirResult: each clause in `s20c`. -/
theorem witness_object_registers : every [
    does .olen { d := 9, a := 1 } s20c (fun t => t.me.getX 9 == 64), does .omov { d := 3, a := 1 } s20c (fun t => t.me.getO 3 == s20c.me.getO 1),
    does .oeq { d := 9, a := 1, b := 2 } s20c (fun t => t.me.getX 9 == 1), does .oeq { d := 9, a := 1, b := 0 } s20c (fun t => t.me.getX 9 == 0),
    does .oview { form := .f2, d := 3, a := 1, b := 5, c := 6 } s20c (fun t => t.me.getO 3 == oMake true true 16 32 (diePad 0x100)),
    does .odrop { a := 2 } s20c (fun t => (t.core 0).copies == [e20]),
    does .odrop { a := 1 } (s20c.setCore 0 { s20c.core 0 with copies := [] }) (fun t => !oTouched (t.me.getO 1)),
    does .odrop { a := 1 } s20c (fun t => (t.core 0).copies.isEmpty && !oTouched (t.me.getO 1))] = true := by decide +kernel

/-- The canonical header of the object in the die's pad. -/
def h20 : Nat := (diePad 0x100).toNat

/-- The header that oA names stands at `h20`. -/
def headed (s : State) (r : BitVec 6) : Bool :=
  gives (checkPtr s (s.me.getO r)) (fun _ => true) && gives (header s (oCanon (s.me.getO r))) (fun e => e.1 == h20 && e.2 == newHeader 64 0 false false)

/-- HeaderInstructionsUpdateTheHeader: each clause in `s20c`. -/
theorem witness_headers : every [headed s20c 1, headed s20c 2, passes (needAtomicOps s20c (diePad 0x100)), s20c.peekWord (h20 + 8) == 0,
    gives (acquiredCopy s20c (s20c.me.getO 2)) (· == none), gives (acquiredCopy s20c (s20c.me.getO 1)) (· == some e20),
    gives (releasedHome s20c (homeOf h20)) (fun s1 => ((s1.pokeWord (h20 + 8) 0x10000).fixPrivate.refresh e20 h20).2 && s1.me.status == .ready),
    does .acq { form := .f2, a := 2, x := 8 } s20c (fun t => t.peekWord (h20 + 8) == 0x80000000),
    does .acq { form := .f2, a := 2 } s20c (fun t => t.peekWord (h20 + 8) == 0x10000),
    does .acq { form := .f2, a := 1 } (s20c.pokeWord (h20 + 16) 5) (fun t => t.peekWord (h20 + 8) == 0x10000 && t.peekWord ((pad 0x1000).toNat + 16) == 5),
    ok (do let s1 ← flush s20c (s20c.me.getO 1); let s2 ← releasedAt 0 0 s1; pure (s2.me.status == .ready)),
    does .rel { a := 1 } (s20c.pokeWord (h20 + 8) 0x80000000) (fun t => t.peekWord (h20 + 8) == 0x100000000),
    does .osync { a := 1 } ((s20c.poke ((pad 0x1000).toNat + 16) [7]).setCopy 0 { e20 with dirty := [0] }) (fun t => t.mem.read (h20 + 16) == 7),
    does .osync { a := 2 } s20b (fun t => t.me.sb.isEmpty && t.mem.read (h20 + 16) == 9),
    does .pin { a := 1 } s20c (fun t => t.peekWord h20 == newHeader 64 0 false false ||| (1#64 <<< 40)),
    does .unpin { a := 1 } s20c (fun t => t.peekWord h20 == newHeader 64 0 false false),
    does .seal { a := 1 } s20c (fun t => hSealed (t.peekWord h20))] = true := by decide +kernel

/-- AcquireWaitsAndIsGranted: held in the first state, free again in the second. -/
theorem witness_acquire : every [headed s20c 2, passes (releasedHome s20c (homeOf h20)),
    does .acq { form := .f2, a := 2, x := 8 } (s20c.pokeWord (h20 + 8) 0x10000)
      (fun t => t.me.status == .parked && t.me.wait.map (·.kind) == some .acq && t.me.pc == 0),
    leads (exec (.acq { form := .f2, a := 2, x := 8 }) (s20c.pokeWord (h20 + 8) 0x10000)) (fun t =>
      let u := t.pokeWord (h20 + 8) 0
      let s := { u with cur := 0, tasks := u.tasks.set 0 { u.task 0 with status := .ready, wait := none } }
      headed s 2 && s.peekWord (h20 + 8) == 0
      && leads (exec (.acqGrant 0) u) (fun t => t.peekWord (h20 + 8) == 0x80000000 && t.me.status == .ready && t.me.pc == 2))] = true := by decide +kernel

/-- The object in the die's pad with no copy; a handle in x1 whose entry, directory and block lie in the core's pad. -/
def s20h : State :=
  let s := (s20c.setCore 0 { s20c.core 0 with copies := [] }).setMe ((xs [(1, 0x6000000000000001)] s20c.me).setO 1 (oMake false false 0 64 (diePad 0x100)))
  let s := obj 0x20000 0 36864 (obj 0x200 0 16 (obj 0x100 7 32 s))
  let s := ((s.pokeWord ((pad 0x100).toNat + 16) 1).pokeWord ((pad 0x100).toNat + 24) (pad 0x200)).pokeWord ((pad 0x200).toNat + 16) (pad 0x20000)
  { s with parts := [(0, { s.part 0 with htab := pad 0x100 })] }

/-- HandlePrefetchAndFence: each clause in `s20h` (the copy that PREF enters is what its completion fills). -/
theorem witness_handle_prefetch_fence : every [
    s20h.htab == pad 0x100 && passes (header s20h (pad 0x100)),
    gives (loadNow s20h (pad 0x100) 16 16) (fun e => leNat (e.2.take 8) == 1 && leWord (e.2.drop 8) == pad 0x200
      && gives (loadNow e.1 (pad 0x200) 16 8) (fun bs => leWord bs.2 == pad 0x20000 && gives (access bs.1 (pad 0x20000) 0 16) (· == (pad 0x20000).toNat))),
    does .hdl { d := 3, a := 1, b := 0 } s20h (fun t => t.me.pend.map (fun p => (p.dest, p.val.setWidth 128)) == [(.o 3, oMake false true 0 576 (pad 0x20000))]),
    does .pref { form := .f2, a := 0 } s20h (fun t => t.me.pc == 2 && (t.core 0).copies.isEmpty),
    prefPad s20h { form := .f2, a := 1, x := 1 } (diePad 0x100) (s20h.peekWord h20) == some (.core 0),
    (s20h.padRoom (.core 0) 0 80).isSome && gives (header s20h (diePad 0x100)) (fun e => e == (h20, s20h.peekWord h20)),
    does .pref { form := .f2, a := 1, x := 1 } (s20h.poke (h20 + 16) [5]) (fun t =>
      (t.core 0).copies.map (fun e => (e.complete, e.pref, e.blocks, e.next, t.readerOf e)) == [(false, true, 1, 0, some (0, 0))]
      && leads (exec (.prefCopyComplete 0 (diePad 0x100)) (t.setMe { t.me with tid := 2 })) (fun u =>
          (u.core 0).copies.map (fun e => (u.mem.read (e.copy.toNat + 16), e.complete)) == [(5, true)])),
    !s20b.me.faulting && !s20b.ctlHeld 1,
    gives (fenceFull 5 s20b) (fun t => t.me.sb.isEmpty && !t.ctlHeld 1) && does .fence { form := .f2, x := 5 } s20b (fun t => t.me.sb.isEmpty),
    does .fence { form := .f2, x := 16 } s20b (fun t => t.me.sb == [store20]), does .fence { form := .f2, x := 11 } s20b (fun t => t.me.pkgBar == s20b.me.seq),
    does .fence { form := .f2 } s20b (fun t => t.me.sb.map (·.fenced) == [true])] = true := by
  decide +kernel

/-- ReleasesPerformEarlierAccesses: each clause; a fenced store makes a load of its home wait. -/
theorem witness_releases : every [
    gives (releasedAt 0 0 s20b) (fun t => t.me.sb.isEmpty), gives (releasedAt 0 1 s20b) (fun t => t.me.sb.length == 1),
    gives (releasedAt 3 4 s20b) (fun t => t.me.sb.isEmpty), gives (fenceFull 3 s20b) (fun t => t.me.sb.isEmpty),
    gives (fenceFull 2 s20b) (fun t => t.me.sb == [{ store20 with fenced := true }] && t.admits t.cur (diePad 0x300)
      && (match access t (diePad 0x300) 16 8 with | .error (.retry _) => true | _ => false))] = true := by decide +kernel
/-! ## Sync words and atomics -/

/-- A sync object of 32 bytes (o1), a data object (o2) and a vref table whose first pair is the data object and version 4 (o3), in the core's
pad; x2 = 3, x4 = 4, x5 = 5, x6 = 2^32 - 1, o4 and o5 name the data object. -/
def s30 : State :=
  let o := fun n r (t : Machine.Task) => t.setO n r
  let s := obj 0x400 2 32 (obj 0x200 0 32 (obj 0x100 3 32 (st (fun t => o 5 (reg 0x200 32) (o 4 (reg 0x200 32) (o 3 (reg 0x400 32) (o 2 (reg 0x200 32) (o 1 (reg 0x100 32)
    (xs [(2, 3), (4, 4), (5, 5), (6, 0xFFFFFFFF)] t)))))))))
  (s.pokeWord ((pad 0x400).toNat + 16) (pad 0x200)).pokeWord ((pad 0x400).toNat + 24) 4

/-- Its first sync word. -/
def w30 : Nat := (pad 0x100).toNat + 16

/-- The same with the word full of 7. -/
def s30f : State := s30.fillWord w30 7 0

/-- The request finds its word. -/
def finds (o : Op) (f : Fields) (s : State) : Bool := s.issues o f && gives (feWord o f s) (fun e => e.1 == w30)

/-- FLD and the others at offset 0 of o1; FPUT and FSET store x2. -/
def feF : Fields := { form := .f2, d := 9, a := 1 }
def fpF : Fields := { form := .f2, d := 2, a := 1 }

/-- SyncWordsFillAndEmpty: each clause. -/
theorem witness_sync_words : every [[Op.fld, .ftake, .fput, .fset, .fclr].all (fun o => finds o fpF s30f && finds o fpF s30),
    s30f.isFull w30, !s30.isFull w30, passes (releasedHome s30f (homeOf w30)), [s30, s30f].all (fun s => passes (releasedAt (scopeTo 0 (pad 0x100) w30) (homeOf w30) s)),
    does .fld feF s30f (fun t => results t == [(.x 9, 7)] && t.isFull w30),
    does .ftake feF s30f (fun t => results t == [(.x 9, 7)] && !t.isFull w30 && t.peekWord w30 == 7),
    does .fput fpF s30 (fun t => t.isFull w30 && t.peekWord w30 == 3), does .fset fpF s30f (fun t => t.isFull w30 && t.peekWord w30 == 3),
    does .fclr feF s30f (fun t => !t.isFull w30 && t.peekWord w30 == 7)] = true := by decide +kernel

/-- The task is parked at the word and its pc stands. -/
def parkedAt (t : State) : Bool := t.me.status == .parked && t.me.wait.map (·.aux) == some w30 && t.me.pc == 0

/-- SyncRequestsParkOnTheirWord: each clause. -/
theorem witness_sync_parks : every [does .fld feF s30 parkedAt, does .ftake feF s30 parkedAt, does .fput fpF s30f parkedAt] = true := by decide +kernel

/-- ParkedSyncRequestsAreRetriedInOrder: an FTAKE of slot 0 waits for the word, which a later state finds full. -/
def s30w : State := s30.parkTask 0 { kind := .fullEmpty, op := .ftake, f := feF, object := pad 0x100, aux := w30 }

theorem witness_sync_retry : every [
    (s30w.waiters .fullEmpty w30).length == 1, ((s30w.waiters .fullEmpty w30).find? (fun e => feReady s30w e.2)).isNone,
    leads (exec (.fullEmptyRetry w30) s30w) (fun t => t.me.status == .parked && t.me.pc == 0),
    (((s30w.fillWord w30 7 0).waiters .fullEmpty w30).find? (fun e => feReady (s30w.fillWord w30 7 0) e.2)).map (·.1) == some 0,
    leads (exec (.fullEmptyRetry w30) (s30w.fillWord w30 7 0)) (fun t => t.me.status == .ready && results t == [(.x 9, 7)] && t.me.pc == 2 && !t.isFull w30)]
    = true := by decide +kernel

/-- SigdeclNamesTheSignaller in `s30`, at the greatest signaller. -/
theorem witness_sigdecl : every [passes (checkPtr s30 (s30.me.getO 1)),
    gives (header s30 (pad 0x100)) (fun e => e.1 == (pad 0x100).toNat && hKind e.2 == 3), passes (releasedHome s30 (homeOf (pad 0x100).toNat)),
    does .sigdecl { a := 1, b := 6 } s30 (fun t => t.peekWord ((pad 0x100).toNat + 8) == 0xFFFFFFFF00000000)] = true := by decide +kernel

/-- The data object's first word, and the state with 5 there. -/
def a30 : Nat := (pad 0x200).toNat + 16
def s30a : State := s30.pokeWord a30 5

/-- AMO's fields: an operation on the doubleword of o2, with x2. -/
def amF (op : BitVec 10) (z : BitVec 2 := 0) : Fields := { form := .f2, z := z, d := 9, a := 2, b := 2, x := op }

/-- AtomicsReplaceAndReturnTheOldValue: each clause; ADD, AND, XOR, MIN, MAXU and SWAP of 5 and 3, CAS that matches and that does not. -/
theorem witness_atomics : every [[amF 0, amF 5, amF 8].all (fun f => gives (atomicChecks f s30a (f.x == 0 || f.x == 8)) (· == a30)
      && passes (atomicRelease s30a f (homeOf a30))),
    [(0, 8), (1, 1), (3, 6), (4, 3), (7, 5), (8, 3)].all (fun (op, v) => does .amo (amF op) s30a (fun t => t.peekWord a30 == v && results t == [(.x 9, 5)])),
    does .amo (amF 0 3) (s30.pokeWord a30 0x1FF) (fun t => t.peekWord a30 == 0x102 && results t == [(.x 9, 0xFFFFFFFFFFFFFFFF)]),
    does .cas { form := .f2, d := 9, a := 2, b := 5, c := 2 } s30a (fun t => t.peekWord a30 == 3 && results t == [(.x 9, 5)]),
    does .cas { form := .f2, d := 9, a := 2, b := 4, c := 2 } s30a (fun t => t.peekWord a30 == 5 && results t == [(.x 9, 5)])] = true := by decide +kernel

/-- Cas2ReplacesAMatchingPair: the pair matches (o4 and x4) and does not (o4 and x2). -/
def caF (c : BitVec 6) : Fields := { form := .f2, d := 4, a := 3, b := 0, c := c }

/-- The data object's header is poisoned. -/
def s30x : State := { s30 with poison := s30.poison ++ [(pad 0x200).toNat] }

theorem witness_cas2 : every [passes (check s30 (s30.me.getO 3) 0 16 16), gives (header s30 (pad 0x400)) (fun e => hKind e.2 == 2),
    !malformed (oCanon (s30.me.getO 4)) && tagOf (oCanon (s30.me.getO 4)) != 6, passes (needAtomicOps s30 (pad 0x400)),
    gives (escape 3 5 400 [] s30) (fun s1 => gives (access s1 (pad 0x400) 16 16) (· == (pad 0x400).toNat) && !s1.poisoned ((pad 0x400).toNat + 16) 16
      && passes (atomicRelease s1 (caF 4) 0)), gives (pointerHead s30 (pad 0x200)) (fun hd => headLen hd == 32),
    does .cas2 (caF 4) s30 (fun t => t.peekWord ((pad 0x400).toNat + 24) == 5 && results t == [(.o 4, pad 0x200), (.x 4, 4)]),
    does .cas2 (caF 2) s30 (fun t => t.peekWord ((pad 0x400).toNat + 24) == 4 && results t == [(.o 4, pad 0x200), (.x 2, 4)]),
    (match pointerHead s30x (pad 0x200) with | .error (.fault _ x) => arisesLate x.code | _ => false),
    does .cas2 (caF 4) s30x (fun t => t.peekWord ((pad 0x400).toNat + 24) == 5 && t.me.pend.map (fun q => q.fault.map (·.code)) == [some .uncorrectable])] = true := by decide +kernel

/-- LostAtomicResultsStopTheTask: the one outstanding result of a task is an atomic's. -/
theorem witness_lost_atomic :
    let s := s30.setMe { s30.me with pend := [{ dest := .x 9, val := 5, atomic := some (pad 0x200, 0) }] }
    leads (exec (.atomicResponseError 0 0) s) (fun t => t.me.status == .stopped && t.me.pend.isEmpty
      && t.me.stop.map (·.code) == some (some .atomicResultLost)) = true := by decide +kernel
/-! ## Tasks -/

/-- o1 an object of 64 bytes of the core's pad whose word 0 is 7 and whose words 4 to 7 are 40 to 43; x2 = 3, x1 = 11; core 0 lies in the
configured partition 0, whose tenant 0 is a member; the task joins the object and has the generation 6. -/
def s40 : State :=
  let s := obj 0x100 0 64 (st (fun t => { (xs [(1, 11), (2, 3)] t).setO 1 (reg 0x100 64) with gen := 6, join := pad 0x100, pc := 5 }))
  let s := [(0, 7), (4, 40), (5, 41), (6, 42), (7, 43)].foldl (fun s e => s.pokeWord ((pad 0x100).toNat + 16 + 8 * e.1) (BitVec.ofNat 64 e.2)) s
  { s with parts := [(0, { Partition.initial with configured := true, member := 1 })] }

/-- The join word. -/
def j40 : Nat := (pad 0x100).toNat + 16

/-- FORK with the argument o1, entry in x2, joined to o1 or not. -/
def fkF (c : BitVec 6) : Fields := { form := .f2, d := 9, a := 1, b := 2, c := c }

/-- ForkPlacesARecord: both clauses. -/
theorem witness_fork : every [passes (needJoin s40 (s40.me.getO 1)), gives (joinPlace s40 (pad 0x100)) (fun e => e.2 == j40),
    does .fork (fkF 0) s40 (fun t => (t.core 0).deque.map (fun r => (r.arg, r.x1, r.recCount)) == [(pad 0x100, 11, 1)] && t.peekWord j40 == 7),
    does .fork (fkF 1) s40 (fun t => (t.core 0).deque.map (fun r => (r.join, r.x1, r.recCount)) == [(pad 0x100, 11, 1)] && t.peekWord j40 == 8
      && results t == [(.x 9, 1)])] = true := by decide +kernel

/-- WaitingForksPlaceTheirRecord: a FORK that waits with record count 4 for the core's own deque. -/
def w40 : Wait := { kind := .room, op := .fork, f := fkF 0, record := some { entry := 3, recCount := 4 } }

theorem witness_fork_place :
    let s := s40.parkTask 0 w40
    (s.me.status == .parked && !s.haltedAt 0 && leads (exec (.forkPlace 0) s) (fun t =>
      (t.core 0).deque.map (·.recCount) == [4] && t.me.status == .ready && t.me.pc == 7)) = true := by decide +kernel

/-- JoinWaitsForZero: the word holds 7, then 0. -/
def s40z : State := s40.pokeWord j40 0

theorem witness_join : every [passes (check s40 (s40.me.getO 1) 0 8 8), gives (header s40 (pad 0x100)) (fun e => hKind e.2 == 0 && !hStaged e.2),
    gives (readCanon s40 (s40.me.getO 1) 0 8) (fun bs => leNat bs == 7), gives (readCanon s40z (s40z.me.getO 1) 0 8) (fun bs => leNat bs == 0),
    does .join { a := 1 } s40z (fun t => t.me.pc == 6), does .join { a := 1 } s40 (fun t => t.me.status == .parked && t.me.pc == 5),
    leads (exec (.joinWake 0) (s40z.parkTask 0 { kind := .join, op := .join, f := { a := 1 } })) (fun t => t.me.status == .ready && t.me.pc == 6)] = true := by
  decide +kernel

/-- HaltFreesTheSlot: a task with a join word, and one without. -/
theorem witness_halt : every [gives (do let l ← landed s40; released l) (fun s1 => s1.cur == 0 && s1.me.join != 0
      && gives (joinPlace s1 s1.me.join) (fun e => e.1.cur == 0 && e.2 == j40)),
    does .halt {} s40 (fun t => t.me.status == .free && t.me.gen == 6 && t.peekWord j40 == 6),
    does .halt {} (s40.setMe { s40.me with join := 0 }) (fun t => t.me.status == .free && t.peekWord j40 == 7)] = true := by decide +kernel

/-- HaltRetainStartsTheSuccessor in `s40`. -/
theorem witness_halt_retain : every [gives (landed s40) (fun l => l == s40), passes (check s40 (s40.me.getO 1) 0 64 16),
    gives (objOf s40 (s40.me.getO 1)) (fun ob => hKind ob.hdr == 0 && loadable false ob.hdr),
    gives (do let s1 ← touch s40 1 (newHeader 64 0 false false); let bs ← readThrough s1 (s1.me.getO 1) 0 64; let s2 ← released s1; pure (s2, bs))
      (fun (s2, bs) => s2.cur == 0 && bs.length == 64),
    does .haltRetain { a := 1, b := 2 } s40 (fun t => t.me.status == .ready && t.me.pc == 3 && t.me.getX 1 == 40 && t.me.getX 4 == 43
      && t.me.getX 5 == 1 && t.me.getO 1 == s40.me.getO 1)] = true := by decide +kernel

/-- A message for any task in the inbox of core 0. -/
def s40m : State := s40.setCore 0 { s40.core 0 with inbox := [{ target := 0, tag := 0, sender := 0, tenant := 0, spawn := false, orphan := false, bytes := [] }] }

/-- YieldAndIdle: each clause. -/
theorem witness_yield_idle : every [passes (landed s40) && passes (landed s40m),
    does .yield {} s40 (fun t => t.me.skip && t.me.pc == 6), s40m.idleEnds 0, !s40.idleEnds 0,
    does .idle {} s40m (fun t => t.me.status == .ready && t.me.pc == 6), does .idle {} s40 (fun t => t.me.status == .parked && t.me.pc == 5),
    leads (exec (.idleWake 0) (s40m.parkTask 0 { kind := .idle, op := .idle, f := {} })) (fun t => t.me.status == .ready && t.me.pc == 6)] = true := by
  decide +kernel

/-- A record in the deque of core 0, which any core of the partition may steal. -/
def r40 : Record := { domain := 3, entry := 9, arg := pad 0x100, recCount := 5, x1 := 21, x4 := 24, x7 := 27 }
def s40d : State := s40.setCore 0 { s40.core 0 with deque := [r40] }

/-- PopStartsTheBottomRecord in `s40d`. -/
theorem witness_pop : every [s40d.slotFor 0 == some 1, !s40d.haltedAt 0, s40d.available 0, canHost 0 r40,
    leads (exec (.dequePop 0) s40d) (fun t => (t.core 0).deque.isEmpty && (t.task 1).status == .ready && (t.task 1).pc == 9
      && (t.task 1).getX 1 == 21 && (t.task 1).getX 4 == 24 && (t.task 1).getX 6 == 5 && (t.task 1).getX 7 == 27
      && (t.task 1).getO 1 == reg 0x100 64)] = true := by decide +kernel

/-- StealTakesTheTopAndSpillReturnsInOrder: core 1 steals from core 0; a deque of one record with one in its spill area. -/
theorem witness_steal : every [!s40d.haltedAt 1 && s40d.available (clusterOf 1) && (s40d.logical 1).isEmpty && s40d.slotFor 1 == some 8, s40d.victim 1 == some (0, r40),
    leads (exec (.steal 1) s40d) (fun t => (t.logical 0).isEmpty && (t.core 1).lastVictim == some 0 && (t.task 8).pc == 9 && (t.task 8).status == .ready),
    leads (exec (.spillReturn 0) (s40d.setCore 0 { s40d.core 0 with spill := [{ r40 with entry := 8 }] }))
      (fun t => (t.core 0).deque.map (·.entry) == [9, 8] && (t.core 0).spill.isEmpty)] = true := by decide +kernel

/-- MigrationMovesTheTask: the task of core 0 moves to slot 8, of core 1; then its intercalary entry is cleared. -/
def s40g : State := s40.parkTask 0 { kind := .migration, op := .add, f := {}, aux := 9 }

theorem witness_migration : every [(s40g.core 0).copies.isEmpty && s40g.me.sb.isEmpty && (s40g.boxesOf 0 1 true).isEmpty && !s40g.haltedAt 0,
    (List.range 16).find? (fun i => ((s40g.core 0).forward[i]?.getD (1, 1)).1 == 0) == some 0,
    leads (exec (.migration 0) s40g) (fun t => (t.task 8).status == .ready && (t.task 8).getX 1 == 11 && (t.task 8).pc == 5 && (t.task 0).status == .free
      && (t.core 0).forward[0]? == some (1, (t.task 8).tid) && coreOf 8 == 1
      && leads (exec (.icoldWrite 0 0 0) t) (fun u => (u.core 0).forward[0]? == some (0, 0)))] = true := by decide +kernel
/-! ## Messages, mailboxes, and the task graph -/

/-- o1 an object of 64 bytes whose first word is an entry, 9; x1 names core 1, x2 a core of package 3; core 0 and core 1 lie in the configured
partition 0, whose member is the task's tenant 5. -/
def s50 : State :=
  let s := (obj 0x100 0 64 (st (fun t => { (xs [(1, 0x10000), (2, 0x6000000)] t).setO 1 (reg 0x100 64) with tenant := 5 }))).pokeWord ((pad 0x100).toNat + 16) 9
  { s with parts := [(0, { Partition.initial with configured := true, member := 0x20 })] }

/-- The object's bytes. -/
def b50 : List Byte := 9 :: List.replicate 63 0

/-- The package is in a domain, with a route to package 3 over port 0. -/
def s50a : State :=
  { s50 with plat := { s50.plat with inDomain := true, routes := [(3, 0x80000000)], ports := [(0, { Port.initial with up := true })] } }

/-- SEND's fields: the count to x9. -/
def sdF (b : BitVec 6) : Fields := { form := .f2, d := 9, a := 1, b := b }

/-- The target id leads to core 1. -/
def toCore1 (s : State) : Bool := match s.sendTo 1 with
  | .core c => c == 1
  | _ => false

/-- No partition has core 1. -/
def s50o : State := { s50 with parts := [] }

/-- The inbox of core 1 is full. -/
def s50n : State :=
  let m : Message := { target := 1, tag := 0, sender := 1, tenant := 5, spawn := false, orphan := false, bytes := b50, routed := true, held := true }
  s50.setCore 1 { s50.core 1 with inbox := List.replicate 64 m }

/-- SendPutsAMessageInTheMesh: each clause. -/
theorem witness_send : every [passes (check s50 (s50.me.getO 1) 0 64 8), gives (readThrough s50 (s50.me.getO 1) 0 0) (·.isEmpty),
    gives (readThrough s50 (s50.me.getO 1) 0 64) (· == b50), gives (objOf s50 (s50.me.getO 1)) (fun ob => loadable false ob.hdr),
    gives (do let s1 ← touch s50 1 (newHeader 64 0 false false); let bs ← readThrough s1 (s1.me.getO 1) 0 64; let s2 ← releasedAt (scopeCores 0 1) 0 s1; pure (s2, bs))
      (fun (s2, bs) => bs == b50 && toCore1 s2 && s2.entries 1 < 64 && (s2.senders 1).isEmpty),
    does .send (sdF 1) s50 (fun t => t.mesh.map (fun m => (m.target, m.bytes, m.sender, m.tenant, m.held)) == [(1, b50, 1, 5, true)]
      && t.me.pend.map (fun p => (p.dest, p.msg)) == t.mesh.map (fun m => (.x 9, some m.seq))),
    s50n.entries 1 == 64 && toCore1 s50n,
    does .send (sdF 1) s50n (fun t => t.me.status == .parked && t.mesh.map (·.held) == [false] && t.me.wait.map (·.aux) == t.mesh.head?.map (·.seq) && t.me.pend.isEmpty),
    does .sendSpawn (sdF 1) s50 (fun t => t.mesh.map (fun m => m.record.map (fun r => (r.entry, r.creator, r.tenant, r.origin))) == [some (9, 1, 5, 2)]),
    (match s50a.sendTo 0x600 with
      | .away => true
      | _ => false) && does .send (sdF 2) s50a (fun t => t.mesh.isEmpty && t.me.pc == 2 && t.me.pend.map (·.peer) == [some ⟨3, 0, 0⟩]),
    (match s50.sendTo 0x600 with
      | .noRoute => true
      | _ => false) && does .send (sdF 2) s50 (fun t => t.me.pc == 2 && t.me.pend.map (fun p => p.fault.map (·.code)) == [some .region]),
    (match s50o.sendTo 1 with
      | .refused => true
      | _ => false) && does .send (sdF 1) s50o (fun t => t.me.pc == 2 && t.me.pend.map (fun p => p.fault.map (·.code)) == [some .remotePermission])] = true := by decide +kernel

/-- A message to core 0 from the task with id 1, routed or not, of a tenant. -/
def m50 (routed : Bool) (tenant : BitVec 16) (tag : Word32 := 0) : Message :=
  { target := 0, tag := tag, sender := 1, tenant := tenant, spawn := false, orphan := false, bytes := b50, routed := routed, held := true, pc := 6 }
def mesh50 (m : Message) : State := { s50 with mesh := [m] }

/-- The entry of a task moved from core 0 to core 1. -/
def moved50 : State := (mesh50 (m50 true 5 1)).setCore 0 { (mesh50 (m50 true 5 1)).core 0 with forward := (Vector.replicate 16 (0, 0)).set 2 (1, 0x10008) }

/-- MessagesAreRoutedAndArrive: each clause. -/
theorem witness_routing : every [(mesh50 (m50 false 5)).delivers (m50 false 5),
    leads (exec (.routerDelivery 0) (mesh50 (m50 false 5))) (fun t => t.mesh == [m50 true 5]),
    !(mesh50 (m50 false 6)).delivers (m50 false 6) && (mesh50 (m50 false 6)).taskWithId ((mesh50 (m50 false 6)).idNow 16 1) == some 0,
    leads (exec (.routerDelivery 0) (mesh50 (m50 false 6))) (fun t => t.mesh.isEmpty && t.me.status == .stopped
      && t.me.stop.map (fun i => (i.code, i.pos)) == some (some .remotePermission, 6)),
    (let s := { mesh50 (m50 false 6) with tasks := [] }
     (s.taskWithId (s.idNow 16 1)).isNone && s.shadow.isEmpty && s.coreAt 0 == some 0
       && leads (exec (.routerDelivery 0) s) (fun t => t.mesh.isEmpty && ((t.halt 16).reports.map (fun r => (r.info.code, r.info.pos, r.tid)) == [(some .remotePermission, 6, 1)]))),
    (let s := (mesh50 { m50 true 5 with seq := 12 }).setMe { s50.me with pend := [{ dest := .x 9, msg := some 12 }] }
     s.mayArrive 0 && leads (exec (.messageArrival 0) s) (fun t => t.mesh.isEmpty && (t.core 0).inbox == [{ m50 true 5 with seq := 12 }]
       && t.me.pend.map (fun p => (p.msg, p.val.setWidth 64)) == [(none, 63#64)])),
    moved50.mayArrive 0 && moved50.coreAt 1 == some 1,
    leads (exec (.messageArrival 0) moved50) (fun t => t.mesh.map (fun m => (m.target, m.tag)) == [(1, 0x10008)])] = true := by decide +kernel

/-- A spawn message in the inbox of core 0, and a SEND of slot 8 that waits for an entry there. -/
def rec50 : Record := { entry := 9, recCount := 4 }
def box50 : State := s50.setCore 0 { s50.core 0 with inbox := [{ m50 true 5 with spawn := true, record := some rec50 }] }
def wait50 : State :=
  { mesh50 { m50 false 5 with held := false, seq := 12 } with
    tasks := [(8, { task with status := .parked, wait := some { kind := .send, op := .send, f := sdF 1, aux := 12 } })] }

/-- WaitingMessagesFindRoom: both clauses. -/
theorem witness_rooms : every [!box50.haltedAt 0 && (box50.pushAt 0 (box50.inCluster 0 rec50)).isSome,
    leads (exec (.spawnPush 0) box50) (fun t => (t.core 0).inbox.isEmpty && (t.core 0).deque.map (·.entry) == [9]),
    (wait50.senders 0).map (·.1) == [8] && wait50.entries 0 < 64,
    leads (exec (.sendInboxEntry 0) wait50) (fun t => (t.task 8).status == .ready && (t.task 8).pc == 2 && t.mesh.map (·.held) == [true]
      && (t.task 8).pend.map (fun p => (p.dest, p.msg)) == [(.x 9, some 12)])] = true := by decide +kernel

/-- RECV's fields: the message into o1, the result into x9; X bit 0 polls. -/
def rvF (x : BitVec 10 := 0) : Fields := { form := .f2, d := 1, a := 9, x := x }

/-- A message that names no task of the core, in the inbox; and the task parked at its RECV. -/
def inbox50 : State := s50.setCore 0 { s50.core 0 with inbox := [m50 true 5] }
def parked50 : State := inbox50.parkTask 0 { kind := .recv, op := .recv, f := rvF }

/-- ReceiveTakesTheOldestMessage: each clause. -/
theorem witness_receive : every [gives (storeObj s50 (s50.me.getO 1) false) (fun ob => storable s50 (pad 0x100) false ob.hdr 0 && !hSealed ob.hdr),
    (inbox50.core 0).inbox.findIdx? (inbox50.mayTake 0 1) == some 0 && ((s50.core 0).inbox.findIdx? (s50.mayTake 0 1)).isNone,
    gives (do let s1 ← touch inbox50 1 (newHeader 64 0 false false); writeThrough s1 (s1.me.getO 1) 0 b50) (fun t => (t.core 0).inbox.length == 1),
    does .recv rvF inbox50 (fun t => (t.core 0).inbox.isEmpty && results t == [(.x 9, 1)]),
    does .recv (rvF 1) s50 (fun t => results t == [(.x 9, 0)] && t.me.pc == 2), does .recv rvF s50 (fun t => t.me.status == .parked && t.me.pc == 0),
    parked50.recvTurn 0 && leads (exec (.recvDelivery 0) parked50) (fun t => t.me.status == .ready && t.me.pc == 2 && (t.core 0).inbox.isEmpty)]
    = true := by decide +kernel

/-- Mailbox 3 of core 0 taken by job 0x123 of the matrix engine, empty or full of status 7; x1 the job's id. -/
def job50 (full : Bool) : State :=
  let s := s50.setMe (xs [(1, 0x12303), (5, 0x80)] s50.me)
  (s.setCore 0 { s.core 0 with mailboxes := (s.core 0).mailboxes.set 3 { Mailbox.free with taken := true, seq := 0x123, owner := 1, full := full } }).pokeWord
    (s.boxAddr 0 s.me.ctx 3) 0x12307
def jbF : Fields := { form := .f2, d := 9, a := 1 }

/-- The mailbox is free again and x9 takes the value. -/
def took (v : Word64) (t : State) : Bool := results t == [(.x 9, v)] && t.me.pc == 2

/-- The line of its mailbox is struck. -/
def struck50 : State := (job50 true).poisonBlock ((job50 true).boxAddr 0 (job50 true).me.ctx 0)

/-- JobWaitsReadTheirMailbox: each clause; x5 names no job, x0 none that the mailbox has. -/
theorem witness_job_waits : every [does .jwait jbF (job50 true) (fun t => took 7 t && !(t.mailbox 0 3).taken),
    does .jpoll jbF (job50 true) (fun t => took 7 t && !(t.mailbox 0 3).taken), does .jwait { jbF with a := 0 } (job50 true) (took 3),
    does .jpoll { jbF with a := 0 } (job50 true) (took 3), does .jpoll jbF (job50 false) (took 0),
    does .jwait jbF (job50 false) (fun t => t.me.status == .parked && t.me.pc == 0),
    does .jpoll { jbF with a := 5 } struck50 (took 3), struck50.mailbox 0 3 == (job50 true).mailbox 0 3,
    [Op.jwait, .jpoll].all (fun o => does o jbF struck50 (fun t => t.me.pc == 2 && t.me.pend.map (fun p => p.fault.map (·.code)) == [some .uncorrectable])),
    leads (exec (.jwaitWake 0) ((job50 true).parkTask 0 { kind := .jwait, op := .jwait, f := jbF })) (fun t => took 7 t && t.me.status == .ready)] = true := by
  decide +kernel

/-- A node of the task. -/
def n50 (st : NodeState) (count : Nat) : Node := { nodeOf s50.me .task count 9 0 with state := st }

/-- Two building nodes, 5 and 6, of die 0; x1 and x2 name them; o2 names a table object; mask slot 0 holds a program without terms. -/
def g50 : State :=
  let s := obj 0x300 6 64 (s50.setMe ((xs [(1, 5), (2, 6)] s50.me).setO 2 (reg 0x300 64)))
  let s := s.setCore 0 { s.core 0 with mask0 := { (s.core 0).mask0 with prog := some { terms := 0, lits := [], starts := [] } } }
  let w := fun i v (s : State) => s.pokeWord ((pad 0x300).toNat + 16 + 8 * i) v
  let s := w 3 64 (w 2 0x600000005 (w 1 0x100000000 (w 0 0x100000000 s)))
  s.setDie 0 { s.die 0 with nodes := [(5, n50 .building 1), (6, { n50 .building 1 with kind := .merge })] }

/-- GraphInstructionsBuildAndRelease: each clause; the index of a new node is a free value, so its clauses' results are not evaluated. -/
theorem witness_graph : every [g50.issues .tgnode {} && g50.issues .tgedge {} && g50.issues .tgrun {}, (g50.die 0).nodeRoom != 0 && (g50.die 0).edgeRoom != 0,
    !malformed (oCanon (g50.me.getO 2)) && tagOf (oCanon (g50.me.getO 2)) != 6, gives (header g50 (pad 0x300)) (fun e => hKind e.2 == 6),
    gives (needNode g50 5) (fun e => e.1 == 5 && e.2.state != .finished), gives (needNode g50 6) (fun e => e.1 == 6 && e.2.state == .building),
    does .tgedge { a := 1, b := 2 } g50 (fun t => (t.die 0).edges == [(5, 6)]), [2, 3].all (fun n => passes (releasedAt n 0 g50)),
    does .tgrun {} g50 (fun t => (t.die 0).nodes.map (fun e => e.2.state) == [.released, .released])] = true := by decide +kernel

/-- A released node, with or without records that are held before it, and a finished node with a successor. -/
def ready50 (held : List Record) : State := g50.setDie 0 { g50.die 0 with nodes := [(5, n50 .released 0)], held := held }
/-- A partition with no cluster of die 0; a record for it; states in which partition 1 and partition 0 are such, with records held. -/
def away50 : Partition := { Partition.initial with configured := true, part := 0x3F000 }
def other50 : Record := { entry := 8, part := 1 }
def held50 : State := let s := ready50 [other50, rec50]; { s with parts := s.parts ++ [(1, away50)] }
def unplaced50 : State := { ready50 [{ rec50 with entry := 8 }] with parts := [(0, away50)] }
def finished50 : State := g50.setDie 0 { g50.die 0 with nodes := [(5, n50 .finished 0), (6, n50 .released 1)], edges := [(5, 6)] }

/-- GraphNodesRunAndFinish: each clause. -/
theorem witness_graph_nodes : every [(n50 .released 0).ready && !(ready50 []).frozen 0 0,
    (((ready50 []).setDie 0 { (ready50 []).die 0 with nodes := [(5, n50 .running 0)] }).graphPlace 0 0 ((n50 .released 0).record 5)).isSome,
    leads (exec (.tgNodeReady 0 5) (ready50 [])) (fun t => (t.task 1).status == .ready && (t.task 1).pc == 9),
    ((ready50 []).placeableHeld 0).isNone && (unplaced50.placeableHeld 0).isNone && !unplaced50.frozen 0 0,
    ((unplaced50.setDie 0 { unplaced50.die 0 with nodes := [(5, n50 .running 0)] }).graphPlace 0 0 ((n50 .released 0).record 5)).isNone,
    leads (exec (.tgNodeReady 0 5) unplaced50) (fun t => (t.die 0).held.map (·.entry) == [8, 9]),
    (held50.graphPlace 0 (held50.maskOf 0 other50) other50).isNone && !held50.frozen rec50.part rec50.ctx,
    leads (exec (.tgHeldPlace 0) held50) (fun t => (t.die 0).held == [other50] && (t.task 1).status == .ready),
    leads (exec (.tgHeldPlace 0) (ready50 [rec50])) (fun t => (t.die 0).held.isEmpty && (t.task 1).status == .ready),
    leads (exec (.tgNodeFinish 0 5) finished50) (fun t => ((t.die 0).node 5).isNone && ((t.die 0).node 6).map (·.count) == some 0 && (t.die 0).edges.isEmpty)]
    = true := by decide +kernel

/-- AgxExpandsItsTiles: the first of two query tiles, each of one key block, and the last, where the task goes on (the index of a new node is a
free value, so that the two are not run one after the other). -/
theorem witness_agx :
    let s := g50.pokeWord ((pad 0x300).toNat + 16) 0x200000000
    every [s.issues .agx { a := 2 } && s.me.agx.isNone,
      gives (releasedHome s (s.homeAt (oCanon (s.me.getO 2)))) (fun s1 => gives (agxStart { a := 2 } s1) (fun g => gives (AgxJob.run { a := 2 } g s1) (fun (g', _) =>
        g'.tile == g.tile + 1 && g'.made == g.made + g.live + 1 && g'.tile < g'.stop))),
      leads (exec (.agx { a := 2 }) s) (fun t => t.me.agx.map (·.tile) == some 1 && t.me.pc == 0),
      gives (agxStart { a := 2 } s) (fun g =>
        let u := s.setMe { s.me with agx := some { g with tile := 1, made := 1 } }
        g.pc == u.me.pc && u.issues .agx { a := 2 } && gives (AgxJob.run { a := 2 } { g with tile := 1, made := 1 } u) (fun (g', _) => g'.stop ≤ g'.tile)
          && leads (exec (.agx { a := 2 }) u) (fun t => t.me.agx.isNone && t.me.pc == 1))] = true := by decide +kernel
/-! ## Vector instructions -/

/-- A register made of elements of `e` bits. -/
def packs (e : Nat) (l : List Nat) : BitVec 2048 := BitVec.ofNat 2048 (l.foldr (fun v acc => acc * 2 ^ e + v) 0)

/-- Width 256 bits. v1 = 5, -1, 7, 8, …; v2 = 3, 2, 7, 1, …; v3 FP32 1.5, 2, -1, 0.5, …; v4 FP32 8, 0.25, 1, +∞, …; v7 all ones. p1 holds
elements 0 to 3 of 32 bits, p2 elements 0 and 2. x1 = 9, x2 = 3, x6 = 2^32. -/
def s60 : State := st (fun t =>
  let t := { (xs [(1, 9), (2, 3), (6, 0x100000000)] t) with width := 0 }
  let t := (t.setV 1 (packs 32 [5, 0xFFFFFFFF, 7, 8, 1, 1, 1, 1])).setV 2 (packs 32 [3, 2, 7, 1, 1, 1, 1, 1])
  let t := (t.setV 3 (packs 32 [0x3FC00000, 0x40000000, 0xBF800000, 0x3F000000])).setV 4 (packs 32 [0x41000000, 0x3E800000, 0x3F800000, 0x7F800000])
  let t := t.setV 7 (packs 32 (List.replicate 8 0xFFFFFFFF))
  (t.setP 1 0xFFFF).setP 2 0x0F0F)

/-- Guard p1, vD = v7, operands v1 and v2, 32-bit elements. -/
def vF (x : BitVec 10 := 0) (b : BitVec 6 := 2) (c : BitVec 6 := 0) (z : BitVec 2 := 2) : Fields :=
  { form := .f2, z := z, g := 1, d := 7, a := 1, b := b, c := c, x := x }

/-- Elements 0 to 3 of v7 are as given, and element 4 is unchanged. -/
def lanes4 (l : List Nat) (t : State) : Bool :=
  (List.range 4).map (getLane (t.me.getV 7) 32) == l && getLane (t.me.getV 7) 32 4 == 0xFFFFFFFF && t.me.pc == 2 && t.me.fflags == 0

/-- The instruction writes elements 0 to 3. -/
def vputs (o : Op) (f : Fields) (l : List Nat) : Bool := does o f s60 (lanes4 l)

/-- VectorIntegerInstructionsWriteActiveElements: every op on v1 and v2 (5, -1, 7, 8 and 3, 2, 7, 1). -/
theorem witness_vector_integer : every [vputs .vadd (vF) [8, 1, 14, 9], vputs .vsub (vF) [2, 0xFFFFFFFD, 0, 7],
    vputs .vmul (vF) [15, 0xFFFFFFFE, 49, 8], vputs .vmulh (vF) [0, 0xFFFFFFFF, 0, 0], vputs .vmulh (vF 0x100) [0, 1, 0, 0],
    vputs .vmad (vF 0 2 1) [20, 0xFFFFFFFD, 56, 16], vputs .vmin (vF) [3, 0xFFFFFFFF, 7, 1], vputs .vmin (vF 0x100) [3, 2, 7, 1],
    vputs .vmax (vF) [5, 2, 7, 8], vputs .vmax (vF 0x100) [5, 0xFFFFFFFF, 7, 8], vputs .vabs (vF 0 0) [5, 1, 7, 8], vputs .vand (vF) [1, 2, 7, 0],
    vputs .vor (vF) [7, 0xFFFFFFFF, 7, 9], vputs .vxor (vF) [6, 0xFFFFFFFD, 0, 9], vputs .vshl (vF) [40, 0xFFFFFFFC, 896, 16],
    vputs .vshr (vF) [0, 0x3FFFFFFF, 0, 4], vputs .vsra (vF) [0, 0xFFFFFFFF, 0, 4], vputs .vsel (vF 0 2 2) [5, 2, 7, 1],
    vputs .vpdep (vF) [1, 2, 7, 0], vputs .vpext (vF) [1, 1, 7, 0], vputs .viota (vF 0 0) [0, 1, 2, 3], vputs .vsplat (vF 0 0) [9, 9, 9, 9],
    vputs .vadd (vF 0x200 2) [8, 2, 10, 11], vputs .vdot4 { vF with z := 0 } [14, 0xFFFFFFFD, 48, 7],
    does .vgfm { vF with z := 3, g := 0 } s60 (fun t => t.me.pc == 2), does .vbperm { vF with z := 3, g := 0 } s60 (fun t => t.me.pc == 2)] = true := by
  decide +kernel

/-- The same on v3 and v4 (1.5, 2, -1, 0.5 and 8, 0.25, 1, +∞) in FP32. -/
def ffF (b : BitVec 6 := 4) (c : BitVec 6 := 0) : Fields := { form := .f2, g := 1, d := 7, a := 3, b := b, c := c }

/-- VectorFloatInstructionsRoundOnce: every op; VWACC adds v3 to the zero accumulator. -/
theorem witness_vector_float : every [vputs .vfadd (ffF) [0x41180000, 0x40100000, 0, 0x7F800000], vputs .vfsub (ffF) [0xC0D00000, 0x3FE00000, 0xC0000000, 0xFF800000],
    vputs .vfmul (ffF) [0x41400000, 0x3F000000, 0xBF800000, 0x7F800000], vputs .vfma (ffF 4 3) [0x41580000, 0x40200000, 0xC0000000, 0x7F800000],
    vputs .vfmin (ffF) [0x3FC00000, 0x3E800000, 0xBF800000, 0x3F000000], vputs .vfmax (ffF) [0x41000000, 0x40000000, 0x3F800000, 0x7F800000],
    s60.issues .vscacc (ffF) && s60.issues .vcbx (ffF), vputs .vwget { ffF with a := 1 } [0, 0, 0, 0],
    does .vwacc { ffF with d := 1 } s60 (fun t => (List.range 5).map (getLane (t.me.getW 1) 32) == [0x3FC00000, 0x40000000, 0xBF800000, 0x3F000000, 0])]
    = true := by decide +kernel

/-- ConversionsRoundEachElement: FP32 to INT32 (VCVT, 12 to 5 by the codes of R111), and to BF16. -/
theorem witness_conversions : every [s60.issues .vcvt { ffF 0 with x := 0xC1 }, s60.issues .vcvti { ffF 0 with x := 0xC1 },
    does .vcvt { ffF 0 with x := 0xC0 } s60 (fun t => (List.range 4).map (getLane (t.me.getV 7) 16) == [0x3FC0, 0x4000, 0xBF80, 0x3F00])] = true := by
  decide +kernel

/-- PredicateInstructionsWriteTheirBits: every op. -/
def pF (a b : BitVec 6) (x : BitVec 10 := 0) : Fields := { form := .f2, z := 2, d := 3, a := a, b := b, x := x }
def pputs (o : Op) (f : Fields) (p : BitVec 256) : Bool := does o f s60 (fun t => t.me.getP 3 == p && t.me.pc == 2)

theorem witness_predicates : every [pputs .vcmp { pF 1 2 2 with g := 1 } 0x00F0, pputs .vfcmp { pF 3 4 2 with z := 0, g := 1 } 0xFF0F,
    pputs .vwhile (pF 0 2) 0x0FFF, pputs .pset (pF 2 0 2) 0x0FFF, pputs .pset (pF 2 0 1) 0xFFFFFFFF, pputs .pset (pF 2 0) 0,
    pputs .pand (pF 1 2) 0x0F0F, pputs .por (pF 1 2) 0xFFFF, pputs .pxor (pF 1 2) 0xF0F0, pputs .pnot (pF 1 0) 0xFFFF0000,
    does .pcnt { pF 2 0 with d := 9 } s60 (fun t => t.me.getX 9 == 2), does .vlen { pF 0 0 with d := 9 } s60 (fun t => t.me.getX 9 == 8)] = true := by
  decide +kernel

/-- The one outstanding result has the low elements given. -/
def defers (o : Op) (f : Fields) (l : List Nat) : Bool :=
  does o f s60 (fun t => t.me.pend.map (fun p => (p.dest, (List.range l.length).map (getLane p.val 32))) == [(.v 7, l)])
def deferx (o : Op) (f : Fields) (v : Word64) : Bool := does o f s60 (fun t => results t == [(.x 7, v)])

/-- No lane is active under the empty predicate p3. -/
def none3 : Fields := { vF with g := 3 }

/-- LaneInstructionsDeferTheirElements: every op, with active elements and without. -/
theorem witness_lanes : every [(s60.me.actives (vF) 32) == [0, 1, 2, 3] && (s60.me.actives none3 32).isEmpty,
    deferx .vred (vF) 19, deferx .vred none3 0, deferx .vred { none3 with x := 1 } 0x7FFFFFFF, deferx .vred { none3 with x := 0x101 } 0xFFFFFFFF,
    deferx .vred (vF 1) 0xFFFFFFFFFFFFFFFF, deferx .vred (vF 2) 8, deferx .vred (vF 3) 0, deferx .vred (vF 4) 0xFFFFFFFFFFFFFFFF,
    deferx .vred (vF 5) 0xFFFFFFFFFFFFFFF5, defers .vscan (vF) [5, 4, 11, 19], defers .vperm (vF) [8, 7, 1, 0xFFFFFFFF],
    defers .vcomp { vF with g := 2 } [5, 7], does .vexpd { vF with g := 2 } s60 (fun t => t.me.pend.map (fun p => (getLane p.val 32 0, getLane p.val 32 2, p.mask)) == [(5, 0xFFFFFFFF, 0xF0F)]),
    defers .vrcp { ffF with a := 4, z := 2 } [0x3E007F80, 0x40807F80, 0x3F807F80, 0x7F80], defers .vlog2 { ffF with a := 4, z := 2 } [0x4040FF80, 0xC000FF80, 0xFF80, 0x7F80FF80],
    s60.issues .vrsq (ffF) && s60.issues .vexp2 (ffF) && s60.issues .vfscan (ffF), deferx .vfred { ffF with g := 3 } 0,
    deferx .vfred { ffF with g := 3, x := 1 } 0x7F800000, deferx .vfred { ffF with g := 3, x := 2 } 0xFF800000, deferx .vfred (ffF) 0x40400000,
    deferx .vfred { ffF with x := 1 } 0xBF800000, deferx .vfred { ffF with x := 2 } 0x40000000] = true := by decide +kernel

/-- ElementAndTableInstructionsGiveTheirValue: every op at an element inside (3) and outside (9, the first past the last is 8). -/
theorem witness_elements : every [deferx .vget { vF with b := 2 } 8, does .vput { vF with a := 1, b := 2 } s60 (fun t => getLane (t.me.getV 7) 32 3 == 9
      && getLane (t.me.getV 7) 32 2 == 0xFFFFFFFF), decide (s60.me.lanes 32 ≤ (s60.me.getX 1).toNat),
    does .vget { vF with b := 1 } s60 (fun t => t.me.status == .stopped), does .vput { vF with b := 1 } s60 (fun t => t.me.status == .stopped),
    does .grank (vF) s60 (fun t => t.me.pend.map (·.dest) == [.g 7]), (s60.setMe { s60.me with width := 3 }).issues .vsbp (vF)
      && 1024 ≤ (s60.setMe { s60.me with width := 3 }).me.bits, decide (s60.me.bits < 1024),
    does .vsbp vF s60 (fun t => t.me.stop.map (·.code) == some (some .illegalEncoding))] = true := by decide +kernel

/-- DeferredResultsAreWrittenLater: an outstanding x9, and two elements of an outstanding v7 of which one is written; and a load of x9 that may still be
performed, whose bytes hold 0 now. -/
def s60d : State := s60.setMe { s60.me with pend := [{ dest := .x 9, val := 77 }, { dest := .v 7, val := 0x300000002, mask := 0xFF, unit := 4 },
  { dest := .x 9, val := 77, src := [{ hdr := 48, addr := 64, size := 2 }], how := .word true }] }

theorem witness_deferred : every [leads (exec (.deferredResultWrite 0 0 1) s60d) (fun t => t.me.getX 9 == 77 && t.me.pend.length == 2),
    s60d.me.pend[2]? == some { dest := .x 9, val := 77, src := [{ hdr := 48, addr := 64, size := 2 }], how := .word true },
    leads (exec (.deferredResultWrite 0 1 0xF0) s60d) (fun t => t.me.pend.map (·.mask) == [1, 0x0F, 1] && getLane (t.me.getV 7) 32 1 == 3
      && getLane (t.me.getV 7) 32 0 == 0xFFFFFFFF)] = true := by decide +kernel
/-! ## Vector memory -/

/-- Width 2048 bits; p1 holds elements 0 and 1 of 32 bits. o1 an object of 128 bytes whose first two 32-bit elements are 21 and 22; o2 a packed
object with one tile of two nonzero elements, 11 and 12, at 0 and 2, and room for more. v1 = 0, 8, … (offsets), v7 = 31, 32. x2 = 8, x3 = 2, x4 = 126. -/
def s65 : State :=
  let s := st (fun t => ((((((xs [(2, 8), (3, 2), (4, 126)] t).setO 1 (reg 0x100 128)).setO 2 (reg 0x200 128)).setV 1 (packs 32 [0, 8])).setV 7
    (packs 32 [31, 32])).setP 1 0xFF))
  let s := obj 0x200 4 128 (obj 0x100 0 128 s)
  let w := fun off v (s : State) => s.pokeWord ((pad off).toNat + 16) v
  w 0x220 12 (w 0x218 0xB (w 0x210 5 (w 0x208 0x2000000 (w 0x200 0x1000020001 (w 0x100 0x1600000015 s)))))

/-- The record's second element stands in the same word as the first. -/
def s65p : State := s65.pokeWord ((pad 0x218).toNat + 16) 0xC0000000B

/-- Fields of a load into v7, or a store from it, at o1: the elements from 0 on. -/
def lF : Fields := { form := .f2, z := 2, g := 1, d := 7, a := 1 }

/-- The deferred elements 0 and 1. -/
def loaded (o : Op) (f : Fields) (a b : Nat) : Bool :=
  does o f s65 (fun t => t.me.pend.map (fun p => (getLane p.val 32 0, getLane p.val 32 1, p.mask)) == [(a, b, 0xFF)])

/-- The task stops with the fault. -/
def stops (o : Op) (f : Fields) (s : State) (c : FaultCode) (off : Word64) : Bool :=
  does o f s (fun t => t.me.status == .stopped && t.me.stop.map (fun i => (i.code, i.offset)) == some (some c, off))

/-- VectorLoadsDeferTheirElements: each clause, with stride x2 = 8, indices v1; misaligned with x3 = 2; outside with x4 = 126 bytes (v1's second
index, 8, is the offset 32). -/
theorem witness_vector_loads : every [!badPtr (pad 0x100), s65.me.actives lF 32 == [0, 1],
    gives (objOf s65 (s65.me.getO 1)) (fun ob => loadable false ob.hdr && passes (touch s65 1 ob.hdr)),
    loaded .vld lF 21 22, loaded .vlds { lF with c := 2 } 21 0, loaded .vgath { lF with b := 1 } 21 0,
    stops .vld { lF with b := 3 } s65 .alignment 2, stops .vlds { lF with c := 3 } s65 .alignment 2, stops .vld { lF with form := .f3, lit := 124 } s65 .bounds 128,
    loaded .vld { lF with form := .f3, lit := 128, x := 0x80 } 0 0,
    stops .vgath { lF with b := 1 } (s65.setMe (s65.me.setV 1 (packs 32 [0, 32]))) .bounds 128] = true := by decide +kernel

/-- o1 names an object of 1 MiB in region 0, which takes no copy, whose payload starts on channel 1; that channel is quiesced. -/
def big65 : Word64 := 4#4 ++ 0xF0#60
def s65w : State :=
  let s := (s65.setMe (s65.me.setO 1 (oMake false false 0 0x100000 big65))).pokeWord (stackAddr 0 0xF0) (newHeader 0x100000 0 false false)
  { s with regions := [(0, 0x8000000000000000)], channels := [(1, { Channel.initial with ctl := 2 })] }

/-- The stores find everything in order but for the channel, and wait with nothing written. -/
def waits65 (o : Op) (f : Fields) (off : Nat → Int) : Bool :=
  gives (storeObj s65w (s65w.me.getO 1) false) (fun ob => storable s65w big65 false ob.hdr 8 && !hSealed ob.hdr && passes (touch s65w 1 ob.hdr))
    && passes (checkLanes s65w f (s65w.me.getO 1) (activeLanes s65w.me f off))
    && (match putThrough s65w.stampSeq (s65w.me.getO 1) 0 [1] with | .error (.retry _) => true | _ => false)
    && does o f s65w (fun t => t.me.pc == 0 && t.me.sb.isEmpty && t.me.status == .ready)

/-- VectorStoresWriteTheirElements: each clause. -/
theorem witness_vector_stores : every [
    gives (storeObj s65 (s65.me.getO 1) false) (fun ob => passes (touch s65 1 ob.hdr) && storable s65 (pad 0x100) false ob.hdr 8 && hKind ob.hdr == 0 && !hSealed ob.hdr),
    passes (checkLanes s65 lF (s65.me.getO 1) (activeLanes s65.me lF (fun i => 4 * i))),
    does .vst lF s65 (fun t => t.peekWord ((pad 0x100).toNat + 16) == 0x200000001F),
    does .vsts { lF with c := 2 } s65 (fun t => t.me.pc == 2 && t.me.status == .ready),
    does .vscat { lF with b := 1 } s65 (fun t => t.me.pc == 2 && t.me.status == .ready),
    does .vscat { lF with b := 9, x := 1 } s65 (fun t => t.peekWord ((pad 0x100).toNat + 16) == 0x1600000054),
    waits65 .vst lF (fun i => 4 * i), waits65 .vsts { lF with c := 2 } (fun i => 8 * i), waits65 .vscat { lF with b := 9 } (fun _ => 0),
    passes (check s65 (s65.me.getO 1) 0 48 8),
    does .gld { form := .f2, d := 1, a := 1 } s65 (fun t => t.me.pend.map (fun p => (p.dest, p.val)) == [(.g 1, 0x1600000015)]),
    does .gst { form := .f2, d := 1, a := 1 } s65 (fun t => t.me.pc == 2 && t.peekWord ((pad 0x100).toNat + 16) == 0)] = true := by decide +kernel

/-- PackedTilesAreReadAndAppended: both clauses; the tile appended is 31, 32 (16 bytes at 16 of the data area). -/
theorem witness_packed : every [gives (packChecks s65p { lF with a := 2 } false) (fun (a, d) => a == (pad 0x200).toNat && d.tiles == 1 && d.used == 16 && d.start == 16),
    does .vldpk { lF with a := 2 } s65p (fun t => t.me.pend.map (fun p => (getLane p.val 32 0, getLane p.val 32 1)) == [(11, 0)]),
    does .vldpk { lF with a := 2, g := 0 } s65p (fun t => t.me.pend.map (fun p => (getLane p.val 32 2, getLane p.val 32 3)) == [(12, 0)]),
    gives (releasedHome s65p (homeOf (pad 0x200).toNat)) (fun s1 => passes (packChecks s1 { lF with a := 2 } true) && passes (access s1 (pad 0x200) 16 128) && s1.me.lanes 32 == 64),
    does .vstpk { lF with a := 2 } s65p (fun t => t.peekWord ((pad 0x220).toNat + 16) == 3 && t.peekWord ((pad 0x228).toNat + 16) == 0x200000001F
      && t.peekWord ((pad 0x208).toNat + 16) == 0x2000010 && t.peekWord ((pad 0x200).toNat + 16) == 0x2000020001)] = true := by decide +kernel
/-! ## Matrix engine, near-bank units and masks -/

/-- Objects of the core's pad, all zero: o1 and o2 BF16 operands of one step, o3 an MSBP operand, o4 FP32 drain target, o5 a record or codebook,
o6 a permutation table; o7 a mask program with the literal k − q ≤ 0. x2 = 1 step, x3 = 64, x4 = 65,536. -/
def s70 : State :=
  let os : List (Nat × Nat × Nat) := [(1, 0x1000, 8192), (2, 0x4000, 8192), (3, 0x8000, 32768), (4, 0x10000, 16384), (5, 0x18000, 4096), (6, 0x1A000, 12288)]
  let s := st (fun t => os.foldl (fun t e => t.setO (BitVec.ofNat 6 e.1) (reg e.2.1 e.2.2)) ((xs [(2, 1), (3, 64), (4, 65536)] t).setO 7 (reg 0x20000 32)))
  let s := os.foldl (fun s e => obj e.2.1 0 e.2.2 s) (obj 0x20000 6 32 s)
  (s.pokeWord ((pad 0x20000).toNat + 16) 0x101).pokeWord ((pad 0x20000).toNat + 32) 0x80000000

/-- Records are bound: o5 as both scales of kind 0 or as base-and-step records (kind 2), o6 as the table. -/
def s70b (kind : Nat) : State :=
  s70.setCore 0 { s70.core 0 with scaleA := some ⟨reg 0x18000 4096, kind⟩, scaleB := some ⟨reg 0x18000 4096, kind⟩, tab := some ⟨reg 0x1A000 12288, 0⟩ }

/-- Fields of a product: accumulator 1, operands, formats, one step. -/
def mF (a b : BitVec 6) (x : BitVec 10) : Fields := { form := .f2, d := 1, a := a, b := b, c := 2, x := x }

/-- The queue of core 0 holds one command of the kind. -/
def entered (k : MKind) (p : MCmd → Bool) (t : State) : Bool :=
  (match (t.core 0).queue with
    | [m] => m.kind == k && m.tid == 1 && p m
    | _ => false) && t.me.pc == 2

/-- An operand passes for its number of bytes. -/
def operand (r : BitVec 6) (n : Nat) : Bool := passes (needOperand s70 (s70.me.getO r) n)

/-- MatrixCommandsEnterTheQueue: each clause, and a step count of 0. -/
theorem witness_matrix : every [(s70.core 0).queue.isEmpty && ([1, 2, 3, 4, 5, 6].map (fun r => oCanon (s70.me.getO r))).all (fun p => passes (releasedFor [p] (s70b 0)) && passes (releasedFor [p] (s70b 2))), operand 1 8192 && operand 2 8192 && operand 3 32768 && operand 4 16384,
    passes (needRecord (s70b 0) ((s70b 0).core 0).scaleA (recordExtent 0 64)), passes (needRecord (s70b 2) ((s70b 2).core 0).scaleB (recordExtent 2 256)),
    passes (needRecord (s70b 2) ((s70b 2).core 0).tab (3072 * 4)),
    does .mma (mF 1 2 0) s70 (entered .mma (fun m => m.acc == 1 && m.steps == 1 && !m.scaled)),
    does .mma { mF 1 2 0 with c := 0 } s70 (fun t => (t.core 0).queue.isEmpty && t.me.pc == 2),
    does .mma (mF 1 2 0x100) (s70b 0) (entered .mma (fun m => m.scaled && m.scaleA.isSome)),
    does .msbp (mF 3 2 0x90) s70 (entered .msbp (fun m => m.fb == 9 && m.scaleB.isNone)),
    does .msbp (mF 3 2 0xA0) (s70b 2) (entered .msbp (fun m => m.fb == 10 && m.tab.isSome)),
    does .mzero { d := 1 } s70 (fun t => (t.core 0).queue.map (·.kind) == [.mzero]),
    gives (needOperand s70 (s70.me.getO 4) 16384) (fun a => !hSealed (s70.peekWord a)) && passes (takeMailbox s70 .mdrain {} 1),
    does .mdrain { form := .f2, d := 9, a := 1, b := 4, x := 12 } s70 (fun t => entered .mdrain (fun m => m.acc == 1) t && (t.mailbox 0 0).taken
      && results t == [(.x 9, 0x120)])] = true := by decide +kernel

/-- Accumulator 1 holds 5 as element (3, 4), with 9 steps counted. -/
def s70a : State := s70.setAcc 0 1 ⟨[(196, 5)], [(196, 5)], 9, false⟩

/-- EngineRegistersAreReadAndWritten: each clause, at rows 3 and 64. -/
theorem witness_engine_registers : every [
    does .mread { form := .f2, d := 7, a := 1, b := 3, c := 9 } (s70a.setMe (xs [(3, 3)] s70a.me)) (fun t => t.me.pend.map (fun p =>
      (p.dest, getLane p.val 32 4)) == [(.v 7, 5), (.x 9, 0)] && (results t).map (·.2) == [0, 9]),
    does .mread { form := .f2, d := 7, a := 1, b := 3, c := 9 } s70a (fun t => t.me.status == .stopped),
    does .mread { form := .f2, d := 7, a := 1, b := 0, c := 9 } (s70.setAcc 0 1 ⟨[], [], 9, true⟩)
      (fun t => t.me.pend.map (fun p => p.fault.map (·.code)) == [some .uncorrectable] && t.me.pc == 2),
    does .mloop { d := 2, a := 3 } s70 (fun t => t.me.pend.map (fun p => (p.dest, p.val)) == [(.el 2, 64)]),
    gives (header s70 (pad 0x18000)) (fun e => hKind e.2 == 0), does .mscale { form := .f2, a := 5 } s70 (fun t => t.me.pend.map (·.dest) == [.scale false (some ⟨reg 0x18000 4096, 0⟩)]),
    does .mscale { form := .f2, a := 0, x := 1 } s70 (fun t => t.me.pend.map (·.dest) == [.scale true none]),
    does .mtab { a := 6 } s70 (fun t => t.me.pend.map (·.dest) == [.tab (some ⟨reg 0x1A000 12288, 0⟩)]),
    passes (check s70 (s70.me.getO 5) 0 32 2), does .cbld { form := .f2, a := 5, x := 1 } s70 (fun t => t.me.pend.map (·.dest) == [.codebook true (Codebook.make 0)])]
    = true := by decide +kernel

/-- Cluster 0's engine has leave and core 0's queue holds one command. -/
def pass70 (m : MCmd) : State := (s70a.setCore 0 { s70a.core 0 with queue := [m] }).setCluster 0 { s70a.cluster 0 with leave := true, asked := true }

/-- A product of one step, and of six, of which none has run; and a drain of accumulator 1 to o4 in FP32. -/
def cmd70 (steps : Nat) : MCmd := { kind := .mma, acc := 1, steps := steps, oa := reg 0x1000 8192, ob := reg 0x4000 8192 }
def drain70 : MCmd := { kind := .mdrain, acc := 1, fa := 12, ob := reg 0x10000 16384, job := 0x120 }

/-- `s` with the first block of the first operand's payload past its header poisoned. -/
def struck70 (s : State) : State := { s with poison := [(pad 0x1040).toNat] }

/-- The command is placed, and its pass ends at step `n`, with a fault or without. -/
def passTo (s : State) (m : MCmd) (n : Nat) (faulty : Bool) : Bool :=
  match s.placeCmd m with
  | .ok pl =>
    let p := s.runSteps 0 m pl (min 4 (m.steps - m.done)) m.done (s.accOf 0 1)
    p.next == n && p.fault.isSome == faulty
  | .error _ => false

/-- A request of cluster 0's engine for leave. -/
def leaves70 : State := { s70 with leaves := [⟨.engine 0, 0⟩] }

/-- The partition of cluster 0 has other tenants. -/
def refused70 : State := { pass70 (cmd70 1) with parts := [(0, { Partition.initial with configured := true, member := 2 })] }

/-- TilePassesRunTheirCommand: the hypotheses of each clause; the state after a zeroing pass. Whether the budget lets the request is a free
value. -/
theorem witness_tile_pass : every [
    leaves70.leaves[0]? == some ⟨.engine 0, 0⟩ && (match exec (.powerLeaveGrant 0) leaves70 with
      | .next _ => true
      | _ => false),
    leads (exec (.tilePass 0) (pass70 { cmd70 1 with kind := .mzero })) (fun t => t.accOf 0 1 == ⟨[], [], 0, false⟩ && (t.core 0).queue.isEmpty),
    leads (exec (.tilePass 0) (pass70 { cmd70 1 with bad := true })) (fun t => (t.core 0).queue.length == 1
      && (t.halt 0).reports.map (fun r => (r.info.code, r.info.progress)) == [(some .uncorrectable, 0)]),
    (refused70.cmdRefused 0 (cmd70 1)).isSome && ((pass70 (cmd70 1)).cmdRefused 0 (cmd70 1)).isNone && ((pass70 drain70).cmdRefused 0 drain70).isNone,
    leads (exec (.tilePass 0) refused70) (fun t => (t.core 0).queue.length == 1 && (t.halt 0).reports.map (·.info.code) == [some .remotePermission] && !(t.cluster 0).leave),
    !(pass70 (cmd70 1)).stopped (.engine 0) 0 && ((pass70 (cmd70 1)).cmdWait (cmd70 1)).isNone, ((pass70 drain70).cmdWait drain70).isNone,
    passTo (pass70 (cmd70 1)) (cmd70 1) 1 false, leads (exec (.tilePass 0) (pass70 (cmd70 1))) (fun t => (t.core 0).queue.isEmpty && (t.accOf 0 1).count == 10),
    passTo (pass70 (cmd70 6)) (cmd70 6) 4 false, leads (exec (.tilePass 0) (pass70 (cmd70 6))) (fun t => (t.core 0).queue.map (·.done) == [4] && (t.accOf 0 1).count == 13),
    passTo (struck70 (pass70 (cmd70 1))) (cmd70 1) 0 true,
    leads (exec (.tilePass 0) (struck70 (pass70 (cmd70 1)))) (fun t => (t.core 0).queue.length == 1 && (t.accOf 0 1).count == 9
      && (t.halt 0).reports.map (fun r => (r.info.code, r.info.progress)) == [(some .uncorrectable, 0)]),
    (match (pass70 drain70).placeReg 0 drain70.ob 16384 with
      | .ok a => a == (pad 0x10000).toNat && !hSealed (s70.peekWord a) && !((pass70 drain70).accOf 0 1).bad
      | .error _ => false)] = true := by decide +kernel

/-- KStepsAddTheirSums: its kinds of command, at the element (0, 0) and the last; the records of a sorted step are placed, and a step whose blocks
are whole, or struck. -/
theorem witness_k_steps : every [
    (match (pass70 (cmd70 1)).placeCmd (cmd70 1) with
      | .ok pl => ((pass70 (cmd70 1)).poisonIn ((cmd70 1).stepSpans pl 0)).isNone && ((struck70 (pass70 (cmd70 1))).poisonIn ((cmd70 1).stepSpans pl 0)).isSome
      | .error _ => false), !((pass70 (cmd70 1)).accOf 0 1).bad,
    (let m : MCmd := { cmd70 1 with kind := .msbp, fb := 10, tab := ((s70b 2).core 0).tab, scaleB := ((s70b 2).core 0).scaleB }
     match (pass70 m).placeCmd m with
      | .ok pl => pl.tab.isSome && pl.sb.isSome
      | .error _ => false), ({ cmd70 1 with scaled := true } : MCmd).scaled,
    (cmd70 1).kind == .mma && !(cmd70 1).scaled && decide (63 < 64), ({ cmd70 1 with kind := .msbp, fb := 9 } : MCmd).fb == 9] = true := by
  decide +kernel

/-- o1 a sealed bank-spread matrix of one row of 256 BF16 weights, 2 and zeros, in a heap region of stack 0; o2 activations, 3 and zeros;
o3 the result. The task's tenant 0 is a member of the configured partition 0. -/
def s71 : State :=
  let s := st (fun t => ((t.setO 1 (oMake false false 0 576 (heapPtr 1 0))).setO 2 (reg 0x1000 512)).setO 3 (reg 0x2000 16))
  let s := (obj 0x2000 0 16 (obj 0x1000 0 512 s)).pokeWord ((pad 0x1000).toNat + 16) 0x4040
  let a := stackAddr 0 0
  let s := (s.pokeWord a (newHeader 576 0 false true ||| (1#64 <<< 41))).pokeWord (a + 16) 0x10000000001
  { s.pokeWord (a + 80) 0x4000 with regions := [(1, 0x8000000000000000)], parts := [(0, { Partition.initial with configured := true, member := 1 })] }

/-- What NBMV reads and writes. -/
def ptrs71 : List Word64 := [1, 2, 3].map (fun r => oCanon (s71.me.getO r))

/-- The job, at the head of the queue of stack 0. -/
def nb71 (started : Bool) : NbJob :=
  { job := 0x141, core := 0, tid := 1, part := 0, ctx := 0, launch := none, tenant := 0, oa := s71.me.getO 1, ob := s71.me.getO 2, oc := s71.me.getO 3
    m := 1, fmt := 0, n := 1, k := 256, started := started, waitsLeave := false }
def job71 (started : Bool) : State := { s71 with nbQueues := [(0, [nb71 started])] }

/-- The queue of stack 0 is full; an error has struck the job's first weights. -/
def full71 : State := { s71 with nbQueues := [(0, List.replicate 16 (nb71 false))] }
def struck71 : State := { job71 true with poison := [stackAddr 0 64] }

/-- NearBankJobsComputeTheirProduct: the hypotheses of each clause; the product is 2 · 3 = 6. -/
theorem witness_near_bank : every [gives (header s71 (heapPtr 1 0)) (fun e => hKind e.2 == 0 && hSpread e.2 && hSealed e.2),
    gives (readCanon s71 (s71.me.getO 1) 0 64) (fun bs => shapeOf bs == { n := 1, k := 256, fmt := 0, clean := true, codebook := 0 }),
    passes (check s71 (s71.me.getO 1) 0 64 8) && passes (check s71 (s71.me.getO 2) 0 512 2) && passes (check s71 (s71.me.getO 3) 0 4 4),
    passes (needPadObject s71 (s71.me.getO 2) (fun h => 2 ≤ hState h)) && passes (needPadObject s71 (s71.me.getO 3) (fun h => hState h == 0 || hState h == 2)),
    gives (releasedFor ptrs71 s71) (fun s1 => gives (takeMailbox s1 .nbmv {} 2) (fun e => e.1.nearRoom 0
      && (match e.1.enginePlace 0 (pad 0x2000) 16 with
        | .ok a => a == (pad 0x2000).toNat
        | .error _ => false))),
    does .nbmv { form := .f2, d := 9, a := 1, b := 2, c := 3 } s71 (fun t => (t.nbQueues.find 0 []).length == 1 && results t == [(.x 9, 0x140)]),
    gives (releasedFor ptrs71 full71) (fun s1 => gives (takeMailbox s1 .nbmv {} 2) (fun e => !e.1.nearRoom 0)),
    does .nbmv { form := .f2, d := 9, a := 1, b := 2, c := 3 } full71 (fun t => t.me.status == .parked && (t.mailbox 0 0).taken),
    (job71 false).nearAt 0 == some (nb71 false) && leads (exec (.nbmvJobStart 0) (job71 false)) (fun t => (t.nbQueues.find 0 []).map (·.started) == [true]),
    !(job71 true).engineWaits 0 (heapPtr 1 0) 592 && (match (job71 true).nearPlaces (nb71 true) with
      | .ok (w, a, c) => w == stackAddr 0 0 && a == (pad 0x1000).toNat && c == (pad 0x2000).toNat
      | _ => false),
    (match struck71.nearPlaces (nb71 true) with
      | .ok _ => false
      | .error f => f.code == .uncorrectable),
    leads (exec (.nbmvJobComplete 0) struck71) (fun t => (t.halt 0).reports.map (·.info.code) == [some .uncorrectable]),
    leads (exec (.nbmvJobComplete 0) (job71 true)) (fun t => t.peekWord ((pad 0x2000).toNat + 16) == 0x40C00000 && (t.nbQueues.find 0 []).isEmpty)] = true := by
  decide +kernel

/-- The causal mask in slot 0, whose counters read 1, 2 and 3. -/
def prog70 : MaskProg := { terms := 1, lits := [{ op := 0, term := 0, neg := false, lo := -8388608, hi := 0 }], starts := [0] }
def s72 : State := s70.setCore 0 { s70.core 0 with mask0 := { prog := some prog70, empty := 1, partialTiles := 2, full := 3 } }

/-- MaskInstructionsApplyTheirProgram: each clause; query 1 sees keys 0 and 1. -/
theorem witness_masks : every [
    (match parseMask ((s70.mem.readN ((pad 0x20000).toNat + 16) 32)) [0] with
      | .ok p => p == prog70
      | .error _ => false),
    passes (releasedHome s70 (s70.homeAt (pad 0x20000))), does .mkld { form := .f2, a := 7 } s70 (fun t => t.me.pend.map (·.dest) == [.mask false prog70]),
    does .mkcls { form := .f2, d := 9, a := 0, b := 3 } s72 (fun t => results t == [(.x 9, 0)] && (t.core 0).mask0.empty == 2),
    does .mkcls { form := .f2, d := 9, a := 3, b := 0 } s72 (fun t => results t == [(.x 9, 2)] && (t.core 0).mask0.full == 4),
    does .mkcls { form := .f2, d := 9, a := 0, b := 0 } s72 (fun t => results t == [(.x 9, 1)] && (t.core 0).mask0.partialTiles == 3),
    does .mkapp { form := .f2, d := 3, a := 2, b := 0 } s72 (fun t => t.me.pend.map (fun p => (p.dest, p.val.toNat % 2 ^ 16)) == [(.p 3, 0xFF)]),
    does .mkappBias { form := .f2, d := 7, a := 2, b := 0 } s72 (fun t => t.me.pend.map (fun p => (getLane p.val 32 1, getLane p.val 32 2)) == [(0, 0xFF800000)]),
    does .mkcnt { form := .f2, d := 9, x := 3 } s72 (fun t => results t == [(.x 9, 6)] && (t.core 0).mask0.full == 3),
    does .mkcnt { form := .f2, d := 9, x := 6 } s72 (fun t => results t == [(.x 9, 3)] && (t.core 0).mask0.full == 0 && (t.core 0).mask0.empty == 1)] = true := by
  decide +kernel

/-- TileClassesAreSound: both classes at the tiles (0, 64) and (64, 0), and the last pair of each. -/
theorem witness_tile_classes : every [prog70.classify 64 0 == 2 && prog70.visible 127 63 && prog70.visible 64 63, prog70.classify 0 64 == 0 && !prog70.visible 63 64,
    prog70.classify 0 0 == 1] = true := by decide +kernel
/-! ## Streams and collectives -/

/-- o1 and o2 data objects of 32 and 48 bytes of the core's pad, of which o1 starts with 0x77; o3 a table object with a graph: FILL of 64 bytes of 7 into
PACK; o4 a copy node's record, o1 to o2 on fabric 0; x3 = 5 names a node. -/
def s80 : State :=
  let s := st (fun t => ((((xs [(3, 5)] t).setO 1 (reg 0x100 32)).setO 2 (reg 0x200 48)).setO 3 (reg 0x300 64)).setO 4 (reg 0x400 32))
  let s := obj 0x400 6 32 (obj 0x300 6 64 (obj 0x200 0 48 (obj 0x100 0 32 s)))
  let w := fun off (v : Word64) (s : State) => s.pokeWord ((pad off).toNat + 16) v
  let s := w 0x308 0 (w 0x310 0x100 (w 0x318 0x400000002B (w 0x320 7 (w 0x328 0x23 (w 0x330 0x40 (w 0x300 0x102 s))))))
  let s := w 0x408 (pad 0x200) (w 0x400 (pad 0x100) (w 0x100 0x77 s))
  s.setDie 0 { s.die 0 with nodes := [(5, { nodeOf s.me .copy 0 0 (pad 0x400) with state := .building })] }

/-- The graph. -/
def g80 : Graph :=
  { strict := false, edges := [{ src := 0, srcPort := 0, dst := 1, dstPort := 0 }], ops := [{ code := 11, words := [0x400000002B, 7] }, { code := 3, words := [0x23, 0x40] }] }

/-- CPY's fields. -/
def cyF : Fields := { form := .f2, d := 9, a := 1, b := 2, c := 3 }

/-- A copy of o1 to o2: taken from the queue, planned, committed. -/
def j80 : CopyJob :=
  { job := 0x100, core := some 0, cluster := 0, tid := 1, part := 0, ctx := 0, launch := none, tenant := 0, src := reg 0x100 32, dst := reg 0x200 48, graph := none
    node := none, srcState := none, plan := [], packed := none, committed := 0, drops := [], mismatch := false, fault := none, started := false, asked := true
    waitsLeave := false }

/-- The queue of fabric 0 is full. -/
def full80 : State := s80.setCluster 0 { s80.cluster 0 with jobs := List.replicate 64 j80 }

/-- CopiesAndGraphsAreAccepted: each clause. -/
theorem witness_copies : every [passes (check s80 (s80.me.getO 3) 0 16 8) && passes (releasedFor [pad 0x300] s80) && passes (releasedFor [pad 0x100, pad 0x200] s80),
    gives (readCanon s80 (s80.me.getO 3) 0 64) (fun bs => readGraph bs == some g80),
    does .sgld { form := .f2, d := 9, a := 3, x := 1 } s80 (fun t => t.me.pend.map (·.dest) == [.graph 1 g80, .x 9] && (results t).map (·.2) == [0, 2]),
    passes (copyChecks s80 (s80.me.getO 1) (s80.me.getO 2) 0 false) && passes (copyChecks s80 (s80.me.getO 1) (s80.me.getO 2) 0 true),
    copyEngine s80 (pad 0x100) (pad 0x200) == (0, 0) && gives (takeMailbox s80 .cpy cyF 0) (fun e => e.1.jobRoom 0),
    does .cpy cyF full80 (fun t => t.me.status == .parked && t.me.wait.map (fun w => w.copy.map (·.src)) == some (some (reg 0x100 32))),
    does .cpyNode cyF full80 (fun t => t.me.status == .parked && t.me.wait.map (fun w => w.copy.map (·.node)) == some (some (some (0, 5)))),
    does .cpy cyF s80 (fun t => (t.cluster 0).jobs.map (fun j => (j.src, j.dst, j.core)) == [(reg 0x100 32, reg 0x200 48, some 0)] && results t == [(.x 9, 0x100)]),
    (match (s80.die 0).node 5 with
      | some n => n.kind == .copy && n.buildingOf 1 && n.count == 0 && !(s80.die 0).edges.any (fun e => e.1 == 5)
      | none => false),
    does .cpyNode cyF s80 (fun t => (t.cluster 0).jobs.map (·.node) == [some (0, 5)])] = true := by decide +kernel

def copy80 (j : CopyJob) : State :=
  let s := s80.setCluster 0 { s80.cluster 0 with jobs := [j] }
  s.setMailbox 0 0 { Mailbox.free with taken := true, seq := 1, owner := 1 }

/-- The plan of the copy. -/
def plan80 : List (List (Nat × Byte)) := (j80.planOf s80 (pad 0x100).toNat (pad 0x200).toNat 0).chunks

/-- CopyJobsWriteTheirChunks: each clause; the chunk is the one of 32 bytes. -/
theorem witness_copy_jobs : every [(copy80 j80).jobAt 0 == some j80,
    (copy80 j80).jobPasses 0 j80 (pad 0x100) && (copy80 j80).jobPasses 0 j80 (pad 0x200) && !(copy80 j80).engineWaits 0 (pad 0x100) 48
      && !(copy80 j80).engineWaits 0 (pad 0x200) 64 && j80.asked,
    (match (copy80 j80).enginePlace 0 (pad 0x100) 48, (copy80 j80).enginePlace 0 (pad 0x200) 64 with
      | .ok a, .ok b => a == (pad 0x100).toNat && b == (pad 0x200).toNat
      | _, _ => false), ((copy80 j80).waiters .queue 1000).isEmpty,
    leads (exec (.fabricJobStart 0) (copy80 j80)) (fun t => (t.cluster 0).jobs.map (fun j => (j.started, j.plan.length)) == [(true, 1)]),
    leads (exec (.chunkCommit 0) (copy80 { j80 with started := true, plan := plan80 })) (fun t => t.mem.read ((pad 0x200).toNat + 16) == 0x77
      && (t.cluster 0).jobs.map (·.committed) == [1]),
    (copy80 { j80 with started := true }).runs 0 0 && leads (exec (.fabricJobComplete 0) (copy80 { j80 with started := true, drops := [1, 2, 9] })) (fun t =>
      (t.cluster 0).jobs.isEmpty && (t.mailbox 0 0).full && t.peekWord (t.boxAddr 0 0 0) == 0x300000101)] = true := by decide +kernel

/-- A released copy node of the configured partition 0; and with the queue full. -/
def kick80 : State :=
  { s80.setDie 0 { s80.die 0 with nodes := [(5, { nodeOf s80.me .copy 0 0 (pad 0x400) with state := .released })] } with
    parts := [(0, { Partition.initial with configured := true, member := 1 })] }
def held80 : State := kick80.setCluster 0 { kick80.cluster 0 with jobs := List.replicate 64 j80 }

/-- The node of `kick80`. -/
def n80 : Node := { nodeOf s80.me .copy 0 0 (pad 0x400) with state := .released }

theorem witness_copy_node : every [n80.ready && !kick80.stopped (.taskGraph 0) 0 && !kick80.frozen 0 0 && kick80.jobRoom 0 && !held80.jobRoom 0,
    leads (exec (.copyNodeKick 0 5) held80) (fun t => (t.die 0).heldKicks.map (fun e => (e.1, e.2.src)) == [(5, reg 0x100 32)] && t.mem == held80.mem),
    (match kick80.nodeChecks 0 n80 with
      | .ok e => e == (0, reg 0x100 32, reg 0x200 48, none)
      | .error _ => false),
    leads (exec (.copyNodeKick 0 5) kick80) (fun t => (t.cluster 0).jobs.map (fun j => (j.node, j.src)) == [(some (0, 5), reg 0x100 32)]
      && ((t.die 0).node 5).map (·.state) == some .running)] = true := by decide +kernel

/-- PlainCopiesMoveEachByte: the copy of `copy80`. -/
theorem witness_plain_copy : every [j80.graph.isNone && s80.poison.isEmpty, plan80.flatten.length == 32 && plan80.length == 1] = true := by decide +kernel

/-- o1 a buffer of one FP32 element; o2 the record of a group of two members with rank 0. -/
def s81 : State :=
  let s := obj 0x2000 6 32 (obj 0x1000 0 16 (st (fun t => (t.setO 1 (reg 0x1000 16)).setO 2 (reg 0x2000 32))))
  (s.pokeWord ((pad 0x2000).toNat + 16) 0x200000001).pokeWord ((pad 0x1000).toNat + 16) 0x3F800000

/-- A round of two members, the buffers of 1 and 2, before the engine has read them and after. -/
def c81 (rank n : Nat) (buf : Nat) : CollJob :=
  { job := 0x160, core := rank, tid := BitVec.ofNat 32 (rank + 1), part := 0, ctx := 0, launch := none, tenant := 0, buf := reg buf 16, op := 0, fmt := 12, dom := false
    group := 0, object := pad 0x2000, rank := rank, root := 0, members := 2, count := n, reduce := 0, entries := [0, 0], waitsLeave := false }
def js81 : List CollJob := [c81 0 1 0x1000, c81 1 1 0x3000]
def read81 : List CollJob := [{ c81 0 1 0x1000 with stored := some (0, [0x3F800000]) }, { c81 1 1 0x3000 with stored := some (0, [0x40000000]) }]
def round81 (js : List CollJob) : State := { (obj 0x3000 0 16 s81).pokeWord ((pad 0x3000).toNat + 16) 0x40000000 with
  colls := js, parts := [(0, { Partition.initial with configured := true, member := 1 })] }

/-- CollectivesRunInRounds: the hypotheses of each clause; an all-reduce of 1 and 2 leaves 3 in both buffers. -/
theorem witness_collectives : every [gives (header s81 (pad 0x2000)) (fun e => hKind e.2 == 6) && gives (header s81 (pad 0x1000)) (fun e => hKind e.2 == 0),
    gives (readCanon s81 (s81.me.getO 2) 0 16) (fun g => bits (leNat (g.take 8)) 32 16 == 2 && bits (leNat (g.take 8)) 0 32 == 1),
    passes (check s81 (s81.me.getO 2) 0 32 8) && gives (readCanon s81 (s81.me.getO 2) 16 16) (fun es => es.all (· == 0)), s81.plat.package == 0,
    passes (check s81 (s81.me.getO 1) 0 4 4) && passes (releasedAt 3 (s81.homeAt (pad 0x1000)) s81) && passes (takeMailbox s81 .coll {} 3),
    does .coll { form := .f2, d := 9, a := 1, b := 2, x := 0x60 } s81 (fun t => t.colls.map (fun j => (j.rank, j.members, j.count, j.fmt)) == [(0, 2, 1, 12)]
      && results t == [(.x 9, 0x160)]),
    js81.all (·.stored.isNone) && (round81 js81).roundOf (c81 0 1 0x1000) == js81 && roundAgrees js81 && (round81 js81).allHere (c81 0 1 0x1000) js81
      && !roundAgrees [c81 0 1 0x1000, c81 1 2 0x3000],
    [js81, read81].all (fun js => (round81 js).allIssued (c81 0 1 0x1000) js && !js.any (round81 js).collHeld
      && !js.any (fun c => (round81 js).engineWaits c.part (oCanon c.buf) 20)),
    (match (round81 js81).contribution (c81 1 1 0x3000) with | .ok xs => xs == [0x40000000] | .error _ => false),
    (match ({ round81 js81 with poison := [(pad 0x1000).toNat] } : State).contribution (c81 0 1 0x1000) with | .ok _ => false | .error f => f.code == .uncorrectable),
    leads (exec (.collRoundComplete 0) (round81 js81)) (fun t => t.mem == (round81 js81).mem && t.colls.map (fun c => c.stored.map (·.2)) == [some [0x3F800000], some [0x40000000]]),
    leads (exec (.collRoundComplete 0) { round81 js81 with poison := [(pad 0x1000).toNat] }) (fun t => t.colls == js81 && (t.halt 0).reports.map (·.info.code) == [some .uncorrectable]),
    leads (exec (.collRoundComplete 0) (round81 [c81 0 1 0x1000, c81 1 2 0x3000])) (fun t => t.colls.isEmpty && t.mem == (round81 js81).mem),
    read81.all (fun c => match (round81 read81).placeBuf c with | .ok a => !hSealed ((round81 read81).peekWord a) | .error _ => false), storedElement read81 1 0 == 0x40000000,
    leads (exec (.collRoundComplete 0) (round81 read81)) (fun t => t.colls.isEmpty && t.peekWord ((pad 0x1000).toNat + 16) == 0x40400000
      && t.peekWord ((pad 0x3000).toNat + 16) == 0x40400000),
    leads (exec (.collRoundComplete 0) ((round81 read81).pokeWord (pad 0x3000).toNat (newHeader 16 0 false false ||| (1#64 <<< 41)))) (fun t => t.colls.length == 2
      && t.peekWord ((pad 0x1000).toNat + 16) == 0x40400000 && (t.halt 0).reports.map (·.info.code) == [some .sealedStore])] = true := by decide +kernel
/-! ## Faults, halts and waits -/

/-- The state that an instruction or event leads to. -/
def after (s : State) (i : Instr) : State :=
  match exec i s with
  | .next t => t
  | _ => s

/-- A task with a handler at parcel 2 of the loaded code, x1 = 11, at pc 1. -/
def s90 : State :=
  let s := st (fun t => { (xs [(1, 11)] t) with tvec := 2, pc := 1 })
  { s with clusters := [(0, { s.cluster 0 with code := [{ base := 0, parcels := List.replicate 8 0x000#32, ptr := 0 }] })] }

/-- TrapStopsItsTask in `s90`: immediate 0x7C1. -/
theorem witness_trap : every [s90.issues .trap { a := 0x1F, b := 1 } && (s90.landAll 0).me.status == .ready,
    (let t := after s90 (.trap { a := 0x1F, b := 1 })
    t.me.status == .stopped && t.me.stop.map (fun i => (i.code, i.pos, i.epc, i.eval)) == some (some .softwareTrap, 1, 2, 0x7C1)
      && (t.halt 0).reports.map (·.agent) == [.task 0] && t.me.x == s90.me.x)] = true := by decide +kernel

/-- The partition halted by that trap. -/
def trapped : State := after s90 (.trap { a := 0x1F, b := 1 })
def halted : State := after trapped (.haltReport 0)

/-- HandlersAreEnteredAndLeft: each clause. -/
theorem witness_handlers : every [(halted.halt 0).halted && (halted.halt 0).eligible && (halted.halt 0).who == some (.task 0) && halted.me.pend.isEmpty && settled halted,
    (halted.me.stop.map (·.code)) == some (some .softwareTrap) && halted.me.part == 0,
    (let t := after halted (.hresHandler 0)
    !(t.halt 0).halted && t.me.status == .ready && t.me.pc == 2 && t.me.epc == 2 && t.me.eval == 0x7C1 && t.me.cause == 0x800000000000000F
      && s90.issues .eret {} && ((t.landAll 0).targetOk t.me.epc) && (t.landAll 0).me.status == .ready
      && (after (t.setMe { t.me with epc := 0x700 }) (.eret {})).me.stop.map (fun i => (i.code, i.offset)) == some (some .branchTarget, 0x700)
      && (let u := after (t.setMe { t.me with pc := 5 }) (.eret {})
        u.me.pc == 2 && !u.me.cause.getLsbD 63)),
    does .eret {} s90 (fun t => t.me.stop.map (·.code) == some (some .illegalEncoding))] = true := by decide +kernel

/-- UndecodableParcelsRaiseTheirFault in `s90`. -/
theorem witness_undecodable :
    (after s90 (.undecodableParcel .illegalEncoding)).me.stop.map (fun i => (i.code, i.pos)) = some (some .illegalEncoding, 1) := by decide +kernel

/-- A second task, of core 1, while the partition is halted. -/
def two90 : State := { halted with tasks := halted.tasks.set 8 { s90.me with tid := 9, pc := 4 } }

/-- The report of an M-core's task, at the supervisor's controller. -/
def m90 : State := { s90 with halts := [(16, { HaltCtl.initial with reports := [{ agent := .task 4096, info := { code := some .kind }, tid := 7 }] })] }

/-- HaltsRecordTheirAgents: each clause. -/
theorem witness_halts : every [(trapped.halt 0).reports.length == 1 && (trapped.halt 0).records.isEmpty && !(trapped.halt 0).halted,
    (halted.halt 0).count == 1 && (halted.halt 0).records.map (fun x => (x.kind, x.id, x.pos, x.primary)) == [(0, 1, 1, true)] && (halted.halt 0).reports.isEmpty,
    (let t := after (after { two90 with cur := 8 } (.trap {})) (.haltReport 0)
    (t.halt 0).records.map (fun x => (x.id, x.primary)) == [(1, true), (9, false)] && (t.halt 0).count == 1),
    !two90.stopped (.task 8) 0 && two90.tasks.filter (fun e => e.1 == 8) == [(8, two90.task 8)],
    (let t := after two90 (.agentStop (.task 8))
    (t.task 8).status == .stopped && (t.task 8).pc == 4 && (t.halt 0).records.map (fun x => (x.id, x.code == 0, x.pos)) == [(1, false, 1), (9, true, 4)]),
    ((after m90 (.mCoreFault 4096)).halt 16).records.length == 1] = true := by decide +kernel

/-- A task that has waited since a time, which WABORT names. -/
def wait90 (since : Word64) : State :=
  { s90.setMe { s90.me with status := .parked, wait := some { kind := .join, op := .join, f := {}, object := 0x77, signaller := 1, since := 5 } } with
    halts := [(0, { HaltCtl.initial with wabort := 1, wsince := since })] }

/-- HaltsAreResumed: each clause. -/
theorem witness_resume : every [(halted.halt 0).halted && halted.me.status == .stopped && halted.me.part == 0 && halted.tasks.contains (0, halted.me) && settled halted,
    (let t := after halted (.hresGo 0)
    !(t.halt 0).halted && t.me.status == .ready && t.me.pc == 1 && t.me.stop.isNone),
    halted.me.sb.isEmpty && halted.me.join == 0 && (halted.halt 0).records.all (fun x => !x.primary || x.id == halted.me.tid), (let t := after halted (.hresEnd 0)
    t.me.status == .free && t.me.gen == halted.me.gen && !(t.halt 0).halted),
    (wait90 5).taskWithId 1 == some 0 && (wait90 5).me.pend.isEmpty, (let t := after (wait90 5) (.waitAbort 0)
    (t.halt 0).halted && t.me.status == .stopped && (t.halt 0).records.map (fun x => (x.code, x.ptr)) == [(0x10, 0x77)]),
    decide (after (wait90 6) (.waitAbort 0) = wait90 6)] = true := by decide +kernel

/-- Two parked tasks that wait for each other. -/
def pair90 : State :=
  let w : Wait := { kind := .join, op := .join, f := {}, signaller := 9 }
  { s90 with tasks := [(0, { s90.me with status := .parked, wait := some w }), (8, { s90.me with tid := 9, status := .parked, wait := some { w with signaller := 1 } })] }

/-- VigilFindsCycles: each clause. -/
theorem witness_vigil : every [((wait90 5).waitTable 0).map (·.1) == [0], (after (wait90 5) (.vigilScan 0)).findings.contains [1],
    (pair90.waitTable 0).map (·.1) == [0, 8] && pair90.taskWithId 9 == some 8, (after pair90 (.vigilScan 0)).findings.contains [1, 9]] = true := by decide +kernel
/-! ## System registers and instructions -/

/-- A privileged task of core 0 (A-core 0), with registers of its own and pad words, at pc 1. -/
def s91 : State :=
  let s := st (fun t => { (xs [(2, 0xFFFFFFFFFFFFFFF0)] t) with priv := true, pc := 1, fflags := 1, cause := 2, epc := 3, eval := 4, tvec := 5, tenant := 6 })
  { s with parts := [(0, { Partition.initial with part := 7, member := 8, htab := 9, slical := 10, save := 11, configured := true })] }

/-- The same on core 7 (an S-core) and on M-core 1, at slot 0. -/
def on91 (c : CoreId) : State := { s91 with cur := 8 * c, tasks := [(8 * c, s91.me)] }

/-- The fields that name control register `n`. -/
def crF (n : BitVec 12) : Fields := { d := 9, a := n.extractLsb' 6 6, b := n.setWidth 6 }

/-- MFC reads the value. -/
def reads91 (s : State) (n : BitVec 12) (v : Word64) : Bool := does .mfc (crF n) s (fun t => (t.task s.cur).getX 9 == v && (t.task s.cur).pc == 2)

/-- ControlRegistersAreRead: each register; c.cycle advances by a free amount. -/
theorem witness_registers_read : every [reads91 s91 1 1, reads91 s91 2 0, reads91 s91 3 2048, reads91 s91 4 0, reads91 s91 5 6, reads91 s91 6 1, reads91 s91 7 2,
    reads91 s91 8 3, reads91 s91 9 4, reads91 s91 10 5, reads91 s91 11 9, reads91 s91 12 1, s91.issues .mfc (crF 13), reads91 s91 14 0, reads91 s91 15 0,
    reads91 s91 16 0x7F, reads91 (on91 7) 16 0x0F, reads91 (on91 513) 16 0x87, reads91 s91 17 0, reads91 s91 0x100 7, reads91 s91 0x101 8, reads91 s91 0x102 10,
    reads91 s91 0x103 11, reads91 s91 0x104 0, reads91 (on91 513) 0x104 0x10001, reads91 (on91 513) 12 0] = true := by decide +kernel

/-- MTC of x2, all ones but four, leaves the task and the core's registers as the test says. -/
def writes91 (n : BitVec 12) (p : State → Bool) : Bool := does .mtc { crF n with d := 2 } s91 (fun t => p t && t.me.pc == 2)

/-- ControlRegistersAreWritten: each register; weight 0 stores 1. -/
theorem witness_registers_written : every [writes91 6 (fun t => t.me.fflags == 0x30), writes91 7 (fun t => t.me.cause == 0x80000000000000F0),
    writes91 8 (fun t => t.me.epc == 0xFFFFFFF0), writes91 9 (fun t => t.me.eval == 0xFFFFFFFFFFFFFFF0), writes91 10 (fun t => t.me.tvec == 0xFFFFFFF0),
    writes91 12 (fun t => (t.core 0).weight == 1), writes91 15 (fun t => (t.core 0).apred == 0xFFFFFFFFFFFFFFF0),
    writes91 17 (fun t => (t.core 0).grant == 0xFFFFFFFFFFFFFFF0), writes91 0x102 (fun t => (t.part 0).slical == 0xFFFFFFFFFFFFFFF0),
    writes91 0x103 (fun t => (t.part 0).save == 0xFFFFFFFFFFFFFFF0),
    [12, 15, 17].all (fun n => does .mtc { crF n with d := 2 } (on91 513) (fun t => t.core 513 == (on91 513).core 513 && t.me.pc == 2))] = true := by decide +kernel

/-- The access stops the task with the fault. -/
def refused91 (o : Op) (s : State) (n : BitVec 12) (c : FaultCode) : Bool := leads (exec (o.instr (crF n)) s) (fun t => t.me.stop.map (·.code) == some (some c))

/-- ControlRegistersAreGuarded: each clause at the ends of its ranges. -/
theorem witness_registers_guarded :
    let user := s91.setMe { s91.me with priv := false }
    every [[0, 0x12, 0xFF, 0x105, 0xFFF].all (fun n => refused91 .mfc s91 n .illegalEncoding && refused91 .mtc s91 n .illegalEncoding),
    [0x100, 0x104].all (fun n => refused91 .mfc user n .privilege && refused91 .mtc user n .privilege),
    (crF 0x100).smClass == 0, [1, 2, 3, 4, 5, 0xB, 0xD, 0xE, 0x10, 0x100, 0x101, 0x104].all (fun n => s91.issues .mtc (crF n) && refused91 .mtc s91 n .privilege)] = true := by decide +kernel

/-- A privileged task of M-core 0, for the tables of partition 0: o1 a data object of 768 bytes of die 0's pad, x1 to x9 operands. The partition has
4 contexts and is halted with one stop record, the supervisor's controller has two; a task of core 0 is parked. -/
def s92 : State :=
  let a := (diePad91 0x100).toNat
  let t := (xs [(1, 3), (2, 0x8000000000000005), (3, 0), (4, 0x3F), (5, 0x100000000), (6, 2)] task).setO 1 (oMake false false 0 768 (diePad91 0x100))
  let s : State := { State.reset with
    cur := 4096, tasks := [(0, { task with status := .parked, tid := 8, wait := some { kind := .join, op := .join, f := {} } }), (4096, { t with priv := true })]
    parts := [(0, { Partition.initial with part := 3, member := 1, configured := true })] }
  { s.pokeWord a (newHeader 768 0 false false) with halts := [(0, { HaltCtl.initial with records := [(s.stopRec 0 (.task 0) {} 8 none true 0).1] }), (16, { HaltCtl.initial with records := [(s.stopRec 16 (.task 4096) {} 7 none true 0).1, (s.stopRec 16 (.task 4104) {} 9 none false 0).1] })] }
where
  /-- A pointer into the pad of die 0. -/
  diePad91 (off : Nat) : Word64 := padPtr (.die 0) off

/-- The instruction has its effect and completes. -/
def super (o : Op) (f : Fields) (p : State → Bool) : Bool := does o f s92 (fun t => p t && (t.task 4096).pc != 0 && (t.task 4096).status == .ready)

/-- The deferred result. -/
def count92 (v : Word64) (t : State) : Bool := (t.task 4096).pend.map (fun p => p.val.setWidth 64) == [v]

/-- SupervisorInstructionsHaveTheirEffect: each clause but CTXSV's and CTXLD's (witness_save and witness_restore below). -/
theorem witness_supervisor : every [(s92.part 0).configured, super .rgset { d := 0, a := 1, b := 2 } (fun t => t.region 0 3 == 0x8000000000000005),
    super .tenset { d := 2, a := 0, b := 4 } (fun t => (t.part 0).member == 0x8000000000000005 && (t.part 0).part == 0x3F0000003),
    does .tenset { d := 2, a := 0, b := 7 } (s92.setMe (xs [(7, 0x3FF)] s92.me)) (fun t => (t.part 0).member == 1 && (t.task 4096).status == .ready),
    passes (needRoomFor s92 (s92.me.getO 1) 64) && (s92.halt 0).records[0]?.isSome && gives (writeCanon s92 (s92.me.getO 1) 0 [1]) (fun _ => true),
    super .stoprd { form := .f2, d := 9, a := 1, b := 3 } (count92 1), (s92.halt 16).records[0]?.isSome,
    does .stoprd { form := .f2, d := 9, a := 1, b := 7 } (s92.setMe (xs [(7, 0x1000000000)] s92.me)) (count92 2),
    passes (needRoomFor s92 (s92.me.getO 1) 32) && (s92.waitTable 0).length == 1,
    super .wftrd { form := .f2, d := 9, a := 1, b := 3 } (count92 1), passes (needRoomFor s92 (s92.me.getO 1) 768) && s92.coreAt 0 == some 0,
    super .atlog { form := .f2, d := 9, a := 1, b := 3 } (count92 0),
    does .atlog { form := .f2, d := 9, a := 1, b := 7 } (s92.setMe (xs [(7, 0x500000000)] s92.me)) (count92 0),
    s92.issues .ctxsv {} && s92.issues .ctxld {}] = true := by decide +kernel

/-- A handle table in die 0's pad whose entry 3 has generation 65,535 and a directory of two words. -/
def s93 : State :=
  let tab := s92.diePad91 0x1000
  let dir := s92.diePad91 0x2000
  let s := (s92.pokeWord tab.toNat (newHeader 128 7 false false)).pokeWord dir.toNat (newHeader 16 0 false false)
  let s := (s.pokeWord (tab.toNat + 16 + 96) 0xFFFF000000000000).pokeWord (tab.toNat + 24 + 96) dir
  { s with parts := [(0, { s.part 0 with htab := tab })] }

/-- HandlesAreMadeAndRevoked: both clauses; 63 tokens. -/
theorem witness_handles : every [gives (handleEntry s93 3) (fun e => e.2.1 == 0xFFFF000000000000 && e.2.2 == s92.diePad91 0x2000), gives (handleEntry s93 3) (fun e => passes (releasedAt 3 (homeOf e.1) s93)),
    gives (header s93 (s92.diePad91 0x2000)) (fun e => hLen e.2 == 16),
    does .hnew { d := 9, a := 1, b := 4 } s93 (fun t => count92 0x6000003FFFF0003F t && t.peekWord ((s92.diePad91 0x1000).toNat + 112) == 0xFFFF00000000003F),
    does .hrev { a := 1 } s93 (fun t => t.peekWord ((s92.diePad91 0x1000).toNat + 112) == 0x1000000000000)] = true := by decide +kernel

/-- MGRD of the address in x1 gives the value, and MGWR of x2 there leads to a state. -/
def mgrd92 (a : Word64) (v : Word64) : Bool := does .mgrd { d := 9, a := 1 } (s92.setMe (xs [(1, a)] s92.me)) (count92 v)

/-- ManagementRegistersAreReadAndWritten: each clause at the ends of its ranges. -/
theorem witness_management : every [!s92.unitHeld 1 0x20200000, mgrd92 0x20200000 ((s92.halt 0).stat.setWidth 64), mgrd92 0x20200F00 0, mgrd92 0x2000000C 0, mgrd92 0x200F0FCC 0, mgrd92 0x20100000 3,
    mgrd92 0x201001E0 0, mgrd92 0x11000000 0, mgrd92 0x111000FC 0, mgrd92 0x33000000 400, mgrd92 0x33003000 400,
    does .mgwr { d := 4, a := 1 } (s92.setMe (xs [(1, 0x33003000)] s92.me)) (fun t => (t.die 3).budget == 0x3F),
    leads (exec (.mgmtRegisterWrite 0x33000000 7) s92) (fun t => (t.die 0).budget == 7),
    decide (s92.mgWrite 1 0x20200F08 0 = s92.hresWrite 15 0)] = true := by decide +kernel
/-! ## Collections, launches, partitions -/

/-- The configured partition 0 with cluster 0 and two contexts; core 0's pad holds a live object at 0x100 that o1 names. -/
def s94 : State :=
  let s := obj 0x100 0 48 (st (fun t => t.setO 1 (reg 0x100 48)))
  { (s.padTake (.core 0) 0 0x100 64 none) with parts := [(0, { Partition.initial with part := 1, member := 1, configured := true })] }

/-- The state that an instruction or event leads to. -/
def then94 (s : State) (i : Instr) : State :=
  match exec i s with
  | .next t => t
  | _ => s

/-- Its collection of core 0's pad, colour 0, is running, or traced. -/
def run94 (traced : Bool) : State := s94.setGleaner 0 0 { s94.gleaner 0 0 with cmd := 1, busy := true, traced := traced, count := 4 }

/-- GleanerCommandsRunCollections: each clause; level 3 is not this unit's, colour 3 is no
context's. -/
theorem witness_gleaner : every [glPad 0 0 1 == some (.core 0) && !(s94.gleaner 0 0).busy && decide (0 < s94.padContexts (.core 0)),
    (let t := then94 s94 (.glcmdGo 0 0 1)
    (t.gleaner 0 0).busy && (t.gleaner 0 0).cmd == 1),
    glPad 0 0 0xC1 == some (.core 0) && s94.padContexts (.core 0) ≤ 3 && ((then94 s94 (.glcmdGo 0 0 0xC1)).gleaner 0 0).rejected,
    glPad 0 0 3 == none && ((then94 s94 (.glcmdGo 0 0 3)).gleaner 0 0).rejected, ((then94 (run94 false) (.glcmdGo 0 0 1)).gleaner 0 0).rejected,
    ((then94 (s94.setGleaner 0 16 { s94.gleaner 0 16 with pause := 7 }) (.glpauseRead 0 16)).gleaner 0 16).pause == 0,
    gleanerOf (.core 0) == (0, 0) && (run94 true).collects (.core 0) 0, (let t := then94 (run94 true) (.collectionEnd (.core 0) 0)
    !(t.gleaner 0 0).busy && (t.gleaner 0 0).count == 5)] = true := by decide +kernel

/-- CollectionsTraceTheirColour: each clause; the object lives, and moves to the cluster's pad. -/
theorem witness_collection : every [(run94 false).collects (.core 0) 0 && !s94.collects (.core 0) 0,
    (match (run94 false).collectColour ((run94 false).collector (.core 0)) 0 (.core 0) with
      | .done _ _ => true
      | _ => false),
    (let t := then94 (run94 false) (.collection (.core 0) 0)
    (t.gleaner 0 0).traced && tagOf (oCanon (t.me.getO 1)) == 2),
    (let t := then94 s94 (.collection (.core 0) 0)
    t.me.getO 1 == reg 0x100 48), !s94.evacuationStalls 0 0,
    agrees (exec (.regionEvacuation 0 0 0) s94) (.next (((s94.regionsOn 0 0).foldl (evacuateRegion 0 0 0) ((s94.landAll 0).drainAll 0, false, s94.liveHeap 0)).1))] = true := by decide +kernel

/-- A ring of two packets in a heap region of stack 0, a code object of four parcels, and a mailbox; the packet has the word 0 given. -/
def q94 (w0 : Word64) : State :=
  let a := stackAddr 0 0
  let s := obj 0x200 0 16 (obj 0x300 5 16 { s94 with regions := [(1, 0x8000000000000000)] })
  let s := (s.pokeWord a (newHeader 256 0 false false)).pokeWord (a + 16) w0
  let s := (s.pokeWord (a + 24) (pad 0x300)).pokeWord (a + 48) (pad 0x200)
  { s with queues := [(0, ⟨heapPtr 1 0, 0x1001, 0, 1, none⟩)] }

/-- QueueRegistersAreWritten: each clause, with a ring of two packets. -/
theorem witness_queues : every [((q94 1).queue 0 0).ring == 2, ((then94 (q94 1) (.qtailWrite 0 0 2)).queue 0 0).tail == 2,
    (let k := (then94 (q94 1) (.qtailWrite 0 0 3)).queue 0 0
    k.ctl == 0x1002), (q94 1).ringOk 0 (heapPtr 1 0) 0x1001 && !(q94 1).ringOk 0 (heapPtr 1 0) 0x2001,
    (let r : State := { q94 1 with plat := { (q94 1).plat with recovery := true } }; !(q94 1).plat.recovery && agrees (exec (.qtailWrite 0 0 1) r) (.next r)),
    ((then94 (q94 1) (.qctlEnable 0 0 0x1080)).queue 0 0).ctl == 0x1081, ((then94 (q94 1) (.qctlEnable 0 0 0x2000)).queue 0 0).ctl == 0x1003,
    ((then94 (s94.setDist 1 { s94.dist 1 with derr := 0xC0000005 }) (.derrWrite 1 0x40000000)).dist 1).derr == 0x80000005] = true := by decide +kernel

/-- A usable packet of one root, and one of an unknown type. -/
def good94 : State := q94 0x100000001
def bad94 : State := q94 0x100000002

/-- PacketsBecomeLaunches: both clauses. -/
theorem witness_packets : every [(good94.selection 0).map (fun e => (e.1, e.2.1)) == some (0, 0) && (bad94.selection 0).map (fun e => (e.1, e.2.1)) == some (0, 0),
    good94.maskClusters 0 0 == [0] && good94.packetCode 0 (pad 0x300) 0 && !good94.headWaits 0 && !good94.engineWaits 0 (pad 0x300) (good94.codeSize 0 (pad 0x300))
      && !good94.engineWaits 0 (pad 0x200) 24 && good94.distFault 0 0 (pad 0x300) (good94.codeSize 0 (pad 0x300)) == none
      && bad94.distFault 0 0 (pad 0x200) 16 == none && bad94.mailboxAt 0 (pad 0x200) == some ((pad 0x200).toNat + 16),
    !good94.plat.recovery && !bad94.plat.recovery && (bad94.selection 0).all (fun e => bad94.packetRefused 0 e.2.2) && (good94.selection 0).all (fun e => !good94.packetRefused 0 e.2.2)
      && !bad94.headWaits 0 && !bad94.engineWaits 0 (pad 0x200) 24,
    (let t := then94 good94 (.launchSelect 0)
    (t.queue 0 0).head == 1 && (t.queue 0 0).running == some 0 && (t.launches.lookup 0).map (fun l => (l.roots, l.count, l.mailbox)) == some (1, 0, pad 0x200)),
    (let t := then94 bad94 (.launchSelect 0)
    (t.queue 0 0).head == 1 && (t.queue 0 0).running.isNone && t.peekWord ((pad 0x200).toNat + 16) == 2)] = true := by decide +kernel

/-- The launch selected, its root held; and with the root gone. -/
def launched94 : State := then94 good94 (.launchSelect 0)
def done94 : State := launched94.setDist 0 { launched94.dist 0 with held := [] }

/-- LaunchesPlaceRootsAndComplete: both clauses. -/
theorem witness_launches : every [launched94.launches.all (fun e => e.2.loaded) && (launched94.placeableRoot 0).map (·.1) == some 0,
    (let t := then94 launched94 (.launchRootPlace 0)
    (t.dist 0).held.isEmpty && (t.cores.any (fun e => e.2.deque.length == 1))),
    (done94.launches.lookup 0).map (·.loaded) == some true && !done94.descends 0 && !done94.engineWaits 0 (pad 0x200) 24
      && done94.distFault 0 0 (pad 0x200) 16 == none && done94.mailboxAt 0 (pad 0x200) == some ((pad 0x200).toNat + 16),
    (let t := then94 done94 (.launchComplete 0)
    t.peekWord ((pad 0x200).toNat + 16) == 1 && (t.queue 0 0).running.isNone && (t.launches.lookup 0).isNone)] = true := by decide +kernel

/-- Partition 0 holds nothing, has a calendar of a slice of context 1 at 5 of every 10 ns, or has a boundary due. -/
def idle94 : State := { State.reset with parts := [(0, { Partition.initial with part := 1, configured := true })] }
def sliced94 : State := idle94.setPart 0 { idle94.part 0 with calendar := some { epoch := 0, period := 10, slices := [(0, 0), (1, 5)] } }
def due94 : State := idle94.setPart 0 { idle94.part 0 with boundary := some 1 }

/-- PartitionsAreConfiguredAndSliced: each clause, the busy partition that of `s94`. -/
theorem witness_partitions : every [!idle94.partBusy 0 && s94.partBusy 0, ((then94 idle94 (.partitionWrite 0 8 7)).part 0).member == 7,
    ((then94 idle94 (.partitionWrite 0 0 3)).part 0) == { idle94.part 0 with part := 3 },
    (let t := then94 s94 (.partitionWrite 0 0 7)
    t.parts == s94.parts && (t.dist 0).derr.getLsbD 31 && (t.dist 1).derr.getLsbD 31), decide (sliced94.plat.time.toNat ≤ 15),
    ((then94 sliced94 (.sliceBoundary 0 15)).part 0).boundary == some 1, !(due94.halt 0).halted && (due94.halt 0).reports.isEmpty && !due94.collecting 0 0 && !due94.collecting 0 1 && settled due94 && due94.shadow.isEmpty,
    (let t := then94 due94 (.contextSwap 0 1)
    (t.part 0).ctx == 1 && (t.part 0).boundary.isNone && t.shadow.contains (due94.contextNow 0))] = true := by decide +kernel
/-! ## Platform -/

/-- What an event leads to. -/
def now93 (s : State) (i : Instr) : State :=
  match exec i s with
  | .next t => t
  | _ => s

/-- Channel 5 as given, on the state after reset. -/
def ch93 (c : Channel) : State := State.reset.setChannel 5 c
def train93 : Channel := { Channel.initial with ctl := 1 }

/-- The channel after an event. -/
def chan93 (c : Channel) (i : Instr) : Channel := (now93 (ch93 c) i).channel 5

/-- ChannelsAreTrained: each clause, at pattern 4 and 5, lane 36 and 37, repair 35 and 36. -/
theorem witness_channels : every [(chan93 .initial (.ctlQuiesce 5 3)).ctl == 3, (chan93 .initial (.ctlTrainMode 5 1)).ctl == 1,
    (let c := chan93 train93 (.ctlRun 5 0x47)
    c.busy && c.ctl == 0x43 && !c.done), (let c := chan93 train93 (.ctlRun 5 0x57)
    !c.busy && c.done && c.result == 0),
    (chan93 { train93 with busy := true } (.ctlRun 5 0x47)).waiting == [(0, 0x47)],
    (chan93 { train93 with waiting := [(1, 3)] } (.ctlWriteApply 5)) == { train93 with ctl := 3 },
    (let c := chan93 { Channel.initial with waiting := [(1, 3)], auto := true, busy := true } (.ctlWriteApply 5)
    !c.auto && !c.busy && c.ctl == 3 && c.waiting.isEmpty),
    (let c := chan93 { Channel.initial with waiting := [(1, 2)], auto := true, busy := true } (.ctlWriteApply 5)
    c.auto && c.busy && c.autoPc && c.ctl == 2 && c.waiting.isEmpty),
    (let c := chan93 { train93 with busy := true, run := some (false, 0) } (.patternRunDone 5 0x1F)
    c.done && !c.busy && c.run.isNone && c.result0 == 0x1F),
    (chan93 train93 (.rdlyWrite 5 36 9)).rdly == [(36, 9)] && (chan93 train93 (.wdlyWrite 5 0 9)).wdly == [(0, 9)],
    chan93 train93 (.rdlyWrite 5 37 9) == train93 && chan93 .initial (.wdlyWrite 5 0 9) == .initial,
    (chan93 train93 (.repairWrite 5 0xA3)).repair0 == 0xA3, chan93 train93 (.repairWrite 5 0xA4) == train93 && chan93 .initial (.repairWrite 5 0) == .initial]
    = true := by decide +kernel

/-- ChannelsRetrainThemselves: each clause, at differences of 8 and 7. -/
theorem witness_retraining : every [chan93 .initial (.autoRetrain 5 8) == { Channel.initial with current := 8, auto := true, busy := true },
    chan93 .initial (.autoRetrain 5 7) == { Channel.initial with current := 7 }, chan93 train93 (.autoRetrain 5 8) == { train93 with current := 8 },
    (chan93 { Channel.initial with auto := true, busy := true } (.autoRetrainDone 5)).autoPc,
    chan93 { Channel.initial with auto := true, busy := true, autoPc := true, current := 9 } (.autoRetrainDone 5) == { Channel.initial with current := 9, trained := 9 }]
    = true := by decide +kernel

/-- A task waits for page 3, of an object of the task's. -/
def host93 : State := let s := st id
  { s with plat := { s.plat with pages := [.task 0 1 (pad 0x100) 3] } }

/-- o1 names an object in window 0 of host memory at the virtual address 0x3000, a page that the host has not granted. -/
def page93 : State :=
  let s := (st (fun t => t.setO 1 (oMake false false 0 48 (5#4 ++ 0#60))))
  { s with plat := { s.plat with windows := [(0, (0x8000000000001000, 0x3000))] } }

/-- A CXL port, and the supervisor has mapped frame 2 onto frame 1 of partition 0's region 5, two frames of stack 3 from its sixth on. -/
def mapped93 : State :=
  let s := { State.reset with regions := [(5, 0xB001000000000005#64)] }
  ({ s with plat := { s.plat with hostPorts := [(0, { cxl := true, width := 16 })] } } : State).hostAccess (.map 0 5 1) (2 ^ 29) []

/-- Where the second byte of that frame lies. -/
def byte93 : Nat := stackAddr 3 (6 * 2 ^ 28 + 1)

/-- A row with a count, first at hour 10. -/
def row93 (n : Nat) : State := { host93 with ecc := [⟨.hbmRow 1 2, n, 10⟩] }

/-- HostAndErrorsActOnMemory: each clause, the count at its threshold, the window at 34 and 35 hours. -/
theorem witness_host : every [mapped93.plat.frameMap == [(2, (0, 5, 1))] && mapped93.hostReach (2 ^ 29 + 1) 2 == some byte93,
    !mapped93.plat.recovery && [0, 1].all (fun i => !mapped93.deviceStalls (2 ^ 29 + 1 + i) (byte93 + i)),
    (now93 mapped93 (.hostAccess .write (2 ^ 29 + 1) [1, 2])).mem.read (byte93 + 1) == 2,
    State.reset.hostReach (2 ^ 72) 2 == some (2 ^ 72) && isHost (2 ^ 72) && (now93 .reset (.hostAccess .write (2 ^ 72) [1, 2])).mem.read (2 ^ 72 + 1) == 2,
    State.reset.hostReach (2 ^ 62) 2 == none && decide (now93 .reset (.hostAccess .write (2 ^ 62) [1, 2]) = State.reset),
    decide (now93 .reset (.hostAccess .read 0 [1]) = State.reset), (now93 host93 (.priResponse 0 true)).plat.grantedPages == [3],
    (now93 host93 (.priResponse 0 false)).me == { host93.me with refused := some 3 },
    page93.admits 0 (oCanon (page93.me.getO 1)) && (match page93.reach 0 (oCanon (page93.me.getO 1)) 16 8 with | .page g => g == 2 ^ 60 + 3 | _ => false),
    (match access page93 (oCanon (page93.me.getO 1)) 16 8 with | .error (.retry t) => t.plat.pages.length == 1 | _ => false),
    (match access (page93.setMe { page93.me with refused := some (2 ^ 60 + 3) }) (oCanon (page93.me.getO 1)) 16 8 with
      | .error (.fault t f) => f.code == .hostTranslation && t.me.refused.isNone | _ => false),
    (let r : State := { mapped93 with plat := { mapped93.plat with recovery := true } }; decide (now93 r (.hostAccess .write (2 ^ 29 + 1) [1, 2]) = r)),
    (now93 host93 (.uncorrectableError (.block 100))).poisoned 100 1,
    ((now93 host93 (.uncorrectableError (.accumulator 3 2))).accOf 3 2).bad, (now93 host93 (.correctedError (.hbmRow 1 2) 10)).ecc == [⟨.hbmRow 1 2, 1, 10⟩],
    (let s := now93 (row93 3) (.lastingFaultAction (.hbmRow 1 2))
    s.spared == [.hbmRow 1 2] && s.ecc.isEmpty),
    (now93 (row93 3) (.errorWindowLapse (.hbmRow 1 2) 34)).ecc.length == 1 && (now93 (row93 3) (.errorWindowLapse (.hbmRow 1 2) 35)).ecc.isEmpty,
    (now93 .reset (.deviceControl2Write 17 true)).plat.atomicOps == 0x20000] = true := by decide +kernel

/-- Port 2 up, with one flit sent. -/
def port93 : Port := { Port.initial with up := true, sendSeq := 1, replay := [(0, [7])] }
def link93 (p : Port) : State := (st id).setPort 2 p

/-- The package is in a domain, port 2 is the primary port to package 40, and a result from there is outstanding. -/
def far93 : State :=
  let s := (link93 port93).setMe { task with pend := [{ dest := .x 4, peer := some ⟨40, 0, 2⟩ }] }
  { s with plat := { s.plat with inDomain := true, routes := [(40, 0x80000002#32)] } }

/-- Port 3, up, is the alternate one. -/
def both93 : State := let s := far93.setPort 3 port93; { s with plat := { s.plat with routes := [(40, 0x80008302#32)] } }

/-- LinksDeliverInOrder: each clause. -/
theorem witness_links : every [((now93 (link93 .initial) (.linkTraining 2 (0, 1) none)).port 2).up,
    (let s := now93 (link93 .initial) (.linkTraining 2 (1, 1) (some 40))
    (s.port 2).up && s.plat.package == 40 && s.plat.inDomain),
    !((now93 (link93 port93) (.linkTraining 2 (2, 3) none)).port 2).up && !((now93 (link93 port93) (.linkTraining 2 (0, 0) none)).port 2).up,
    (let p := (now93 (link93 port93) (.flitReceive 2 0 0 true false [5])).port 2
    p.recvSeq == 1 && p.received == [[5]]), ((now93 (link93 port93) (.flitReceive 2 1 0 true false [5])).port 2).wire.map (·.nack) == [true],
    ((now93 (link93 port93) (.flitReceive 2 0 0 false false [5])).port 2).wire.map (·.nack) == [true],
    ((now93 (link93 { port93 with wanted := some 0 }) (.flitReplay 2 0)).port 2).wire.map (fun x => (x.seq, x.nack, x.payload)) == [(0, false, [7])],
    (far93.setPort 2 { port93 with up := false }).viaOver 0 40 == none && (both93.setPort 2 { port93 with up := false }).viaOver 0 40 == some ⟨40, 0, 3⟩,
    (now93 both93 (.portDown 2)).me.pend.map (·.peer) == [some ⟨40, 0, 3⟩], (now93 (link93 port93) (.flitReceive 2 5 0 true true [])).port 2 == { port93 with wanted := some 0 },
    (let s := now93 far93 (.portDown 2)
    !(s.port 2).up && s.me.pend.map (·.fault) == [some { code := .region }]),
    (now93 (link93 port93) (.ethernetFrame 3 true false [1])).plat.frames == [⟨3, true, [1], none⟩],
    (now93 (link93 port93) (.ethernetFrame 3 true true [1])).plat.frames.length == 1] = true := by decide +kernel

/-- A boot has run steps 1 and 2, or has gone on to warm, or a version is negotiated. -/
def steps93 : List BootResult := [⟨1, 0, some true, false, 20⟩, ⟨2, 0, some true, false, 20⟩]
noncomputable def begun93 : State := now93 .reset (.boot steps93)
noncomputable def warm93 : State := begun93.warm [-11] []
def talk93 : State := { State.reset with plat := { State.reset.plat with mailboxVersion := some 1 } }

/-- A code object of four parcels in die 0's pad. -/
def code93 : Word64 := padPtr (.die 0) 0x100
def kernel93 : State := State.reset.pokeWord code93.toNat (newHeader 16 5 false false)

/-- Step 1 has failed by the alternate method in the last boot, and by the primary one before that. -/
def failed93 : State :=
  let e : Almanac := { step := 1, unit := 0, boot := 1, alternate := false, outcome := 2, temp := 20, time := 0, detail := 0 }
  { State.reset with plat := { State.reset.plat with boot := 2, almanac := [e, { e with boot := 2, alternate := true }] } }

/-- FirmwareBootsThePackage: each clause. -/
theorem witness_firmware : every [!State.reset.plat.recovery && !State.reset.plat.warming && !State.reset.plat.booting && !State.reset.plat.booted
    && State.reset.plat.almanac.isEmpty, (now93 .reset (.boot [])).plat.boot == 1 && !(now93 .reset (.boot [])).plat.booted,
    !State.reset.cold && (now93 warm93 (.boot [⟨4, 3, some true, false, 20⟩])).plat.almanac.length == warm93.plat.almanac.length && warm93.plat.booting && warm93.plat.warming,
    begun93.stepNext 3 0 && begun93.plat.booting && !begun93.plat.warming && (now93 begun93 (.coldStartWarming [-11] [])).plat.warming,
    [(some true, 1), (some false, 2), (none, 0)].all (fun (o, v) =>
      (now93 .reset (.boot [⟨1, 0, o, false, 20⟩])).plat.almanac.map (fun e => (e.step, e.unit, e.boot, e.alternate, e.outcome)) == [(1, 0, 1, false, v)]),
    (now93 .reset (.boot [⟨4, 3, some true, false, 20⟩])).plat.almanac.isEmpty && begun93.plat.almanac.map (fun e => (e.step, e.outcome)) == [(1, 1), (2, 1)],
    !failed93.plat.recovery && failed93.plat.almanac.all (fun e => e.boot != failed93.plat.boot + 1) && lastTry failed93.plat.almanac 1 0 (failed93.plat.boot + 1),
    [some false, none].all (fun o => (now93 failed93 (.boot [⟨1, 0, o, false, 20⟩])).plat.recovery) && !(now93 failed93 (.boot [⟨1, 0, some true, false, 20⟩])).plat.recovery,
    (let r : State := { begun93 with plat := { begun93.plat with recovery := true } }; (now93 r (.boot steps93)).plat.boot == 1 && (now93 r (.boot steps93)).plat.almanac.length == 2),
    !(now93 warm93 (.coldStartWarming [-10] [])).plat.warming, warm93.plat.almanac.getLast?.map (fun e => (e.step, e.outcome, e.temp)) == some (3, 0, -11),
    (now93 warm93 .warmingTimeout).plat.almanac.getLast?.map (fun e => (e.step, e.outcome, e.ends)) == some (3, 2, [-11]),
    !talk93.plat.recovery && (now93 talk93 (.attestationRequest 77)).plat.reports.map (fun r => (r.nonce, r.packetHigh, r.finvenLow)) == [(77, 1, 1)],
    (now93 .reset (.firmwareMailboxMessage (.negotiate 1))).plat.mailboxVersion == some 1,
    isM 512 && ((List.range 8).map (8 * 512 + ·)).find? (fun k => (kernel93.task k).status == .free) == some 4096,
    kernel93.packetCode Config.mCorePart.val code93 0 && !malformed code93,
    (match kernel93.place Config.mCorePart.val code93 16 with
      | .ok a => lowestFit [kernel93.kernelCode 512] (kernel93.codeParcels a).length == some 0 && !kernel93.plat.recovery
      | .error _ => false),
    (let t := now93 kernel93 (.firmwareKernelStart 512 code93 code93 0)
    (t.task 4096).status == .ready && (t.task 4096).priv && (t.task 4096).pc == 0 && (t.task 4096).tenant == 0xFFFF
      && oCanon ((t.task 4096).getO 1) == code93 && (t.mcode.find 512 []).map (·.base) == [0])] = true := by decide +kernel

/-- ClocksStretchAndCount: each clause, at 1, 8, 0 and 9 steps. -/
theorem witness_clocks : every [((now93 .reset (.clockStretch 3 1)).cluster 3).stretch == 1, ((now93 .reset (.clockStretch 3 8)).cluster 3).stretchSteps == 8,
    decide (now93 .reset (.clockStretch 3 0) = State.reset) && decide (now93 .reset (.clockStretch 3 9) = State.reset),
    (let c := (now93 (now93 .reset (.clockStretch 3 8)) (.stretchRelax 3)).cluster 3
    c.stretch == 7 && c.stretchedCycles == 33),
    ((now93 .reset (.referenceClockTick 2)).die 2).cycle == 1, ((now93 (now93 .reset (.clockStretch 3 8)) (.stretchCountRead 3 true)).cluster 3).stretchSteps == 0,
    ((now93 (now93 .reset (.clockStretch 3 8)) (.stretchCountRead 3 false)).cluster 3).stretchedCycles == 0] = true := by decide +kernel
/-! ## The machine -/

/-- One task, of core 0, at pc 0 of `code` there. -/
def s95 (code : List Word32) : State :=
  let s := st (xs [(1, 11), (2, 3)])
  { s with clusters := [(0, { s.cluster 0 with code := [{ base := 0, parcels := code, ptr := 0 }] })] }

/-- IssueTestsComeFirst: a width test that fails, an extension without a move and with one, also behind an awaited result, the privilege, the guard. -/
theorem witness_issue : every [
    (let s := (s95 []).setMe { (s95 []).me with width := 0 }
    let f : Fields := { form := .f2, smClass := 1, smSeg := 7 }
    !modFits .vadd f s.me && leads (exec (.vadd f) s) (fun t => t.me.stop.map (·.code) == some (some .illegalEncoding))),
    !modFits .mfc { a := 2, b := 0x20 } (s95 []).me && modFits .mfc { b := 0x11 } (s95 []).me,
    (let s := s95 []
    modFits .ctxsv {} s.me && !hasExt s.myCore Op.ctxsv.row.ext && Op.ctxsv.row.ext == .mgmt
      && leads (exec (.ctxsv {}) s) (fun t => t.me.stop.map (·.code) == some (some .noExtension))),
    (let s : State := { s95 [] with cur := 56, tasks := [(56, (s95 []).me)] }
    modFits .vsbp {} s.me && !hasExt s.myCore Op.vsbp.row.ext && Op.vsbp.row.ext != .mgmt && !isM s.myCore
      && leads (exec (.vsbp {}) s) (fun t => (t.task 56).status == .parked && (t.task 56).wait.map (·.kind) == some .migration)),
    (let s : State := { s95 [] with cur := 56, tasks := [(56, { (s95 []).me with pend := [{ dest := .x 9, msg := some 1 }] })] }
    modFits .vsbp {} s.me && !hasExt s.myCore Op.vsbp.row.ext && s.me.pend.any (·.awaited)
      && leads (exec (.vsbp {}) s) (fun t => t == s)),
    (let s : State := { s95 [] with cur := 4096, tasks := [(4096, (s95 []).me)] }
    hasExt s.myCore Op.ctxsv.row.ext && needsPriv .ctxsv {} && !s.me.priv
      && leads (exec (.ctxsv {}) s) (fun t => (t.task 4096).stop.map (·.code) == some (some .privilege))),
    (let f : Fields := { form := .f2, g := 1, d := 9, a := 1, b := 2 }
    !((s95 []).me.guard f).getLsbD 0 && leads (exec (.add f) (s95 [])) (fun t => t.me.pc == 2 && t.me.getX 9 == 0))] = true := by decide +kernel

/-- The one instruction stands in a block of the store that has been struck. -/
def struck95 : State :=
  let s := s95 [0x02045008]
  { s with clusters := [(0, { s.cluster 0 with code := [{ base := 0, parcels := [0x02045008], ptr := 0, bad := [0] }] })] }

/-- StepRunsTheDecodedInstruction: `add x5, x1, x2` at the only task's pc, an undecodable parcel, no start bit, a struck block. -/
theorem witness_step : every [(s95 [0x02045008]).choices == [.issue 0] && (s95 [0x02045008]).nextSlot 0 == some 0,
    startBit ((s95 [0x02045008]).codeOf 0) 0 && !badCode ((s95 [0x02045008]).codeOf 0) 0 1,
    struck95.choices == [.issue 0] && startBit (struck95.codeOf 0) 0 && badCode (struck95.codeOf 0) 0 1
      && leads (step struck95) (fun t => t.me.stop.map (·.code) == some (some .uncorrectable)),
    (match decodeParcels (parcelsAt ((s95 [0x02045008]).codeOf 0) 0) with
      | .ok (i, _) => i == .add { d := 5, a := 1, b := 2 }
      | .error _ => false),
    leads (step (s95 [0x02045008])) (fun t => t.me.getX 5 == 14 && t.me.pc == 1),
    (s95 [0x0000FFF8]).choices == [.issue 0] && startBit ((s95 [0x0000FFF8]).codeOf 0) 0,
    leads (step (s95 [0x0000FFF8])) (fun t => t.me.stop.map (·.code) == some (some .illegalOpcode)),
    !startBit ((s95 []).codeOf 0) 0 && leads (step (s95 [])) (fun t => t.me.stop.map (·.code) == some (some .branchTarget))] = true := by decide +kernel

/-- StepTakesOneOfTheChoices: none, one event, and two cores. -/
theorem witness_choices : every [State.reset.choices.isEmpty && leads (step .reset) (fun t => (t.die 0).cycle == 1),
    ({ State.reset with agenda := [.referenceClockTick 2] } : State).choices == [.event (.referenceClockTick 2)],
    ({ s95 [0x02045008] with tasks := [(0, (s95 []).me), (8, (s95 []).me)] } : State).choices == [.issue 0, .issue 1]] = true := by decide +kernel

/-- DecodingAnEncodingGivesItBack: a legal instruction with every field in use, of each form. -/
theorem witness_legal : every [Op.legal .add { z := 1, d := 63, a := 62, b := 61, m := true }, Op.legal .vadd { form := .f2, z := 3, g := 15, d := 63, a := 1, b := 2, smClass := 1, smSeg := 1, smDist := 1, x := 0x80 }, (Instr.li { form := .f3, d := 1, lit := 0xFFFFFFFF }).wellFormed] = true := by decide +kernel

/-- StepsKeepMemoryCanonical: a memory with a byte in its canonical form, and a store that keeps it. -/
theorem witness_canonical : every [(s20c).mem.wf && !(s20c).mem.isEmpty, does .st stF s20c (fun t => t.mem.wf && t.mem != s20c.mem)] = true := by decide +kernel

/-- RegisterInstructionsChangeOnlyTheirDestination: the four shapes, with nothing outstanding, and with a result outstanding in a task that is not at a
loop's end. -/
def q95 : State := (s95 []).setMe { (s95 []).me with pend := [{ dest := .x 7, val := 1 }] }

theorem witness_frames : every [(s95 []).me.pend.isEmpty && !(q95.me.fallThrough 1).2,
    does .add { d := 5, a := 1, b := 2 } q95 (fun t => t.me.pend.length == 1 && t.me.getX 5 == 14 && t.me.v == q95.me.v),
    [Op.vadd, .vfadd, .cmpp].all (fun o => does o { form := .f2, d := 5, a := 1, b := 2 } (s95 []) (fun t => t.me.x == (s95 []).me.x && t.mem.isEmpty))]
    = true := by decide +kernel

/-- StoresChangeOnlyTheirBytes: STC past an empty buffer, ST through a copy, and an instruction that writes no memory. -/
theorem witness_store_frames : every [
    (match s20c.place (s20c.tablePart s20c.me) (diePad 0x100) 17 with
      | .ok a => a == (diePad 0x100).toNat
      | .error _ => false), s20c.me.sb.isEmpty && does .stc stF s20c (fun t => t.mem == s20c.mem && t.me.x == s20c.me.x),
    oTouched (s20c.me.getO 1) && s20c.copyOf s20c.myCore (diePad 0x100) == some e20,
    does .st stF s20c (fun t => t.mem == s20c.mem.writeN ((pad 0x1000).toNat + 16) [3]), does .yield {} s20c (fun t => t.mem == s20c.mem)] = true := by decide +kernel

/-! ## Well-formedness -/

/-- One ill-formed term for each check of an instruction's fields (R54 to R59): an F1 with a field of F2, a form that the map does not list, Z, the
guard, an X bit, the immediate of F3, an offset beside F3, the modifier, and a field of each class. -/
theorem test_ill_formed : ∀ i ∈ ([.add { c := 1 }, .add { form := .f2, lit := 1 }, .ret { form := .f3 }, .mulh { z := 3, form := .f3 }, .nop { z := 1 },
    .add { form := .f2, g := 8 }, .add { form := .f2, x := 1 }, .add { form := .f3 }, .ld { form := .f3, x := 1 }, .add { form := .f2, smClass := 1 },
    .vadd { form := .f2, smClass := 1, smSeg := 1, smDist := 2 }, .vadd { form := .f2, smSeg := 1 }, .add { form := .f2, c := 1 }, .ld { a := 32 },
    .pand { d := 1, a := 16 }, .pand { a := 1 }, .mloop { d := 8 }, .mfl { a := 6 }, .alloc { form := .f2, c := 1 }, .mma { form := .f2, c := 8, x := 0x200 },
    .li { form := .f3, z := 1 }] : List Instr), i.wellFormed = false := by decide +kernel

/-- One ill-formed term for each kind of operand of an event. -/
theorem test_ill_formed_events : ∀ i ∈ ([.migration 4128, .deferredResultWrite 4128 0 0, .dequePop 512, .steal 512, .spillReturn 512, .forkPlace 4128,
    .joinWake 4128, .acqGrant 4128, .jwaitWake 4128, .idleWake 4128, .spawnPush 512, .recvDelivery 4128, .sendInboxEntry 516, .icoldWrite 0 16 0,
    .icoldWrite 512 0 0, .tgNodeReady 4 0, .tgNodeReady 0 65536, .tgNodeFinish 4 0, .tgHeldPlace 4, .copyNodeKick 0 65536, .tilePass 64, .nbmvJobStart 8,
    .nbmvJobComplete 8, .fabricJobStart 66, .chunkCommit 66, .fabricJobComplete 66, .prefCopyComplete 512 0, .collection (.core 512) 0,
    .collection (.cluster 64) 0, .collection (.die 0) 4, .collectionEnd (.die 4) 0, .regionEvacuation 16 0 0, .regionEvacuation 0 4 0, .glcmdGo 0 17 0,
    .glpauseRead 4 0, .qtailWrite 16 0 0, .qctlEnable 0 64 0] : List Instr), i.wellFormed = false := by decide +kernel

theorem test_ill_formed_platform_events : ∀ i ∈ ([.launchSelect 2, .launchRootPlace 2, .derrWrite 2 0, .partitionWrite 0 2 0, .partitionWrite 0 0x20 0,
    .sliceBoundary 16 0, .contextSwap 0 4, .haltReport 17, .hresGo 17, .hresHandler 17, .hresEnd 17, .waitAbort 17, .mCoreFault 4128, .vigilScan 4,
    .remoteStoreRefused 4128, .atomicResponseError 4128 0, .flitReceive 18 0 0 true false [], .flitReceive 0 4096 0 true false [], .flitReplay 0 4096,
    .linkTraining 0 (2, 1) none, .boot [⟨3, 0, none, false, 0⟩],
    .boot [⟨5, 0, none, false, 0⟩, ⟨4, 0, none, false, 0⟩], .hostAccess (.map 16 0 0) 0 [], .uncorrectableError (.accumulator 0 8),
    .uncorrectableError (.queueEntry 512 0), .portDown 18, .ethernetFrame 4 true true [], .clockStretch 64 1, .stretchRelax 64, .stretchCountRead 64 true, .ctlRun 256 0,
    .ctlQuiesce 256 0, .ctlTrainMode 256 0, .ctlWriteApply 256, .patternRunDone 256 0, .rdlyWrite 0 37 0, .wdlyWrite 256 0 0, .repairWrite 256 0,
    .autoRetrain 256 0, .autoRetrainDone 256, .storeBufferDrain 4128 0, .firmwareKernelStart 511 0 0 0, .deviceControl2Write 18 true, .referenceClockTick 4]
    : List Instr), i.wellFormed = false := by decide +kernel

/-! ## Saved contexts: the bytes of images are free values -/

/-- The M-core task of `s92` with the tables of partition 0, whose region 0 is 4 GiB of stack 0, and an object there that holds an image in o1. -/
def s96 : State :=
  let p := heapPtr 0 0
  { (s92.setMe { s92.me.setO 1 (oMake false false 0 0x01000000 p) with part := 0 }).pokeWord (2 ^ 62) (newHeader 0x01000000 0 false false) with
    regions := [(0, 0x800F000000000000)] }

/-- The object's register. -/
def r96 : BitVec 128 := oMake false false 0 0x01000000 (heapPtr 0 0)

/-- An image of context 2 of partition 0. -/
def im97 : Image := { context := Saved.fresh 0 2, count := 0, blocks := 36 }

/-- The state with that image written by the task and still in its store buffer. -/
def s97 : State :=
  { s96.setMe { s96.me with sb := [{ addr := 2 ^ 62 + 16, hdr := 2 ^ 62, bytes := im97.bytes 0, home := 0, posted := false, ptr := heapPtr 0 0, pc := 0 }] } with
    images := [(0, im97)] }

/-- A part of an instruction that answers one value. -/
theorem of_gives {α : Type} [DecidableEq α] {x : Except ε α} {a : α} (h : gives x (fun y => decide (y = a)) = true) : x = .ok a := by
  cases x with
  | ok y => simpa [gives] using h
  | error e => simp [gives] at h

theorem length_flatMap_const {α : Type} (f : Nat → List α) (k : Nat) (hf : ∀ b, (f b).length = k) (n : Nat) :
    ((List.range n).flatMap f).length = k * n := by
  induction n with
  | zero => rfl
  | succ n ih => simp only [List.range_succ, List.flatMap_append, List.length_append, ih, List.flatMap_singleton, hf, Nat.mul_succ]

/-- Pieces of one length, one after another: the b-th is where it should be. -/
theorem slice_flatMap {α : Type} (f : Nat → List α) (k : Nat) (hf : ∀ b, (f b).length = k) {b n : Nat} (h : b < n) :
    (((List.range n).flatMap f).drop (k * b)).take k = f b := by
  induction n with
  | zero => omega
  | succ n ih =>
    have hl := length_flatMap_const f k hf n
    rw [List.range_succ, List.flatMap_append]
    rcases Nat.lt_succ_iff_lt_or_eq.mp h with hb | rfl
    · have h1 : k * b + k ≤ k * n := by rw [← Nat.mul_succ]; exact Nat.mul_le_mul_left k hb
      rw [List.drop_append_of_le_length (by omega), List.take_append_of_le_length (by rw [List.length_drop]; omega), ih hb]
    · rw [List.drop_left' hl, List.flatMap_singleton]
      exact List.take_of_length_le (Nat.le_of_eq (hf b))

/-- An image has the bytes of its header and of its blocks. -/
theorem length_image (n : Nat) (im : Image) : (im.bytes n).length = imageSize im.blocks := by
  have h := length_flatMap_const (im.block n) 65584 (fun b => by simp [Image.block]) im.blocks
  simp [Image.bytes, Image.header, imageSize, h]

/-- The state in which that image is written. -/
noncomputable def t96 : State := s96.fresh.2.stampSeq

/-- An image of 36 blocks can be written. -/
theorem write_image (bs : List Byte) (h : bs.length = imageSize 36) : ∃ u, writeCanon s96.fresh.2 r96 0 bs = .ok u := by
  have h1 : t96.current? (oSetTouched r96 false) = (heapPtr 0 0, false) := by decide +kernel
  have h2 : oView (oSetTouched r96 false) + 0 = 0 := by decide
  have h3 : t96.place (t96.tablePart t96.me) (heapPtr 0 0) (16 + 0 + imageSize 36) = .ok (2 ^ 62) :=
    of_gives (by decide +kernel)
  have h5 : (decide (homeOf (2 ^ 62) < 4) && homeOf (2 ^ 62) != dieOf t96.myCore) = false := by decide +kernel
  have h6 : access t96 (heapPtr 0 0) (16 + 0) (imageSize 36) = .ok (2 ^ 62) := of_gives (by decide +kernel)
  refine ⟨t96.store (2 ^ 62) (heapPtr 0 0) (2 ^ 62 + 16 + 0) bs, ?_⟩
  change putThrough t96 (oSetTouched r96 false) 0 bs false = _
  unfold putThrough
  simp only [h1, h2, h, h3, h5, h6]
  rfl

/-- SupervisorInstructionsHaveTheirEffect: CTXSV's clause, an image of context 2, which is swapped out. -/
theorem witness_save : ∃ p ctx u, s96.issues .ctxsv { a := 1, b := 6 } ∧ needImage { a := 1, b := 6 } s96 true = .ok (p, ctx)
    ∧ writeCanon s96.fresh.2 (s96.me.getO 1) 0
        (Image.bytes s96.free { context := s96.fresh.2.contextAt p ctx, count := (s96.halt p).count, blocks := (s96.part p).blocks }) = .ok u := by
  have h0 : s96.me.getO 1 = r96 := by decide +kernel
  have h1 : (s96.part 0).blocks = 36 := by decide +kernel
  obtain ⟨u, hu⟩ := write_image
    (Image.bytes s96.free { context := s96.fresh.2.contextAt 0 2, count := (s96.halt 0).count, blocks := (s96.part 0).blocks })
    (by rw [length_image, h1])
  rw [h0]
  exact ⟨0, 2, u, by decide +kernel, of_gives (by decide +kernel), hu⟩

/-- A load of bytes that the one buffered store of the task holds takes them from there. -/
theorem load_buffered (s : State) (k : TaskKey) (x : Store) (lo n : Nat) (hsb : (s.task k).sb = [x]) (h : lo + n ≤ x.bytes.length)
    (hq : x.seq ≤ (s.task k).seq) : s.loadBytes k (x.addr + lo) n = (x.bytes.drop lo).take n := by
  simp only [State.loadBytes, State.loadAt, hsb, List.isEmpty_cons, Bool.false_eq_true, if_false, Task.forwarded, List.foldl_cons, List.foldl_nil]
  apply List.ext_getElem
  · simp; omega
  · intro i h1 h2
    have h3 : i < n := by simpa using h1
    have h4 : x.addr + lo + i - x.addr = lo + i := by omega
    simp only [List.getElem_map, List.getElem_range, h4, List.getElem_take, List.getElem_drop]
    rw [if_pos (by have : x.size = x.bytes.length + x.zero := rfl; simp [hq]; omega), List.getElem?_eq_getElem (by omega)]
    rfl

/-- The image of 36 blocks that begins the one buffered store of the task is found and passes its check. -/
theorem check_image (s : State) (x : Store) (im : Image) (p ctx : Nat) (hsb : (s.task s.cur).sb = [x]) (hx : x.bytes = im.bytes 0)
    (hi : s.images = [(0, im)]) (hp : s.poison = []) (h1 : im.context.part = p) (h2 : im.context.ctx = ctx) (h3 : im.blocks = (s.part p).blocks)
    (hq : x.seq ≤ (s.task s.cur).seq) :
    s.checkImage p ctx x.addr = .ok im.context := by
  have hb : ∀ b, (im.block 0 b).length = 65584 := fun b => by simp [Image.block]
  have hh : (im.header 0).length = 64 := by simp [Image.header]
  have hl : x.bytes.length = imageSize im.blocks := hx ▸ length_image 0 im
  have e0 : s.loadBytes s.cur (x.addr + 0) 64 = im.header 0 := by
    rw [load_buffered s s.cur x 0 64 hsb (by rw [hl]; unfold imageSize; omega) hq, List.drop_zero, hx, Image.bytes, ← hh, List.take_left]
  have e1 : ∀ b, b < im.blocks → s.loadBytes s.cur (x.addr + (64 + 65584 * b)) 65584 = im.block 0 b := by
    intro b h
    rw [load_buffered s s.cur x _ _ hsb (by rw [hl]; unfold imageSize; omega) hq, ← List.drop_drop, hx, Image.bytes, List.drop_left' hh]
    exact slice_flatMap _ _ hb h
  have e2 : ∀ a n, s.poisoned a n = false := fun _ _ => by simp [State.poisoned, hp]
  have e3 : (List.range im.blocks).find? (fun b => s.loadBytes s.cur (x.addr + (64 + 65584 * b)) 65584 != im.block 0 b) = none := by
    rw [List.find?_eq_none]
    intro b hm
    simp [e1 b (List.mem_range.mp hm)]
  simp only [State.checkImage, hi, e2, List.reverse_singleton, List.find?_singleton, e0, beq_self_eq_true, if_true, Bool.false_or, h1, h2, ← h3, e3,
    bne_self_eq_false, Bool.false_eq_true, if_false]

/-- SupervisorInstructionsHaveTheirEffect: CTXLD's clause, of an object that no CTXSV has written. -/
theorem witness_restore_fails : ∃ p ctx h, s96.issues .ctxld { a := 1, b := 6 } ∧ needImage { a := 1, b := 6 } s96 false = .ok (p, ctx)
    ∧ access s96 (oCanon r96) (16 + oView r96) (imageSize (s96.part p).blocks) = .ok h
    ∧ s96.checkImage p ctx (h + 16 + oView r96) = .error 0 :=
  ⟨0, 2, 2 ^ 62, by decide +kernel, of_gives (by decide +kernel), of_gives (by decide +kernel), rfl⟩

/-- SupervisorInstructionsHaveTheirEffect: CTXLD's clause, the image of context 2. -/
theorem witness_restore : ∃ p ctx h v, s97.issues .ctxld { a := 1, b := 6 } ∧ needImage { a := 1, b := 6 } s97 false = .ok (p, ctx)
    ∧ access s97 (oCanon r96) (16 + oView r96) (imageSize (s97.part p).blocks) = .ok h
    ∧ s97.checkImage p ctx (h + 16 + oView r96) = .ok v := by
  refine ⟨0, 2, 2 ^ 62, Saved.fresh 0 2, by decide +kernel, of_gives (by decide +kernel), of_gives (by decide +kernel), ?_⟩
  have h : s97.checkImage 0 2 (2 ^ 62 + 16) = .ok im97.context :=
    check_image s97 { addr := 2 ^ 62 + 16, hdr := 2 ^ 62, bytes := im97.bytes 0, home := 0, posted := false, ptr := heapPtr 0 0, pc := 0 } im97 0 2
      rfl rfl rfl rfl rfl rfl (by decide +kernel) (by decide +kernel)
  rw [show 2 ^ 62 + 16 + oView r96 = 2 ^ 62 + 16 by decide]
  exact h
/-! ## Words written out from the encoding tables -/

/-- The decoder reads exactly the instruction from these parcels. -/
def reads (ws : List Word32) (i : Instr) : Bool :=
  match decodeParcels ws with
  | .ok (j, rest) => j == i && rest.isEmpty
  | .error _ => false

/-- Words of the scalar instructions, written out field by field from the spec's tables (R55 to R77) or given as its examples, and what they say. -/
def scalarWords : List (List Word32 × Instr) :=
  [
    ([0x01185009, 0x80000240], .add { form := .f2, d := 5, a := 6, b := 1, c := 36, x := 0x200 }),
    ([0x000070A2, 0x00000000, 0x12345678], .li { form := .f3, d := 7, lit := 0x12345678 }),
    ([0x3A27F110], .bnz { d := 63, a := 9, b := 58 }),
    ([0x45103050], .andn { z := 1, d := 3, a := 4, b := 5 }),
    ([0x49207029, 0x40000000], .div { form := .f2, z := 1, d := 7, a := 8, b := 9, x := 0x100 }),
    ([0x45103030], .rem { z := 1, d := 3, a := 4, b := 5 }),
    ([0x80103071, 0x80000040], .ror { form := .f2, z := 2, d := 3, a := 4, c := 4, x := 0x200 }),
    ([0x0028A061, 0x80000020], .shr { form := .f2, d := 10, a := 10, c := 2, x := 0x200 }),
    ([0xC5103011, 0x20000000], .sub { form := .f2, z := 3, d := 3, a := 4, b := 5, x := 0x80 }),
    ([0x0038E041, 0x80000030], .or { form := .f2, d := 14, a := 14, c := 3, x := 0x200 }),
    ([0x05103048], .xor { d := 3, a := 4, b := 5 }),
    ([0x05103021, 0x40000000], .mulh { form := .f2, d := 3, a := 4, b := 5, x := 0x100 }) ] ++
  [
    ([0x001030C9, 0x420000C0], .ext { form := .f2, d := 3, a := 4, c := 12, x := 0x108 }),
    ([0x001030D1, 0x020000C0], .ins { form := .f2, d := 3, a := 4, c := 12, x := 0x8 }),
    ([0x051030D8], .pdep { d := 3, a := 4, b := 5 }),
    ([0x051030E0], .pext { d := 3, a := 4, b := 5 }),
    ([0x051030E8], .gfm { d := 3, a := 4, b := 5 }),
    ([0x004880B8], .popc { d := 8, a := 18 }),
    ([0x21556099, 0x00000140], .sel { form := .f2, d := 22, a := 21, b := 33, c := 20 }),
    ([0x00000000], .nop {}),
    ([0x28100108], .bz { a := 4, b := 40 }),
    ([0x00EC0130], .jmp { a := 59 }),
    ([0x1B280140], .loop { a := 10, b := 27 }),
    ([0x00245158], .mtl { d := 5, a := 9 }) ] ++
  [
    ([0x2A000160], .trap { b := 42 }),
    ([0x87185018], .mul { z := 2, d := 5, a := 6, b := 7 }),
    ([0xC7185038], .and { z := 3, d := 5, a := 6, b := 7 }),
    ([0x47185058], .shl { z := 1, d := 5, a := 6, b := 7 }),
    ([0x47185068], .sra { z := 1, d := 5, a := 6, b := 7 }),
    ([0x87185078], .min { z := 2, d := 5, a := 6, b := 7 }),
    ([0x87185080], .max { z := 2, d := 5, a := 6, b := 7 }),
    ([0x87185089, 0x01000000], .cmp { form := .f2, z := 2, d := 5, a := 6, b := 7, x := 4 }),
    ([0x87185091, 0x00C00000], .cmpp { form := .f2, z := 2, d := 5, a := 6, b := 7, x := 3 }),
    ([0x400050A2, 0x00000000, 0x12345678], .liH { form := .f3, z := 1, d := 5, lit := 0x12345678 }),
    ([0x801850A8], .clz { z := 2, d := 5, a := 6 }),
    ([0x401850B0], .ctz { z := 1, d := 5, a := 6 }) ] ++
  [
    ([0xC01850C0], .brev { z := 3, d := 5, a := 6 }),
    ([0x051850F0], .bperm { d := 5, a := 6, b := 5 }),
    ([0x07185100], .br { d := 5, a := 6, b := 7 }),
    ([0x872C5118], .bp { z := 2, d := 5, a := 11, b := 7 }),
    ([0x07185120], .call { d := 5, a := 6, b := 7 }),
    ([0x00180128], .callr { a := 6 }),
    ([0x0000013C], .ret { m := true }),
    ([0x47185148], .lexit { z := 1, d := 5, a := 6, b := 7 }),
    ([0x00105150], .mfl { d := 5, a := 4 }) ]

/-- The decoder reads each of them as the instruction it stands for. -/
theorem test_decode_scalar : scalarWords.all (fun e => reads e.1 e.2) = true := by decide +kernel

/-- Words of the memory instructions, written out field by field from the spec's tables (R55 to R77) or given as its examples, and what they say. -/
def memoryWords : List (List Word32 × Instr) :=
  [
    ([0x43084201, 0x00800050], .ld { form := .f2, z := 1, d := 4, a := 2, b := 3, c := 5, x := 2 }),
    ([0x00042210], .ldo { d := 2, a := 1 }),
    ([0x00043211, 0x00400000], .ldo { form := .f2, d := 3, a := 1, x := 1 }),
    ([0x00045215, 0x00C00000], .ldo { form := .f2, m := true, d := 5, a := 1, x := 3 }),
    ([0x40145208], .st { z := 1, d := 5, a := 5 }),
    ([0x00082291, 0x00400000], .stc { form := .f2, d := 2, a := 2, x := 1 }),
    ([0xC0254289, 0x40000000], .ldc { form := .f2, z := 3, d := 20, a := 9, x := 0x100 }),
    ([0xD709928D, 0x42C00000], .ldc { form := .f2, z := 3, m := true, d := 25, a := 2, b := 23, x := 0x10B }),
    ([0x00206218], .sto { d := 6, a := 8 }),
    ([0x0008A228], .olen { d := 10, a := 2 }),
    ([0x0A198240], .oeq { d := 24, a := 6, b := 10 }),
    ([0x00083280], .okind { d := 3, a := 2 }) ] ++
  [
    ([0x00006230], .omov { d := 6 }),
    ([0x00100259, 0x00C00000], .osync { form := .f2, a := 4, x := 3 }),
    ([0x0D148239, 0x000000E0], .oview { form := .f2, d := 8, a := 5, b := 13, c := 14 }),
    ([0x00244221, 0x06C00000], .alloc { form := .f2, d := 4, a := 9, x := 0x1B }),
    ([0x0018024D, 0x02800000], .acq { form := .f2, m := true, a := 6, x := 0xA }),
    ([0x00080251, 0x00C00000], .rel { form := .f2, a := 2, x := 3 }),
    ([0x000C0279, 0x01400000], .seal { form := .f2, a := 3, x := 5 }),
    ([0x001402A1, 0x00800000], .pref { form := .f2, a := 5, x := 2 }),
    ([0x000002A8], .fence {}),
    ([0x07185298], .hdl { d := 5, a := 6, b := 7 }),
    ([0x061428A0], .gld { d := 2, a := 5, b := 6 }),
    ([0x00180260], .odrop { a := 6 }) ] ++
  [
    ([0x00180268], .pin { a := 6 }),
    ([0x00180270], .unpin { a := 6 }) ]

/-- The decoder reads each of them as the instruction it stands for. -/
theorem test_decode_memory : memoryWords.all (fun e => reads e.1 e.2) = true := by decide +kernel

/-- Words of the vector instructions, written out field by field from the spec's tables (R55 to R77) or given as its examples, and what they say. -/
def vectorWords : List (List Word32 × Instr) :=
  [
    ([0x8A248401, 0x20130C0D], .vadd { form := .f2, z := 2, d := 8, a := 9, b := 10, x := 0x80, smClass := 1, smSeg := 3, smDist := 3, g := 13 }),
    ([0x54042401, 0x80000000], .vadd { form := .f2, z := 1, d := 2, a := 1, b := 20, x := 0x200 }),
    ([0x43083408], .vsub { z := 1, d := 3, a := 2, b := 3 }),
    ([0x03081605, 0x0022040B], .vfadd { form := .f2, m := true, d := 1, a := 2, b := 3, g := 11, smClass := 2, smSeg := 2, smDist := 1 }),
    ([0x00103439, 0x20000000], .vabs { form := .f2, d := 3, a := 4, x := 0x80 }),
    ([0x4B083419, 0x80000000], .vmulh { form := .f2, z := 1, d := 3, a := 2, b := 11, x := 0x200 }),
    ([0x83081421, 0x00000040], .vmad { form := .f2, z := 2, d := 1, a := 2, b := 3, c := 4 }),
    ([0x03081431, 0x40000000], .vmax { form := .f2, d := 1, a := 2, b := 3, x := 0x100 }),
    ([0x03081469, 0x80000000], .vsra { form := .f2, d := 1, a := 2, b := 3, x := 0x200 }),
    ([0x4008145A, 0xA0000000, 0x00000003], .vshl { form := .f3, z := 1, d := 1, a := 2, x := 0x280, lit := 3 }),
    ([0xAE2C5479, 0x80800000], .vcmp { form := .f2, z := 2, d := 5, a := 11, b := 46, x := 0x202 }),
    ([0xC3081450], .vxor { z := 3, d := 1, a := 2, b := 3 }) ] ++
  [
    ([0x83081481, 0x00000040], .vsel { form := .f2, z := 2, d := 1, a := 2, b := 3, c := 4 }),
    ([0xC3081488], .vgfm { z := 3, d := 1, a := 2, b := 3 }),
    ([0x45081499, 0x80000000], .vpext { form := .f2, z := 1, d := 1, a := 2, b := 5, x := 0x200 }),
    ([0xC30814A0], .vbperm { z := 3, d := 1, a := 2, b := 3 }),
    ([0x830814A8], .vdot4 { z := 2, d := 1, a := 2, b := 3 }),
    ([0x801444B1, 0x00800000], .vred { form := .f2, z := 2, d := 4, a := 5, x := 2 }),
    ([0x800C24B8], .vscan { z := 2, d := 2, a := 3 }),
    ([0xC03424C0], .vsplat { z := 3, d := 2, a := 13 }),
    ([0x400014C8], .viota { z := 1, d := 1 }),
    ([0x980594D0], .vget { z := 2, d := 25, a := 1, b := 24 }),
    ([0x4A2444D8], .vput { z := 1, d := 4, a := 9, b := 10 }),
    ([0x99186611, 0x80000000], .vfmul { form := .f2, z := 2, d := 6, a := 6, b := 25, x := 0x200 }) ] ++
  [
    ([0x9C1C6619, 0x80000060], .vfma { form := .f2, z := 2, d := 6, a := 7, b := 28, c := 6, x := 0x200 }),
    ([0x00041640], .vexp2 { d := 1, a := 1 }),
    ([0x800C2638], .vrsq { z := 2, d := 2, a := 3 }),
    ([0x05103659, 0x01800000], .vfcmp { form := .f2, d := 3, a := 4, b := 5, x := 6 }),
    ([0x80148660], .vfred { z := 2, d := 8, a := 5 }),
    ([0x000C2668], .vfscan { d := 2, a := 3 }),
    ([0x00103671, 0x70800000], .vcvt { form := .f2, d := 3, a := 4, x := 0x1C2 }),
    ([0x03081681, 0x0FC00000], .vscacc { form := .f2, d := 1, a := 2, b := 3, x := 0x3F }),
    ([0x80185688], .vcbx { z := 2, d := 5, a := 6 }),
    ([0x00003698], .vwget { d := 3 }),
    ([0x57247804], .vld { z := 1, m := true, d := 7, a := 9, b := 23 }),
    ([0x8C2C4802, 0x00000000, 0x00000080], .vld { form := .f3, z := 2, d := 4, a := 11, b := 12, lit := 128 }) ] ++
  [
    ([0x4E18180A, 0x00000000, 0x00000080], .vst { form := .f3, z := 1, d := 1, a := 6, b := 14, lit := 128 }),
    ([0x840C2811, 0x00000050], .vlds { form := .f2, z := 2, d := 2, a := 3, b := 4, c := 5 }),
    ([0x840C2819, 0x00000050], .vsts { form := .f2, z := 2, d := 2, a := 3, b := 4, c := 5 }),
    ([0x83081821, 0x20000000], .vgath { form := .f2, z := 2, d := 1, a := 2, b := 3, x := 0x80 }),
    ([0x85084829, 0x00400000], .vscat { form := .f2, z := 2, d := 4, a := 2, b := 5, x := 1 }),
    ([0x52086830], .vldpk { z := 1, d := 6, a := 2, b := 18 }),
    ([0x52084838], .vstpk { z := 1, d := 4, a := 2, b := 18 }),
    ([0x83081840], .vperm { z := 2, d := 1, a := 2, b := 3 }),
    ([0x8C2C1858], .vwhile { z := 2, d := 1, a := 11, b := 12 }),
    ([0x8000A860], .vlen { z := 2, d := 10 }),
    ([0x07186868], .pand { d := 6, a := 6, b := 7 }),
    ([0x00142880], .pnot { d := 2, a := 5 }) ] ++
  [
    ([0x40118888], .pcnt { z := 1, d := 24, a := 4 }),
    ([0x80243899, 0x00800000], .pset { form := .f2, z := 2, d := 3, a := 9, x := 2 }),
    ([0x001018B1, 0x00400000], .grank { form := .f2, d := 1, a := 4, x := 1 }),
    ([0x820408BC], .vsbp { z := 2, m := true, a := 1, b := 2 }),
    ([0x87185410], .vmul { z := 2, d := 5, a := 6, b := 7 }),
    ([0x47185428], .vmin { z := 1, d := 5, a := 6, b := 7 }),
    ([0xC7185440], .vand { z := 3, d := 5, a := 6, b := 7 }),
    ([0xC7185448], .vor { z := 3, d := 5, a := 6, b := 7 }),
    ([0x47185460], .vshr { z := 1, d := 5, a := 6, b := 7 }),
    ([0x47185490], .vpdep { z := 1, d := 5, a := 6, b := 7 }),
    ([0x07185608], .vfsub { d := 5, a := 6, b := 7 }),
    ([0x07185620], .vfmin { d := 5, a := 6, b := 7 }) ] ++
  [
    ([0x07185628], .vfmax { d := 5, a := 6, b := 7 }),
    ([0x80185630], .vrcp { z := 2, d := 5, a := 6 }),
    ([0x00185648], .vlog2 { d := 5, a := 6 }),
    ([0x00185679, 0x01C00000], .vcvti { form := .f2, d := 5, a := 6, x := 0x07 }),
    ([0x00185690], .vwacc { d := 5, a := 6 }),
    ([0x80185848], .vcomp { z := 2, d := 5, a := 6 }),
    ([0x80185850], .vexpd { z := 2, d := 5, a := 6 }),
    ([0x07185870], .por { d := 5, a := 6, b := 7 }),
    ([0x07185878], .pxor { d := 5, a := 6, b := 7 }),
    ([0x071858A8], .gst { d := 5, a := 6, b := 7 }) ]

/-- The decoder reads each of them as the instruction it stands for. -/
theorem test_decode_vector : vectorWords.all (fun e => reads e.1 e.2) = true := by decide +kernel

/-- Words of the engines instructions, written out field by field from the spec's tables (R55 to R77) or given as its examples, and what they say. -/
def enginesWords : List (List Word32 × Instr) :=
  [
    ([0x07182A01, 0x48000090], .mma { form := .f2, d := 2, a := 6, b := 7, c := 9, x := 0x120 }),
    ([0x07180A09, 0xA4000000], .msbp { form := .f2, a := 6, b := 7, x := 0x290 }),
    ([0x00000A10], .mzero {}),
    ([0x05012A1D, 0x00000000], .mdrain { form := .f2, m := true, d := 18, b := 5 }),
    ([0x00003A21, 0x00000140], .mread { form := .f2, d := 3, c := 20 }),
    ([0x00440A2C], .mloop { m := true, a := 17 }),
    ([0x00140A31, 0x00C00000], .mscale { form := .f2, a := 5, x := 3 }),
    ([0x00100A39, 0x00400000], .cbld { form := .f2, a := 4, x := 1 }),
    ([0x00180A40], .mtab { a := 6 }),
    ([0x07185A49, 0x02400080], .nbmv { form := .f2, d := 5, a := 6, b := 7, c := 8, x := 9 }),
    ([0x07180A50], .mkld { a := 6, b := 7 }),
    ([0x07185A58], .mkcls { d := 5, a := 6, b := 7 }) ] ++
  [
    ([0x07185A61, 0x00400000], .mkapp { form := .f2, d := 5, a := 6, b := 7, x := 1 }),
    ([0x07185A61, 0x00C00000], .mkappBias { form := .f2, d := 5, a := 6, b := 7, x := 3 }),
    ([0x00005A69, 0x01400000], .mkcnt { form := .f2, d := 5, x := 5 }),
    ([0x00185A70], .agx { d := 5, a := 6 }) ]

/-- The decoder reads each of them as the instruction it stands for. -/
theorem test_decode_engines : enginesWords.all (fun e => reads e.1 e.2) = true := by decide +kernel

/-- Words of the sync instructions, written out field by field from the spec's tables (R55 to R77) or given as its examples, and what they say. -/
def syncWords : List (List Word32 × Instr) :=
  [
    ([0x000C7C11, 0x00800000], .fput { form := .f2, d := 7, a := 3, x := 2 }),
    ([0x050C0C20], .fclr { a := 3, b := 5 }),
    ([0x01083C29, 0x00000000], .amo { form := .f2, d := 3, a := 2, b := 1 }),
    ([0x06144C31, 0x6C000070], .cas { form := .f2, d := 4, a := 5, b := 6, c := 7, x := 0x1B0 }),
    ([0x09086C3D, 0x2C000140], .cas2 { form := .f2, m := true, d := 6, a := 2, b := 9, c := 20, x := 0xB0 }),
    ([0x09085C41, 0x04400030], .fork { form := .f2, d := 5, a := 2, b := 9, c := 3, x := 0x11 }),
    ([0x000C0C48], .join { a := 3 }),
    ([0x00000C50], .halt {}),
    ([0x16109C60], .send { d := 9, a := 4, b := 22 }),
    ([0x16117C65, 0x00400000], .sendSpawn { form := .f2, m := true, d := 23, a := 4, b := 22, x := 1 }),
    ([0x00185C68], .recv { d := 5, a := 6 }),
    ([0x00191C7D, 0x00400000], .sgld { form := .f2, m := true, d := 17, a := 6, x := 1 }) ] ++
  [
    ([0x00493C84], .jwait { m := true, d := 19, a := 18 }),
    ([0x00057C92, 0x00000160, 0x00000001], .tgnode { form := .f3, d := 23, a := 1, c := 22, lit := 1 }),
    ([0x05100C98], .tgedge { a := 4, b := 5 }),
    ([0x00000CA0], .tgrun {}),
    ([0x090C0CA8], .sigdecl { a := 3, b := 9 }),
    ([0x07185CB1, 0x98000000], .coll { form := .f2, d := 5, a := 6, b := 7, x := 0x260 }),
    ([0x07185C00], .fld { d := 5, a := 6, b := 7 }),
    ([0x07185C08], .ftake { d := 5, a := 6, b := 7 }),
    ([0x07185C18], .fset { d := 5, a := 6, b := 7 }),
    ([0x07180C51, 0x00400000], .haltRetain { form := .f2, a := 6, b := 7, x := 1 }),
    ([0x00000C58], .yield {}),
    ([0x07185C71, 0x00C00000], .cpy { form := .f2, d := 5, a := 6, b := 7, x := 3 }) ] ++
  [
    ([0x07185C71, 0x40800080], .cpyNode { form := .f2, d := 5, a := 6, b := 7, c := 8, x := 0x102 }),
    ([0x00185C88], .jpoll { d := 5, a := 6 }),
    ([0x00000CB8], .idle {}) ]

/-- The decoder reads each of them as the instruction it stands for. -/
theorem test_decode_sync : syncWords.all (fun e => reads e.1 e.2) = true := by decide +kernel

/-- Words of the system instructions, written out field by field from the spec's tables (R55 to R77) or given as its examples, and what they say. -/
def systemWords : List (List Word32 × Instr) :=
  [
    ([0x00000E10], .eret {}),
    ([0x05103E18], .hnew { d := 3, a := 4, b := 5 }),
    ([0x00100E20], .hrev { a := 4 }),
    ([0x05103E28], .rgset { d := 3, a := 4, b := 5 }),
    ([0x03084E30], .stoprd { d := 4, a := 2, b := 3 }),
    ([0x03000E38], .ctxsv { a := 0, b := 3 }),
    ([0x03084E48], .wftrd { d := 4, a := 2, b := 3 }),
    ([0x00BEEE54], .mgrd { m := true, d := 46, a := 47 }),
    ([0x0028EE58], .mgwr { d := 14, a := 10 }),
    ([0x05103E60], .tenset { d := 3, a := 4, b := 5 }),
    ([0x03105E00], .mfc { d := 5, a := 4, b := 3 }),
    ([0x03005E08], .mtc { d := 5, a := 0, b := 3 }) ] ++
  [
    ([0x07180E40], .ctxld { a := 6, b := 7 }),
    ([0x07185E68], .atlog { d := 5, a := 6, b := 7 }) ]

/-- The decoder reads each of them as the instruction it stands for. -/
theorem test_decode_system : systemWords.all (fun e => reads e.1 e.2) = true := by decide +kernel

end Sys2Proof.Tests
end

section
/-!
PROOFS. Control registers: how MFC and MTC end for each number (R75, R316), and the statement put together from that (O37).
-/

open Sys2Proof.Claims

namespace Sys2Proof.Machine

/-! ## Refusals at issue (R59) -/

/-- A failed check 5 of R59 raises `illegal-encoding` before any other check. -/
theorem run_misfit {o : Op} {f : Fields} {s : State} (body : State → Res) (h : modFits o f s.me = false) :
    run o f body s = .next (s.raise s.cur { code := .illegalEncoding }) := by
  simp [run, issue, State.settle, State.raise, h]

/-- Check 5 of R59 fails for a number that names no control register. -/
theorem modFits_of_unknown {o : Op} {f : Fields} {t : Task} (ho : namesControl o = true) (hn : controlKnown (controlNumber f) = false) :
    modFits o f t = false := by
  simp [modFits, ho, hn]

/-- Check 5 of R59 passes for a control register's number without a source modifier. -/
theorem modFits_of_known {o : Op} {f : Fields} {t : Task} (hm : f.smClass = 0) (hn : controlKnown (controlNumber f) = true) :
    modFits o f t = true := by
  simp [modFits, hm, hn]

/-- MFC or MTC of a number that names no control register raises `illegal-encoding` (R316). -/
theorem run_unknownControl {o : Op} {f : Fields} {s : State} (body : State → Res) (ho : namesControl o = true)
    (hn : controlNumber f = 0 ∨ 0x11 < controlNumber f ∧ controlNumber f < 0x100 ∨ 0x104 < controlNumber f) :
    run o f body s = faults s s { code := .illegalEncoding } := by
  have hunknown : controlKnown (controlNumber f) = false := by simp [controlKnown]; omega
  exact run_misfit body (modFits_of_unknown ho hunknown)

/-- MFC or MTC of a supervisor register in a task without privilege raises `privilege` (R316). -/
theorem run_supervisorControl {o : Op} {f : Fields} {s : State} (body : State → Res) (ho : namesControl o = true)
    (he : o.row.ext = .base) (hm : f.smClass = 0) (hlo : 0x100 ≤ controlNumber f) (hhi : controlNumber f ≤ 0x104) (hp : s.me.priv = false) :
    run o f body s = faults s s { code := .privilege } := by
  have hknown : controlKnown (controlNumber f) = true := by simp [controlKnown, hlo, hhi]
  have hneeds : needsPriv o f = true := by simp [needsPriv, ho, hlo]
  exact run_unprivileged body (modFits_of_known hm hknown) (by rw [he]; rfl) hneeds hp

/-! ## MFC (R75, R316) -/

/-- MFC completes with the value and in the state that reading the control register gives. -/
theorem exec_mfc {f : Fields} {s : State} (h : s.issues .mfc f = true) : exec (.mfc f) s
    = completes s ((readControl s (controlNumber f)).2.setX f.d (readControl s (controlNumber f)).1) f :=
  run_ok (body := mfcBody f) h rfl

/-- MFC of a control register whose reading changes nothing completes with its value. -/
theorem exec_mfc_gives {f : Fields} {s : State} {n : Nat} {v : Word64} (h : s.issues .mfc f = true) (hn : (f.a ++ f.b).toNat = n)
    (hr : readControl s n = (v, s)) : exec (.mfc f) s = completes s (s.setX f.d v) f := by
  rw [exec_mfc h, controlNumber, hn, hr]

/-- Reading `c.cycle` advances the counter of the core's die, which keeps the value read (R14, log entry 7). -/
theorem die_readCycle (s : State) (d : Nat) : ((s.readCycle d).2.die d).cycle = (s.readCycle d).1 :=
  congrArg Die.cycle (State.die_setDie ..)

/-- `c.ext` of an A-core: every extension but MGMT (R66). -/
theorem extWord_of_isA {c : CoreId} (hm : isM c = false) (ha : isA c = true) : extWord c = 0x7F := by
  simp [extWord, hasExt, hm, ha]

/-- `c.ext` of an S-core: BASE, VEC, BIT and GRAPH (R66). -/
theorem extWord_of_isS {c : CoreId} (hm : isM c = false) (ha : isA c = false) : extWord c = 0x0F := by
  simp [extWord, hasExt, hm, ha]

/-- An M-core is no A-core. -/
theorem isA_of_isM {c : CoreId} (h : isM c = true) : isA c = false := by
  have hc : 512 ≤ c := of_decide_eq_true h
  simp [isA, Nat.not_lt.mpr hc]

/-- `c.ext` of an M-core: BASE, VEC, BIT and MGMT (R66). -/
theorem extWord_of_isM {c : CoreId} (hm : isM c = true) : extWord c = 0x87 := by
  simp [extWord, hasExt, hm, isA_of_isM hm]

/-- `c.mgmt` of a privileged task: the privilege bit over the number of its M-core; 0 on a compute core (R316). -/
theorem mgmtWord_of_priv {s : State} (hp : s.me.priv = true) :
    mgmtWord s = if isM s.myCore then BitVec.ofNat 64 (2 ^ 16 + (s.myCore - 512)) else 0 := by
  simp [mgmtWord, hp]

/-! ## MTC (R143, R232, R316) -/

/-- MTC of a control register that is not read-only completes with the register written. -/
theorem exec_mtc_leads {f : Fields} {s u : State} {n : Nat} (h : s.issues .mtc f = true) (hn : (f.a ++ f.b).toNat = n)
    (hro : controlReadOnly n = false) (hw : writeControl s n (s.me.getX f.d) = u) : exec (.mtc f) s = completes s u f := by
  have hb : mtcBody f s = .ok u := by
    simp only [mtcBody, controlNumber, hn]
    rw [need_ok (by simp [hro]), act_bind_ok, hw]
    rfl
  exact run_ok h hb

/-- MTC of a read-only control register raises `privilege`. -/
theorem exec_mtc_readOnly {f : Fields} {s : State} (h : s.issues .mtc f = true) (hro : controlReadOnly (controlNumber f) = true) :
    exec (.mtc f) s = faults s s { code := .privilege } := by
  have hb : mtcBody f s = .fault s { code := .privilege } := by
    simp only [mtcBody]
    rw [need_no (by simp [hro]), act_bind_error]
    rfl
  exact run_fault h hb rfl (by decide)

/-- The registers that an M-core reads as 0 keep nothing that it writes there. -/
theorem writeControl_mCore {s : State} {n : Nat} (v : Word64) (hm : isM s.myCore = true) (hn : n = 0x00C ∨ n = 0x00F ∨ n = 0x011) :
    writeControl s n v = s := by
  rcases hn with rfl | rfl | rfl <;> exact if_pos hm

/-- A compute core's write of `c.weight` stores 1 for 0. -/
theorem writeControl_weight {s : State} (v : Word64) (hm : isM s.myCore = false) : writeControl s 0x00C v
    = s.setCore s.myCore { s.core s.myCore with weight := if v.setWidth 4 = 0#4 then 1 else v.setWidth 4 } :=
  if_neg (by simp [hm])

/-- A compute core's write of `c.apred` stores the value. -/
theorem writeControl_apred {s : State} (v : Word64) (hm : isM s.myCore = false) :
    writeControl s 0x00F v = s.setCore s.myCore { s.core s.myCore with apred := v } :=
  if_neg (by simp [hm])

/-- A compute core's write of `c.grant` stores the value. -/
theorem writeControl_grant {s : State} (v : Word64) (hm : isM s.myCore = false) :
    writeControl s 0x011 v = s.setCore s.myCore { s.core s.myCore with grant := v } :=
  if_neg (by simp [hm])

/-! ## The statement -/

/-- Settles O37: MFC and MTC at each number, and the refusals of R316. -/
theorem controlRegistersAreReadAndWritten : Obligations.ControlRegistersAreReadAndWritten := by
  refine ⟨?mfc, ?mtc, ?refused⟩
  case mfc =>
    intro f s n t c m p gives h
    have reads {k : Nat} {v : Word64} (hr : readControl s k = (v, s)) (hn : n = k) : gives v := exec_mfc_gives h hn hr
    refine ⟨reads rfl, reads rfl, reads rfl, reads rfl, reads rfl, reads rfl, reads rfl, reads rfl, reads rfl, reads rfl, reads rfl, reads rfl,
      ?cycle, reads rfl, reads rfl, ?extA, ?extS, ?extM, reads rfl, fun hp => ⟨reads rfl, reads rfl, reads rfl, reads rfl, ?mgmt⟩⟩
    case cycle =>
      intro hn
      have hread : readControl s (controlNumber f) = s.readCycle (dieOf s.myCore) := by
        rw [controlNumber, show (f.a ++ f.b).toNat = 0x00D from hn]
        rfl
      refine ⟨(s.readCycle (dieOf s.myCore)).1, Config.elapsed s.free, (s.readCycle (dieOf s.myCore)).2, ?_, rfl, die_readCycle .., rfl, rfl⟩
      rw [exec_mfc h, hread]
    case extA => exact fun hn hm ha => exec_mfc_gives h hn (congrArg (·, s) (extWord_of_isA hm ha))
    case extS => exact fun hn hm ha => exec_mfc_gives h hn (congrArg (·, s) (extWord_of_isS hm ha))
    case extM => exact fun hn hm => exec_mfc_gives h hn (congrArg (·, s) (extWord_of_isM hm))
    case mgmt => exact fun hn => exec_mfc_gives h hn (congrArg (·, s) (mgmtWord_of_priv hp))
  case mtc =>
    intro f s n t c v leads h
    have writes {k : Nat} {u : State} (hro : controlReadOnly k = false) (hw : writeControl s k v = u) (hn : n = k) : leads u :=
      exec_mtc_leads h hn hro hw
    refine ⟨writes rfl rfl, writes rfl rfl, writes rfl rfl, writes rfl rfl, writes rfl rfl, ?compute, ?mCore,
      fun _ => ⟨writes rfl rfl, writes rfl rfl⟩⟩
    case compute =>
      exact fun hm => ⟨writes rfl (writeControl_weight v hm), writes rfl (writeControl_apred v hm), writes rfl (writeControl_grant v hm)⟩
    case mCore =>
      intro hm hn
      have hro : controlReadOnly n = false := by rcases hn with hn | hn | hn <;> rw [hn] <;> rfl
      exact writes hro (writeControl_mCore v hm hn) rfl
  case refused =>
    intro f s n illegal denied
    refine ⟨fun hn => ⟨run_unknownControl _ rfl hn, run_unknownControl _ rfl hn⟩, fun hm hlo hhi hp =>
      ⟨run_supervisorControl _ rfl rfl hm hlo hhi hp, run_supervisorControl _ rfl rfl hm hlo hhi hp⟩, fun h hn => ?_⟩
    exact exec_mtc_readOnly h (List.contains_iff_mem.mpr hn)

end Sys2Proof.Machine
end

section
/-!
PROOFS. Links: flits, training, a port that goes down, and frames, case by case (R246 to R248), and the statement put together from them (O45).
-/

namespace Sys2Proof.Machine

/-! ## Flits and training (R246, R247) -/

/-- A good flit in sequence is delivered, and a negative acknowledgement in it asks for a replay. -/
theorem State.flitReceive_inSequence {s : State} {n seq ack : Nat} {nack : Bool} {bs : List Byte} (hup : (s.port n).up = true)
    (hbs : bs ≠ []) (hseq : BitVec.ofNat 12 seq = (s.port n).recvSeq) :
    s.flitReceive n seq ack true nack bs = s.setPort n { s.port n with
      recvSeq := (s.port n).recvSeq + 1, received := (s.port n).received ++ [bs]
      wanted := if nack then some (BitVec.ofNat 12 ack) else (s.port n).wanted } := by
  simp [State.flitReceive, hup, hbs, hseq]

/-- A good flit without a payload takes no number (log entry 41). -/
theorem State.flitReceive_noPayload {s : State} {n seq ack : Nat} {nack : Bool} (hup : (s.port n).up = true) :
    s.flitReceive n seq ack true nack [] = s.setPort n { s.port n with
      wanted := if nack then some (BitVec.ofNat 12 ack) else (s.port n).wanted } := by
  simp [State.flitReceive, hup]

/-- A flit that fails its CRC, or has a payload and is out of sequence, is dropped and acknowledged negatively. -/
theorem State.flitReceive_dropped {s : State} {n seq ack : Nat} {good nack : Bool} {bs : List Byte} (hup : (s.port n).up = true)
    (hbad : good = false ∨ bs ≠ [] ∧ BitVec.ofNat 12 seq ≠ (s.port n).recvSeq) :
    s.flitReceive n seq ack good nack bs = s.setPort n { s.port n with wire := (s.port n).wire ++ [(s.port n).nackFlit] } := by
  rcases hbad with hcrc | ⟨hbs, hseq⟩
  · simp [State.flitReceive, hup, hcrc]
  · simp [State.flitReceive, hup, hbs, hseq]

/-- A replay that is asked for sends the kept flits again in order, from the number asked for. -/
theorem State.flitReplay_wanted {s : State} {n seq : Nat} (hup : (s.port n).up = true)
    (hw : (s.port n).wanted = some (BitVec.ofNat 12 seq)) :
    s.flitReplay n seq = s.setPort n { s.port n with
      wanted := none
      wire := (s.port n).wire ++ ((s.port n).replay.dropWhile (fun e => e.1 != BitVec.ofNat 12 seq)).map (fun e =>
        { version := (s.port n).version, kind := Config.flitKind true, seq := e.1, ack := (s.port n).recvSeq, nack := false
          payload := e.2 }) } := by
  simp [State.flitReplay, hup, hw]

/-- Training with a partner that speaks version 1 brings the port up. -/
theorem State.linkTraining_agreed {s : State} {n low high : Nat} (hn : n < 18) (hlow : low ≤ 1) (hhigh : 1 ≤ high) :
    s.linkTraining n (low, high) none = s.setPort n { Port.initial with up := true, version := 1 } := by
  rw [State.linkTraining, if_neg (Nat.not_le.mpr hn), if_pos (by simp [hlow, hhigh])]

/-- When the supervisor assigns a number over that port, the package takes it and is in the domain (R9, log entry 41). -/
theorem State.linkTraining_numbered {s : State} {n low high : Nat} (k : BitVec 6) (hn : n < 18) (hlow : low ≤ 1) (hhigh : 1 ≤ high) :
    let trained := s.setPort n { Port.initial with up := true, version := 1 }
    s.linkTraining n (low, high) (some k) = { trained with plat := { trained.plat with package := k, inDomain := true } } := by
  rw [State.linkTraining, if_neg (Nat.not_le.mpr hn), if_pos (by simp [hlow, hhigh])]

/-- Whatever the almanac holds, the ports are the same. It is stated for every list, since comparing the almanac's own value with the old
one by computation walks through the 4,096 entries of its ring. -/
theorem State.port_withAlmanac (s : State) (log : List Almanac) (m : Nat) :
    ({ s with plat := { s.plat with almanac := log } } : State).port m = s.port m := rfl

/-- An entry of the almanac leaves the ports alone. -/
@[simp] theorem State.port_almanacAdd (s : State) (e : Almanac) (m : Nat) : (s.almanacAdd e).port m = s.port m :=
  State.port_withAlmanac ..

/-- An entry with the temperature of a die leaves the ports alone. -/
@[simp] theorem State.port_almanacRead (s : State) (step unit outcome m : Nat) : (s.almanacRead step unit outcome).port m = s.port m :=
  State.port_almanacAdd ..

/-- Training with a partner that does not speak version 1 leaves the port down. -/
theorem State.linkTraining_refused {s : State} {n low high : Nat} (number : Option (BitVec 6)) (hn : n < 18)
    (hno : 1 < low ∨ high < 1) : ((s.linkTraining n (low, high) number).port n).up = false := by
  have hrange : ¬ (decide (low ≤ 1) && decide (1 ≤ high)) = true := by simp; omega
  rw [State.linkTraining, if_neg (Nat.not_le.mpr hn), if_neg hrange, State.port_almanacRead, State.port_setPort]

/-! ## Requests over a port (R247) -/

/-- Sending a flit leaves every port up that was, and down that was. -/
@[simp] theorem State.up_sendFlit (s : State) (n m : Nat) (bs : List Byte) : ((s.sendFlit n bs).port m).up = (s.port m).up := by
  by_cases h : m = n
  · subst h
    simp [State.sendFlit]
  · simp [State.sendFlit, h]

/-- A request toward another package leaves every port up that was, and down that was. -/
@[simp] theorem State.up_requestOver (s : State) (io pkg m : Nat) : ((s.requestOver io pkg).port m).up = (s.port m).up := by
  unfold State.requestOver
  split
  · rfl
  · exact State.up_sendFlit ..

/-- A request toward another package leaves the tasks alone. -/
@[simp] theorem State.task_requestOver (s : State) (io pkg : Nat) (k : TaskKey) : (s.requestOver io pkg).task k = s.task k := by
  unfold State.requestOver
  split <;> rfl

/-- A request whose I/O die has no other route ends in `region`; the ports are as they were. -/
theorem State.retryRequest_unrouted {s : State} {k : TaskKey} {i : Nat} {v : Via} (h : s.viaOver v.io v.pkg = none) :
    ((s.retryRequest k i v).task k).pend = (s.task k).pend.modify i (fun p => { p with fault := some { code := .region } })
      ∧ ∀ m, ((s.retryRequest k i v).port m).up = (s.port m).up := by
  simp only [State.retryRequest, h, State.task_setTask, true_and]
  exact fun _ => rfl

/-- A request whose I/O die has a route goes out on its port; which ports are up is as it was. -/
theorem State.retryRequest_routed {s : State} {k : TaskKey} {i : Nat} {v w : Via} (h : s.viaOver v.io v.pkg = some w) :
    ((s.retryRequest k i v).task k).pend = (s.task k).pend.modify i (fun p => { p with peer := some w })
      ∧ ∀ m, ((s.retryRequest k i v).port m).up = (s.port m).up := by
  simp only [State.retryRequest, h, State.task_requestOver, State.up_requestOver, State.task_setTask, true_and]
  exact fun _ => rfl

/-- When a port goes down under the one outstanding request, that request is retried with the port down. -/
theorem State.portDown_single {s : State} {n : Nat} {k : TaskKey} {t : Task} {q : Pend} {v : Via} (ht : s.tasks = [(k, t)])
    (hq : t.pend = [q]) (hv : q.peer = some v) (hn : v.port = n) :
    s.portDown n = (s.setPort n { s.port n with up := false }).retryRequest k 0 v := by
  simp [State.portDown, ht, hq, hv, hn]

/-- The only task of a state is found under its key. -/
theorem State.task_of_tasks_eq {s : State} {k : TaskKey} {t : Task} (ht : s.tasks = [(k, t)]) : s.task k = t := by
  simp [State.task, ht, FMap.find]

/-! ## Frames (R248) -/

/-- A frame that is no PTP event message is recorded without a time. -/
theorem State.ethernetFrame_plain {s : State} {n : Nat} (sent : Bool) (bs : List Byte) (hn : n < 4) : s.ethernetFrame n sent false bs
    = { s with plat := { s.plat with frames := s.plat.frames ++ [⟨n, sent, bs, none⟩] } } := by
  simp [State.ethernetFrame, hn]

/-- A PTP event message is recorded with the 1588 time read at the PHY, which the package keeps (log entry 7). -/
theorem State.ethernetFrame_stamped {s : State} {n : Nat} (sent : Bool) (bs : List Byte) (hn : n < 4) : s.ethernetFrame n sent true bs
    = { s.readTime.2 with plat := { s.readTime.2.plat with frames := s.readTime.2.plat.frames ++ [⟨n, sent, bs, some s.readTime.1⟩] } } := by
  simp [State.ethernetFrame, hn]

/-! ## The statement -/

/-- Settles O45: training, flits, replay, a port that goes down, and frames, each from its lemma. -/
theorem linksDeliverInOrder : Obligations.LinksDeliverInOrder := by
  intro s n p leads bad
  refine ⟨?trained, ?numbered, ?untrained, ?delivered, ?noPayload, ?outOfSequence, ?badCrc, ?replayed, ?down, ?frame, ?stamped⟩
  case trained => exact fun low high hn hl hh => congrArg Host.Outcome.next (State.linkTraining_agreed hn hl hh)
  case numbered =>
    intro low high k hn hl hh
    refine ⟨_, congrArg Host.Outcome.next (State.linkTraining_numbered k hn hl hh), ?_, rfl, rfl⟩
    exact congrArg Port.up (State.port_setPort s n _)
  case untrained => exact fun low high k hn hno => ⟨_, rfl, State.linkTraining_refused k hn hno⟩
  case delivered => exact fun seq ack nack bs hup hbs hseq => congrArg Host.Outcome.next (State.flitReceive_inSequence hup hbs hseq)
  case noPayload => exact fun seq ack nack hup => congrArg Host.Outcome.next (State.flitReceive_noPayload hup)
  case outOfSequence =>
    exact fun seq ack nack bs hup hbs hseq => congrArg Host.Outcome.next (State.flitReceive_dropped hup (.inr ⟨hbs, hseq⟩))
  case badCrc => exact fun seq ack nack bs hup => congrArg Host.Outcome.next (State.flitReceive_dropped hup (.inl rfl))
  case replayed => exact fun seq hup hw => congrArg Host.Outcome.next (State.flitReplay_wanted hup hw)
  case down =>
    intro k t q v ht hq hv hn down
    have hexec : exec (.portDown n) s = .next ((s.setPort n { p with up := false }).retryRequest k 0 v) :=
      congrArg Host.Outcome.next (State.portDown_single ht hq hv hn)
    have hpend : ((s.setPort n { p with up := false }).task k).pend = [q] := by
      rw [State.setPort_task, State.task_of_tasks_eq ht, hq]
    have hdown : ((s.setPort n { p with up := false }).port n).up = false := congrArg Port.up (State.port_setPort ..)
    refine ⟨fun hnone => ?_, fun w hsome => ?_⟩
    · obtain ⟨hfault, hports⟩ := State.retryRequest_unrouted (k := k) (i := 0) hnone
      exact ⟨_, hexec, (hports n).trans hdown, by rw [hfault, hpend]; rfl⟩
    · obtain ⟨hpeer, hports⟩ := State.retryRequest_routed (k := k) (i := 0) hsome
      exact ⟨_, hexec, (hports n).trans hdown, by rw [hpeer, hpend]; rfl⟩
  case frame => exact fun sent bs hn => ⟨_, congrArg Host.Outcome.next (State.ethernetFrame_plain sent bs hn), rfl⟩
  case stamped =>
    exact fun sent bs hn => ⟨_, s.readTime.1, congrArg Host.Outcome.next (State.ethernetFrame_stamped sent bs hn), rfl, rfl⟩

end Sys2Proof.Machine
end

section
/-!
PROOFS. What a new object's store leaves in memory and in the store buffer (R24, R29, R205, R271), what ALLOC and the instructions on object
registers come to (R327, R329, R331), and the statement put together from that (O7).
-/

open Sys2Proof.Claims

namespace Sys2Proof.Machine

/-! ## Memory that was cleared and then written

No canonical form is asked for: what was cleared lists no address of the range. -/

/-- Where the listed addresses are kept or dropped by their address, a kept one reads as before and a dropped one reads 0. -/
theorem Memory.read_filter (m : Memory) (p : Nat → Bool) (x : Nat) :
    Memory.read (m.filter (fun c => p c.1)) x = if p x then m.read x else 0 := by
  induction m with
  | nil => simp [Memory.read]
  | cons c m ih =>
    obtain ⟨y, v⟩ := c
    by_cases hxy : x = y
    · subst hxy
      cases hp : p x <;> simp_all [Memory.read]
    · have hne : (x == y) = false := by simpa using hxy
      cases hp : p y <;> simpa [hp, Memory.read, List.lookup, hne] using ih

/-- A byte written where nothing is listed reads what was written. -/
theorem Memory.read_write_unlisted {m : Memory} {a : Nat} (h : ∀ c ∈ m, c.1 ≠ a) (v : Byte) : (m.write a v).read a = v := by
  induction m with
  | nil => by_cases hv : v = 0#8 <;> simp [Memory.write, Memory.read, hv]
  | cons c m ih =>
    obtain ⟨y, w⟩ := c
    obtain ⟨hy, hm⟩ := List.forall_mem_cons.mp h
    have hay : a ≠ y := fun e => hy e.symm
    have hne : (a == y) = false := by simpa using hay
    have hzero : m.lookup a = none := List.lookup_eq_none_iff.mpr fun c hc => by simpa using fun e => hm c hc e.symm
    have htail := ih hm
    by_cases hlt : a < y
    · by_cases hv : v = 0#8 <;> simp [Memory.write, Memory.read, List.lookup, hlt, hv, hne, hzero]
    · simpa [Memory.write, Memory.read, List.lookup, hlt, hay, hne] using htail

/-- Bytes written where nothing is listed read what was written. -/
theorem Memory.read_writeN_unlisted {m : Memory} {a : Nat} {bs : List Byte} (h : ∀ c ∈ m, c.1 < a ∨ a + bs.length ≤ c.1) {i : Nat}
    (hi : i < bs.length) : (m.writeN a bs).read (a + i) = bs[i] := by
  induction bs generalizing m a i with
  | nil => exact absurd hi (Nat.not_lt_zero i)
  | cons b bs ih =>
    simp only [List.length_cons] at h hi
    cases i with
    | zero =>
      rw [Memory.writeN, Memory.read_writeN_outside _ _ _ (by omega)]
      exact Memory.read_write_unlisted (fun c hc => by have := h c hc; omega) b
    | succ i =>
      have hrest : ∀ c ∈ m.write a b, c.1 < a + 1 ∨ a + 1 + bs.length ≤ c.1 := by
        intro c hc
        rcases Memory.mem_write hc with hc | ⟨rfl, -⟩
        · have := h c hc; omega
        · exact .inl (Nat.lt_succ_self a)
      rw [Memory.writeN, show a + (i + 1) = a + 1 + i by omega, ih hrest (by omega), List.getElem_cons_succ]

/-- A range that is cleared and whose first bytes are written reads those bytes and then zeroes; every other byte reads as before. -/
theorem Memory.read_clear_writeN (m : Memory) {a n : Nat} {bs : List Byte} (hn : bs.length ≤ n) (x : Nat) :
    (Memory.writeN (m.filter (fun c => c.1 < a || a + n ≤ c.1)) a bs).read x
      = if a ≤ x ∧ x < a + n then bs[x - a]?.getD 0 else m.read x := by
  have hcleared := Memory.read_filter m (fun y => y < a || a + n ≤ y) x
  by_cases hin : a ≤ x ∧ x < a + bs.length
  · have hunlisted : ∀ c ∈ m.filter (fun c => c.1 < a || a + n ≤ c.1), c.1 < a ∨ a + bs.length ≤ c.1 := by
      intro c hc
      have hc' : c.1 < a ∨ a + n ≤ c.1 := by simpa using (List.mem_filter.mp hc).2
      omega
    have hread := Memory.read_writeN_unlisted hunlisted (i := x - a) (by omega)
    rw [show a + (x - a) = x by omega] at hread
    rw [hread, if_pos ⟨hin.1, by omega⟩, List.getElem?_eq_getElem (by omega), Option.getD_some]
  · rw [Memory.read_writeN_outside _ _ _ (by omega), hcleared]
    by_cases hrange : a ≤ x ∧ x < a + n
    · rw [if_neg (by simp; omega), if_pos hrange, List.getElem?_eq_none (by omega), Option.getD_none]
    · rw [if_pos (by simp; omega), if_neg hrange]

/-! ## A store enters the buffer (R205, R207, R233) -/

/-- A store of the acting task as it stands in the buffer. -/
def State.entry (s : State) (st : Store) (posted : Bool) (log : Nat) : Store :=
  { st with
    home := homeOf st.addr, posted := posted, pc := s.me.pc, seq := s.me.seq, pkgBar := s.me.pkgBar, sysBar := s.me.sysBar, log := log }

/-- The state with a store put last into the acting task's buffer. -/
def State.buffer (s : State) (x : Store) : State := s.setMe { s.me with sb := s.me.sb ++ [x] }

/-- Its buffer. -/
theorem State.sb_buffer (s : State) (x : Store) : ((s.buffer x).task s.cur).sb = s.me.sb ++ [x] :=
  congrArg Task.sb (State.task_cur_setMe ..)

/-- A store to anything but the core's own pad leaves memory alone and stands last in the task's buffer. -/
theorem State.storeOf_elsewhere {s : State} {st : Store} (h : padOf st.ptr ≠ some (.core s.myCore)) :
    (s.storeOf st).mem = s.mem
      ∧ ∃ posted log, (s.storeOf st).task s.cur = (s.buffer (s.entry st posted log)).task s.cur := by
  cases hposted : decide (homeOf st.addr < 4) && homeOf st.addr != dieOf s.myCore with
  | true =>
    refine ⟨?_, true, s.order, ?_⟩ <;> simp only [State.storeOf, hposted, if_true] <;> rfl
  | false =>
    have hpad : ¬ (padOf st.ptr == some (.core s.myCore)) = true := by simpa using h
    have he : s.storeOf st = s.buffer (s.entry st false 0) := by
      simp only [State.storeOf, hposted, Bool.false_eq_true, if_false]
      exact if_neg hpad
    exact ⟨by rw [he]; rfl, false, 0, by rw [he]⟩

/-- A store to the core's own pad is drained to that home at once. -/
theorem State.storeOf_ownPad {s : State} {st : Store} (h : padOf st.ptr = some (.core s.myCore)) (hhome : homeOf st.addr = dieOf s.myCore) :
    s.storeOf st = (s.buffer (s.entry st false 0)).drainHome s.cur (homeOf st.addr) := by
  have hposted : (decide (homeOf st.addr < 4) && homeOf st.addr != dieOf s.myCore) = false := by simp [hhome]
  have hpad : (padOf st.ptr == some (.core s.myCore)) = true := by simpa using h
  simp only [State.storeOf, hposted, Bool.false_eq_true, if_false]
  exact if_pos hpad

/-! ## Loads from the buffer (R205) -/

/-- A byte that the newest buffered store covers is that store's. -/
theorem Task.forwarded_newest {t : Task} {xs : List Store} {x : Store} {upTo a : Nat} (hsb : t.sb = xs ++ [x]) (hseq : x.seq ≤ upTo)
    (hlo : x.addr ≤ a) (hhi : a < x.addr + x.size) : t.forwarded upTo a = some (x.bytes[a - x.addr]?.getD 0) := by
  simp [Task.forwarded, hsb, hseq, hlo, hhi]

/-- A list read past its end is zero there. -/
theorem map_range_getD (bs : List Byte) (k : Nat) :
    (List.range (bs.length + k)).map (fun i => bs[i]?.getD 0) = bs ++ List.replicate k 0 := by
  refine List.ext_getElem (by simp) fun i h₁ h₂ => ?_
  by_cases hi : i < bs.length
  · simp [List.getElem_append_left hi, hi]
  · simp [List.getElem_append_right (Nat.le_of_not_lt hi), Nat.le_of_not_lt hi]

/-- The task's own load of what its newest buffered store covers: the store's bytes, and the zeroes that follow them. -/
theorem State.loadBytes_newest {s : State} {k : TaskKey} {xs : List Store} {x : Store} (hsb : (s.task k).sb = xs ++ [x])
    (hseq : x.seq ≤ (s.task k).seq) : s.loadBytes k x.addr x.size = x.bytes ++ List.replicate x.zero 0 := by
  have hbuffered : (s.task k).sb.isEmpty = false := by simp [hsb]
  rw [← map_range_getD]
  simp only [State.loadBytes, State.loadAt, hbuffered]
  refine List.map_congr_left fun i hi => ?_
  have hi : i < x.size := List.mem_range.mp hi
  rw [Task.forwarded_newest hsb hseq (by omega) (by omega), Nat.add_sub_cancel_left, Option.getD_some]

/-! ## A core's own pad (R5, R19, R405) -/

/-- A pointer into a core's pad has tag 1. -/
theorem tagOf_of_corePad {q : Word64} {c : CoreId} (h : padOf q = some (.core c)) : tagOf q = 1 := by
  unfold padOf at h
  split at h <;> simp_all

/-- The address of a header in a core's pad is the pointer itself. -/
theorem State.place_corePad {s : State} {p last a : Nat} {q : Word64} {c : CoreId} (h : padOf q = some (.core c))
    (hp : s.place p q last = .ok a) : a = q.toNat := by
  simp only [State.place, tagOf_of_corePad h] at hp
  split at hp
  · exact (Except.ok.inj hp).symm
  · cases hp

/-- A pad address lies below the stacks. -/
theorem toNat_corePad_lt {q : Word64} {c : CoreId} (h : padOf q = some (.core c)) : q.toNat < 2 ^ 62 := by
  have htag : q.toNat / 2 ^ 60 = 1 := tagOf_of_corePad h
  omega

/-- The home of a core's pad is the core's die. -/
theorem homeOf_corePad {q : Word64} {c : CoreId} (h : padOf q = some (.core c)) : homeOf q.toNat = dieOf c := by
  have hc : @Eq Nat c <| bits q.toNat 58 2 * 128 + bits q.toNat 54 4 * 8 + bits q.toNat 51 3 := by
    simpa [padOf, tagOf_of_corePad h] using h.symm
  have hdie : bits q.toNat 58 2 < 4 := Nat.mod_lt _ (by decide)
  have hcluster : bits q.toNat 54 4 < 16 := Nat.mod_lt _ (by decide)
  have hcore : bits q.toNat 51 3 < 8 := Nat.mod_lt _ (by decide)
  have hcompute : @LT.lt Nat _ c 512 := by omega
  have hdiv : @Eq Nat (c / 128) (bits q.toNat 58 2) := by omega
  rw [homeOf, if_pos (toNat_corePad_lt h), dieOf, if_pos hcompute]
  exact hdiv.symm

/-- No channel stalls an access whose first byte is in a pad. -/
theorem State.reachObj_pad (s : State) {a lo : Nat} (n : Nat) (h : a + lo < 2 ^ 62) : s.reachObj a lo n = .ok (a + lo) := by
  rw [State.reachObj, if_neg (by simp; omega), State.reachAt, if_neg (by simp [isHost]; omega), if_neg (by simp; omega)]

/-! ## A store to the own pad is performed (R205, R271) -/

/-- The only store of a buffer, to the home that is drained and stalled by no channel, is performed. -/
theorem State.drainHome_only {s : State} {k : TaskKey} {x : Store} (hsb : (s.task k).sb = [x]) (hstall : s.storeStalls x = false) :
    s.drainHome k x.home = (s.setTask k { s.task k with sb := [] }).performStore k x := by
  have hneeded : neededStores (fun st => st.home == x.home) [x] = [x] := by simp [neededStores]
  have hstall' : (s.setTask k { s.task k with sb := [] }).storeStalls x = false := hstall
  simp [State.drainHome, State.drainSel, hsb, hneeded, State.drainStore, hstall']

/-- A store that is not posted and begins at its object's header is performed whatever the sealed flag: memory takes its zeroes and its
bytes. -/
theorem State.performStore_mem_header {s : State} {k : TaskKey} {x : Store} (hposted : x.posted = false) (haddr : x.hdr = x.addr)
    (hzero : x.zero ≠ 0) :
    (s.performStore k x).mem = Memory.writeN (s.mem.filter (fun c => c.1 < x.addr || x.addr + x.size ≤ c.1)) x.addr x.bytes := by
  have hbelow : ¬ x.addr + 16 ≤ x.addr := by omega
  simp [State.performStore, hposted, haddr, hbelow, State.pokeStore, hzero, State.clear]

/-- A store of a header and the zeroes behind it, to the core's own pad and with nothing before it, stands in memory at once. -/
theorem State.storeOf_ownPad_mem {s : State} {st : Store} (h : padOf st.ptr = some (.core s.myCore)) (hsb : s.me.sb = [])
    (haddr : st.addr = st.ptr.toNat) (hhdr : st.hdr = st.addr) (hzero : st.zero ≠ 0) :
    (s.storeOf st).mem = Memory.writeN (s.mem.filter (fun c => c.1 < st.addr || st.addr + st.size ≤ c.1)) st.addr st.bytes := by
  have hlow : st.addr + (st.addr - st.addr) < 2 ^ 62 := by have := toNat_corePad_lt h; omega
  have hbuffer : ((s.buffer (s.entry st false 0)).task s.cur).sb = [s.entry st false 0] := by rw [State.sb_buffer, hsb, List.nil_append]
  have hstall : (s.buffer (s.entry st false 0)).storeStalls (s.entry st false 0) = false := by
    simp only [State.storeStalls, State.entry, hhdr, State.reachObj_pad _ _ hlow]
  have hdrain := State.drainHome_only hbuffer hstall
  rw [State.storeOf_ownPad h (by rw [haddr]; exact homeOf_corePad h)]
  exact (congrArg State.mem hdrain).trans (State.performStore_mem_header rfl hhdr hzero)

/-! ## A new object (R24, R29, R271) -/

/-- The one store that makes an object, as ALLOC gives it to the buffer. -/
def objectStore (a n : Nat) (q h : Word64) : Store :=
  { addr := a, hdr := a, bytes := leBytes 8 h.toNat, zero := 8 + n, home := 0, posted := false, ptr := q, pc := 0 }

/-- The store covers the header and the payload. -/
theorem objectStore_size (a n : Nat) (q h : Word64) : (objectStore a n q h).size = 16 + n := by
  simp only [Store.size, objectStore, leBytes, List.length_map, List.length_range]
  omega

/-- Making an object is its store, after the words of its space have been forgotten and at the task's next place. -/
theorem State.initObject_eq (s : State) (a n : Nat) (q h : Word64) :
    s.initObject a n q h = (s.forget a (16 + n)).stampSeq.storeOf (objectStore a n q h) := rfl

/-- The words of the space and the task's place leave the task's buffer alone. -/
theorem State.sb_forget_stampSeq (s : State) (a n : Nat) : ((s.forget a n).stampSeq.me).sb = s.me.sb :=
  (congrArg Task.sb (State.me_setMe ..)).trans rfl

/-- Outside the core's own pad, making an object leaves memory alone, and the task sees the header and the zero payload. -/
theorem State.initObject_elsewhere {s : State} {a n : Nat} {q h : Word64} (hq : padOf q ≠ some (.core s.myCore)) :
    (s.initObject a n q h).mem = s.mem
      ∧ (s.initObject a n q h).loadBytes s.cur a (16 + n) = leBytes 8 h.toNat ++ List.replicate (8 + n) 0 := by
  rw [State.initObject_eq]
  obtain ⟨hmem, posted, log, htask⟩ :=
    State.storeOf_elsewhere (s := (s.forget a (16 + n)).stampSeq) (st := objectStore a n q h) hq
  refine ⟨hmem, ?_⟩
  have hbuffer := (congrArg Task.sb htask).trans (State.sb_buffer ..)
  have hseq := Nat.le_of_eq ((congrArg Task.seq htask).trans (congrArg Task.seq (State.task_cur_setMe ..))).symm
  have hload := State.loadBytes_newest hbuffer hseq
  change State.loadBytes _ s.cur a (objectStore a n q h).size = _ at hload
  rw [objectStore_size] at hload
  exact hload

/-- In the core's own pad, with nothing buffered, the header and the zero payload of a new object stand in memory at once. -/
theorem State.read_initObject_ownPad {s : State} {p a n : Nat} {q h : Word64} (hq : padOf q = some (.core s.myCore))
    (hp : s.place p q (16 + n) = .ok a) (hsb : s.me.sb = []) (x : Nat) :
    (s.initObject a n q h).mem.read x
      = if a ≤ x ∧ x < a + (16 + n) then (leBytes 8 h.toNat)[x - a]?.getD 0 else s.mem.read x := by
  have hmem := State.storeOf_ownPad_mem (s := (s.forget a (16 + n)).stampSeq) (st := objectStore a n q h) hq
    ((State.sb_forget_stampSeq ..).trans hsb) (State.place_corePad hq hp) rfl (by simp [objectStore])
  rw [State.initObject_eq, hmem, objectStore_size]
  exact Memory.read_clear_writeN s.mem (by simp [objectStore, leBytes]; omega) x

/-! ## ALLOC (R271) -/

/-- An ALLOC that its checks let through and that finds space completes with the object made and its register written. -/
theorem allocBody_makes {f : Fields} {s s' : State} {q : Word64} {a : Nat} (hkind : f.x.toNat / 8 % 16 < 8)
    (hpriv : f.x.toNat / 8 % 16 = 7 → s.me.priv = true) (hstaged : f.x.getLsbD 7 = true → f.x.toNat / 8 % 16 = 0 ∨ f.x.toNat / 8 % 16 = 4)
    (hsync : f.x.toNat / 8 % 16 = 3 → f.x.toNat % 8 = 0 ∨ f.x.toNat % 8 = 2 ∨ f.x.toNat % 8 = 3)
    (hwide : f.x.getLsbD 8 = true → f.x.toNat % 8 = 4) (hm : isM s.myCore = true → f.x.toNat % 8 ≠ 1 ∧ f.x.toNat % 8 ≠ 2)
    (hsize : (s.me.getX f.a).toNat ≠ 0) (hmax : (s.me.getX f.a).toNat ≤ 0xFFFFFFF0)
    (hplace : placeObject s f (f.x.toNat % 8) (f.x.toNat / 8 % 16) (16 + ((s.me.getX f.a).toNat + 15) / 16 * 16) = .ok (s', q))
    (hp : s'.place (s'.tablePart s'.me) q (16 + ((s.me.getX f.a).toNat + 15) / 16 * 16) = .ok a) :
    let n := ((s.me.getX f.a).toNat + 15) / 16 * 16
    allocBody f s = .ok ((s'.initObject a n q (newHeader n (f.x.toNat / 8 % 16) (f.x.getLsbD 7) (f.x.getLsbD 8))).setO f.d
      (oMake false false 0 n q)) := by
  have kindOk : (decide (f.x.toNat / 8 % 16 < 8) && (f.x.toNat / 8 % 16 != 7 || s.me.priv)) = true := by grind
  have stagedOk : (!f.x.getLsbD 7 || f.x.toNat / 8 % 16 == 0 || f.x.toNat / 8 % 16 == 4) = true := by grind
  have syncOk : (f.x.toNat / 8 % 16 != 3 || f.x.toNat % 8 == 0 || f.x.toNat % 8 == 2 || f.x.toNat % 8 == 3) = true := by grind
  have wideOk : (!f.x.getLsbD 8 || f.x.toNat % 8 == 4) = true := by grind
  have coreOk : (!(isM s.myCore && (f.x.toNat % 8 == 1 || f.x.toNat % 8 == 2))) = true := by grind
  have sizeOk : ((s.me.getX f.a).toNat != 0 && decide ((s.me.getX f.a).toNat ≤ 0xFFFFFFF0)) = true := by grind
  intro n
  simp only [allocBody, need_ok kindOk, need_ok stagedOk, need_ok syncOk, need_ok wideOk, need_ok coreOk, need_ok sizeOk, act_bind_ok, hplace, hp]
  rfl

/-! ## The instructions on object registers (R327, R329, R331) -/

/-- The length of an o register as a 64-bit value. -/
theorem ofNat_oLen (r : BitVec 128) : BitVec.ofNat 64 (oLen r) = (r.extractLsb' 64 32).setWidth 64 := by
  apply BitVec.eq_of_toNat_eq
  simp [oLen]

/-- A pointer that is no bad one passes its check. -/
theorem checkPtr_ok {s : State} {r : BitVec 128} (h : badPtr (oCanon r) = false) : checkPtr s r = .ok () := need_ok (by rw [h]; rfl)

/-- OVIEW of a view that starts at a multiple of 16 and lies in the register's length narrows it. -/
theorem oviewBody_narrows {f : Fields} {s : State} (hp : badPtr (oCanon (s.me.getO f.a)) = false) (halign : (s.me.getX f.b).toNat % 16 = 0)
    (hstart : (s.me.getX f.b).toNat < oLen (s.me.getO f.a)) (hpos : 0 < (s.me.getX f.c).toNat)
    (hend : (s.me.getX f.b).toNat + (s.me.getX f.c).toNat ≤ oLen (s.me.getO f.a)) :
    oviewBody f s = .ok (s.setO f.d (oMake (oTouched (s.me.getO f.a)) true (oView (s.me.getO f.a) + (s.me.getX f.b).toNat)
      (s.me.getX f.c).toNat (oCanon (s.me.getO f.a)))) := by
  have hne : s.me.getX f.c ≠ 0 := fun h => by simp [h] at hpos
  have inside : (decide ((s.me.getX f.b).toNat < oLen (s.me.getO f.a)) && s.me.getX f.c != 0
      && decide ((s.me.getX f.c).toNat ≤ oLen (s.me.getO f.a) - (s.me.getX f.b).toNat)) = true := by
    simp only [Bool.and_eq_true, decide_eq_true_eq, bne_iff_ne]
    exact ⟨⟨hstart, hne⟩, by omega⟩
  simp only [oviewBody, checkPtr_ok hp, need_ok (beq_iff_eq.mpr halign), need_ok inside, act_bind_ok]
  rfl

section
variable {f : Fields} {s : State}

/-- ODROP has no effect on an untouched register. -/
theorem odropBody_untouched (ht : oTouched (s.me.getO f.a) = false) : odropBody f s = .ok s := by
  simp only [odropBody, ht, Bool.false_eq_true, if_false]

/-- ODROP of a touched register drops the core's copy. -/
theorem odropBody_copy {e : Copy} (ht : oTouched (s.me.getO f.a) = true) (he : s.copyOf s.myCore (oCanon (s.me.getO f.a)) = some e) :
    odropBody f s = .ok (s.dropCopy s.myCore e) := by
  simp only [odropBody, ht, if_true, he]

/-- ODROP of a touched register whose object has no copy clears the touched bits. -/
theorem odropBody_noCopy (ht : oTouched (s.me.getO f.a) = true) (he : s.copyOf s.myCore (oCanon (s.me.getO f.a)) = none) :
    odropBody f s = .ok (s.untouch s.myCore (oCanon (s.me.getO f.a))) := by
  simp only [odropBody, ht, if_true, he]

end

/-! ## The statement -/

/-- Settles O7: ALLOC by its checks and the one store that it makes, and each instruction on object registers by its result. -/
theorem allocAndObjectRegisters : Obligations.AllocAndObjectRegisters := by
  refine ⟨?alloc, ?registers⟩
  case alloc =>
    intro f s s' q a level kind staged wide size n made t hi hkind hpriv hstaged hsync hwide hm hsize hmax hplace hp
    refine ⟨?completes, ?elsewhere, ?ownPad⟩
    case completes => exact run_ok hi (allocBody_makes hkind hpriv hstaged hsync hwide hm hsize hmax hplace hp)
    case elsewhere => exact fun hq => State.initObject_elsewhere hq
    case ownPad => exact fun hq hsb => State.read_initObject_ownPad hq hp hsb
  case registers =>
    intro f s r b c
    refine ⟨?olen, ?omov, ?oeq, ?oview, ?untouched, ?copy, ?noCopy⟩
    case olen => exact fun hi => run_ok hi (by rw [ofNat_oLen])
    case omov => exact fun hi => run_ok hi rfl
    case oeq => exact fun hi => run_ok hi (by simp only [beq_iff_eq]; rfl)
    case oview => exact fun hi hbad halign hstart hpos hend => run_ok hi (oviewBody_narrows hbad halign hstart hpos hend)
    case untouched => exact fun hi ht => run_ok hi (odropBody_untouched ht)
    case copy => exact fun e hi ht he => run_ok hi (odropBody_copy ht he)
    case noCopy => exact fun hi ht he => run_ok hi (odropBody_noCopy ht he)

end Sys2Proof.Machine
end

section
/-!
PROOFS. Sync words: what each full/empty request comes to (R38, R211, R295), the retry of the parked ones (R296), SIGDECL (R346), and the
statement put together from that (O10).
-/

open Sys2Proof.Claims

namespace Sys2Proof.Machine

/-! ## A request at its word (R295) -/

section
variable {f : Fields} {s s' : State} {w : Nat} {wt : Wait}

/-- FLD of a full word defers its value. -/
theorem feRequest_fld_full (hw : feWord .fld f s = .ok (w, wt)) (hfull : s.isFull w = true) :
    feRequest .fld f s = .ok ((s.fixAt w 8).deferX f.d (s.peekWord w)) := by
  simp only [feRequest, hw, act_bind_ok]
  rw [needOr_ok hfull]; rfl

/-- FLD of an empty word parks. -/
theorem feRequest_fld_empty (hw : feWord .fld f s = .ok (w, wt)) (hempty : s.isFull w = false) : feRequest .fld f s = .park s wt := by
  simp only [feRequest, hw, act_bind_ok]
  rw [needOr_no hempty]; rfl

/-- FTAKE of a full word empties it and defers its value, after the task's earlier accesses to that home (log entry 28). -/
theorem feRequest_ftake_full (hw : feWord .ftake f s = .ok (w, wt)) (hfull : s.isFull w = true) (hr : releasedHome s (homeOf w) = .ok s') :
    feRequest .ftake f s = .ok ((s'.emptyWord w).deferX f.d (s'.peekWord w)) := by
  simp only [feRequest, hw, act_bind_ok]
  rw [needOr_ok hfull, act_bind_ok, hr]; rfl

/-- FTAKE of an empty word parks. -/
theorem feRequest_ftake_empty (hw : feWord .ftake f s = .ok (w, wt)) (hempty : s.isFull w = false) : feRequest .ftake f s = .park s wt := by
  simp only [feRequest, hw, act_bind_ok]
  rw [needOr_no hempty]; rfl

/-- FPUT of a word that is empty after its release writes and fills it. -/
theorem feRequest_fput_empty (hw : feWord .fput f s = .ok (w, wt)) (hr : releasedAt (scopeTo s.myCore wt.object w) (homeOf w) s = .ok s')
    (hempty : s'.isFull w = false) : feRequest .fput f s = .ok (s'.fillWord w (s'.me.getX f.d) (scopeTo s.myCore wt.object w)) := by
  simp only [feRequest, hw, act_bind_ok, hr]
  rw [needOr_ok (by rw [hempty]; rfl)]; rfl

/-- FPUT of a word that is full after its release parks. -/
theorem feRequest_fput_full (hw : feWord .fput f s = .ok (w, wt)) (hr : releasedAt (scopeTo s.myCore wt.object w) (homeOf w) s = .ok s')
    (hfull : s'.isFull w = true) : feRequest .fput f s = .park s' wt := by
  simp only [feRequest, hw, act_bind_ok, hr]
  rw [needOr_no (by rw [hfull]; rfl)]; rfl

/-- FSET writes and fills its word after its release, full or empty. -/
theorem feRequest_fset (hw : feWord .fset f s = .ok (w, wt)) (hr : releasedAt (scopeTo s.myCore wt.object w) (homeOf w) s = .ok s') :
    feRequest .fset f s = .ok (s'.fillWord w (s'.me.getX f.d) (scopeTo s.myCore wt.object w)) := by
  simp only [feRequest, hw, act_bind_ok, hr]; rfl

/-- FCLR empties its word, full or empty, after the task's earlier accesses to that home (log entry 28). -/
theorem feRequest_fclr (hw : feWord .fclr f s = .ok (w, wt)) (hr : releasedHome s (homeOf w) = .ok s') :
    feRequest .fclr f s = .ok (s'.emptyWord w) := by
  simp only [feRequest, hw, act_bind_ok, hr]; rfl

/-- An instruction of the family whose request proceeds completes once the requests parked on the word have been retried (R296). -/
theorem run_feBody_ok {o : Op} {t : State} (hi : s.issues o f = true) (hw : feWord o f s = .ok (w, wt)) (hb : feRequest o f s = .ok t) :
    run o f (feBody o f) s = completes s { t.retryWord w (2 * (s.waiters .fullEmpty w).length) with cur := s.cur } f :=
  run_ok hi (by simp only [feBody, hw, hb])

/-- An instruction of the family whose request must wait parks its task. -/
theorem run_feBody_park {o : Op} {t : State} (hi : s.issues o f = true) (hw : feWord o f s = .ok (w, wt)) (hb : feRequest o f s = .park t wt) :
    run o f (feBody o f) s = parks s t wt :=
  run_park hi (by simp only [feBody, hw, hb])

end

/-! ## The retry of the parked requests (R296) -/

/-- The longest-parked request that its word lets proceed is run, and then those that follow. -/
theorem State.retryWord_succ {s : State} {w n : Nat} {k : TaskKey} {wt : Wait}
    (h : (s.waiters .fullEmpty w).find? (fun e => feReady s e.2) = some (k, wt)) :
    s.retryWord w (n + 1) = (s.reissue k .fullEmpty (feRequest wt.op)).retryWord w n := by
  simp only [State.retryWord, h]

/-- A word that lets no parked request proceed leaves them parked. -/
theorem State.retryWord_none {s : State} {w : Nat} (n : Nat)
    (h : (s.waiters .fullEmpty w).find? (fun e => feReady s e.2) = none) : s.retryWord w n = s := by
  cases n with
  | zero => rfl
  | succ n => simp only [State.retryWord, h]

/-! ## SIGDECL (R346) -/

/-- SIGDECL writes the task that is to signal a sync object into the high half of its header word 1. -/
theorem sigdeclBody_declares {f : Fields} {s s' : State} {a : Nat} {h : Word64} (hp : checkPtr s (s.me.getO f.a) = .ok ())
    (hh : header s (oCanon (s.me.getO f.a)) = .ok (a, h)) (hk : hKind h = 3) (hb : (s.me.getX f.b).toNat < 2 ^ 32)
    (hr : releasedHome s (homeOf a) = .ok s') :
    sigdeclBody f s = .ok (s'.pokeWord (a + 8) ((s.me.getX f.b).setWidth 32 ++ (s'.peekWord (a + 8)).extractLsb' 0 32)) := by
  simp only [sigdeclBody, hp, hh, act_bind_ok]
  rw [needKind_ok (by simp [hk]), act_bind_ok, need_ok (by simpa using hb), act_bind_ok, hr]; rfl

/-! ## The statement -/

/-- Settles O10: each request by its lemma, the retry by its two, and SIGDECL. -/
theorem syncWordsFillEmptyAndWait : Obligations.SyncWordsFillEmptyAndWait := by
  refine ⟨?proceeds, ?waits, ?retry, ?sigdecl⟩
  case proceeds =>
    intro f s w wt scope done
    refine ⟨?fld, ?ftake, ?fput, ?fset, ?fclr⟩
    case fld => exact fun hi hw hfull => run_feBody_ok hi hw (feRequest_fld_full hw hfull)
    case ftake => exact fun s' hi hw hfull hr => run_feBody_ok hi hw (feRequest_ftake_full hw hfull hr)
    case fput => exact fun s' hi hw hr hempty => run_feBody_ok hi hw (feRequest_fput_empty hw hr hempty)
    case fset => exact fun s' hi hw hr => run_feBody_ok hi hw (feRequest_fset hw hr)
    case fclr => exact fun s' hi hw hr => run_feBody_ok hi hw (feRequest_fclr hw hr)
  case waits =>
    intro f s w wt
    refine ⟨?fld, ?ftake, ?fput⟩
    case fld => exact fun hi hw hempty => run_feBody_park hi hw (feRequest_fld_empty hw hempty)
    case ftake => exact fun hi hw hempty => run_feBody_park hi hw (feRequest_ftake_empty hw hempty)
    case fput => exact fun s' hi hw hr hfull => run_feBody_park hi hw (feRequest_fput_full hw hr hfull)
  case retry =>
    intro s w
    refine ⟨?some, ?none⟩
    case some =>
      intro k wt n hfind hn
      have hretry : s.retryWord w (2 * (s.waiters .fullEmpty w).length) = _ := hn ▸ State.retryWord_succ hfind
      exact congrArg Host.Outcome.next hretry
    case none => exact fun hfind => congrArg Host.Outcome.next (State.retryWord_none _ hfind)
  case sigdecl =>
    intro f s s' a h r b hi hp hh hk hb hr
    exact run_ok hi (sigdeclBody_declares hp hh hk hb hr)

end Sys2Proof.Machine
end

section
/-!
PROOFS. ST through a copy that is still being made (R33, R347), and the refutation of O57.
-/

open Sys2Proof.Claims

namespace Sys2Proof.Machine

/-! ## ST through a copy that is still being made (R33, R347) -/

/-- The canonical object of the counterexample: 16 bytes of payload in the pad of die 0. -/
def unreadCanon : Word64 := padPtr (.die 0) 0x100

/-- Its copy in the pad of core 0, whose one payload block is still to be read. -/
def unreadCopy : Copy :=
  { canon := unreadCanon, copy := padPtr (.core 0) 0x1000, size := 32, dirty := [], pins := [], complete := false }

/-- A task on core 0 with the object in o1, marked as touched. The canonical payload holds a 7 at byte 8, which the copy has not read. -/
def unreadState : State :=
  let t := { Task.empty with status := .ready, tid := 1 }.setO 1 (oMake true false 0 16 unreadCanon)
  let s : State := { State.reset with tasks := [(0, t)], cores := [(0, { Core.initial with copies := [unreadCopy] })] }
  let s := s.pokeWord unreadCanon.toNat (newHeader 16 0 false false)
  let s := s.pokeWord (unreadCanon.toNat + 24) 7
  s.pokeWord unreadCopy.copy.toNat (newHeader 16 0 false false)

/-- ST of one byte at offset 0 of o1. -/
def unreadStore : Fields := { z := 3, a := 1 }

/-- The state that the store leads to. -/
def unreadAfter : State := issue .st unreadStore (storeBody false unreadStore) unreadState

theorem exec_unreadStore : exec (.st unreadStore) unreadState = .next unreadAfter := rfl

/-- The store's touch reads the block that is left into the copy, so that byte 8 of the copy changes. -/
theorem unreadStore_writes_byte8 : unreadAfter.mem.read (unreadCopy.copy.toNat + 24) ≠ unreadState.mem.read (unreadCopy.copy.toNat + 24) := by
  decide +kernel

theorem unreadState_copy : oTouched (unreadState.me.getO 1) = true
    ∧ unreadState.copyOf unreadState.myCore (oCanon (unreadState.me.getO 1)) = some unreadCopy := by
  decide +kernel

/-- Refutes O57: nothing asks that the copy be complete, and an ST through a copy that is still being made goes on with its touch, which reads
the blocks that are left into the copy (R33), outside the bytes that the ST writes. -/
theorem not_storesChangeOnlyTheirBytes : ¬ Obligations.StoresChangeOnlyTheirBytes := by
  intro h
  obtain ⟨-, hst, -⟩ := h unreadStore unreadState unreadAfter
  obtain ⟨htouched, hcopy⟩ := unreadState_copy
  obtain ⟨houtside, -⟩ := hst unreadCopy htouched hcopy exec_unreadStore
  exact unreadStore_writes_byte8 (houtside _ (.inr (by decide +kernel)))

end Sys2Proof.Machine
end

section
/-!
PROOFS. What reset leaves in the parts of the state that the spec gives a value (R50, R138, R143, R150, R151, R169, R189, R217, R231, R245,
R254, R255), and the statement put together from that (O53).
-/

namespace Sys2Proof.Machine

/-! ## Parts of the reset state

Reset lists no part, so that each reads its value at reset. -/

@[simp] theorem State.core_reset (c : CoreId) : State.reset.core c = Core.initial := rfl
@[simp] theorem State.cluster_reset (k : ClusterId) : State.reset.cluster k = Cluster.initial := rfl
@[simp] theorem State.die_reset (d : Nat) : State.reset.die d = Die.initial := rfl
@[simp] theorem State.halt_reset (p : Nat) : State.reset.halt p = HaltCtl.initial := rfl
@[simp] theorem State.window_reset (p w : Nat) : State.reset.window p w = (0, 0) := rfl
@[simp] theorem State.channel_reset (ch : Nat) : State.reset.channel ch = Channel.initial := rfl

/-! ## Codebooks, mask slots and accumulators -/

/-- Each code of a codebook at reset has the rank of its number (R138). -/
theorem Codebook.ranks_initial : ∀ i, i < 16 → Codebook.initial.ranks.extractLsb' (4 * i) 4 = BitVec.ofNat 4 i := by
  decide

/-- The codebooks of a core at reset hold +0 in code order with epact 0 (R138). -/
theorem Core.initial_codebooks {b : Codebook} (h : b ∈ [Core.initial.slot0, Core.initial.slot1, Core.initial.codebook]) :
    b.entries = 0 ∧ b.epact = 0 ∧ ∀ i, i < 16 → b.ranks.extractLsb' (4 * i) 4 = BitVec.ofNat 4 i := by
  have hb : b = Codebook.initial := by simpa [Core.initial] using h
  exact hb ▸ ⟨rfl, rfl, Codebook.ranks_initial⟩

/-- The mask slots of a core at reset are empty, with their counts 0 (R169). -/
theorem Core.initial_maskSlots {m : MaskSlot} (h : m ∈ [Core.initial.mask0, Core.initial.mask1]) :
    m.prog = none ∧ m.empty = 0 ∧ m.partialTiles = 0 ∧ m.full = 0 := by
  have hm : m = MaskSlot.initial := by simpa [Core.initial] using h
  exact hm ▸ ⟨rfl, rfl, rfl, rfl⟩

/-- The accumulators of a core at reset hold +0 everywhere, and count nothing (R151). -/
theorem Core.initial_accumulators {a : Acc} (h : a ∈ Core.initial.acc.toList) :
    a.count = 0 ∧ ∀ e, a.work.find e 0 = 0 ∧ a.tile.find e 0 = 0 := by
  have ha : a = ⟨[], [], 0, false⟩ := List.eq_of_mem_replicate (Vector.toList_replicate ▸ h)
  exact ha ▸ ⟨rfl, fun _ => ⟨rfl, rfl⟩⟩

/-! ## The statement -/

/-- Settles O53: each part of the reset state is the part at reset, whose fields have the values that the spec gives. -/
theorem resetLeavesTheSpecsValues : Obligations.ResetLeavesTheSpecsValues := by
  refine ⟨fun c => ?core, fun k => ?cluster, fun d => ?die, fun u => ?gleaner, fun q => ?queue, fun p => ?halt, State.window_reset,
    fun ch lane => ?channel⟩
  case core =>
    rw [State.core_reset]
    exact ⟨rfl, rfl, rfl, rfl, rfl, fun _ => Core.initial_codebooks, fun _ => Core.initial_maskSlots, fun _ => Core.initial_accumulators⟩
  case cluster => simp [Cluster.initial]
  case die => simp [Die.initial]
  case gleaner => rfl
  case queue => rfl
  case halt => simp [HaltCtl.initial]
  case channel => simp [Channel.initial, FMap.find]

end Sys2Proof.Machine
end

section
/-!
PROOFS. The Gleaners: their commands (R50), the end of a collection (R44), collections and region evacuations (R40 to R45, R49), and the
statement put together from that (O40).
-/

namespace Sys2Proof.Machine

/-! ## Commands (R50) -/

/-- The fields that a write of GLCMD gives: bit 2 is zero and go is no part of them (R50). -/
def glFields (v : Word32) : BitVec 8 := v.setWidth 8 &&& 0xFB

/-- Go is none of the fields. -/
theorem glFields_go (v : Word32) : glFields (v ||| 0x100#32) = glFields v := by
  simp [glFields, BitVec.setWidth_or]

/-- A write of GLCMD with go that names a level starts the collection of a pad of this unit, unless the unit is busy or the colour is no
context's; any other it rejects. -/
theorem State.glcmdWrite_go {s : State} {d unit : Nat} {v : Word32} (hlevel : (glFields v).toNat % 4 ≠ 0) :
    s.glcmdWrite d unit (v ||| 0x100#32) =
      if ∃ u, glPad d unit (glFields v).toNat = some u ∧ (s.gleaner d unit).busy = false ∧ bits (glFields v).toNat 6 2 < s.padContexts u then
        s.setGleaner d unit
          { s.gleaner d unit with cmd := glFields v, busy := true, traced := false, rejected := false, cascaded := false }
      else s.setGleaner d unit { s.gleaner d unit with rejected := true } := by
  have hgo : ¬ (!(v ||| 0x100#32).getLsbD 8 || decide ((glFields v).toNat % 4 = 0)) = true := by
    rw [decide_eq_false hlevel]
    simp
  unfold State.glcmdWrite
  rw [← glFields, glFields_go, if_neg hgo]
  cases glPad d unit (glFields v).toNat with
  | none => simp
  | some u =>
    simp only
    rw [← ite_not]
    simp

/-! ## The end of a collection (R44, R50) -/

@[simp] theorem State.collectEnd_tasks (s : State) (u : PadUnit) (colour : Nat) : (s.collectEnd u colour).tasks = s.tasks := rfl

/-- The end of a collection leaves the tasks alone. -/
@[simp] theorem State.close_tasks (s : State) (u : PadUnit) (colour : Nat) : (s.close u colour).tasks = s.tasks := by
  unfold State.close
  dsimp only
  split <;> rfl

/-- The end of a collection counts it, and the longest pause is kept (R44, R50). -/
theorem State.gleaner_collectEnd {s : State} {u : PadUnit} {colour d unit : Nat} (hu : gleanerOf u = (d, unit)) :
    (s.collectEnd u colour).gleaner d unit = { s.gleaner d unit with
      count := (s.gleaner d unit).count + 1
      pause := if (s.gleaner d unit).pause.toNat < (Config.pauseTime s.free).toNat then Config.pauseTime s.free
        else (s.gleaner d unit).pause } := by
  unfold State.collectEnd
  rw [hu]
  exact State.gleaner_setGleaner ..

/-- The end of a commanded collection ends the command, and the tasks go on (R44, R46). -/
theorem State.gleaner_close {s : State} {u : PadUnit} {colour d unit : Nat} (hu : gleanerOf u = (d, unit))
    (hrun : s.commanded u colour = true) :
    (s.close u colour).gleaner d unit =
      { (s.collectEnd u colour).gleaner d unit with busy := false, traced := false, paused := [] } := by
  simp [State.close, State.unhold, hu, hrun]

/-- The Gleaner of a collection that no halt holds runs its command. -/
theorem State.commanded_of_collects {s : State} {u : PadUnit} {colour : Nat} (h : s.collects u colour = true) :
    s.commanded u colour = true := by
  simp only [State.collects, Bool.and_eq_true] at h
  obtain ⟨⟨hrun, -⟩, -⟩ := h
  exact hrun

/-- COLLECTION_END of a traced collection ends it. -/
theorem State.collectFinish_traced {s : State} {u : PadUnit} {colour d unit : Nat} (hu : gleanerOf u = (d, unit))
    (htraced : (s.gleaner d unit).traced = true) (hruns : s.collects u colour = true) : s.collectFinish u colour = s.close u colour := by
  simp [State.collectFinish, hu, htraced, hruns]

/-! ## A collection (R40 to R46) -/

/-- COLLECTION without a running command, or while a halt holds the Gleaner, does nothing. -/
theorem State.collectStart_idle {s : State} {u : PadUnit} {colour : Nat} (h : s.collects u colour = false) : s.collectStart u colour = s := by
  simp [State.collectStart, h]

section
variable {s t : State} {u : PadUnit} {colour : Nat} (hruns : s.collects u colour = true)
  (huntraced : (s.gleaner (gleanerOf u).1 (gleanerOf u).2).traced = false)
include hruns huntraced

/-- COLLECTION runs the trace of its pad's colour whole, and marks the command traced. -/
theorem State.collectStart_done {moved : Bool} (h : s.collectColour (s.collector u) colour u = .done t moved) :
    s.collectStart u colour = t.setGleaner (gleanerOf u).1 (gleanerOf u).2
      { t.gleaner (gleanerOf u).1 (gleanerOf u).2 with traced := true } := by
  simp [State.collectStart, hruns, huntraced, h]

/-- COLLECTION that a fault or a stalled channel ends early marks nothing: it leads to the state in which it ended (R45, R46). -/
theorem State.collectStart_early
    (h : s.collectColour (s.collector u) colour u = .halted t ∨ s.collectColour (s.collector u) colour u = .waits t) :
    s.collectStart u colour = t := by
  rcases h with h | h <;> simp [State.collectStart, hruns, huntraced, h]

end

/-! ## Region evacuation (R49) -/

/-- The partition's pause performs the results and stores of its tasks. -/
theorem State.quietPart_eq (s : State) (p : Nat) : s.quietPart p =
    s.tasks.foldl (fun s e => if e.2.status ≠ .free ∧ e.2.part = p then (s.landAll e.1).drainAll e.1 else s) s := by
  simp [State.quietPart]

/-! ## The statement -/

/-- Settles O40: the equations of the Gleaner's events, case by case. -/
theorem collectionsAreCommandedAndRun : Obligations.CollectionsAreCommandedAndRun := by
  refine ⟨?commands, ?collections⟩
  case commands =>
    intro s d unit v g cmd done
    have go {h : Gleaner} (hw : s.glcmdWrite d unit (v ||| 0x100#32) = s.setGleaner d unit h) : done h (.glcmdGo d unit v) :=
      congrArg Host.Outcome.next hw
    refine ⟨?starts, ?unfit, ?colour, rfl, ?finish⟩
    case starts =>
      intro u hlevel hpad hidle hcolour
      exact go ((State.glcmdWrite_go hlevel).trans (if_pos ⟨u, hpad, hidle, hcolour⟩))
    case unfit =>
      intro hlevel hunfit
      refine go ((State.glcmdWrite_go hlevel).trans (if_neg ?_))
      rintro ⟨u, hpad, hidle, -⟩
      rcases hunfit with hnone | hbusy
      · exact absurd (hnone.symm.trans hpad) nofun
      · exact absurd (hbusy.symm.trans hidle) nofun
    case colour =>
      intro u hlevel hpad hcolour
      refine go ((State.glcmdWrite_go hlevel).trans (if_neg ?_))
      rintro ⟨w, hw, -, hlt⟩
      obtain rfl : u = w := Option.some.inj (hpad.symm.trans hw)
      exact absurd hlt (Nat.not_lt.mpr hcolour)
    case finish =>
      intro u colour hu htraced hruns
      have hgleaner := State.gleaner_close hu (State.commanded_of_collects hruns)
      rw [State.gleaner_collectEnd hu] at hgleaner
      refine ⟨s.close u colour, congrArg Host.Outcome.next (State.collectFinish_traced hu htraced hruns), ?_, ?_, ?_,
        State.close_mem .., State.close_tasks ..⟩ <;> rw [hgleaner]
      change (s.gleaner d unit).pause.toNat ≤ BitVec.toNat (ite _ _ _)
      split <;> omega
  case collections =>
    intro s u colour g
    refine ⟨fun hruns huntraced => ⟨fun t moved h => ?done, fun t h => ?early⟩, fun hidle => ?idle, fun p d => ?evacuation⟩
    case done => exact congrArg Host.Outcome.next (State.collectStart_done hruns huntraced h)
    case early => exact congrArg Host.Outcome.next (State.collectStart_early hruns huntraced h)
    case idle => exact congrArg Host.Outcome.next (State.collectStart_idle hidle)
    case evacuation =>
      intro s1 used
      have hquiet : s.quietPart p = s1 := State.quietPart_eq s p
      refine congrArg Host.Outcome.next ?_
      change (if s.evacuationStalls p d then s else (s.evacuate p d colour).1) = _
      rw [State.evacuate, hquiet]

end Sys2Proof.Machine
end

section
/-!
PROOFS. The encoding: the fields that the parcels of an encoding hold, the mnemonics that share an OP, and the statements that decoding gives an
encoding back (O52) and that the words of the spec decode as it says (O51).
-/

namespace Sys2Proof

/-- A bit of parcel 0, field by field from the least significant (R52). -/
theorem parcel0_getLsbD (code : BitVec 9) (f : Fields) (i : Nat) : (parcel0 code f).getLsbD i =
    if i < 2 then f.form.len.getLsbD i
    else if i < 3 then f.m
    else if i < 12 then code.getLsbD (i - 3)
    else if i < 18 then f.d.getLsbD (i - 12)
    else if i < 24 then f.a.getLsbD (i - 18)
    else if i < 30 then f.b.getLsbD (i - 24)
    else f.z.getLsbD (i - 30) := by
  simp only [parcel0, BitVec.getLsbD_append, BitVec.getLsbD_ofBool]
  grind

/-- A bit of parcel 1, field by field from the least significant (R53). -/
theorem parcel1_getLsbD (f : Fields) (i : Nat) : (parcel1 f).getLsbD i =
    if i < 4 then f.g.getLsbD i
    else if i < 10 then f.c.getLsbD (i - 4)
    else if i < 16 then f.smDist.getLsbD (i - 10)
    else if i < 20 then f.smSeg.getLsbD (i - 16)
    else if i < 22 then f.smClass.getLsbD (i - 20)
    else f.x.getLsbD (i - 22) := by
  simp only [parcel1, BitVec.getLsbD_append]
  grind

/-- A field that stands at the bits `start` and up of a parcel is what is read there. -/
theorem extractLsb'_eq_of_getLsbD {p : BitVec w} {v : BitVec n} {start : Nat} (h : ∀ i < n, p.getLsbD (start + i) = v.getLsbD i) :
    p.extractLsb' start n = v :=
  BitVec.eq_of_getLsbD_eq fun i hi => by rw [BitVec.getLsbD_extractLsb', h i hi]; simp [hi]

/-- LEN stands at the bits 1:0 of parcel 0 (R51). -/
theorem parcel0_len (code : BitVec 9) (f : Fields) : (parcel0 code f).extractLsb' 0 2 = f.form.len :=
  extractLsb'_eq_of_getLsbD fun i hi => by grind [parcel0_getLsbD]

/-- OP stands at the bits 11:3 of parcel 0 (R52). -/
theorem parcel0_code (code : BitVec 9) (f : Fields) : (parcel0 code f).extractLsb' 3 9 = code :=
  extractLsb'_eq_of_getLsbD fun i hi => by grind [parcel0_getLsbD]

/-- What is read from parcel 0 are the fields that it was made of (R52). -/
theorem fields0_parcel0 (form : Form) (code : BitVec 9) (f : Fields) :
    fields0 form (parcel0 code f) = { form := form, m := f.m, z := f.z, d := f.d, a := f.a, b := f.b } := by
  rw [fields0, parcel0_getLsbD]
  congr 1 <;> exact extractLsb'_eq_of_getLsbD fun i hi => by grind [parcel0_getLsbD]

/-- What is read from parcel 1 are the fields that it was made of (R53). -/
theorem fields1_parcel1 (f g : Fields) :
    fields1 g (parcel1 f) = { g with g := f.g, c := f.c, smDist := f.smDist, smSeg := f.smSeg, smClass := f.smClass, x := f.x } := by
  rw [fields1]
  congr 1 <;> exact extractLsb'_eq_of_getLsbD fun i hi => by grind [parcel1_getLsbD]

/-- The parcels of an encoding behind the first. -/
def Fields.laterParcels (f : Fields) : List Word32 :=
  match f.form with
  | .f1 => []
  | .f2 => [parcel1 f]
  | .f3 => [parcel1 f, f.lit]

/-- An encoding is parcel 0 and the later ones of its form. -/
theorem encodeOp_eq_cons (o : Op) (f : Fields) : encodeOp o f = parcel0 o.row.code f :: f.laterParcels := by
  cases h : f.form <;> simp only [encodeOp, Fields.laterParcels, h]

/-- Taking fields from the parcels of an encoding gives them back and leaves what follows: the fields that a form has no parcel for are
zero (R51, R54). -/
theorem takeFields_laterParcels {f : Fields} (code : BitVec 9) (h : f.shapeOk = true) (rest : List Word32) :
    takeFields (parcel0 code f) (f.laterParcels ++ rest) = some (f, rest) := by
  obtain ⟨form, m, z, d, a, b, c, g, smClass, smSeg, smDist, x, lit⟩ := f
  cases form <;>
    simp_all [takeFields, Fields.laterParcels, parcel0_len, Form.len, fields0_parcel0, fields1_parcel1, Fields.shapeOk]

/-! ## Mnemonics that share an OP (R73, R74, R313) -/

/-- The mnemonic that the map lists first for the OP of a mnemonic. -/
def Op.first : Op → Op
  | .liH => .li
  | .haltRetain => .halt
  | .sendSpawn => .send
  | .cpyNode => .cpy
  | .mkappBias => .mkapp
  | o => o

/-- The OP of a mnemonic's row is that of the first mnemonic with this OP. -/
theorem Op.ofCode_row (o : Op) : Op.ofCode o.row.code.toNat = some o.first := by cases o <;> rfl

/-- What may be written has the shape of its form, and Z, X bits and selecting bits that check 5 of R59 lets pass. -/
theorem Op.checks_of_legal {o : Op} {f : Fields} (h : o.legal f = true) :
    f.shapeOk = true ∧ o.row.zs.getLsbD f.z.toNat = true ∧ o.row.xOk f = true ∧ o.extra f = true := by
  simp only [Op.legal, Op.fieldsOk, Bool.and_eq_true] at h
  obtain ⟨⟨hshape, -⟩, ⟨⟨⟨⟨⟨⟨⟨⟨hz, -⟩, hx⟩, -⟩, -⟩, -⟩, -⟩, -⟩, hextra⟩⟩ := h
  exact ⟨hshape, hz, hx, hextra⟩

/-- An X bit that the map does not define is 0 (R56). -/
theorem Row.getLsbD_x_of_xOk {r : Row} {f : Fields} (h : r.xOk f = true) (hr : r.x9Role = false) {i : Nat} (hi : r.xs.getLsbD i = false) :
    f.x.getLsbD i = false := by
  simp only [Row.xOk, hr, Bool.and_eq_true] at h
  obtain ⟨⟨hundefined, -⟩, -⟩ := h
  have hzero : f.x &&& ~~~r.xs = 0 := by simpa using hundefined
  have hbit : (f.x &&& ~~~r.xs).getLsbD i = false := by rw [hzero]; simp
  by_cases hlt : i < 10
  · rw [BitVec.getLsbD_and, BitVec.getLsbD_not, hi] at hbit
    simpa [hlt] using hbit
  · exact BitVec.getLsbD_of_ge _ _ (by omega)

/-- When the map gives one `Z`, it is that one. -/
theorem z_eq_of_zs {z : BitVec 2} {k : Nat} (h : (BitVec.twoPow 4 k).getLsbD z.toNat = true) : z.toNat = k := by
  simp at h; omega

/-- The bits that select among the mnemonics of one OP select the one that was written. -/
theorem Op.refine_first {o : Op} {f : Fields} (h : o.legal f = true) : o.first.refine f = o := by
  obtain ⟨-, hz, hx, hextra⟩ := Op.checks_of_legal h
  cases o
  case li =>
    have : f.z.toNat = 0 := z_eq_of_zs (k := 0) hz
    have : f.z ≠ 1 := by bv_omega
    exact if_neg (by simpa)
  case liH =>
    have : f.z.toNat = 1 := z_eq_of_zs (k := 1) hz
    have : f.z = 1 := by bv_omega
    exact if_pos (by simpa)
  case halt => exact if_neg (Bool.not_eq_true _ ▸ Row.getLsbD_x_of_xOk hx rfl (i := 0) rfl)
  case send => exact if_neg (Bool.not_eq_true _ ▸ Row.getLsbD_x_of_xOk hx rfl (i := 0) rfl)
  case cpy => exact if_neg (Bool.not_eq_true _ ▸ Row.getLsbD_x_of_xOk hx rfl (i := 8) rfl)
  case mkapp => exact if_neg (Bool.not_eq_true _ ▸ Row.getLsbD_x_of_xOk hx rfl (i := 1) rfl)
  case haltRetain | sendSpawn | cpyNode | mkappBias => exact if_pos hextra
  all_goals rfl

/-- Decoding what a legal mnemonic encodes to gives it back, whatever parcels follow. -/
theorem decodeOp_encodeOp {o : Op} {f : Fields} (h : o.legal f = true) (rest : List Word32) :
    decodeOp (encodeOp o f ++ rest) = .ok ((o, f), rest) := by
  obtain ⟨hshape, -⟩ := Op.checks_of_legal h
  rw [encodeOp_eq_cons, List.cons_append, decodeOp]
  simp only [takeFields_laterParcels _ hshape, parcel0_code, Op.ofCode_row, Op.refine_first h, h, if_true]

/-- The instruction of the mnemonic and the fields of an instruction is that instruction. -/
theorem instr_of_parts {i : Instr} {o : Op} {f : Fields} (h : i.parts = some (o, f)) : o.instr f = i := by
  cases i <;> cases h <;> rfl

/-- Settles O52: the decoder reads the fields back from the parcels, and finds the mnemonic by its OP and the bits that select it. -/
theorem decodingAnEncodingGivesItBack : Obligations.DecodingAnEncodingGivesItBack := by
  refine ⟨fun o f rest h => decodeOp_encodeOp h rest, fun i rest hwf hparts => ?_⟩
  obtain ⟨⟨o, f⟩, hp⟩ := Option.isSome_iff_exists.mp hparts
  have hlegal : o.legal f = true := by simpa only [Instr.wellFormed, hp] using hwf
  simp only [encode, hp, decodeParcels, decodeOp_encodeOp hlegal rest, instr_of_parts hp]

/-- Settles O51: the decoder is evaluated on the nine words. -/
theorem wordsDecodeAsTheSpecGives : Obligations.WordsDecodeAsTheSpecGives := by
  unfold Obligations.WordsDecodeAsTheSpecGives
  decide

end Sys2Proof
end

section
/-!
PROOFS. Messages: how each SEND ends, what a router and an arrival do, the spawn messages and the waiting senders, and the statement put
together from that (O16).
-/

open Sys2Proof.Claims

namespace Sys2Proof.Machine

/-! ## SEND up to its message (R101, R344) -/

/-- The core address of a SEND: the high half of its target id. -/
def sendAddr (f : Fields) (s : State) : BitVec 16 := BitVec.ofNat 16 ((s.me.getX f.b).toNat / 65536)

/-- What a SEND performs before its message goes out: the earlier stores of its task, as far as the target sees them (R101, R212). -/
def releasedToward (addr : BitVec 16) (s : State) : Act State :=
  match s.coreAt addr with
  | some c => releasedAt (scopeCores s.myCore c) (dieOf c) s
  | none => released s

/-- The record in a spawn message is one that may start a task (R104). -/
def recordFits (w0 : Nat) : Bool := bits w0 40 8 == 0 && !w0.testBit 34 && bits w0 0 32 != 0

/-- The checks of a SEND pass, and its bytes are read and its release performed: `bs0` is what it reads before it touches, `s1` the state
after the touch, `bs` the 64 bytes, `s2` the state after the release (R344). -/
structure SendReaches (spawn : Bool) (f : Fields) (s s1 s2 : State) (ob : Obj) (bs0 bs : List Byte) : Prop where
  checked : check s (s.me.getO f.a) 0 64 8 = .ok ()
  object : objOf s (s.me.getO f.a) = .ok ob
  kind : loadable s.me.priv ob.hdr = true
  target : (s.me.getX f.b).toNat < 2 ^ 32
  before : readThrough s (s.me.getO f.a) 0 (if spawn then 64 else 0) = .ok bs0
  record : spawn = true → recordFits (leNat (bs0.take 8)) = true
  touched : touch s f.a ob.hdr = .ok s1
  bytes : readThrough s1 (s1.me.getO f.a) 0 64 = .ok bs
  performed : releasedToward (sendAddr f s) s1 = .ok s2

/-- The message that a SEND puts in the mesh (R101). -/
def sentMessage (spawn : Bool) (b : Word64) (bs : List Byte) (c : CoreId) (x : Record) (s : State) : Message :=
  { target := c, tag := if spawn || b.toNat % 65536 = 0 then 0 else b.setWidth 32, sender := s.me.tid, tenant := s.me.tenant
    spawn := spawn, orphan := false, bytes := bs, record := if spawn then some x else none
    held := s.entries c < 64 && (s.senders c).isEmpty, seq := s.order, pc := s.me.pc, part := s.me.part, ctx := s.me.ctx }

/-- A new message is the last one of the mesh. -/
def State.enterMesh (s : State) (m : Message) : State := { s.arrive.2 with mesh := s.mesh ++ [m] }

/-- A SEND whose message goes into the mesh: its result is outstanding when the message holds an entry, else its task parks (R101). -/
def State.sends (s : State) (o : Op) (f : Fields) (addr : BitVec 16) (m : Message) : Res :=
  if m.held then .ok ((s.enterMesh m).defer { dest := .x f.d, msg := some m.seq })
  else .park (s.enterMesh m) { kind := .send, op := o, f := f, object := addr.setWidth 64, aux := m.seq }

/-- The state in which a SEND's message is made, and its record: a spawn message counts a record of its core (R92, R104). -/
def State.stamped (spawn : Bool) (bs : List Byte) (s : State) : State × Record :=
  if spawn then s.stamp s.myCore (spawnRecord s.me bs) else (s, spawnRecord s.me bs)

/-- A SEND to another package: its request goes out, and its count is a free value (R247). -/
def State.sendsAway (s : State) (f : Fields) (pkg : Nat) : State :=
  let t := s.requestOver (dieOf s.myCore / 2) pkg
  t.fresh.2.defer { dest := .x f.d, val := (Config.word t.free &&& 0x3F).setWidth 4096, peer := t.viaOver (dieOf t.myCore / 2) pkg }

section
variable {spawn : Bool} {o : Op} {f : Fields} {s s1 s2 : State} {ob : Obj} {bs0 bs : List Byte}

/-- What a SEND comes to, once it has performed its release, is what its target says. -/
theorem sendBody_eq (h : SendReaches spawn f s s1 s2 ob bs0 bs) : sendBody spawn o f s =
    match s2.sendTo (sendAddr f s) with
    | .noRoute => .fault s2 { code := .region, ptr := oCanon (s.me.getO f.a) }
    | .refused => .fault s2 { code := .remotePermission, ptr := oCanon (s.me.getO f.a) }
    | .away => .ok (s2.sendsAway f ((sendAddr f s).toNat / 512))
    | .core c => (s2.stamped spawn bs).1.sends o f (sendAddr f s)
        (sentMessage spawn (s.me.getX f.b) bs c (s2.stamped spawn bs).2 (s2.stamped spawn bs).1) := by
  have htarget : ((s.me.getX f.b).toNat / 2 ^ 32 == 0) = true := by
    rw [beq_iff_eq]; exact Nat.div_eq_of_lt h.target
  have hrecord : (!spawn || recordFits (leNat (bs0.take 8))) = true := by
    cases hs : spawn
    · rfl
    · simpa using h.record hs
  have hperformed := h.performed
  simp only [recordFits] at hrecord
  simp only [releasedToward, sendAddr] at hperformed
  simp only [sendBody, h.checked, h.object, h.before, h.touched, h.bytes, needKind_ok h.kind, need_ok htarget, needKind_ok hrecord,
    act_bind_ok, sendAddr]
  cases hc : s1.coreAt (BitVec.ofNat 16 ((s.me.getX f.b).toNat / 65536))
  all_goals
    simp only [hc] at hperformed
    simp only [hperformed, act_bind_ok]
    cases s2.sendTo (BitVec.ofNat 16 ((s.me.getX f.b).toNat / 65536)) with
    | core c => exact apply_ite Act.run _ _ _
    | away | noRoute | refused => rfl

end

section
variable {o : Op} {f : Fields} {s s2 : State} {c : CoreId} {addr : BitVec 16} {m : Message} {bs : List Byte}

/-- A new outstanding result of the acting task is its last. -/
@[simp] theorem State.pend_defer (s : State) (p : Pend) : (s.defer p).me.pend = s.me.pend ++ [{ p with pc := s.me.pc }] := by
  rw [State.defer, State.me_setMe]

/-- A message that holds an entry leaves its SEND's result outstanding. -/
theorem State.sends_held (h : m.held = true) :
    s.sends o f addr m = .ok ((s.enterMesh m).defer { dest := .x f.d, msg := some m.seq }) := if_pos h

/-- A message that holds none parks its sender. -/
theorem State.sends_waiting (h : m.held = false) : s.sends o f addr m
    = .park (s.enterMesh m) { kind := .send, op := o, f := f, object := addr.setWidth 64, aux := m.seq } := if_neg (by simp [h])

/-- A message holds an entry when its inbox has one and no sender waits there. -/
theorem sentMessage_held {spawn : Bool} {b : Word64} {x : Record} (hroom : s.entries c < 64) (hfirst : s.senders c = []) :
    (sentMessage spawn b bs c x s).held = true := by
  simp [sentMessage, hroom, hfirst]

/-- A message waits when its inbox is full or a sender waits there. -/
theorem sentMessage_waits {spawn : Bool} {b : Word64} {x : Record} (h : 64 ≤ s.entries c ∨ s.senders c ≠ []) :
    (sentMessage spawn b bs c x s).held = false := by
  rcases h with h | h
  · simp [sentMessage, Nat.not_lt.mpr h]
  · simp [sentMessage, h]

/-- Counting a record leaves the entries that are taken of every inbox. -/
theorem State.entries_stamp (s : State) (d : CoreId) (x : Record) (c : CoreId) : (s.stamp d x).1.entries c = s.entries c := by
  have hinbox : ((s.stamp d x).1.core c).inbox = (s.core c).inbox := by
    by_cases h : c = d
    · subst h
      simp [State.stamp]
    · simp [State.stamp, h]
  rw [State.entries, hinbox]
  rfl

/-- The entry of a spawn message's record is the low half of its first word (R92). -/
theorem spawnRecord_entry (t : Task) (bs : List Byte) : (spawnRecord t bs).entry = BitVec.ofNat 32 (leNat (bs.take 8)) := by
  apply BitVec.eq_of_toNat_eq
  simp only [spawnRecord, leWord, Nat.mul_zero, List.drop_zero, BitVec.toNat_ofNat]
  omega

end

/-! ## SEND to another package (R247) -/

section
variable (s : State) (io pkg : Nat)

/-- A request toward another package leaves the messages of the mesh alone. -/
@[simp] theorem State.mesh_requestOver : (s.requestOver io pkg).mesh = s.mesh := by
  unfold State.requestOver
  split <;> rfl

/-- A request toward another package leaves the acting task alone. -/
@[simp] theorem State.cur_requestOver : (s.requestOver io pkg).cur = s.cur := by
  unfold State.requestOver
  split <;> rfl

/-- A request toward another package changes of the platform only its ports. -/
theorem State.plat_requestOver : (s.requestOver io pkg).plat = { s.plat with ports := (s.requestOver io pkg).plat.ports } := by
  unfold State.requestOver
  split <;> rfl

/-- The port of a route is the same after a request, which leaves the ports up that are. -/
theorem State.routePort_requestOver (j q : Nat) : (s.requestOver io pkg).routePort j q = s.routePort j q := by
  unfold State.routePort State.portUp
  rw [State.plat_requestOver]
  simp only [State.up_requestOver]

/-- What a SEND to another package leaves: its result is outstanding on the way that its request has taken. -/
theorem State.sendsAway_pend (s : State) (f : Fields) (pkg : Nat) : ∃ p n, (s.sendsAway f pkg).me.pend = s.me.pend ++ [p] ∧ p.dest = .x f.d
    ∧ p.peer = s.viaOver (dieOf s.myCore / 2) pkg ∧ p.val.setWidth 64 = Config.word n &&& 0x3F := by
  have hme : (s.requestOver (dieOf s.myCore / 2) pkg).fresh.2.me = s.me := by
    change (s.requestOver _ pkg).task (s.requestOver _ pkg).cur = _
    rw [State.task_requestOver, State.cur_requestOver]
    rfl
  refine ⟨_, (s.requestOver (dieOf s.myCore / 2) pkg).free, (State.pend_defer ..).trans (by rw [hme]), rfl, ?_, ?_⟩
  · simp only [State.viaOver, State.myCore, State.cur_requestOver, State.routePort_requestOver]
  · rw [BitVec.setWidth_setWidth_of_le _ (by decide), BitVec.setWidth_eq]

end

/-! ## Results that arrive, seen from the mesh and from the status of a task (R60 to R63) -/

/-- What each step of a fold keeps, the fold keeps. -/
theorem foldl_keeps {g : State → β → State} (view : State → α) {xs : List β} (h : ∀ x ∈ xs, ∀ s, view (g s x) = view s) (s : State) :
    view (xs.foldl g s) = view s := by
  induction xs generalizing s with
  | nil => rfl
  | cons x xs ih => exact (ih (fun y hy => h y (List.mem_cons_of_mem _ hy)) _).trans (h x List.mem_cons_self s)

-- No result that arrives, and no fault, takes a message from the mesh or puts one in.
section
variable (s : State) (k : TaskKey) (p : Pend) (m : BitVec 256)

@[simp] theorem State.mesh_land : (s.land k p m).mesh = s.mesh := by
  unfold State.land
  split
  · rfl
  · split <;> rfl

@[simp] theorem State.mesh_landFlags : (s.landFlags k p m).mesh = s.mesh := by
  unfold State.landFlags
  split <;> rfl

@[simp] theorem State.mesh_unpark : (s.unpark k).mesh = s.mesh := by
  unfold State.unpark
  dsimp only
  split <;> rfl

@[simp] theorem State.mesh_stopAt (x : Flt) (pos epc : Word32) (atIssue : Bool) : (s.stopAt k x pos epc atIssue).mesh = s.mesh := by
  unfold State.stopAt
  dsimp only
  split <;> rfl

@[simp] theorem State.mesh_arrives : (s.arrives k p m).mesh = s.mesh := by
  unfold State.arrives
  split <;> simp

@[simp] theorem State.mesh_landAll : (s.landAll k).mesh = s.mesh := by
  rw [State.landAll, State.mesh_unpark, foldl_keeps State.mesh fun p _ s => State.mesh_arrives s k p p.mask]
  rfl

/-- A result that arrives leaves the status of its task alone. -/
@[simp] theorem State.status_land : ((s.land k p m).task k).status = (s.task k).status := by
  unfold State.land
  split
  · rfl
  · dsimp only
    split
    case h_1 => rw [State.task_setTask, Task.setX]; split <;> rfl
    case h_2 => rw [State.task_setTask, Task.setO]; split <;> rfl
    case h_3 | h_4 | h_5 | h_6 => rw [State.task_setTask]; rfl
    all_goals rfl

/-- The flags of a result leave the status of its task alone. -/
@[simp] theorem State.status_landFlags : ((s.landFlags k p m).task k).status = (s.task k).status := by
  unfold State.landFlags
  split
  · rfl
  · rw [State.task_setTask]

/-- A result that no fault has come instead of leaves the status of its task alone. -/
theorem State.status_arrives (h : p.fault = none) : ((s.arrives k p m).task k).status = (s.task k).status := by
  simp [State.arrives, h]

/-- A task that has not stopped does not stop when it goes on. -/
theorem State.unpark_running (h : (s.task k).status ≠ .stopped) : ((s.unpark k).task k).status ≠ .stopped := by
  unfold State.unpark
  dsimp only
  split
  · rw [State.task_setTask]; exact nofun
  · exact h

/-- A task whose outstanding results hide no fault is not stopped by them. -/
theorem State.landAll_running (hrun : (s.task k).status ≠ .stopped) (hsound : ∀ p ∈ (s.task k).pend, p.fault = none) :
    ((s.landAll k).task k).status ≠ .stopped := by
  refine State.unpark_running _ _ ?_
  rw [foldl_keeps (fun t => (t.task k).status) fun p hp t => State.status_arrives t k p p.mask (hsound p (List.mem_of_mem_filter hp))]
  rwa [State.task_setTask]

/-- A running task that a fault stops, whose outstanding results hide no other, is stopped with it (R228). -/
theorem State.raiseAt_stops (x : Flt) (pos epc : Word32) (atIssue : Bool) (hrun : (s.task k).status ≠ .stopped)
    (hsound : ∀ p ∈ (s.task k).pend, p.fault = none) :
    ((s.raiseAt k x pos epc atIssue).task k).status = .stopped
      ∧ ((s.raiseAt k x pos epc atIssue).task k).stop.map (fun i => (i.code, i.pos)) = some (some x.code, pos) := by
  have hgoes : ¬ (((s.landAll k).task k).status == .stopped) = true := by simpa using State.landAll_running s k hrun hsound
  rw [State.raiseAt, State.stopAt]
  dsimp only
  rw [if_neg hgoes]
  simp only [State.report, State.setHalt_task, State.task_setTask, Option.map_some, true_and]

end

/-! ## Routers (R223) -/

/-- A report joins those of its controller (R229). -/
theorem State.reports_report (s : State) (p : Nat) (r : Report) : ((s.report p r).halt p).reports = (s.halt p).reports ++ [r] := by
  rw [State.report, State.halt_setHalt]

/-- The state in which message `i` has left the mesh. -/
def State.without (s : State) (i : Nat) : State := { s with mesh := s.mesh.eraseIdx i }

/-- The id that a task has now does not depend on the mesh. -/
@[simp] theorem State.idNow_without (s : State) (i fuel : Nat) (id : Word32) : (s.without i).idNow fuel id = s.idNow fuel id := by
  induction fuel generalizing id with
  | zero => rfl
  | succ fuel ih =>
    simp only [State.idNow, ih]
    rfl

section
variable {s : State} {i : Nat} {m : Message}

/-- A router that delivers a message marks it as passed. -/
theorem State.route_passes (hm : s.mesh[i]? = some m) (hr : m.routed = false) (hd : s.delivers m = true) :
    s.route i = { s with mesh := s.mesh.set i { m with routed := true } } := by
  simp [State.route, hm, hr, hd]

/-- A router that does not drops it. -/
theorem State.route_drops (hm : s.mesh[i]? = some m) (hr : m.routed = false) (hd : s.delivers m = false) :
    s.route i = (s.without i).dropMessage m := by
  simp [State.route, hm, hr, hd, State.without]

/-- A dropped message stops its sender, where that has a result outstanding (R223, R233). -/
theorem State.dropMessage_running {k : TaskKey} (hid : s.taskWithId (s.idNow 16 m.sender) = some k) (hrun : (s.task k).status ≠ .stopped) :
    s.dropMessage m = (s.setTask k { s.task k with pend := (s.task k).pend.filter (fun p => p.msg != some m.seq) }).raiseAt k
      { code := .remotePermission } m.pc m.pc false := by
  simp [State.dropMessage, hid, hrun]

/-- A dropped message whose sender has ended is reported (R229). -/
theorem State.dropMessage_ended {c : CoreId} (hid : s.taskWithId (s.idNow 16 m.sender) = none) (hshadow : s.shadow = [])
    (hc : s.coreAt (BitVec.ofNat 16 ((s.idNow 16 m.sender).toNat / 65536)) = some c) :
    s.dropMessage m = s.report (min m.part 16)
      { agent := .task (slotOfId c (s.idNow 16 m.sender)), tid := s.idNow 16 m.sender
        info := { code := some .remotePermission, pos := m.pc, epc := m.pc, atIssue := false } } := by
  simp [State.dropMessage, hid, hshadow, hc]

/-- A dropped message leaves the mesh, and stops its sender at its SEND (R223, R233). -/
theorem State.route_dropped_stops {k : TaskKey} (hm : s.mesh[i]? = some m) (hr : m.routed = false) (hd : s.delivers m = false)
    (hid : s.taskWithId (s.idNow 16 m.sender) = some k) (hrun : (s.task k).status ≠ .stopped) (hsound : ∀ p ∈ (s.task k).pend, p.fault = none) :
    (s.route i).mesh = s.mesh.eraseIdx i ∧ (s.route i).mem = s.mem ∧ ((s.route i).task k).status = .stopped
      ∧ ((s.route i).task k).stop.map (fun i => (i.code, i.pos)) = some (some .remotePermission, m.pc) := by
  have hid' : (s.without i).taskWithId ((s.without i).idNow 16 m.sender) = some k := by
    rw [State.idNow_without]
    exact hid
  rw [State.route_drops hm hr hd, State.dropMessage_running hid' hrun]
  refine ⟨?_, ?_, State.raiseAt_stops _ k _ m.pc m.pc false ?_ ?_⟩
  · rw [State.raiseAt, State.mesh_stopAt, State.mesh_landAll]
    rfl
  · rw [State.raiseAt_mem (atIssue := false)]
    rfl
  · rwa [State.task_setTask]
  · rw [State.task_setTask]
    exact fun p hp => hsound p (List.mem_of_mem_filter hp)

/-- A dropped message leaves the mesh, and of a sender that has ended a report goes to its controller (R229). -/
theorem State.route_dropped_reports {c : CoreId} (hm : s.mesh[i]? = some m) (hr : m.routed = false) (hd : s.delivers m = false)
    (hid : s.taskWithId (s.idNow 16 m.sender) = none) (hshadow : s.shadow = [])
    (hc : s.coreAt (BitVec.ofNat 16 ((s.idNow 16 m.sender).toNat / 65536)) = some c) :
    s.route i = (s.without i).report (min m.part 16)
      { agent := .task (slotOfId c (s.idNow 16 m.sender)), tid := s.idNow 16 m.sender
        info := { code := some .remotePermission, pos := m.pc, epc := m.pc, atIssue := false } } := by
  rw [State.route_drops hm hr hd, ← State.idNow_without s i]
  rw [← State.idNow_without s i] at hid hc
  exact State.dropMessage_ended hid hshadow hc

/-! ## Arrival (R101, R110) -/

/-- The answer to a SEND reaches every task. -/
@[simp] theorem State.task_answer (s : State) (n v : Nat) (k : TaskKey) : (s.answer n v).task k = (s.task k).answer n v :=
  FMap.find_mapKeyed s.tasks (fun _ t => t.answer n v) k Task.empty rfl

/-- The end of an IDLE leaves the outstanding results alone. -/
@[simp] theorem State.pend_endIdle (s : State) (sel : TaskKey → Task → Bool) (k : TaskKey) : ((s.endIdle sel).task k).pend = (s.task k).pend := by
  refine (congrArg Task.pend (FMap.find_mapKeyed s.tasks (fun k t => match t.wait with
      | some w => if t.status == .parked && w.kind == .idle && sel k t then { t with wait := some { w with aux := 1 } } else t
      | none => t) k Task.empty rfl)).trans ?_
  split
  · split <;> rfl
  · rfl

/-- The state in which a message has left the mesh and its SEND has its answer (R101). -/
def State.answered (s : State) (i : Nat) (m : Message) : State :=
  (s.without i).answer m.seq (64 - min 64 ((s.without i).entries m.target + 1))

/-- A message without a tag takes its place in the inbox. -/
theorem State.messageArrives_untagged (hm : s.mesh[i]? = some m) (h : s.mayArrive i = true) (htag : m.tag = 0) :
    s.messageArrives i = (s.answered i m).enterInbox m := by
  simp [State.messageArrives, hm, h, htag, State.answered, State.without]

/-- A message without a tag leaves the mesh for the inbox, and its SEND's result is the count of the entries that are free then. -/
theorem State.messageArrives_takesPlace (hm : s.mesh[i]? = some m) (h : s.mayArrive i = true) (htag : m.tag = 0) :
    (s.messageArrives i).mesh = s.mesh.eraseIdx i ∧ ((s.messageArrives i).core m.target).inbox = (s.core m.target).inbox ++ [m]
      ∧ ∀ k, ((s.messageArrives i).task k).pend = (s.task k).pend.map (fun p => if p.msg = some m.seq then
        { p with msg := none
                 val := BitVec.ofNat 4096 (64 - min 64 ((s.without i).entries m.target + 1)) } else p) := by
  rw [State.messageArrives_untagged hm h htag]
  refine ⟨rfl, congrArg Core.inbox (State.core_setCore ..), fun k => ?_⟩
  rw [State.enterInbox, State.pend_endIdle, State.setCore_task, State.answered, State.task_answer]
  simp only [Task.answer, beq_iff_eq]
  rfl

/-- A message whose task has moved follows it (R110). -/
theorem State.messageArrives_forwarded {e : Word32 × Word32} {d : CoreId} (hm : s.mesh[i]? = some m) (h : s.mayArrive i = true) (htag : m.tag ≠ 0)
    (hspawn : m.spawn = false) (he : (s.core m.target).forward.toList.find? (fun x => x.1 == m.tag) = some e)
    (hd : s.coreAt (BitVec.ofNat 16 (e.2.toNat / 65536)) = some d) :
    s.messageArrives i = { (s.answered i m).arrive.2 with mesh := (s.answered i m).mesh ++
      [{ m with target := d, tag := e.2, routed := false, held := false, seq := s.order }] } := by
  have hanswered : ({ s with mesh := s.mesh.eraseIdx i } : State).answer m.seq
      (64 - min 64 (({ s with mesh := s.mesh.eraseIdx i } : State).entries m.target + 1)) = s.answered i m := rfl
  have he' : ((s.answered i m).core m.target).forward.toList.find? (fun x => x.1 == m.tag) = some e := he
  have hd' : (s.answered i m).coreAt (BitVec.ofNat 16 (e.2.toNat / 65536)) = some d := hd
  have hsent : (m.spawn || m.tag == 0) = false := Bool.or_eq_false_iff.mpr ⟨hspawn, beq_eq_false_iff_ne.mpr htag⟩
  simp only [State.messageArrives, hm, h, Bool.not_true, Bool.false_eq_true, if_false, hanswered, hsent, he', hd']
  rfl

end

/-! ## Spawn messages and waiting senders (R101, R104) -/

section
variable {s s' : State} {c : CoreId}

/-- The oldest message of an inbox, a spawn message whose record finds room, leaves its entry (R104). -/
theorem State.spawnPushed_first {m : Message} {rest : List Message} {r : Record} (hbox : (s.core c).inbox = m :: rest) (hspawn : m.spawn = true)
    (hbad : m.bad = false) (hrec : m.record = some r) (hm : isM c = false) (hpush : s.pushAt c (s.inCluster (clusterOf c) r) = some s') :
    s.spawnPushed c = s'.setCore c { s'.core c with inbox := (s'.core c).inbox.eraseIdx 0 } := by
  simp [State.spawnPushed, hbox, hspawn, hbad, hrec, hm, hpush]

/-- The sender that has waited longest takes an entry that is free (R101). -/
theorem State.senderEnters_first {k : TaskKey} {w : Wait} {rest : List (TaskKey × Wait)} (hs : s.senders c = (k, w) :: rest)
    (hroom : s.entries c < 64) :
    let s1 : State := { s with mesh := s.mesh.map (fun m => if m.seq == w.aux && m.target == c then { m with held := true } else m) }
    s.senderEnters c = (({ s1.wake k with cur := k } : State).defer { dest := .x w.f.d, msg := some w.aux }).complete k w.f := by
  simp only [State.senderEnters, hs, if_pos hroom]

end

/-! ## The ends of a SEND (R101, R104, R247, R344) -/

section
variable {f : Fields} {s s1 s2 : State} {ob : Obj} {bs0 bs : List Byte} {c : CoreId}

/-- The result of a SEND of `f` is outstanding in `t`, beside those of `s2`, until the message `m` has entered its inbox. -/
def awaitsEntry (f : Fields) (s2 t : State) (m : Message) : Prop := ∃ p, t.me.pend = s2.me.pend ++ [p] ∧ p.dest = .x f.d ∧ p.msg = some m.seq

/-- A message that has entered the mesh with an entry leaves its result outstanding. -/
theorem awaitsEntry_enterMesh (f : Fields) (s : State) (m : Message) :
    awaitsEntry f s ((s.enterMesh m).defer { dest := .x f.d, msg := some m.seq }) m :=
  ⟨_, State.pend_defer .., rfl, rfl⟩

/-- The tag of a data message: none for slot and number 0, else the target id (R101). -/
theorem sentMessage_tag (b : Word64) (bs : List Byte) (c : CoreId) (x : Record) (s : State) :
    (sentMessage false b bs c x s).tag = if b.toNat % 65536 = 0 then 0 else b.setWidth 32 := by
  simp only [sentMessage, Bool.false_or, decide_eq_true_eq]

/-- A data message to an inbox with an entry goes into the mesh and holds the entry. -/
theorem exec_send_held (h : SendReaches false f s s1 s2 ob bs0 bs) (hi : s.issues .send f = true) (hto : s2.sendTo (sendAddr f s) = .core c)
    (hroom : s2.entries c < 64) (hfirst : s2.senders c = []) :
    let m := sentMessage false (s.me.getX f.b) bs c (spawnRecord s2.me bs) s2
    exec (.send f) s = completes s ((s2.enterMesh m).defer { dest := .x f.d, msg := some m.seq }) f := by
  have hbody := sendBody_eq (o := .send) h
  rw [hto] at hbody
  exact run_ok hi (hbody.trans (State.sends_held (sentMessage_held hroom hfirst)))

/-- A data message to a full inbox goes into the mesh without an entry, and its sender parks. -/
theorem exec_send_waits (h : SendReaches false f s s1 s2 ob bs0 bs) (hi : s.issues .send f = true) (hto : s2.sendTo (sendAddr f s) = .core c)
    (hfull : 64 ≤ s2.entries c ∨ s2.senders c ≠ []) :
    let m := sentMessage false (s.me.getX f.b) bs c (spawnRecord s2.me bs) s2
    exec (.send f) s = parks s (s2.enterMesh m)
      { kind := .send, op := .send, f := f, object := (sendAddr f s).setWidth 64, aux := m.seq } := by
  have hbody := sendBody_eq (o := .send) h
  rw [hto] at hbody
  exact run_park hi (hbody.trans (State.sends_waiting (sentMessage_waits hfull)))

/-- A spawn message to an inbox with an entry goes into the mesh with its record, which the sender's core has counted, and holds the entry. -/
theorem exec_sendSpawn_held (h : SendReaches true f s s1 s2 ob bs0 bs) (hi : s.issues .sendSpawn f = true)
    (hto : s2.sendTo (sendAddr f s) = .core c) (hroom : s2.entries c < 64) (hfirst : s2.senders c = []) :
    let t := s2.stamp s2.myCore (spawnRecord s2.me bs)
    let m := sentMessage true (s.me.getX f.b) bs c t.2 t.1
    exec (.sendSpawn f) s = completes s ((t.1.enterMesh m).defer { dest := .x f.d, msg := some m.seq }) f := by
  have hbody := sendBody_eq (o := .sendSpawn) h
  rw [hto] at hbody
  have hheld : (sentMessage true (s.me.getX f.b) bs c (s2.stamped true bs).2 (s2.stamped true bs).1).held = true :=
    sentMessage_held ((State.entries_stamp ..).trans_lt hroom) hfirst
  exact run_ok hi (hbody.trans (State.sends_held hheld))

/-- A message to another package completes with its request on the way. -/
theorem exec_send_away (h : SendReaches false f s s1 s2 ob bs0 bs) (hi : s.issues .send f = true) (hto : s2.sendTo (sendAddr f s) = .away) :
    exec (.send f) s = completes s (s2.sendsAway f ((sendAddr f s).toNat / 512)) f := by
  have hbody := sendBody_eq (o := .send) h
  rw [hto] at hbody
  exact run_ok hi hbody

/-- A message whose target is refused raises its fault after issue (R63). -/
theorem exec_send_refused (h : SendReaches false f s s1 s2 ob bs0 bs) (hi : s.issues .send f = true)
    (hto : s2.sendTo (sendAddr f s) = .refused) : exec (.send f) s
      = completes s (s2.defer { dest := .x 0, fault := some { code := .remotePermission, ptr := oCanon (s.me.getO f.a) } }) f := by
  have hbody := sendBody_eq (o := .send) h
  rw [hto] at hbody
  exact run_late hi hbody rfl

/-- A message without a route raises its fault after issue (R63). -/
theorem exec_send_noRoute (h : SendReaches false f s s1 s2 ob bs0 bs) (hi : s.issues .send f = true)
    (hto : s2.sendTo (sendAddr f s) = .noRoute) : exec (.send f) s
      = completes s (s2.defer { dest := .x 0, fault := some { code := .region, ptr := oCanon (s.me.getO f.a) } }) f := by
  have hbody := sendBody_eq (o := .send) h
  rw [hto] at hbody
  exact run_late hi hbody rfl

end

/-! ## The statement -/

/-- Settles O16: each end of a SEND, then routers and arrivals, then the spawn messages and the waiting senders. -/
theorem messagesAreSentAndRouted : Obligations.MessagesAreSentAndRouted := by
  refine ⟨?sends, ?routes, ?leaves⟩
  case sends =>
    intro f s s1 s2 ob bs0 bs c r b addr w0 word awaits performed hcheck hob hkind htarget htouch hbytes hperformed
    have data (hbefore : readThrough s r 0 0 = .ok bs0) : SendReaches false f s s1 s2 ob bs0 bs :=
      ⟨hcheck, hob, hkind, htarget, hbefore, nofun, htouch, hbytes, hperformed⟩
    refine ⟨?held, ?waits, ?spawn, ?away, fun hi hbefore hto => exec_send_refused (data hbefore) hi hto,
      fun hi hbefore hto => exec_send_noRoute (data hbefore) hi hto⟩
    case held =>
      intro hi hbefore hto hroom hfirst
      exact ⟨_, _, exec_send_held (data hbefore) hi hto hroom hfirst, rfl, rfl, rfl, rfl, rfl, sentMessage_held hroom hfirst, rfl,
        sentMessage_tag .., rfl, awaitsEntry_enterMesh ..⟩
    case waits =>
      intro hi hbefore hto hfull
      exact ⟨_, _, _, exec_send_waits (data hbefore) hi hto hfull, rfl, rfl, rfl, sentMessage_waits hfull, rfl, rfl, rfl⟩
    case spawn =>
      intro hi hbefore hcb hbit hentry hto hroom hfirst
      have hfits : recordFits w0 = true := by simp [recordFits, hcb, hbit, hentry]
      have reaches : SendReaches true f s s1 s2 ob bs0 bs :=
        ⟨hcheck, hob, hkind, htarget, hbefore, fun _ => hfits, htouch, hbytes, hperformed⟩
      exact ⟨_, _, (s2.stamp s2.myCore (spawnRecord s2.me bs)).2, exec_sendSpawn_held reaches hi hto hroom hfirst, rfl, rfl, rfl, rfl, rfl,
        rfl, rfl, rfl, rfl, spawnRecord_entry s2.me bs, rfl, rfl, rfl, rfl, rfl, rfl, awaitsEntry_enterMesh ..⟩
    case away =>
      intro hi hbefore hto
      obtain ⟨p, n, hpend, hdest, hpeer, hval⟩ := s2.sendsAway_pend f (addr.toNat / 512)
      exact ⟨_, p, n, exec_send_away (data hbefore) hi hto, State.requestOver_mem .., State.mesh_requestOver .., hpend, hdest, hpeer, hval⟩
  case routes =>
    intro s i m hm
    refine ⟨fun hr hd => congrArg Host.Outcome.next (State.route_passes hm hr hd), ?dropped, ?ended, ?arrives, ?forwarded⟩
    case dropped =>
      intro k hr hd hid hrun hsound
      exact ⟨s.route i, rfl, State.route_dropped_stops hm hr hd hid hrun hsound⟩
    case ended =>
      intro d id hr hd hid hshadow hc
      exact ⟨_, _, congrArg Host.Outcome.next (State.route_dropped_reports hm hr hd hid hshadow hc), rfl, State.reports_report .., rfl, rfl, rfl⟩
    case arrives =>
      intro harrives htag left
      exact ⟨s.messageArrives i, rfl, State.messageArrives_takesPlace hm harrives htag⟩
    case forwarded =>
      intro e d harrives htag hspawn he hd
      exact ⟨_, _, congrArg Host.Outcome.next (State.messageArrives_forwarded hm harrives htag hspawn he hd), rfl, rfl, rfl, rfl, rfl⟩
  case leaves =>
    intro s c
    refine ⟨fun m rest r s' hbox hspawn hbad hrec hhalted hm hpush => ?_, fun k w rest hs hroom => ?_⟩
    · refine congrArg Host.Outcome.next ((if_neg (by simp [hhalted])).trans ?_)
      exact State.spawnPushed_first hbox hspawn hbad hrec hm hpush
    · exact congrArg Host.Outcome.next (State.senderEnters_first hs hroom)

end Sys2Proof.Machine
end

section
/-!
PROOFS. The refusals at issue in their order (R54, R58, R59, R66, R108), and the statement put together from them (O47).
-/

open Sys2Proof.Claims

namespace Sys2Proof.Machine

/-! ## The extension test and the guard (R59 checks 6 and 8) -/

/-- A task that meets an extension its core lacks does what `migrateRes` says, and nothing of the instruction (R66, R108). -/
theorem run_unlisted {o : Op} {f : Fields} {s : State} (body : State → Res) (hfits : modFits o f s.me = true)
    (hext : hasExt s.myCore o.row.ext = false) : run o f body s = .next (State.settle s.cur f (migrateRes s o f)) := by
  simp only [run, issue, hfits, hext]
  rfl

/-- Where no core of the cluster lists the extension, the task raises `no-extension`. -/
theorem run_noExtension {o : Op} {f : Fields} {s : State} (body : State → Res) (hfits : modFits o f s.me = true)
    (hext : hasExt s.myCore o.row.ext = false) (hstays : (o.row.ext != .mgmt && !isM s.myCore) = false) :
    run o f body s = faults s s { code := .noExtension } := by
  have hstays : (o.row.ext == .mgmt || isM s.myCore) = true := by simpa [bne, ← Bool.not_or] using hstays
  rw [run_unlisted body hfits hext, migrateRes, if_pos hstays]
  rfl

/-- A task that is to move first waits for the results that are still awaited. -/
theorem run_movesLater {o : Op} {f : Fields} {s : State} (body : State → Res) (hfits : modFits o f s.me = true)
    (hext : hasExt s.myCore o.row.ext = false) (hmoves : (o.row.ext != .mgmt && !isM s.myCore) = true)
    (hawaited : s.me.pend.any (·.awaited) = true) : run o f body s = .next s := by
  have hmoves : ¬ (o.row.ext == .mgmt || isM s.myCore) = true := by simpa [bne, ← Bool.not_or] using hmoves
  rw [run_unlisted body hfits hext, migrateRes, if_neg hmoves, if_pos hawaited]
  rfl

/-- A task that is to move parks for it, its results written. -/
theorem run_moves {o : Op} {f : Fields} {s : State} (body : State → Res) (hfits : modFits o f s.me = true)
    (hext : hasExt s.myCore o.row.ext = false) (hmoves : (o.row.ext != .mgmt && !isM s.myCore) = true)
    (hawaited : s.me.pend.any (·.awaited) = false) :
    run o f body s = parks s (s.landAll s.cur) { kind := .migration, op := o, f := f } := by
  have hmoves : ¬ (o.row.ext == .mgmt || isM s.myCore) = true := by simpa [bne, ← Bool.not_or] using hmoves
  rw [run_unlisted body hfits hext, migrateRes, if_neg hmoves, if_neg (Bool.not_eq_true _ ▸ hawaited)]
  rfl

/-- An instruction other than YIELD whose guard is off only falls through (R54). -/
theorem run_guardedOff {o : Op} {f : Fields} {s : State} (body : State → Res) (hfits : modFits o f s.me = true)
    (hext : hasExt s.myCore o.row.ext = true) (hpriv : needsPriv o f = true → s.me.priv = true) (hlanes : o.row.lanes = false)
    (hyield : o ≠ .yield) (hguard : (s.me.guard f).getLsbD 0 = false) : run o f body s = completes s s f := by
  have hallowed : (needsPriv o f && !s.me.priv) = false := by
    cases hn : needsPriv o f
    · rfl
    · simp [hpriv hn]
  have hnone : guardedOff o s = .ok s := if_neg (by simpa using hyield)
  rw [run_skipped body hfits hext hallowed hlanes hguard, hnone]
  rfl

/-- Settles O47: each check from the lemma that says how its refusal ends. -/
theorem issueTestsComeFirst : Obligations.IssueTestsComeFirst := by
  intro i o f s hparts
  obtain ⟨body, hexec⟩ := exec_issue hparts
  rw [hexec s]
  exact ⟨run_misfit body, run_noExtension body, run_movesLater body, run_moves body, run_unprivileged body, run_guardedOff body⟩

end Sys2Proof.Machine
end

section
/-!
PROOFS. The step of a core that alone may issue: its slot, what its task fetches, and the statement put together from that (O49).
-/

open Sys2Proof.Claims

namespace Sys2Proof.Machine

/-! ## The slot that issues (R91) -/

/-- The rotation names the slots of a core. -/
theorem State.lt_of_mem_rotation {s : State} {c : CoreId} {n : Nat} (h : n ∈ s.rotation c) : n < 8 := by
  obtain ⟨i, -, rfl⟩ := List.mem_map.mp h
  exact Nat.mod_lt _ (by decide)

/-- A core issues from one of its slots. -/
theorem State.nextSlot_lt {s : State} {c : CoreId} {n : Nat} (h : s.nextSlot c = some n) : n < 8 := by
  refine State.lt_of_mem_rotation (s := s) (c := c) ?_
  simp only [State.nextSlot] at h
  split at h
  · next m hm => exact Option.some.inj h ▸ List.mem_of_find?_eq_some hm
  · exact List.mem_of_find?_eq_some h

/-- A task after an issue of slot `n` has cleared the YIELD marks of that slot and of those it passed (R399). -/
def State.unskip (s : State) (c n : Nat) (k : TaskKey) (t : Task) : Task :=
  if coreOf k == c && (k % 8 == n || ((s.rotation c).takeWhile (· != n)).contains (k % 8)) then { t with skip := false } else t

/-- An issue clears the marks it passes, and changes the tasks in nothing else. -/
theorem State.task_passOver (s : State) (c n : Nat) (j : TaskKey) : (s.passOver c n).task j = s.unskip c n j (s.task j) :=
  FMap.find_mapKeyed _ (s.unskip c n) _ _ (ite_self _)

/-- But for its YIELD mark every task is as before. -/
theorem State.task_passOver_skip (s : State) (c n : Nat) (j : TaskKey) :
    { (s.passOver c n).task j with skip := false } = { s.task j with skip := false } := by
  rw [State.task_passOver, State.unskip]
  split <;> rfl

/-- The slot that issues has no YIELD mark. -/
theorem State.task_passOver_issuing (s : State) (c : Nat) {n : Nat} (hn : n < 8) :
    (s.passOver c n).task (8 * c + n) = { s.task (8 * c + n) with skip := false } := by
  rw [State.task_passOver, State.unskip, if_pos]
  have hcore : coreOf (8 * c + n) = c := show (8 * c + n) / 8 = c by omega
  have hslot : (8 * c + n) % 8 = n := by omega
  simp [hcore, hslot]

/-! ## Fetching (R59 checks 1 to 5) -/

section
variable {rs : List CodeRange} {pc : Word32}

/-- An address without a start bit is no place to fetch from (R65). -/
theorem fetch_noStart (h : startBit rs pc.toNat = false) : fetch rs pc = .error .branchTarget := by simp [fetch, h]

/-- Parcels in a struck block are not read (R240). -/
theorem fetch_struck (h : startBit rs pc.toNat = true) (hb : badCode rs pc.toNat (((parcelsAt rs pc.toNat).head?.map lenOf).getD 1) = true) :
    fetch rs pc = .error .uncorrectable := by simp [fetch, h, hb]

/-- Parcels that decode give their instruction. -/
theorem fetch_decodes {i : Instr} {rest : List Word32} (h : startBit rs pc.toNat = true)
    (hb : badCode rs pc.toNat (((parcelsAt rs pc.toNat).head?.map lenOf).getD 1) = false)
    (hd : decodeParcels (parcelsAt rs pc.toNat) = .ok (i, rest)) : fetch rs pc = .ok i := by simp [fetch, h, hb, hd]

/-- Parcels that do not decode give their fault. -/
theorem fetch_rejects {e : Reject} (h : startBit rs pc.toNat = true)
    (hb : badCode rs pc.toNat (((parcelsAt rs pc.toNat).head?.map lenOf).getD 1) = false)
    (hd : decodeParcels (parcelsAt rs pc.toNat) = .error e) : fetch rs pc = .error e.code := by simp [fetch, h, hb, hd]

end

/-! ## The step of the only core that may issue -/

/-- The state in which slot `n` of core `c` issues. -/
def State.issuing (s : State) (c : CoreId) (n : Nat) : State :=
  { (s.passOver c n).setCore c { s.core c with lastSlot := n } with cur := 8 * c + n }

/-- What the acting task fetches: nothing when it fell past the end of the code (R65), else the instruction at its pc. -/
def State.fetched (s : State) (c : CoreId) (k : TaskKey) : Except FaultCode Instr :=
  if (s.task k).past then .error .branchTarget else fetch (s.codeOf c) (s.task k).pc

/-- What is executed for a fetch: the instruction, or the fault of its parcels. -/
def instrOfFetch : Except FaultCode Instr → Instr
  | .ok i => i
  | .error e => .undecodableParcel e

/-- The step of a core that alone may go on executes what its task fetches. -/
theorem step_issue {s : State} {c : CoreId} {n : Nat} (hc : s.choices = [.issue c]) (hn : s.nextSlot c = some n) :
    step s = exec (instrOfFetch (s.fetched c (8 * c + n))) (s.issuing c n) := by
  have hme : (s.issuing c n).me = { s.task (8 * c + n) with skip := false } := s.task_passOver_issuing c (State.nextSlot_lt hn)
  have hpick : s.pickNext = (s.issuing c n, instrOfFetch (s.fetched c (8 * c + n))) := by
    rw [State.pickNext, hc]
    simp only [State.startIssue, hn]
    change (match (if (s.issuing c n).me.past then .error .branchTarget else fetch (s.codeOf c) (s.issuing c n).me.pc) with
      | .ok i => (s.issuing c n, i)
      | .error e => (s.issuing c n, .undecodableParcel e)) = _
    rw [hme, State.fetched]
    dsimp only
    split <;> simp_all [instrOfFetch]
  rw [step, hpick]

/-- Settles O49: the state of the issue, and each outcome of the fetch. -/
theorem stepRunsTheDecodedInstruction : Obligations.StepRunsTheDecodedInstruction := by
  intro s c n hc hn k t rs bad
  have hstep := step_issue hc hn
  have runs {e : Except FaultCode Instr} (hpast : t.past = false) (hf : fetch rs t.pc = e) : step s = exec (instrOfFetch e) (s.issuing c n) := by
    rw [hstep, State.fetched, show (s.task (8 * c + n)).past = false from hpast, ← hf]
    rfl
  have hcore : (s.issuing c n).core c = { s.core c with lastSlot := n } := State.core_setCore ..
  refine ⟨s.issuing c n, rfl, by rw [hcore], s.task_passOver_skip c n, ?_, fun d hd => State.core_setCore_other _ hd _, by rw [hcore], rfl,
    fun i rest hpast hstart hbad hd => runs hpast (fetch_decodes hstart hbad hd),
    fun e hpast hstart hbad hd => runs hpast (fetch_rejects hstart hbad hd),
    fun hpast hstart hbad => runs hpast (fetch_struck hstart hbad), ?_⟩
  · exact congrArg Task.skip (s.task_passOver_issuing c (State.nextSlot_lt hn))
  · intro hend
    cases hpast : t.past
    · exact runs hpast (fetch_noStart (hend.resolve_left (by simp [hpast])))
    · rw [hstep, State.fetched, show (s.task (8 * c + n)).past = true from hpast]
      rfl

end Sys2Proof.Machine
end

section
/-!
PROOFS. Register instructions of a parked task: the state that refutes the statement (O56).
-/

open Sys2Proof.Claims

namespace Sys2Proof.Machine

/-- A marked ADD that writes `x0`: a switch point after it (R61). -/
def markedAdd : Fields := { m := true }

/-- A state whose acting task is parked at a switch point and waits for nothing: no result is outstanding and no wait is noted (R61, R90). -/
def parkedState : State := State.reset.setMe { Task.empty with status := .parked }

/-- The state that the marked ADD leads to from there. -/
def parkedAfter : State := issue .add markedAdd (alu (fun w a b => satOr (satBit markedAdd) w (toSigned w a + toSigned w b)) markedAdd) parkedState

/-- The tests at issue do not ask whether the task is ready. -/
theorem parkedState_issues : parkedState.issues .add markedAdd = true := by decide

/-- The switch point after the instruction finds nothing outstanding and lets the task go on (R61). -/
theorem parkedAfter_status : (parkedAfter.task parkedState.cur).status = .ready := by decide

/-- Refutes O56: `issues` and `quiet` hold of a parked task, too, and the switch point after a marked instruction makes it ready, which is a change
beside the destination, the flags and the pc. The step function issues for ready tasks only, but the statement speaks of every state. -/
theorem not_registerInstructionsChangeOnlyTheirDestination : ¬ Obligations.RegisterInstructionsChangeOnlyTheirDestination := by
  intro h
  obtain ⟨hscalar, -⟩ := h .add markedAdd parkedState parkedAfter parkedState_issues (.inl rfl) rfl
  obtain ⟨-, ⟨hmoved, -⟩, -⟩ := hscalar (by decide)
  have hstatus : (parkedAfter.task parkedState.cur).status = .parked := congrArg Task.status hmoved
  exact absurd (parkedAfter_status.symm.trans hstatus) (by decide)

end Sys2Proof.Machine
end

section
/-!
PROOFS. What the tasks' family rests on: a parked instruction that is tried again, and what an access order's fixing of loads leaves alone.
-/

namespace Sys2Proof.Machine

/-! ## A parked instruction that is tried again (R90) -/

/-- The state in which the parked task of a slot tries its instruction again. -/
def State.retrying (u : State) (k : TaskKey) : State :=
  { u with cur := k, tasks := u.tasks.set k { u.task k with status := .ready, wait := none } }

/-- A parked instruction that has what it waited for completes. -/
theorem State.reissue_completes {u s t : State} {k : TaskKey} {kind : WaitKind} {w : Wait} {f : Fields} {body : Fields → State → Res}
    (hw : (u.task k).wait = some w) (hp : (u.task k).status = .parked) (hk : w.kind = kind) (hf : w.f = f) (hs : s = u.retrying k)
    (hb : body f s = .ok t) : u.reissue k kind body = t.complete k f := by
  subst hf hs
  have hparked : ¬ ((u.task k).status != .parked || w.kind != kind) = true := by simp [hp, hk]
  have hbody : body w.f (State.setTask { u with cur := k } k { u.task k with status := .ready, wait := none }) = .ok t := hb
  simp only [State.reissue, hw]
  rw [if_neg hparked, hbody]
  rfl

/-! ## Loads that are performed (R205, R208) -/

/-- Performing outstanding loads changes nothing but the tasks. -/
theorem State.fixLoads_eq (s : State) (k : TaskKey) (hit : Pend → Elem → Bool) :
    s.fixLoads k hit = { s with tasks := (s.fixLoads k hit).tasks } := by
  unfold State.fixLoads
  split <;> rfl

/-- Performing the loads that come before an access leaves struck blocks struck. -/
@[simp] theorem State.poisoned_fixAt (s : State) (a n b m : Nat) : (s.fixAt a n).poisoned b m = s.poisoned b m := by
  rw [State.fixAt, State.fixLoads_eq]
  rfl

/-- Performing the loads that come before an access leaves memory's words as they are. -/
@[simp] theorem State.peekWord_fixAt (s : State) (a n b : Nat) : (s.fixAt a n).peekWord b = s.peekWord b := by
  rw [State.peekWord, State.fixAt_mem, State.peekWord]

end Sys2Proof.Machine
end

section
/-!
PROOFS. FORK: the record it builds and places, with a join word or without, at once or later (R92, R93, R298), and the statement put together
from that (O12).
-/

open Sys2Proof.Claims

namespace Sys2Proof.Machine

/-! ## The record's place (R93) -/

/-- The state in which a FORK's record has its place, if there is room: the record has its id, the id is outstanding, and the target is
chosen (R92, R298). -/
def State.forkPlaces (s : State) (f : Fields) : Option State :=
  let stamped := s.stamp s.myCore (forkRecord s.me f)
  let r := stamped.2
  let t := (stamped.1.deferX f.d ((r.recCore ++ r.recCount).setWidth 64)).forkTarget f r
  t.2.forkPut t.2.myCore t.1 r

section
variable {f : Fields} {s s1 u : State} {a : Nat}

/-- A FORK whose record finds room completes. -/
theorem forkGo_places (hput : s.forkPlaces f = some u) : forkGo f s = .ok u := by
  simp only [State.forkPlaces] at hput
  simp only [forkGo, hput]

/-- A FORK without a join object makes its record at once. -/
theorem forkBody_unjoined (harg : malformed (oCanon (s.me.getO f.a)) = false) (hj : oCanon (s.me.getO f.c) = 0)
    (hput : s.forkPlaces f = some u) : forkBody f s = .ok u := by
  simp only [forkBody, need_ok (show (!malformed (oCanon (s.me.getO f.a))) = true by simp [harg]), act_bind_ok, if_pos hj, forkGo_places hput]
  rfl

/-- A FORK with a join object counts its child in the join word first (R93). -/
theorem forkBody_joined (harg : malformed (oCanon (s.me.getO f.a)) = false) (hj : oCanon (s.me.getO f.c) ≠ 0)
    (hneed : needJoin s (s.me.getO f.c) = .ok ()) (hplace : joinPlace s (oCanon (s.me.getO f.c)) = .ok (s1, a))
    (hput : (s1.joinAdd a 1).forkPlaces f = some u) : forkBody f s = .ok u := by
  simp only [forkBody, need_ok (show (!malformed (oCanon (s.me.getO f.a))) = true by simp [harg]), act_bind_ok, if_neg hj, hneed, hplace,
    forkGo_places hput]
  rfl

end

/-! ## A record that waited for room (R93) -/

/-- A parked FORK whose record can be placed completes. -/
theorem State.forkPlaced_completes {s u : State} {k : TaskKey} {w : Wait} {r : Record} (hw : (s.task k).wait = some w) (hr : w.record = some r)
    (hp : (s.task k).status = .parked) (hkind : w.kind = .room) (hop : w.op = .fork) (hruns : s.haltedAt (coreOf k) = false)
    (htarget : isM (coreOf k) = false ∨ w.aux ≠ 0) (hput : ({ s with cur := k } : State).forkPut (coreOf k) w.aux r = some u) :
    s.forkPlaced k = (u.wake k).complete k w.f := by
  have hwaits : ¬ ((s.task k).status != .parked || w.kind != .room || w.op != .fork || s.haltedAt (coreOf k)) = true := by
    simp [hp, hkind, hop, hruns]
  have hchosen : ¬ (isM (coreOf k) && decide (w.aux = 0)) = true := by
    rcases htarget with h | h <;> simp [h]
  simp only [State.forkPlaced, hw, hr]
  rw [if_neg hwaits, if_neg hchosen]
  simp only [hput]

/-! ## The statement -/

/-- Settles O12: a FORK without and with a join object, then one that has waited for room. -/
theorem forksPlaceRecords : Obligations.ForksPlaceRecords := by
  refine ⟨fun f s => ⟨?unjoined, ?joined⟩, ?waited⟩
  case unjoined => exact fun u hi harg hj hput => run_ok hi (forkBody_unjoined harg hj hput)
  case joined => exact fun s1 a u hi harg hj hneed hplace hput => run_ok hi (forkBody_joined harg hj hneed hplace hput)
  case waited =>
    intro s u k w r s' hw hr hp hkind hop hruns htarget hput
    exact congrArg Host.Outcome.next (State.forkPlaced_completes hw hr hp hkind hop hruns htarget hput)

end Sys2Proof.Machine
end

section
/-!
PROOFS. JOIN, YIELD and IDLE: what each comes to and how a wait ends (R94, R96, R304, R307, R399), and the statement put together from
that (O13).
-/

open Sys2Proof.Claims

namespace Sys2Proof.Machine

/-! ## JOIN (R94, R307) -/

/-- A JOIN whose checks pass reads its word `bs` (R94): `a` and `h` are the place and the header of its object. -/
structure JoinReads (f : Fields) (s : State) (a : Nat) (h : Word64) (bs : List Byte) : Prop where
  checked : check s (s.me.getO f.a) (litOffset f) 8 8 = .ok ()
  object : header s (oCanon (s.me.getO f.a)) = .ok (a, h)
  kind : hKind h = 0
  plain : hStaged h = false
  word : readCanon s (s.me.getO f.a) (litOffset f).toNat 8 = .ok bs

/-- JOIN goes on when its word reads 0, and parks while it does not. -/
theorem joinBody_eq {f : Fields} {s : State} {a : Nat} {h : Word64} {bs : List Byte} (hj : JoinReads f s a h bs) : joinBody f s =
    if leNat bs = 0 then .ok (s.fixObj (oCanon (s.me.getO f.a)) (16 + oView (s.me.getO f.a) + (litOffset f).toNat) 8)
    else .park s { kind := .join, op := .join, f := f, object := oCanon (s.me.getO f.a), offset := BitVec.ofInt 32 (litOffset f) } := by
  have hkind : (hKind h == 0 && !hStaged h) = true := by simp [hj.kind, hj.plain]
  simp only [joinBody, hj.checked, hj.object, hj.word, needKind_ok hkind, act_bind_ok]
  split
  · next hzero => rw [needOr_ok (by simpa using hzero)]; rfl
  · next hcount => rw [needOr_no (by simpa using hcount)]; rfl

/-! ## YIELD (R96, R399) -/

/-- A YIELD marks its task, so that the rotation passes the slot once. -/
theorem yieldBody_eq {s l : State} (hl : landed s = .ok l) : yieldBody s = .ok (l.setMe { l.me with skip := true }) := by
  simp only [yieldBody, hl, act_bind_ok]
  rfl

/-- A YIELD that its guard turns off is a switch point all the same (R399). -/
theorem run_yield_guardedOff {f : Fields} {s l : State} (hl : landed s = .ok l) (hfits : modFits .yield f s.me = true)
    (hext : hasExt s.myCore Op.yield.row.ext = true) (hguard : (s.me.guard f).getLsbD 0 = false) :
    run .yield f yieldBody s = completes s l f := by
  have hoff : guardedOff .yield s = .ok l := by
    rw [guardedOff, if_pos (by decide), hl]
    rfl
  rw [run_skipped yieldBody hfits hext rfl rfl hguard, hoff]
  rfl

/-! ## IDLE (R96, R304) -/

/-- IDLE goes on when a message or a filled mailbox waits at its switch point, and parks otherwise. -/
theorem idleBody_eq {f : Fields} {s l : State} (hl : landed s = .ok l) :
    idleBody f s = if l.idleEnds l.cur then .ok l else .park l { kind := .idle, op := .idle, f := f } := by
  simp only [idleBody, hl, act_bind_ok]
  rfl

/-- A parked IDLE ends once what it waits for is there or has come. -/
theorem State.idleWoken_ends {s : State} {k : TaskKey} {w : Wait} (hw : (s.task k).wait = some w) (hp : (s.task k).status = .parked)
    (hkind : w.kind = .idle) (hcame : w.aux = 1 ∨ s.idleEnds k = true) : s.idleWoken k = (s.wake k).complete k w.f := by
  have hends : ((s.task k).status == .parked && w.kind == .idle && (w.aux == 1 || s.idleEnds k)) = true := by
    simpa [hp, hkind] using hcame
  simp only [State.idleWoken, hw]
  rw [if_pos hends]

/-! ## The statement -/

/-- Settles O13: JOIN at its issue and at its wake, YIELD with its guard on and off, IDLE at its issue and at its wake. -/
theorem joinsYieldsAndIdles : Obligations.JoinsYieldsAndIdles := by
  refine ⟨?joins, ?switches⟩
  case joins =>
    intro s f a h bs r off hchecked hobject hkind hplain hword read
    have hbody := joinBody_eq (f := f) ⟨hchecked, hobject, hkind, hplain, hword⟩
    refine ⟨fun hi hzero => ?zero, fun hi hcount => ?counts, fun u w hw hp hk hf hs hzero => ?wakes⟩
    case zero => exact run_ok hi (hbody.trans (if_pos hzero))
    case counts => exact run_park hi (hbody.trans (if_neg hcount))
    case wakes => exact congrArg Host.Outcome.next (State.reissue_completes hw hp hk hf hs (hbody.trans (if_pos hzero)))
  case switches =>
    intro f s l hl
    refine ⟨fun hi => run_ok hi (yieldBody_eq hl), fun hfits hext hguard => run_yield_guardedOff hl hfits hext hguard, fun hi hends => ?goesOn,
      fun hi hnone => ?parks, fun k w hw hp hk hcame => ?wakes⟩
    case goesOn => exact run_ok hi ((idleBody_eq hl).trans (if_pos hends))
    case parks => exact run_park hi ((idleBody_eq hl).trans (if_neg (by simp [hnone])))
    case wakes => exact congrArg Host.Outcome.next (State.idleWoken_ends hw hp hk hcame)

end Sys2Proof.Machine
end

section
/-!
PROOFS. HALT: the slot it frees, the successor that it starts in its slot with retain (R89, R95, R302), and the statement put together from
that (O14).
-/

open Sys2Proof.Claims

namespace Sys2Proof.Machine

/-! ## HALT without retain (R95) -/

/-- The slot of a task that ends is free with the generation it had. -/
@[simp] theorem State.task_endTask (s : State) (k : TaskKey) : (s.endTask k).task k = { Task.empty with gen := (s.task k).gen } :=
  State.task_setTask ..

section
variable {s l s1 : State}

/-- HALT without a join word ends its task. -/
theorem haltBody_unjoined (hl : landed s = .ok l) (hr : released l = .ok s1) (hj : s1.me.join = 0) :
    haltBody s = .gone (s1.endTask s1.cur) := by
  simp only [haltBody, hl, hr, act_bind_ok, if_pos hj]
  rfl

/-- HALT takes 1 from the join word before it ends its task. -/
theorem haltBody_joined {u : State} {a : Nat} (hl : landed s = .ok l) (hr : released l = .ok s1) (hj : s1.me.join ≠ 0)
    (hplace : joinPlace s1 s1.me.join = .ok (u, a)) :
    haltBody s = .gone ((u.joinAdd a (-1)).endTask (u.joinAdd a (-1)).cur) := by
  simp only [haltBody, hl, hr, act_bind_ok, if_neg hj, hplace]
  rfl

end

/-! ## Registers that pass to a successor (R95) -/

/-- Writing an o register leaves the x registers alone. -/
@[simp] theorem Task.getX_setO (t : Task) (n m : BitVec 6) (v : BitVec 128) : (t.setO n v).getX m = t.getX m := by
  unfold Task.setO
  split <;> rfl

/-- Writing an x register leaves the o registers alone. -/
@[simp] theorem Task.getO_setX (t : Task) (n m : BitVec 6) (v : Word64) : (t.setX n v).getO m = t.getO m := by
  unfold Task.setX
  split <;> rfl

/-- A task with the registers o1 to o`n` of another. -/
def Task.keepO (t old : Task) (n : Nat) : Task :=
  (List.range n).foldl (fun (t : Task) i => t.setO (BitVec.ofNat 6 (i + 1)) (old.getO (BitVec.ofNat 6 (i + 1)))) t

/-- One more register is kept. -/
theorem Task.keepO_succ (t old : Task) (n : Nat) :
    t.keepO old (n + 1) = (t.keepO old n).setO (BitVec.ofNat 6 (n + 1)) (old.getO (BitVec.ofNat 6 (n + 1))) := by
  simp only [Task.keepO, List.range_succ, List.foldl_append, List.foldl_cons, List.foldl_nil]

/-- Keeping o registers changes no other part of a task. -/
theorem Task.keepO_eq (t old : Task) (n : Nat) : t.keepO old n = { t with o := (t.keepO old n).o } := by
  induction n with
  | zero => rfl
  | succ n ih =>
    rw [Task.keepO_succ, ih]
    unfold Task.setO
    split <;> rfl

/-- The x registers are as before. -/
@[simp] theorem Task.getX_keepO (t old : Task) (n : Nat) (m : BitVec 6) : (t.keepO old n).getX m = t.getX m := by
  rw [Task.keepO_eq]
  rfl

/-- The registers o1 to o`n` are the old task's, the others as before. -/
theorem Task.getO_keepO (t old : Task) {n : Nat} (hn : n < 32) (m : BitVec 6) :
    (t.keepO old n).getO m = if 1 ≤ m.toNat ∧ m.toNat ≤ n then old.getO m else t.getO m := by
  induction n with
  | zero => rw [if_neg (by omega)]; rfl
  | succ n ih =>
    have hlast : (BitVec.ofNat 6 (n + 1)).toNat = n + 1 := by rw [BitVec.toNat_ofNat]; omega
    rw [Task.keepO_succ]
    by_cases hm : m = BitVec.ofNat 6 (n + 1)
    · subst hm
      have hnot0 : BitVec.ofNat 6 (n + 1) ≠ 0 := fun h => by simp [h] at hlast
      rw [Task.getO_setO_same _ hnot0 (by omega), if_pos (by omega)]
    · have hne : m.toNat ≠ n + 1 := fun h => hm (BitVec.eq_of_toNat_eq (h.trans hlast.symm))
      rw [Task.getO_setO_other _ hm, ih (by omega)]
      exact if_congr (by omega) rfl rfl

/-! ## HALT with retain (R95, R302) -/

/-- Word `i` of the 64 bytes that a successor starts with. -/
def startWord (bs : List Byte) (i : Nat) : Word64 := leWord ((bs.drop (8 * i)).take 8)

/-- The successor that the acting task leaves in slot `k`: x1 to x4 from words 4 to 7 of its object's bytes, x5 the old id, and o1 to o7. -/
def State.successor (s : State) (k : TaskKey) (f : Fields) (bs : List Byte) : Task :=
  let t := s.me
  let n : Task := { Task.empty with
    status := .ready, gen := nextGen t.gen, tid := s.taskId k (nextGen t.gen), pc := (t.getX f.b).setWidth 32
    width := t.width, acore := t.acore, tenant := t.tenant, domain := t.domain, part := t.part, ctx := t.ctx
    priv := t.priv, join := t.join, launch := t.launch, pins := s.pinnable k }
  (((((n.setX 1 (startWord bs 4)).setX 2 (startWord bs 5)).setX 3 (startWord bs 6)).setX 4 (startWord bs 7)).setX 5
    (t.tid.setWidth 64)).keepO t 7

/-- HALT with retain puts the successor in the slot; beside that it writes nothing to memory. -/
theorem haltRetainBody_starts {f : Fields} {s l s1 s2 : State} {ob : Obj} {bs : List Byte} (hl : landed s = .ok l)
    (hcheck : check l (l.me.getO f.a) 0 64 16 = .ok ()) (hob : objOf l (l.me.getO f.a) = .ok ob) (hkind : hKind ob.hdr = 0)
    (hload : loadable l.me.priv ob.hdr = true) (htouch : touch l f.a ob.hdr = .ok s1) (hbytes : readThrough s1 (s1.me.getO f.a) 0 64 = .ok bs)
    (hr : released s1 = .ok s2) :
    ∃ u : State, haltRetainBody f s = .gone (u.setTask l.cur (s2.successor l.cur f bs)) ∧ u.mem = s2.mem := by
  have hplain : (hKind ob.hdr == 0 && loadable l.me.priv ob.hdr) = true := by simp [hkind, hload]
  simp only [haltRetainBody, hl, hcheck, hob, needKind_ok hplain, htouch, hbytes, hr, act_bind_ok]
  refine ⟨_, rfl, ?_⟩
  rw [State.setCore_mem, State.unpin_mem, State.releaseNodes_mem]
  split <;> rfl

section
variable (s : State) (k : TaskKey) (f : Fields) (bs : List Byte)

/-- A successor is ready, at the entry that xB names. -/
theorem State.successor_starts : (s.successor k f bs).status = .ready ∧ (s.successor k f bs).pc = (s.me.getX f.b).setWidth 32 := by
  rw [State.successor, Task.keepO_eq]
  exact ⟨rfl, rfl⟩

/-- The x registers of a successor. -/
theorem State.successor_getX : (s.successor k f bs).getX 1 = startWord bs 4 ∧ (s.successor k f bs).getX 2 = startWord bs 5
    ∧ (s.successor k f bs).getX 3 = startWord bs 6 ∧ (s.successor k f bs).getX 4 = startWord bs 7
    ∧ (s.successor k f bs).getX 5 = s.me.tid.setWidth 64 ∧ (s.successor k f bs).getX 8 = 0 := by
  simp only [State.successor, Task.getX_keepO]
  exact ⟨rfl, rfl, rfl, rfl, rfl, rfl⟩

/-- The o registers of a successor: o1 to o7 kept, the others null. -/
theorem State.successor_getO (n : BitVec 6) : (s.successor k f bs).getO n = if 1 ≤ n.toNat ∧ n.toNat ≤ 7 then s.me.getO n else Task.empty.getO n := by
  simp only [State.successor, Task.getO_keepO _ _ (show 7 < 32 by decide), Task.getO_setX]
  rfl

end

/-! ## The statement -/

/-- Settles O14: HALT without and with a join word, then HALT with retain. -/
theorem haltEndsItsTask : Obligations.HaltEndsItsTask := by
  refine ⟨?ends, ?retains⟩
  case ends =>
    intro f s l s1 s2 a hi hl hr hcur hjoin hcur2
    have hgone : haltBody s = .gone (s2.endTask s.cur) := by
      rw [← hcur2]
      rcases hjoin with ⟨hj, rfl⟩ | ⟨hj, u, hplace, rfl⟩
      · exact haltBody_unjoined hl hr hj
      · exact haltBody_joined hl hr hj hplace
    refine ⟨s2.endTask s.cur, run_gone hi hgone, ?_, ?_, State.endTask_mem ..⟩
    · rw [State.task_endTask]; rfl
    · rw [State.task_endTask]
  case retains =>
    intro f s l s1 s2 ob bs r hi hl hcheck hob hkind hload htouch hbytes hr hcurl hcur2 hlen
    obtain ⟨u, hgone, hmem⟩ := haltRetainBody_starts hl hcheck hob hkind hload htouch hbytes hr
    obtain ⟨hready, hpc⟩ := s2.successor_starts s.cur f bs
    obtain ⟨hx1, hx2, hx3, hx4, hx5, hx8⟩ := s2.successor_getX s.cur f bs
    have hkept (n : BitVec 6) (h1 : 1 ≤ n.toNat) (h7 : n.toNat ≤ 7) : (s2.successor s.cur f bs).getO n = s2.me.getO n :=
      (s2.successor_getO ..).trans (if_pos ⟨h1, h7⟩)
    have hnull : (s2.successor s.cur f bs).getO 8 = 0 := (s2.successor_getO ..).trans (if_neg (by decide))
    rw [hcurl] at hgone
    refine ⟨u.setTask s.cur (s2.successor s.cur f bs), run_gone hi hgone, ?_⟩
    rw [State.task_setTask]
    exact ⟨hready, hpc, hx1, hx2, hx3, hx4, hx5, hkept, hnull, hx8, hmem⟩

end Sys2Proof.Machine
end

section
/-!
PROOFS. A spill area whose record an uncorrectable error has struck, and the refutation of O15 (R97, R240).
-/

open Sys2Proof.Claims

namespace Sys2Proof.Machine

/-! ## SPILL_RETURN of a struck record (R97, R240) -/

/-- A short deque is not refilled when a record that would return is struck: the error is reported instead (R240; log entry 3). -/
theorem State.unspill_struck {s : State} {c : CoreId} (hshort : (s.core c).deque.length < 64)
    (hstruck : ((s.core c).spill.take (64 - (s.core c).deque.length)).any (·.bad) = true) : s.unspill c = s.badRecord c := by
  simp only [State.unspill, if_pos hshort, if_pos hstruck]

/-- A report of a fault leaves the deques alone. -/
@[simp] theorem State.core_badRecord (s : State) (c d : CoreId) : (s.badRecord c).core d = s.core d := by
  unfold State.badRecord State.unitFault
  split
  · split <;> rfl
  · rfl

/-- Core 0 of a configured partition: its deque is empty, and the only record of its spill area is struck. -/
def struckSpill : State :=
  { State.reset with
    parts := [(0, { Partition.initial with configured := true, member := 1 })]
    cores := [(0, { Core.initial with spill := [{ bad := true }] })] }

/-- SPILL_RETURN answers the struck record with a report of the die's task graph unit, and the deque stays empty. -/
theorem struckSpill_reports : struckSpill.unspill 0 = struckSpill.badRecord 0
    ∧ ((struckSpill.badRecord 0).halt 0).reports.map (fun r => (r.agent, r.info.code)) = [(.taskGraph 0, some .uncorrectable)]
    ∧ ((struckSpill.unspill 0).core 0).deque.length = 0 ∧ (struckSpill.logical 0).length = 1 := by
  have hstruck : struckSpill.unspill 0 = struckSpill.badRecord 0 := State.unspill_struck (by decide) (by decide)
  refine ⟨hstruck, by decide, ?_, by decide⟩
  rw [hstruck, State.core_badRecord]
  rfl

/-- Refutes O15: its SPILL_RETURN clause refills every deque of fewer than 64 records, and one whose spill area holds a record that an
uncorrectable error has struck is not refilled, since R240 has the error reported (R97). Only that clause is refuted here. -/
theorem not_recordsAndTasksMove : ¬ Obligations.RecordsAndTasksMove := by
  rintro ⟨-, hcores, -⟩
  obtain ⟨t, hexec, -, hfilled⟩ := (hcores struckSpill 0).2 (by decide)
  obtain ⟨-, -, hempty, hone⟩ := struckSpill_reports
  have ht : struckSpill.unspill 0 = t := Host.Outcome.next.inj hexec
  rw [← ht, hempty, hone] at hfilled
  exact absurd hfilled (by decide)

end Sys2Proof.Machine
end

section
/-!
PROOFS. RECV and the mailboxes of jobs: what each comes to and how a wait ends (R102, R186, R308, R338), and the statement put together from
that (O17).
-/

open Sys2Proof.Claims

namespace Sys2Proof.Machine

/-! ## RECV (R102, R338) -/

/-- The oldest message of the inbox of the acting task's core that the task may take. -/
def State.oldestMessage (s : State) : Option Nat := (s.core s.myCore).inbox.findIdx? (s.mayTake s.myCore s.me.tid)

/-- The checks of a RECV pass: its object may be stored to (R338). -/
structure RecvStores (f : Fields) (s : State) (ob : Obj) : Prop where
  checked : check s (s.me.getO f.d) 0 64 8 = .ok ()
  object : storeObj s (s.me.getO f.d) false = .ok ob
  kind : storable s (oCanon (s.me.getO f.d)) s.me.priv ob.hdr 0 = true
  unsealed : hSealed ob.hdr = false

section
variable {f : Fields} {s s1 s2 : State} {ob : Obj}

/-- A RECV that finds a message takes it into its object; the result is 2 for an orphan and 1 for any other. -/
theorem recvBody_takes {i : Nat} {m : Message} (h : RecvStores f s ob) (hfound : s.oldestMessage = some i)
    (hm : (s.core s.myCore).inbox[i]? = some m) (hgood : m.bad = false) (htouch : touch s f.d ob.hdr = .ok s1)
    (hwrite : writeThrough s1 (s1.me.getO f.d) 0 m.bytes = .ok s2) :
    recvBody f s = .ok ((s2.setCore s.myCore { s2.core s.myCore with inbox := (s2.core s.myCore).inbox.erase m }).deferX f.a
      (if m.orphan ∨ m.tag ≠ 0 ∧ m.tag ≠ s.me.tid then 2 else 1)) := by
  have hsound : (!m.bad) = true := by simp [hgood]
  have horphan : (m.orphan || (m.tag != 0 && m.tag != s.me.tid)) = true ↔ m.orphan ∨ m.tag ≠ 0 ∧ m.tag ≠ s.me.tid := by simp
  simp only [State.oldestMessage] at hfound
  simp only [recvBody, h.checked, h.object, needKind_ok h.kind, needOpen_ok h.unsealed, hfound, hm, need_ok hsound, htouch, hwrite, act_bind_ok,
    horphan]
  rfl

/-- A RECV that finds no message gives 0 when it polls, and parks otherwise. -/
theorem recvBody_none (h : RecvStores f s ob) (hnone : s.oldestMessage = none) : recvBody f s =
    if f.x.getLsbD 0 then .ok (s.deferX f.a 0)
    else .park s { kind := .recv, op := .recv, f := f, object := (s.coreAddr s.myCore).setWidth 64 } := by
  simp only [State.oldestMessage] at hnone
  simp only [recvBody, h.checked, h.object, needKind_ok h.kind, needOpen_ok h.unsealed, hnone, act_bind_ok]
  exact apply_ite Act.run _ _ _

end

/-! ## JWAIT and JPOLL (R186, R308) -/

/-- A number names a job: it has 32 bits, and its engine kind is not one that has no jobs (R185). -/
def isJob (a : Nat) : Prop := a < 2 ^ 32 ∧ bits a 5 3 ≠ 4 ∧ bits a 5 3 ≠ 7

/-- Mailbox `a % 32` of the acting task's core is the one of job `a` (R185, R186). -/
def State.hasJob (s : State) (a : Nat) : Prop :=
  isJob a ∧ (s.mailbox s.myCore (a % 32)).taken = true ∧ (s.mailbox s.myCore (a % 32)).seq.toNat = a / 256

/-- The word of mailbox `a % 32` of the acting task's core (R186). -/
def State.jobWord (s : State) (a : Nat) : Nat := s.boxAddr s.myCore s.me.ctx (a % 32)

/-- The acting task's earlier loads from its die have been performed, before the word of a job's mailbox is read (R208). -/
def State.jobRead (s : State) (a : Nat) : State := s.fixAt (s.jobWord a) 8

section
variable {poll : Bool} {o : Op} {f : Fields} {s : State} {a : Nat} (ha : (s.me.getX f.a).toNat = a)
include ha

/-- A number that names no job gives 3. -/
theorem jobTest_noJob (hj : ¬ isJob a) : jobTest poll o f s = .ok ((s.jobRead a).deferX f.d 3) := by
  have hno : (a / 2 ^ 32 != 0 || bits a 5 3 == 4 || bits a 5 3 == 7) = true := by
    simp only [isJob, not_and_or, not_not] at hj
    simp only [Bool.or_eq_true, bne_iff_ne, beq_iff_eq]
    omega
  simp only [jobTest, ha]
  exact if_pos hno

/-- What JWAIT and JPOLL of a job come to: the struck word, another job's mailbox, and the job's own, empty or full. -/
theorem jobTest_job (hj : isJob a) : jobTest poll o f s =
    if s.poisoned (s.jobWord a) 8 then .fault (s.jobRead a) { code := .uncorrectable }
    else if !(s.mailbox s.myCore (a % 32)).taken || (s.mailbox s.myCore (a % 32)).seq.toNat != a / 256 then .ok ((s.jobRead a).deferX f.d 3)
    else if !(s.mailbox s.myCore (a % 32)).full then
      if poll then .ok ((s.jobRead a).deferX f.d 0) else .park (s.jobRead a) { kind := .jwait, op := o, f := f, aux := 32 * s.myCore + a % 32 }
    else .ok (((s.jobRead a).deferX f.d (BitVec.ofNat 64 ((s.peekWord (s.jobWord a)).toNat % 256))).releaseMailbox s.myCore (a % 32)) := by
  obtain ⟨hsmall, h4, h7⟩ := hj
  have hno : ¬ (a / 2 ^ 32 != 0 || bits a 5 3 == 4 || bits a 5 3 == 7) = true := by
    simp only [Bool.or_eq_true, bne_iff_ne, beq_iff_eq]
    omega
  simp only [jobTest, ha]
  rw [if_neg hno, State.poisoned_fixAt, State.peekWord_fixAt]
  rfl

/-- A number whose mailbox is another job's, or free, gives 3. -/
theorem jobTest_notMine (hgood : s.poisoned (s.jobWord a) 8 = false) (hmine : ¬ s.hasJob a) :
    jobTest poll o f s = .ok ((s.jobRead a).deferX f.d 3) := by
  by_cases hj : isJob a
  · have hother : (!(s.mailbox s.myCore (a % 32)).taken || (s.mailbox s.myCore (a % 32)).seq.toNat != a / 256) = true := by
      simp only [State.hasJob, hj, true_and, not_and_or] at hmine
      simpa using hmine
    rw [jobTest_job ha hj, if_neg (by simp [hgood]), if_pos hother]
  · exact jobTest_noJob ha hj

/-- The mailbox of the job itself: a full one gives its status and is free again, an empty one 0 or a wait. -/
theorem jobTest_mine (hgood : s.poisoned (s.jobWord a) 8 = false) (hmine : s.hasJob a) : jobTest poll o f s =
    if (s.mailbox s.myCore (a % 32)).full then
      .ok (((s.jobRead a).deferX f.d (BitVec.ofNat 64 ((s.peekWord (s.jobWord a)).toNat % 256))).releaseMailbox s.myCore (a % 32))
    else if poll then .ok ((s.jobRead a).deferX f.d 0)
    else .park (s.jobRead a) { kind := .jwait, op := o, f := f, aux := 32 * s.myCore + a % 32 } := by
  obtain ⟨hj, htaken, hseq⟩ := hmine
  have hown : ¬ (!(s.mailbox s.myCore (a % 32)).taken || (s.mailbox s.myCore (a % 32)).seq.toNat != a / 256) = true := by
    simp [htaken, hseq]
  rw [jobTest_job ha hj, if_neg (by simp [hgood]), if_neg hown]
  cases (s.mailbox s.myCore (a % 32)).full <;> rfl

/-- A struck word of a job's mailbox is a fault of the instruction (R240). -/
theorem jobTest_struck (hbad : s.poisoned (s.jobWord a) 8 = true) (hj : isJob a) :
    jobTest poll o f s = .fault (s.jobRead a) { code := .uncorrectable } := by
  rw [jobTest_job ha hj, if_pos hbad]

end

/-! ## The statement -/

/-- Settles O17: RECV at its issue and at its delivery, then the ways that JWAIT and JPOLL find their mailbox. -/
theorem messagesAndJobsAreReceived : Obligations.MessagesAndJobsAreReceived := by
  refine ⟨?messages, ?jobs⟩
  case messages =>
    intro f s ob r c found hchecked hobject hkind hopen
    have stores : RecvStores f s ob := ⟨hchecked, hobject, hkind, hopen⟩
    refine ⟨?takes, ?polls, ?parks, ?delivered⟩
    case takes => exact fun i m s1 s2 hi hfound hm hgood htouch hwrite => run_ok hi (recvBody_takes stores hfound hm hgood htouch hwrite)
    case polls => exact fun hi hnone hpoll => run_ok hi ((recvBody_none stores hnone).trans (if_pos hpoll))
    case parks => exact fun hi hnone hwaits => run_park hi ((recvBody_none stores hnone).trans (if_neg (Bool.eq_false_iff.mp hwaits)))
    case delivered =>
      intro u w i m s1 s2 hw hp hk hf hs hturn hfound hm hgood htouch hwrite
      have hdone := State.reissue_completes hw hp hk hf hs (recvBody_takes stores hfound hm hgood htouch hwrite)
      exact congrArg Host.Outcome.next ((if_pos hturn).trans hdone)
  case jobs =>
    intro f s a c m b isJob' mine w bad r taken struck
    have ha : (s.me.getX f.a).toNat = a := rfl
    have gives3 {poll : Bool} {o : Op} (h : ¬ isJob' ∨ bad = false ∧ ¬ mine) : jobTest poll o f s = .ok (r.deferX f.d 3) := by
      rcases h with hj | ⟨hgood, hother⟩
      · exact jobTest_noJob ha hj
      · exact jobTest_notMine ha hgood hother
    have found {poll : Bool} {o : Op} (hgood : bad = false) (hmine : mine) (hfull : b.full = true) : jobTest poll o f s = .ok taken :=
      (jobTest_mine ha hgood hmine).trans (if_pos hfull)
    have empty {poll : Bool} {o : Op} (hgood : bad = false) (hmine : mine) (hempty : b.full = false) : jobTest poll o f s =
        if poll then .ok (r.deferX f.d 0) else .park r { kind := .jwait, op := o, f := f, aux := 32 * c + m } :=
      (jobTest_mine ha hgood hmine).trans (if_neg (Bool.eq_false_iff.mp hempty))
    refine ⟨fun hi hgood hmine hfull => run_ok hi (found hgood hmine hfull), fun hi hgood hmine hfull => run_ok hi (found hgood hmine hfull),
      fun hi h => run_ok hi (gives3 h), fun hi h => run_ok hi (gives3 h), fun hi hgood hmine hempty => run_ok hi (empty hgood hmine hempty),
      fun hi hgood hmine hempty => run_park hi (empty hgood hmine hempty), fun hi hbad hj => run_late hi (jobTest_struck ha hbad hj) rfl,
      fun hi hbad hj => run_late hi (jobTest_struck ha hbad hj) rfl, ?wakes⟩
    case wakes =>
      intro u wt hw hp hk hf hs hgood hmine hfull
      exact congrArg Host.Outcome.next (State.reissue_completes hw hp hk hf hs (found hgood hmine hfull))

end Sys2Proof.Machine
end

section
/-!
PROOFS. The task graph: TGNODE, TGEDGE and TGRUN (R106, R351 to R353), what becomes of ready, held and finished nodes (R105, R106), and the
statement put together from that (O18).
-/

open Sys2Proof.Claims

namespace Sys2Proof.Machine

/-! ## TGNODE, TGEDGE, TGRUN (R106, R351 to R353) -/

/-- The unit of the acting task's die has a new node, whose id is outstanding (R351). -/
def State.makesNode (s : State) (f : Fields) (n : Node) : State :=
  let made := s.addNode (dieOf s.myCore) n
  made.2.deferX f.d ((nodeId (dieOf s.myCore) made.1).setWidth 64)

/-- A TGNODE whose argument may be one, with a count that fits, in a unit with room (R106, R351). -/
structure NodeFits (f : Fields) (s : State) : Prop where
  argument : malformed (oCanon (s.me.getO f.a)) = false
  near : tagOf (oCanon (s.me.getO f.a)) ≠ 6
  count : (s.me.getX f.c).toNat ≤ 65535
  room : (s.die (dieOf s.myCore)).nodeRoom ≠ 0

section
variable {f : Fields} {s : State} (h : NodeFits f s)
include h

/-- A task or merge node takes its entry and its argument from the operands. -/
theorem tgnodeBody_plain {kind : NodeKind} (hkind : f.x.toNat % 4 = 0 ∧ kind = .task ∨ 2 ≤ f.x.toNat % 4 ∧ kind = .merge) :
    tgnodeBody f s = .ok (s.makesNode f (nodeOf s.me kind (s.me.getX f.c).toNat (entryOf s.me f) (oCanon (s.me.getO f.a)))) := by
  have harg : (!malformed (oCanon (s.me.getO f.a)) && tagOf (oCanon (s.me.getO f.a)) != 6) = true := by simp [h.argument, h.near]
  have hcount : decide ((s.me.getX f.c).toNat ≤ 65535) = true := decide_eq_true h.count
  rcases hkind with ⟨h0, rfl⟩ | ⟨h2, rfl⟩
  · simp only [tgnodeBody, h0, need_ok harg, need_ok hcount, act_bind_ok, if_neg h.room]
    rfl
  · obtain ⟨n, hn⟩ := Nat.exists_eq_add_of_le' h2
    simp only [tgnodeBody, hn, need_ok harg, need_ok hcount, act_bind_ok, if_neg h.room]
    rfl

/-- A copy node takes as its argument an operator object, and has no entry. -/
theorem tgnodeBody_copy {a : Nat} {hd : Word64} (hkind : f.x.toNat % 4 = 1) (hnull : oCanon (s.me.getO f.a) ≠ 0)
    (hobject : header s (oCanon (s.me.getO f.a)) = .ok (a, hd)) (hhd : hKind hd = 6) :
    tgnodeBody f s = .ok (s.makesNode f (nodeOf s.me .copy (s.me.getX f.c).toNat 0 (oCanon (s.me.getO f.a)))) := by
  have harg : (!malformed (oCanon (s.me.getO f.a)) && tagOf (oCanon (s.me.getO f.a)) != 6) = true := by simp [h.argument, h.near]
  have hcount : decide ((s.me.getX f.c).toNat ≤ 65535) = true := decide_eq_true h.count
  have hpointer : (oCanon (s.me.getO f.a) != 0) = true := bne_iff_ne.mpr hnull
  have htable : (hKind hd == 6) = true := beq_iff_eq.mpr hhd
  have hcopy : (NodeKind.copy == NodeKind.copy) = true := by decide
  simp only [tgnodeBody, hkind, need_ok harg, if_pos hcopy, need_ok hpointer, hobject, needKind_ok htable, need_ok hcount, act_bind_ok,
    if_neg h.room]
  rfl

end

section
variable {f : Fields} {s s' : State}

/-- TGEDGE between a node that is not finished and a building node adds an edge (R352). -/
theorem tgedgeBody_adds {a b : Nat} {na nb : Node} (ha : needNode s (s.me.getX f.a) = .ok (a, na)) (hb : needNode s (s.me.getX f.b) = .ok (b, nb))
    (hbuilding : nb.state = .building) (hopen : na.state ≠ .finished) (hroom : (s.die (dieOf s.myCore)).edgeRoom ≠ 0) :
    tgedgeBody f s = .ok (s.setDie (dieOf s.myCore)
      { s.die (dieOf s.myCore) with edges := (s.die (dieOf s.myCore)).edges ++ [(a, b)] }) := by
  have hstates : (nb.state == .building && na.state != .finished) = true := by simp [hbuilding, hopen]
  simp only [tgedgeBody, ha, hb, need_ok hstates, act_bind_ok, if_neg hroom]
  rfl

/-- TGRUN releases its task's building nodes once it has performed what its release orders (R178, R353). -/
theorem tgrunBody_releases (hr : releasedAt (if s.agxBuilding s.me.tid then 3 else 2) (dieOf s.myCore) s = .ok s') :
    tgrunBody s = .ok (s'.releaseNodes s'.me.tid) := by
  simp only [tgrunBody, hr, act_bind_ok]
  rfl

end

/-! ## Ready, held and finished nodes (R105, R106) -/

/-- The state in which a ready node has become a record. -/
def State.running (s : State) (d i : Nat) (n : Node) : State :=
  s.setDie d { s.die d with nodes := (s.die d).nodes.set i { n with state := .running } }

section
variable {s t : State} {d i : Nat} {n : Node}

/-- A ready node becomes a record, which is placed or, without room, held (R105). -/
theorem State.nodeReady_eq (hn : (s.die d).node i = some n) (hready : n.ready = true) (hkind : n.kind ≠ .copy)
    (hruns : s.frozen n.part n.ctx = false) (hfirst : s.placeableHeld d = none) : s.nodeReady d i =
      ((s.running d i n).graphPlace d n.dies (n.record (nodeId d i))).getD
        ((s.running d i n).setDie d (((s.running d i n).die d).hold (n.record (nodeId d i)))) := by
  have hgoes : ¬ (!n.ready || n.kind == .copy || s.frozen n.part n.ctx || (s.placeableHeld d).isSome) = true := by
    simp [hready, hkind, hruns, hfirst]
  simp only [State.nodeReady, State.running, hn]
  rw [if_neg hgoes]
  generalize State.graphPlace _ d n.dies (n.record (nodeId d i)) = placed
  cases placed <;> rfl

/-- A held record with the state in which it has its place, if it may run and there is room for it. -/
def State.placesHeld (s : State) (d : Nat) (r : Record) : Option (Record × State) :=
  if s.frozen r.part r.ctx then none else (s.graphPlace d (s.maskOf d r) r).map (fun t => (r, t))

/-- The held record that is placed next is the first that can be. -/
theorem State.placeableHeld_eq (s : State) (d : Nat) : s.placeableHeld d = (s.die d).held.findSome? (s.placesHeld d) := rfl

/-- A held record that may run and finds room can be placed. -/
theorem State.placesHeld_room {r : Record} (hruns : s.frozen r.part r.ctx = false) (hroom : s.graphPlace d (s.maskOf d r) r = some t) :
    s.placesHeld d r = some (r, t) := by
  simp [State.placesHeld, hruns, hroom]

/-- A held record without room waits, alone. -/
theorem State.placesHeld_noRoom {r : Record} (hfull : s.graphPlace d (s.maskOf d r) r = none) : s.placesHeld d r = none := by
  simp [State.placesHeld, hfull]

/-- A held record that is placed is held no more (R105). -/
theorem State.placeHeld_places {r : Record} (h : s.placeableHeld d = some (r, t)) :
    s.placeHeld d = t.setDie d { t.die d with held := (t.die d).held.erase r } := by
  simp only [State.placeHeld, h]

/-- A finished node takes 1 from the count of each successor, and is freed with its edges (R106). -/
theorem State.nodeFinish_eq (hn : (s.die d).node i = some n) (hfinished : n.state = .finished) (hruns : s.frozen n.part n.ctx = false) :
    s.nodeFinish d i = (s.arrive.2.setDie d
      ((s.die d).edges.foldl (fun (x : Die) e => if e.1 == i then x.subtract s.order e.2 else x) (s.die d))).freeNode d i := by
  have hgoes : ¬ (n.state != .finished || s.frozen n.part n.ctx) = true := by simp [hfinished, hruns]
  simp only [State.nodeFinish, hn]
  rw [if_neg hgoes]
  rfl

end

/-! ## The statement -/

/-- Settles O18: the three instructions, then a ready node with and without room, a held record with and without one before it that waits, and
a finished node. -/
theorem taskGraphsBuildRunAndFinish : Obligations.TaskGraphsBuildRunAndFinish := by
  refine ⟨?instructions, ?nodes⟩
  case instructions =>
    intro f s d arg count
    refine ⟨fun kind hi harg hnear hcount hroom hkind => ?plain, fun a hd hi harg hnear hnull hcount hroom hkind hobject hhd => ?copy,
      fun a b na nb hi ha hb hbuilding hopen hroom => ?edge, fun s' hi hr => ?runs⟩
    case plain => exact run_ok hi (tgnodeBody_plain ⟨harg, hnear, hcount, hroom⟩ hkind)
    case copy => exact run_ok hi (tgnodeBody_copy ⟨harg, hnear, hcount, hroom⟩ hkind hnull hobject hhd)
    case edge => exact run_ok hi (tgedgeBody_adds ha hb hbuilding hopen hroom)
    case runs => exact run_ok hi (tgrunBody_releases hr)
  case nodes =>
    intro s d i n hn
    refine ⟨?placed, ?held, ?first, ?second, ?finished⟩
    case placed =>
      intro t hready hkind hruns hfirst running hplace
      exact congrArg Host.Outcome.next ((State.nodeReady_eq hn hready hkind hruns hfirst).trans (congrArg (Option.getD · _) hplace))
    case held =>
      intro hready hkind hruns hfirst running hplace
      exact congrArg Host.Outcome.next ((State.nodeReady_eq hn hready hkind hruns hfirst).trans (congrArg (Option.getD · _) hplace))
    case first =>
      intro r rest t hheld hruns hroom
      refine congrArg Host.Outcome.next (State.placeHeld_places ?_)
      rw [State.placeableHeld_eq, hheld, List.findSome?_cons, State.placesHeld_room hruns hroom]
    case second =>
      intro r q rest t hheld hfull hruns hroom
      refine congrArg Host.Outcome.next (State.placeHeld_places ?_)
      rw [State.placeableHeld_eq, hheld, List.findSome?_cons, State.placesHeld_noRoom hfull, List.findSome?_cons,
        State.placesHeld_room hruns hroom]
    case finished => exact fun hfinished hruns => ⟨_, rfl, State.nodeFinish_mem .., State.nodeFinish_eq hn hfinished hruns⟩

end Sys2Proof.Machine
end

section
/-!
PROOFS. Floating vector instructions and conversions: what a completed lane instruction leaves in its elements and flags, the sums of shifted
elements that VWACC and the conversions write (R361, R395), and the statement put together from that (O21).
-/

open Sys2Proof.Claims

namespace Sys2Proof.Machine

/-! ## Elements added at their places -/

/-- An element added at a place whose bits are 0 sets the bits of that place alone. -/
theorem add_lane_testBit {d j a x : Nat} (hx : x < 2 ^ d) (ha : ∀ b < d, a.testBit (d * j + b) = false) (c : Nat) :
    (a + x * 2 ^ (d * j)).testBit c = (a.testBit c || (decide (d * j ≤ c) && x.testBit (c - d * j))) := by
  have hzero : a / 2 ^ (d * j) % 2 ^ d = 0 := by
    refine Nat.eq_of_testBit_eq fun b => ?_
    rw [Nat.testBit_mod_two_pow, Nat.testBit_div_two_pow, Nat.zero_testBit, Nat.add_comm]
    by_cases hb : b < d <;> simp [hb, ha]
  obtain ⟨q, hq⟩ := Nat.dvd_of_mod_eq_zero hzero
  have hr := Nat.mod_lt a (Nat.two_pow_pos (d * j))
  have hsplit : a = 2 ^ (d * j) * (2 ^ d * q + 0) + a % 2 ^ (d * j) := by rw [Nat.add_zero, ← hq, Nat.div_add_mod]
  have hsum : a + x * 2 ^ (d * j) = 2 ^ (d * j) * (2 ^ d * q + x) + a % 2 ^ (d * j) := by
    rw [Nat.mul_add, ← hq, Nat.mul_comm x, Nat.add_right_comm, Nat.div_add_mod]
  rw [hsum, Nat.testBit_two_pow_mul_add _ hr]
  conv_rhs => rw [hsplit, Nat.testBit_two_pow_mul_add _ hr]
  by_cases hc : c < d * j
  · simp [hc, Nat.not_le.mpr hc]
  · rw [if_neg hc, if_neg hc, Nat.testBit_two_pow_mul_add _ hx, Nat.testBit_two_pow_mul_add _ (Nat.two_pow_pos d)]
    by_cases hd : c - d * j < d
    · simp [hd, Nat.not_lt.mp hc]
    · simp [hd, Nat.testBit_lt_two_pow (hx.trans_le (Nat.pow_le_pow_right (by decide) (Nat.not_lt.mp hd)))]

/-- A bit of one element after another was added at its place. -/
theorem add_lane_testBit_lane {d j a x i b : Nat} (hx : x < 2 ^ d) (ha : ∀ b < d, a.testBit (d * j + b) = false) (hb : b < d) :
    (a + x * 2 ^ (d * j)).testBit (d * i + b) = (a.testBit (d * i + b) || (decide (i = j) && x.testBit b)) := by
  rw [add_lane_testBit hx ha]
  rcases lt_trichotomy i j with h | rfl | h
  · have hlt : d * i + b < d * j := by nlinarith
    simp [Nat.ne_of_lt h, Nat.not_le.mpr hlt]
  · simp
  · have hge : d ≤ d * i + b - d * j := by
      have : d * j + d ≤ d * i := by nlinarith
      omega
    simp [Nat.ne_of_gt h, Nat.testBit_lt_two_pow (hx.trans_le (Nat.pow_le_pow_right (by decide) hge))]

/-- A bit of one element of a sum of elements, each at its own place. -/
theorem sum_lanes_testBit {d : Nat} {x : Nat → Nat} (hx : ∀ j, x j < 2 ^ d) {l : List Nat} (hl : l.Nodup) {a : Nat}
    (ha : ∀ j ∈ l, ∀ b < d, a.testBit (d * j + b) = false) (i : Nat) {b : Nat} (hb : b < d) :
    (l.foldl (fun acc j => acc + x j * 2 ^ (d * j)) a).testBit (d * i + b) = (a.testBit (d * i + b) || (decide (i ∈ l) && (x i).testBit b)) := by
  induction l generalizing a with
  | nil => simp
  | cons k ks ih =>
    obtain ⟨hk, hks⟩ := List.nodup_cons.mp hl
    have hadd (i : Nat) {b : Nat} (hb : b < d) := add_lane_testBit_lane (i := i) (hx k) (ha k (by simp)) hb
    rw [List.foldl_cons, ih hks, hadd i hb]
    · by_cases h : i = k <;> simp [h, hk]
    · intro j hj b hb
      have hne : j ≠ k := fun h => hk (h ▸ hj)
      simp [hadd j hb, hne, ha j (by simp [hj]) b hb]

/-- A register into which the elements named in a list are blended: they have their new values, the others the old. -/
theorem getLane_blend_lanes {n d : Nat} (old : BitVec n) {l : List Nat} (hl : l.Nodup) (x : Nat → Nat) {i : Nat} (hi : d * i + d ≤ n) :
    getLane (blend old (BitVec.ofNat n (l.foldl (fun acc j => acc + x j % 2 ^ d * 2 ^ (d * j)) 0))
      (BitVec.ofNat n (l.foldl (fun acc j => acc + (2 ^ d - 1) * 2 ^ (d * j)) 0))) d i = if i ∈ l then x i % 2 ^ d else getLane old d i := by
  refine Nat.eq_of_testBit_eq fun b => ?_
  rw [getLane_testBit]
  by_cases hb : b < d
  · have hlt : d * i + b < n := by omega
    have hval := sum_lanes_testBit (x := fun j => x j % 2 ^ d) (fun j => Nat.mod_lt _ (Nat.two_pow_pos d)) hl (a := 0) (by simp) i hb
    have hmask := sum_lanes_testBit (x := fun _ => 2 ^ d - 1) (fun _ => Nat.sub_one_lt (Nat.two_pow_pos d).ne') hl (a := 0) (by simp) i hb
    simp only [blend, BitVec.getLsbD_or, BitVec.getLsbD_and, BitVec.getLsbD_not, BitVec.getLsbD_ofNat, hval, hmask]
    by_cases h : i ∈ l <;> simp [h, hb, hlt, getLane_testBit, Nat.testBit_mod_two_pow, Nat.testBit_two_pow_sub_one]
  · split <;> simp [hb, Nat.testBit_mod_two_pow, getLane_testBit]

/-- A flag of the flags of listed elements joined by or. -/
theorem listed_flags {l : List Nat} {fl : Nat → BitVec 6} {b : Nat} :
    (l.foldl (fun acc i => acc ||| fl i) 0).getLsbD b = true ↔ ∃ i, i ∈ l ∧ (fl i).getLsbD b = true := by
  rw [foldl_flags]
  simp

/-! ## Lane instructions that complete -/

/-- Raising no flag changes nothing. -/
@[simp] theorem State.raiseFlags_zero (s : State) : s.raiseFlags 0 = s := if_pos rfl

/-- An element of a floating instruction is made of bytes. -/
theorem floatBits_dvd (f : Fields) : 8 ∣ floatBits f := by
  unfold floatBits fmtZ
  split
  · decide
  · split <;> decide

/-- An element of a floating instruction has bits. -/
theorem floatBits_pos (f : Fields) : 0 < floatBits f := by
  unfold floatBits fmtZ
  split
  · decide
  · split <;> decide

section
variable {o : Op} {f : Fields} {s : State} {e : Nat} {body : State → Res}

/-- An instruction whose effect is `putLanes` writes its active elements and sets their flags. -/
theorem run_putLanes {g r : Nat → Nat × BitVec 6} (h : s.issues o f = true) (hb : body s = .ok (putLanes s f e g)) (h8 : 8 ∣ e) (he : 0 < e)
    (hg : ∀ i, g i = r i) : elementwiseF s f e r (run o f body s) := by
  obtain rfl : g = r := funext hg
  obtain ⟨w, fl, hput, hval, hfl⟩ := putLanes_spec s f h8 he g
  exact ⟨w, fl, by rw [run_ok h hb, hput]; rfl, hval, hfl⟩

/-- An instruction whose effect is `putLanes` without flags writes its active elements alone. -/
theorem run_putLanes_noFlags {g : Nat → Nat} (h : s.issues o f = true) (hb : body s = .ok (putLanes s f e (fun i => (g i, 0)))) (h8 : 8 ∣ e)
    (he : 0 < e) : elementwise s f e g (run o f body s) := by
  obtain ⟨w, fl, hput, hval, hfl⟩ := putLanes_spec s f h8 he fun i => (g i, 0)
  have hnone : fl = 0 := by
    refine BitVec.eq_of_getLsbD_eq fun b _ => ?_
    rw [Bool.eq_iff_iff, hfl b]
    simp
  refine ⟨w, ?_, hval⟩
  rw [run_ok h hb, hput, hnone, State.raiseFlags_zero]
  rfl

end

/-! ## Wide sums and conversions (R361, R395) -/

/-- `putWide` writes the listed elements of a w register and sets their flags. -/
theorem putWide_spec (s : State) (n : BitVec 6) {l : List Nat} (hl : l.Nodup) (r : Nat → Nat × BitVec 6) :
    ∃ (w : BitVec 4096) (fl : BitVec 6), putWide s n (l.map (fun i => (i, r i))) = (s.setMe (s.me.setW n w)).raiseFlags fl
      ∧ (∀ i, i < 128 → getLane w 32 i = if i ∈ l then (r i).1 % 2 ^ 32 else getLane (s.me.getW n) 32 i)
      ∧ ∀ b, fl.getLsbD b = true ↔ ∃ i, i ∈ l ∧ (r i).2.getLsbD b = true := by
  refine ⟨_, _, ?_, fun i hi => getLane_blend_lanes (s.me.getW n) hl (fun i => (r i).1) (by omega), fun b => listed_flags⟩
  simp only [putWide, List.foldl_map]

/-- An element of a wide sum with the element of vA added, rounded once (R395). -/
def wideSum (f : Fields) (s : State) (i : Nat) : Nat × BitVec 6 :=
  let sum := fp32.value (getLane (s.me.getW f.d) 32 i)
  let term := (floatFmt f).value (getLane (s.me.getV f.a) (floatBits f) i)
  roundArith fp32 ([sum, term].any Val.isNan) (sum.add term)

/-- VWACC writes the wide sums of its active elements. -/
theorem vwaccBody_eq (f : Fields) (s : State) :
    vwaccBody f s = .ok (putWide s f.d ((s.me.actives f (floatBits f)).map (fun i => (i, wideSum f s i)))) := by
  simp [vwaccBody, wideSum, Bool.or_comm]

/-- The elements that a conversion takes: those below the lane count of the larger size whose guard bit is true (R361). -/
def convertedLanes (f : Fields) (t : Task) (big : Nat) : List Nat := (List.range (t.lanes big)).filter (fun i => (t.guard f).getLsbD (i * big / 8))

/-- A listed element of a conversion is active. -/
theorem mem_convertedLanes {f : Fields} {t : Task} {big i : Nat} :
    i ∈ convertedLanes f t big ↔ i < t.lanes big ∧ (t.guard f).getLsbD (i * big / 8) = true := by
  simp [convertedLanes]

/-- A conversion writes the listed elements at the destination's size and sets their flags. -/
theorem vcvtBody_spec (f : Fields) (s : State) :
    let src := f.x.toNat / 16 % 16
    let dst := f.x.toNat % 16
    let on := convertedLanes f s.me (max (storeBits src) (storeBits dst))
    let conv (i : Nat) : Nat × BitVec 6 := roundCode dst .ne (f.x.getLsbD 8) (valueOf src (getLane (s.me.getV f.a) (storeBits src) i))
    ∃ (w : BitVec 2048) (fl : BitVec 6), vcvtBody f s = .ok ((s.setV f.d w).raiseFlags fl)
      ∧ (∀ i, i < s.me.lanes (storeBits dst) →
          getLane w (storeBits dst) i = if i ∈ on then (conv i).1 % 2 ^ storeBits dst else getLane (s.me.getV f.d) (storeBits dst) i)
      ∧ ∀ b, fl.getLsbD b = true ↔ ∃ i, i ∈ on ∧ (conv i).2.getLsbD b = true := by
  intro src dst on conv
  have hon : on.Nodup := List.nodup_range.filter _
  refine ⟨_, _, ?_, fun i hi => getLane_blend_lanes (s.me.getV f.d) hon (fun i => (conv i).1) ?fits, fun b => listed_flags⟩
  case fits =>
    have hle := (lanes_mul_le s.me (storeBits dst)).trans (bits_le s.me)
    nlinarith
  simp only [vcvtBody, List.foldl_map]
  rfl

/-! ## The statement -/

/-- Settles O21: the element-wise instructions by their operation at each element, VWACC and the conversions by the elements they list. -/
theorem vectorFloatsRoundOnce : Obligations.VectorFloatsRoundOnce := by
  refine ⟨?floats, ?conversions⟩
  case floats =>
    intro f s m e a b wide each nans
    have h8 := floatBits_dvd f
    have he := floatBits_pos f
    have nans2 (v w : Val) : (v.isNan || w.isNan) = nans [v, w] := by simp [nans]
    have nans3 (u v w : Val) : (u.isNan || v.isNan || w.isNan) = nans [u, v, w] := by simp [nans, Bool.or_assoc]
    refine ⟨fun h => run_putLanes h rfl h8 he fun i => ?add, fun h => run_putLanes h rfl h8 he fun i => ?sub,
      fun h => run_putLanes h rfl h8 he fun i => ?mul, fun h => run_putLanes h rfl h8 he fun i => ?fma,
      fun h => run_putLanes_noFlags h rfl h8 he, fun h => run_putLanes_noFlags h rfl h8 he,
      fun h => run_putLanes h rfl (by decide) (by decide) fun i => ?scaled, fun h => run_putLanes h rfl h8 he fun i => rfl,
      fun h => run_putLanes_noFlags h rfl (by decide) (by decide), fun h => ?wide⟩
    case add | sub | mul => exact congrArg (roundArith m · _) (nans2 _ _)
    case fma | scaled => exact congrArg (roundArith _ · _) (nans3 _ _ _)
    case wide =>
      obtain ⟨w, fl, hput, hval, hfl⟩ := putWide_spec s f.d (actives_nodup s.me f e) (wideSum f s)
      refine ⟨w, fl, run_ok h ((vwaccBody_eq f s).trans (congrArg Res.ok hput)), fun i hi => ?_, fun b => ?_⟩
      · simp only [hval i hi, mem_actives]
        rfl
      · simp only [hfl b, mem_actives, and_assoc]
        rfl
  case conversions =>
    intro f s src dst ss ds n converted
    have hconv (o : Op) (h : s.issues o f = true) : converted (run o f (vcvtBody f) s) := by
      obtain ⟨w, fl, hbody, hval, hfl⟩ := vcvtBody_spec f s
      refine ⟨w, fl, run_ok h hbody, fun i hi => ⟨fun hon => ?_, fun hoff => ?_⟩, fun b => ?_⟩
      · rw [hval i hi, if_pos (mem_convertedLanes.mpr hon)]
      · rw [hval i hi, if_neg (mem_convertedLanes.not.mpr hoff)]
      · simp only [hfl b, mem_convertedLanes]
        rfl
    exact ⟨hconv .vcvt, hconv .vcvti⟩

end Sys2Proof.Machine
end

section
/-!
PROOFS. Reductions, scans, permutations and special functions: folds over the active elements (R130, R367, R382), running values at an element
(R368, R385), elements that move to listed places (R360), and the statement put together from that (O23).
-/

open Sys2Proof.Claims

namespace Sys2Proof.Machine

/-! ## Reductions (R130, R382) -/

/-- A sum kept below a modulus at each step is the sum at the end. -/
theorem foldl_add_mod {m v : Nat} (hv : v < m) (l : List Nat) : l.foldl (fun r x => (r + x) % m) v = (v + l.sum) % m := by
  induction l generalizing v with
  | nil => simp [Nat.mod_eq_of_lt hv]
  | cons x xs ih => rw [List.foldl_cons, ih (Nat.mod_lt _ (by omega)), List.sum_cons, Nat.mod_add_mod, Nat.add_assoc]

/-- A fold whose step takes one of two values, below both in a preorder, ends in one of its values that is below them all. -/
theorem foldl_choice {r : Nat → Nat → Prop} {step : Nat → Nat → Nat} (hrefl : ∀ a, r a a) (htrans : ∀ a b c, r a b → r b c → r a c)
    (hstep : ∀ a b, step a b = a ∧ r a b ∨ step a b = b ∧ r b a) (a : Nat) (l : List Nat) :
    l.foldl step a ∈ a :: l ∧ ∀ x, x ∈ a :: l → r (l.foldl step a) x := by
  induction l generalizing a with
  | nil => simp [hrefl]
  | cons b bs ih =>
    obtain ⟨hmem, hle⟩ := ih (step a b)
    have hfirst := hle (step a b) (by simp)
    rw [List.foldl_cons]
    rcases hstep a b with ⟨heq, hab⟩ | ⟨heq, hba⟩ <;> rw [heq] at hmem hle hfirst ⊢
    · refine ⟨?_, fun x hx => ?_⟩
      · rcases List.mem_cons.mp hmem with h | h <;> simp [h]
      · rcases List.mem_cons.mp hx with rfl | hx
        · exact hfirst
        · rcases List.mem_cons.mp hx with rfl | hx
          · exact htrans _ _ _ hfirst hab
          · exact hle x (by simp [hx])
    · refine ⟨by simp [List.mem_cons.mp hmem], fun x hx => ?_⟩
      rcases List.mem_cons.mp hx with rfl | hx
      · exact htrans _ _ _ hfirst hba
      · exact hle x hx

/-- `a ≤ b` at width `w`, signed, or unsigned under `.n`. -/
def leW (n : Bool) (w a b : Nat) : Prop := if n then a ≤ b else toSigned w a ≤ toSigned w b

/-- The order at a width is reflexive. -/
theorem leW_refl (n : Bool) (w a : Nat) : leW n w a a := by
  cases n <;> simp [leW]

/-- The order at a width is transitive. -/
theorem leW_trans {n : Bool} {w a b c : Nat} (hab : leW n w a b) (hbc : leW n w b c) : leW n w a c := by
  cases n
  · exact Int.le_trans hab hbc
  · exact Nat.le_trans hab hbc

/-- The order at a width holds where the strict one does. -/
theorem leW_of_ltW {n : Bool} {w a b : Nat} (h : ltW n w a b = true) : leW n w a b := by
  cases n
  · exact Int.le_of_lt (of_decide_eq_true h)
  · exact Nat.le_of_lt (of_decide_eq_true h)

/-- The order at a width is total: it holds where the strict one does not, the other way round. -/
theorem leW_of_not_ltW {n : Bool} {w a b : Nat} (h : ltW n w a b = false) : leW n w b a := by
  cases n
  · exact Int.not_lt.mp (of_decide_eq_false h)
  · exact Nat.not_lt.mp (of_decide_eq_false h)

/-- A reduction's sum is kept at the width at each step. -/
theorem foldl_redStep_sum (n : Bool) {w v : Nat} (hv : v < 2 ^ w) (l : List Nat) : l.foldl (redStep n w 0) v = (v + l.sum) % 2 ^ w :=
  foldl_add_mod hv l

/-- A step of a minimum takes the smaller of two values. -/
theorem redStep_min (n : Bool) (w a b : Nat) :
    redStep n w 1 a b = a ∧ leW n w a b ∨ redStep n w 1 a b = b ∧ leW n w b a := by
  simp only [redStep]
  cases h : ltW n w b a
  · exact .inl ⟨rfl, leW_of_not_ltW h⟩
  · exact .inr ⟨rfl, leW_of_ltW h⟩

/-- A step of a maximum takes the larger of two values. -/
theorem redStep_max (n : Bool) (w a b : Nat) :
    redStep n w 2 a b = a ∧ leW n w b a ∨ redStep n w 2 a b = b ∧ leW n w a b := by
  simp only [redStep]
  cases h : ltW n w a b
  · exact .inl ⟨rfl, leW_of_not_ltW h⟩
  · exact .inr ⟨rfl, leW_of_ltW h⟩

/-- The minimum of values is one of them, and none is below it. -/
theorem foldl_redStep_min (n : Bool) (w a : Nat) (l : List Nat) :
    l.foldl (redStep n w 1) a ∈ a :: l ∧ ∀ x, x ∈ a :: l → leW n w (l.foldl (redStep n w 1) a) x :=
  foldl_choice (leW_refl n w) (fun _ _ _ => leW_trans) (redStep_min n w) a l

/-- The maximum of values is one of them, and none is above it. -/
theorem foldl_redStep_max (n : Bool) (w a : Nat) (l : List Nat) :
    l.foldl (redStep n w 2) a ∈ a :: l ∧ ∀ x, x ∈ a :: l → leW n w x (l.foldl (redStep n w 2) a) :=
  foldl_choice (r := fun a b => leW n w b a) (leW_refl n w) (fun _ _ _ hab hbc => leW_trans hbc hab) (redStep_max n w) a l

/-- A bit of a conjunction of values is set if it is set in all. -/
theorem foldl_redStep_and_testBit (n : Bool) (w b a : Nat) (l : List Nat) :
    (l.foldl (redStep n w 3) a).testBit b = (a :: l).all (fun x => x.testBit b) := by
  induction l generalizing a with
  | nil => simp
  | cons x xs ih => simp [ih, redStep, Bool.and_assoc]

/-- A bit of a disjunction of values is set if it is set in one. -/
theorem foldl_redStep_or_testBit (n : Bool) (w b a : Nat) (l : List Nat) :
    (l.foldl (redStep n w 4) a).testBit b = (a :: l).any (fun x => x.testBit b) := by
  induction l generalizing a with
  | nil => simp
  | cons x xs ih => simp [ih, redStep, Bool.or_assoc]

/-- A bit of an exclusive disjunction of values is set if it is set in an odd number of them. -/
theorem foldl_redStep_xor_testBit (n : Bool) (w b a : Nat) (l : List Nat) :
    (l.foldl (redStep n w 5) a).testBit b = ((a :: l).countP (fun x => x.testBit b) % 2 == 1) := by
  induction l generalizing a with
  | nil => cases h : a.testBit b <;> simp [h]
  | cons x xs ih =>
    rw [List.foldl_cons, ih]
    simp only [redStep, List.countP_cons, Nat.testBit_xor]
    cases a.testBit b <;> cases x.testBit b <;> simp [Nat.add_assoc]

/-- The values of the operations over no element (R130). -/
theorem redUnit_eq (n : Bool) (w op : Nat) : redUnit n w op =
    if op = 1 then (if n then 2 ^ w - 1 else 2 ^ (w - 1) - 1) else if op = 2 then (if n then 0 else 2 ^ (w - 1))
    else if op = 3 then 2 ^ w - 1 else 0 := by
  match op with
  | 0 | 1 | 2 | 3 => rfl
  | op + 4 => simp [redUnit]

section
variable {f : Fields} {s : State} {op : Nat} (h : s.issues .vred f = true) (hop : f.x.toNat % 8 = op)
include h hop

/-- VRED over no element defers the value of its operation over none (R130). -/
theorem exec_vred_none (hact : s.me.actives f (elemBits f) = []) : exec (.vred f) s = completes s
    (s.deferX f.d (if vuns f then BitVec.ofNat 64 (redUnit (vuns f) (elemBits f) op) else signW (elemBits f) (redUnit (vuns f) (elemBits f) op))) f :=
  run_ok (body := vredBody f) h (by simp only [vredBody, hact, hop, List.map_nil])

/-- VRED over elements defers the fold of its steps, from the first on (R382). -/
theorem exec_vred_some {k : Nat} {ks : List Nat} (hact : s.me.actives f (elemBits f) = k :: ks) :
    let a := getLane (s.me.getV f.a) (elemBits f)
    let v := (ks.map a).foldl (redStep (vuns f) (elemBits f) op) (a k)
    exec (.vred f) s = completes s (s.deferX f.d (if vuns f then BitVec.ofNat 64 v else signW (elemBits f) v)) f :=
  run_ok (body := vredBody f) h (by simp only [vredBody, hact, hop, List.map_cons])

end

/-! ## Running values (R368, R385) -/

/-- Running values after a first one. -/
def scanFrom (step : Nat → Nat → Nat × BitVec 6) : Nat → List (Nat × Nat) → List (Nat × Nat × BitVec 6)
  | _, [] => []
  | v, (i, a) :: rest => (i, step v a) :: scanFrom step (step v a).1 rest

/-- A scan is its first element and the running values after it. -/
theorem scanList_cons (step : Nat → Nat → Nat × BitVec 6) (i a : Nat) (rest : List (Nat × Nat)) :
    scanList step ((i, a) :: rest) = (i, a, 0) :: scanFrom step a rest := by
  have hfold (rest : List (Nat × Nat)) (out : List (Nat × Nat × BitVec 6)) (v : Nat) :
      (rest.foldl (fun (acc : List (Nat × Nat × BitVec 6) × Nat) p =>
        let r := step acc.2 p.2
        (acc.1 ++ [(p.1, r)], r.1)) (out, v)).1 = out ++ scanFrom step v rest := by
    induction rest generalizing out v with
    | nil => simp [scanFrom]
    | cons p ps ih => simp only [List.foldl_cons, ih, scanFrom, List.append_assoc, List.singleton_append]
  exact hfold rest [(i, a, 0)] a

/-- A scan's value at the first element listed. -/
theorem scanAt_cons_same (i : Nat) (r : Nat × BitVec 6) (xs : List (Nat × Nat × BitVec 6)) : scanAt ((i, r) :: xs) i = r := by
  simp [scanAt]

/-- A scan's value at an element other than the first listed. -/
theorem scanAt_cons_other {i k : Nat} (h : k ≠ i) (r : Nat × BitVec 6) (xs : List (Nat × Nat × BitVec 6)) :
    scanAt ((k, r) :: xs) i = scanAt xs i := by
  simp [scanAt, h]

/-- Of elements in ascending order those up to the first are the first alone. -/
theorem filter_le_first {i : Nat} {l : List Nat} (h : ∀ j ∈ l, i < j) : l.filter (fun j => j ≤ i) = [] := by
  simpa using h

/-- A running value at an element is the fold of the steps up to it, with the flags of the last. -/
theorem scanAt_scanFrom (step : Nat → Nat → Nat × BitVec 6) (x : Nat → Nat) {l : List Nat} (hl : l.Pairwise (· < ·)) {i : Nat} (hi : i ∈ l)
    (r : Nat × BitVec 6) : scanAt (scanFrom step r.1 (l.map (fun k => (k, x k)))) i
      = (l.filter (fun j => j ≤ i)).foldl (fun r k => step r.1 (x k)) r := by
  induction l generalizing r with
  | nil => simp at hi
  | cons k ks ih =>
    obtain ⟨hk, hks⟩ := List.pairwise_cons.mp hl
    rw [List.map_cons, scanFrom]
    rcases List.mem_cons.mp hi with rfl | hi
    · simp [scanAt_cons_same, filter_le_first hk]
    · have hlt := hk i hi
      rw [scanAt_cons_other hlt.ne, ih hks hi, List.filter_cons_of_pos (by simpa using hlt.le), List.foldl_cons]

/-- A scan's value at an element is the fold of the steps over the elements up to it, from the first on, with the flags of the last. -/
theorem scanAt_scanList (step : Nat → Nat → Nat × BitVec 6) (x : Nat → Nat) {l : List Nat} (hl : l.Pairwise (· < ·)) {i j : Nat} {js : List Nat}
    (hi : i ∈ l) (hbelow : l.filter (fun k => k ≤ i) = j :: js) :
    scanAt (scanList step (l.map (fun k => (k, x k)))) i = js.foldl (fun r k => step r.1 (x k)) (x j, 0) := by
  cases l with
  | nil => simp at hi
  | cons k ks =>
    obtain ⟨hk, hks⟩ := List.pairwise_cons.mp hl
    rw [List.map_cons, scanList_cons]
    rcases List.mem_cons.mp hi with rfl | hi
    · rw [List.filter_cons_of_pos (by simp), filter_le_first hk] at hbelow
      obtain ⟨rfl, rfl⟩ := List.cons.inj hbelow
      exact scanAt_cons_same ..
    · have hlt := hk i hi
      rw [List.filter_cons_of_pos (by simpa using hlt.le)] at hbelow
      obtain ⟨rfl, rfl⟩ := List.cons.inj hbelow
      rw [scanAt_cons_other hlt.ne]
      exact scanAt_scanFrom step x hks hi (x k, 0)

/-- The active elements are in ascending order. -/
theorem actives_pairwise (t : Task) (f : Fields) (e : Nat) : (t.actives f e).Pairwise (· < ·) := List.pairwise_lt_range.filter _

/-- An element is among those up to it. -/
theorem mem_filter_le {l : List Nat} {i : Nat} (hi : i ∈ l) : i ∈ l.filter (fun j => j ≤ i) := by simp [hi]

/-- The value of a running sum at an element is the sum up to it, without flags (R385). -/
theorem scanAt_sum {e : Nat} (x : Nat → Nat) (hx : ∀ j, x j < 2 ^ e) {l : List Nat} (hl : l.Pairwise (· < ·)) {i : Nat} (hi : i ∈ l) :
    scanAt (scanList (fun a b => ((a + b) % 2 ^ e, 0)) (l.map (fun k => (k, x k)))) i
      = ((((l.filter (fun j => j ≤ i)).map x).sum % 2 ^ e, 0) : Nat × BitVec 6) := by
  obtain ⟨j, js, hbelow⟩ := List.exists_cons_of_ne_nil (List.ne_nil_of_mem (mem_filter_le hi))
  rw [scanAt_scanList _ x hl hi hbelow, hbelow, List.map_cons, List.sum_cons, ← foldl_add_mod (hx j), List.foldl_map]
  exact List.foldl_hom (fun v => ((v, 0) : Nat × BitVec 6)) (fun _ _ => rfl)

/-! ## Deferred elements -/

section
variable {o : Op} {f : Fields} {s : State} {e : Nat} {body : State → Res}

/-- An instruction whose effect is `deferLanes` defers its active elements, each with its own flags. -/
theorem run_deferLanes {g r : Nat → Nat × BitVec 6} (h : s.issues o f = true) (hb : body s = .ok (deferLanes s f e g)) (h8 : 8 ∣ e) (he : 0 < e)
    (hg : ∀ i, i ∈ s.me.actives f e → (g i).1 % 2 ^ e = (r i).1 % 2 ^ e ∧ (g i).2 = (r i).2) : deferred s f e r (run o f body s) := by
  obtain ⟨v, m, fl, hdefer, hval, hmask, hfl⟩ := deferLanes_spec s f h8 he g
  refine ⟨v, m, fl, by rw [run_ok h hb, hdefer]; rfl, fun i hi hact => ?_, hmask, fun i hi => ?_⟩
  · rw [hval i hi hact, (hg i (mem_actives.mpr ⟨hi, hact⟩)).1]
  · rw [hfl i hi]
    split
    · next hact => rw [(hg i (mem_actives.mpr ⟨hi, hact⟩)).2]
    · rfl

end

/-- A register made of the elements of a function. -/
theorem makeLanes_getLane {n e k : Nat} (he : 0 < e) (x : Nat → Nat) {i : Nat} (hi : i < k) (hn : e * k ≤ n) :
    getLane (makeLanes n e ((List.range k).map x)) e i = x i % 2 ^ e := by
  simpa [Function.comp_def] using lanesOf_getLane he (fun _ => true) (fun i => (x i, 0)) hi hn

/-- A value is found under its key, where no key stands twice. -/
theorem lookup_of_mem {ps : List (Nat × Nat)} (hps : (ps.map Prod.fst).Nodup) {p : Nat × Nat} (hp : p ∈ ps) : ps.lookup p.1 = some p.2 := by
  induction ps with
  | nil => simp at hp
  | cons q qs ih =>
    obtain ⟨hq, hqs⟩ := List.nodup_cons.mp hps
    rcases List.mem_cons.mp hp with rfl | hp
    · exact List.lookup_cons_self
    · have hne : (p.1 == q.1) = false := beq_false_of_ne fun h => hq (h ▸ List.mem_map_of_mem hp)
      rw [List.lookup_cons, hne]
      exact ih hqs hp

/-- A bit of the keys of pairs, each set in its own place. -/
theorem keys_testBit (ps : List (Nat × Nat)) (i : Nat) :
    (ps.foldl (fun acc p => acc ||| 1 <<< p.1) 0).testBit i = true ↔ ∃ p, p ∈ ps ∧ p.1 = i := by
  have hbits := foldl_or_testBit (ps.map Prod.fst) (fun _ => true) (1 <<< ·) 0 i
  simp only [List.foldl_map, if_true] at hbits
  rw [hbits]
  simp [Nat.one_shiftLeft, Nat.testBit_two_pow]

/-- Pairs of different elements below the lane count are deferred to those elements alone (R360). -/
theorem deferPairs_spec (s : State) (f : Fields) {e : Nat} (h8 : 8 ∣ e) (he : 0 < e) {ps : List (Nat × Nat)} (hps : (ps.map Prod.fst).Nodup)
    (hlt : ∀ p ∈ ps, p.1 < s.me.lanes e) :
    ∃ (v : BitVec 2048) (m : BitVec 256), deferPairs s f e ps = s.deferV f.d v m (e / 8) ∧ (∀ p ∈ ps, getLane v e p.1 = p.2 % 2 ^ e)
      ∧ ∀ i, i < s.me.lanes e → ∀ b, b < e / 8 → (m.getLsbD (i * (e / 8) + b) = true ↔ ∃ p, p ∈ ps ∧ p.1 = i) := by
  have hle := (lanes_mul_le s.me e).trans (bits_le s.me)
  refine ⟨_, _, rfl, fun p hp => ?_, fun i hi b hb => ?_⟩
  · rw [makeLanes_getLane he _ (hlt p hp) hle, lookup_of_mem hps hp]
    rfl
  · obtain ⟨m, rfl⟩ := h8
    rw [Nat.mul_div_cancel_left m (by decide : 0 < 8)] at hb ⊢
    have hbyte : i * m + b < 256 := by nlinarith
    have hmask : i * m + b < s.me.lanes (8 * m) * m := by nlinarith
    rw [BitVec.getLsbD_ofNat, spread_testBit (by omega), div_lane hb, ← keys_testBit]
    simp [hbyte, hmask]

/-- A lane of `8·2^z` bits is made of bytes. -/
theorem elemBits_dvd (f : Fields) : 8 ∣ elemBits f := Nat.dvd_mul_right ..

/-- A lane of `8·2^z` bits has bits. -/
theorem elemBits_pos (f : Fields) : 0 < elemBits f := Nat.mul_pos (by decide) (Nat.two_pow_pos _)

/-! ## Compression and expansion (R360) -/

/-- What VCOMP or VEXPD defers: the element named second in each pair goes to the place named first. -/
def movedPairs (f : Fields) (s : State) (ps : List (Nat × Nat)) : List (Nat × Nat) :=
  ps.map (fun p => (p.1, getLane (s.me.getV f.a) (elemBits f) p.2))

/-- VCOMP takes the active elements to the places from 0 on. -/
theorem vcompBody_compress (f : Fields) (s : State) : vcompBody false f s
    = .ok (deferPairs s f (elemBits f) (movedPairs f s ((s.me.actives f (elemBits f)).zipIdx.map (fun p => (p.2, p.1))))) := by
  simp [vcompBody, movedPairs, Function.comp_def]

/-- VEXPD takes the elements from 0 on to the active places. -/
theorem vcompBody_expand (f : Fields) (s : State) :
    vcompBody true f s = .ok (deferPairs s f (elemBits f) (movedPairs f s (s.me.actives f (elemBits f)).zipIdx)) := by
  simp [vcompBody, movedPairs]

/-- Elements that move to different places below the lane count arrive there, and nowhere else. -/
theorem deferPairs_moved (f : Fields) (s : State) {ps : List (Nat × Nat)} (hps : (ps.map Prod.fst).Nodup)
    (hlt : ∀ p ∈ ps, p.1 < s.me.lanes (elemBits f)) :
    ∃ (v : BitVec 2048) (m : BitVec 256),
      deferPairs s f (elemBits f) (movedPairs f s ps) = s.deferV f.d v m (elemBits f / 8)
      ∧ (∀ p, p ∈ ps → getLane v (elemBits f) p.1 = getLane (s.me.getV f.a) (elemBits f) p.2 % 2 ^ elemBits f)
      ∧ ∀ i, i < s.me.lanes (elemBits f) → ∀ b, b < elemBits f / 8 →
          (m.getLsbD (i * (elemBits f / 8) + b) = true ↔ ∃ p, p ∈ ps ∧ p.1 = i) := by
  have hkeys : (movedPairs f s ps).map Prod.fst = ps.map Prod.fst := by simp [movedPairs, Function.comp_def]
  have hbound : ∀ p ∈ movedPairs f s ps, p.1 < s.me.lanes (elemBits f) := by
    intro p hp
    obtain ⟨q, hq, rfl⟩ := List.mem_map.mp hp
    exact hlt q hq
  obtain ⟨v, m, hdefer, hval, hmask⟩ := deferPairs_spec s f (elemBits_dvd f) (elemBits_pos f) (hkeys ▸ hps) hbound
  refine ⟨v, m, hdefer, fun p hp => hval _ (List.mem_map_of_mem hp), fun i hi b hb => (hmask i hi b hb).trans ?_⟩
  simp [movedPairs]

/-- No more elements are active than there are lanes. -/
theorem actives_length_le (t : Task) (f : Fields) (e : Nat) : (t.actives f e).length ≤ t.lanes e :=
  (List.length_filter_le ..).trans_eq List.length_range

/-- The places that VCOMP fills are different. -/
theorem compressed_nodup (l : List Nat) : ((l.zipIdx.map (fun p => (p.2, p.1))).map Prod.fst).Nodup := by
  simpa [Function.comp_def] using List.nodup_range' (s := 0) (n := l.length)

/-- The places that VCOMP fills are below the number of elements. -/
theorem compressed_lt {l : List Nat} {p : Nat × Nat} (hp : p ∈ l.zipIdx.map (fun p => (p.2, p.1))) : p.1 < l.length := by
  obtain ⟨q, hq, rfl⟩ := List.mem_map.mp hp
  exact List.snd_lt_of_mem_zipIdx hq

/-! ## Floating reductions and running sums (R116, R367, R368) -/

/-- The canonical NaN of a floating instruction's format is a NaN. -/
theorem value_qnan (f : Fields) : (floatFmt f).value (floatFmt f).qnan = .nan := by
  unfold floatFmt fmtZ
  split
  · decide
  · split <;> decide

/-- The one NaN of the exact values. -/
theorem Val.eq_nan_of_isNan {v : Val} (h : v.isNan = true) : v = .nan := by
  cases v with
  | nan => rfl
  | inf _ | fin _ _ _ => simp [Val.isNan] at h

/-- A pattern and its canonical form have one value. -/
theorem value_canon (f : Fields) (a : Nat) : (floatFmt f).value ((floatFmt f).canon a) = (floatFmt f).value a := by
  unfold Fmt.canon
  split
  · next h => rw [value_qnan, Val.eq_nan_of_isNan h]
  · rfl

/-- A sum takes a term by its value: its canonical form gives the same sum. -/
theorem fadd_canon (f : Fields) (a b : Nat) : fadd (floatFmt f) a ((floatFmt f).canon b) = fadd (floatFmt f) a b := by
  simp only [fadd, value_canon]

/-- A step of VFRED (R367). -/
def fredStep (f : Fields) (acc : Nat × BitVec 6) (b : Nat) : Nat × BitVec 6 :=
  if f.x.toNat % 4 = 0 then
    let r := fadd (floatFmt f) acc.1 b
    (r.1, acc.2 ||| r.2)
  else (fminmax (floatFmt f) (f.x.toNat % 4 == 2) acc.1 b, acc.2)

section
variable {f : Fields} {s : State} (h : s.issues .vfred f = true)
include h

/-- VFRED over no element defers the value of its operation over none (R130). -/
theorem exec_vfred_none (hact : s.me.actives f (floatBits f) = []) :
    let inf := (2 ^ (floatFmt f).eb - 1) * 2 ^ (floatFmt f).mb
    let none := if f.x.toNat % 4 = 0 then 0 else if f.x.toNat % 4 = 1 then inf else inf + 2 ^ ((floatFmt f).eb + (floatFmt f).mb)
    exec (.vfred f) s = completes s (s.defer { dest := .x f.d, flags := [0], val := BitVec.ofNat 4096 none }) f :=
  run_ok (body := vfredBody f) h (by simp only [vfredBody, hact, List.map_nil])

/-- VFRED over elements defers the fold of its steps, from the canonical first on. -/
theorem exec_vfred_some {k : Nat} {ks : List Nat} (hact : s.me.actives f (floatBits f) = k :: ks) :
    let a := getLane (s.me.getV f.a) (floatBits f)
    let v := ks.foldl (fun r j => fredStep f r (a j)) ((floatFmt f).canon (a k), 0)
    exec (.vfred f) s = completes s (s.defer { dest := .x f.d, val := BitVec.ofNat 4096 v.1, flags := [v.2] }) f :=
  run_ok (body := vfredBody f) h (by simp only [vfredBody, hact, List.map_cons, List.foldl_map]; rfl)

end

/-- The value of VFRED's sum is the fold of its sums, whatever the flags on the way. -/
theorem foldl_fredStep_add {f : Fields} (hop : f.x.toNat % 4 = 0) (a : Nat → Nat) (ks : List Nat) (r t : Nat × BitVec 6) (hrt : r.1 = t.1) :
    (ks.foldl (fun r j => fredStep f r (a j)) r).1 = (ks.foldl (fun r j => fadd (floatFmt f) r.1 (a j)) t).1 := by
  induction ks generalizing r t with
  | nil => exact hrt
  | cons k ks ih => exact ih _ _ (by simp [fredStep, hop, hrt])

/-- VFRED's minimum or maximum is the fold of its choices, without flags. -/
theorem foldl_fredStep_minmax {f : Fields} (hop : f.x.toNat % 4 ≠ 0) (a : Nat → Nat) (ks : List Nat) (v : Nat) :
    ks.foldl (fun r j => fredStep f r (a j)) (v, 0)
      = (ks.foldl (fun r j => fminmax (floatFmt f) (f.x.toNat % 4 == 2) r (a j)) v, 0) :=
  List.foldl_hom (fun v => ((v, 0) : Nat × BitVec 6)) (fun _ _ => if_neg hop)

/-! ## The statement -/

/-- Settles O23: the reductions by their folds, the running sums by their values at an element, the moves by the pairs they defer. -/
theorem laneInstructionsDeferTheirElements : Obligations.LaneInstructionsDeferTheirElements := by
  intro f s e a act n op m fe fa out64 below step each moved
  have hsfu {o : Op} {k : Sfu} (h : s.issues o f = true) : deferred s f fe (fun i => sfu k (fmtZ f.z) (fa i)) (run o f (sfuBody k f) s) :=
    run_deferLanes h rfl (floatBits_dvd f) (floatBits_pos f) fun _ _ => ⟨rfl, rfl⟩
  have hmoved {o : Op} {body : State → Res} {ps : List (Nat × Nat)} (h : s.issues o f = true)
      (hb : body s = .ok (deferPairs s f e (movedPairs f s ps))) (hps : (ps.map Prod.fst).Nodup) (hlt : ∀ p ∈ ps, p.1 < s.me.lanes e) :
      moved ps (run o f body s) := by
    obtain ⟨v, k, hdefer, hval, hmask⟩ := deferPairs_moved f s hps hlt
    exact ⟨v, k, run_ok h (hb.trans (congrArg Res.ok hdefer)), hval, hmask⟩
  refine ⟨fun h hop => ?redSum, fun h hact => ?redNone, fun h _ _ hsome => ?red, fun h => ?scan,
    fun h => run_deferLanes h rfl (elemBits_dvd f) (elemBits_pos f) fun _ _ => ⟨rfl, rfl⟩, fun h => ?comp, fun h => ?expd,
    hsfu, hsfu, hsfu, hsfu, exec_vfred_none, fun k ks h hact hop => ?fredSum, fun k ks h hact hop => ?fredPick, fun h => ?fscan⟩
  case redSum =>
    cases hact : act with
    | nil => exact (exec_vred_none h hop hact).trans (by rw [List.map_nil, List.sum_nil, Nat.zero_mod]; rfl)
    | cons k ks => exact (exec_vred_some h hop hact).trans (by rw [foldl_redStep_sum _ (getLane_lt ..)]; rfl)
  case redNone => exact (exec_vred_none h rfl hact).trans (by rw [redUnit_eq]; rfl)
  case red =>
    obtain ⟨k, ks, hact⟩ := List.exists_cons_of_ne_nil hsome
    rw [hact, List.map_cons]
    refine ⟨_, exec_vred_some (op := op) h rfl hact, fun hop => ?min, fun hop => ?max, fun hop b => ?and, fun hop b => ?or,
      fun hop b => ?xor⟩ <;> rw [hop]
    case min => exact foldl_redStep_min ..
    case max => exact foldl_redStep_max ..
    case and => exact foldl_redStep_and_testBit ..
    case or => exact foldl_redStep_or_testBit ..
    case xor => exact foldl_redStep_xor_testBit ..
  case scan =>
    refine run_deferLanes h rfl (elemBits_dvd f) (elemBits_pos f) fun i hi => ?_
    have hsum := scanAt_sum a (fun j => getLane_lt _ _ _) (actives_pairwise ..) hi
    exact ⟨(congrArg (·.1 % 2 ^ e) hsum).trans (Nat.mod_mod ..), congrArg (·.2) hsum⟩
  case comp =>
    exact hmoved h (vcompBody_compress f s) (compressed_nodup act) fun p hp => (compressed_lt hp).trans_le (actives_length_le ..)
  case expd =>
    refine hmoved h (vcompBody_expand f s) (by simpa using actives_nodup ..) fun p hp => ?_
    exact (mem_actives.mp (List.fst_mem_of_mem_zipIdx hp)).1
  case fredSum =>
    exact ⟨_, (exec_vfred_some h hact).trans (by rw [foldl_fredStep_add hop _ _ _ _ rfl])⟩
  case fredPick =>
    have hne : f.x.toNat % 4 ≠ 0 := by omega
    exact (exec_vfred_some h hact).trans (by rw [foldl_fredStep_minmax hne])
  case fscan =>
    obtain ⟨v, k, fl, hdefer, hval, -, -⟩ := deferLanes_spec s f (floatBits_dvd f) (floatBits_pos f)
      (scanAt (scanList (fadd m) ((s.me.actives f fe).map (fun i => (i, m.canon (fa i))))))
    refine ⟨v, k, fl, run_ok h (congrArg Res.ok hdefer), fun i hi j js hbelow => ?_⟩
    obtain ⟨hlt, hact⟩ := mem_actives.mp hi
    rw [hval i hlt hact, scanAt_scanList _ (fun i => m.canon (fa i)) (actives_pairwise ..) hi hbelow]
    simp only [m, fadd_canon]
    rfl

end Sys2Proof.Machine
end

section
/-!
PROOFS. Scalar integer instructions: results cut to a width (R139, R140) and the ALU's mould (R267), then the bit functions place by place
(R132 to R134, R280), and the two statements put together from that (O1, O2).
-/

open Sys2Proof.Claims

namespace Sys2Proof.Machine

/-! ## Integer results at a width (R139, R140) -/

/-- An exact result is cut as R139 says: wrapped, or clamped to the signed range. -/
theorem satOr_eq_cut (sat : Bool) (w : Nat) (v : Int) : satOr sat w v = cut sat w v := by
  simp only [satOr, cut, clampS, Nat.cast_pow, Nat.cast_ofNat]

/-- A left shift is a product with a power of two, cut as R139 says. -/
theorem satOr_shift_eq_cut (sat : Bool) (w k : Nat) (v : Int) : satOr sat w (v * (2 ^ k : Nat)) = cut sat w (v * 2 ^ k) := by
  rw [satOr_eq_cut, Nat.cast_pow, Nat.cast_ofNat]

/-- An arithmetic right shift is a quotient by a power of two, rounded down. -/
theorem sraW_eq (w a k : Nat) : sraW w a k = wrap w (toSigned w a / 2 ^ k) := by
  rw [sraW, Nat.cast_pow, Nat.cast_ofNat]

/-- The smaller of two integers, unsigned under `.n`. -/
theorem pick_smaller (n : Bool) (w a b : Nat) :
    (if ltW n w b a then b else a) = if n then min a b else if toSigned w b < toSigned w a then b else a := by
  cases n
  · simp [ltW]
  · simp only [ltW, if_true, decide_eq_true_eq]
    split <;> omega

/-- The larger of two integers, unsigned under `.n`. -/
theorem pick_larger (n : Bool) (w a b : Nat) :
    (if ltW n w a b then b else a) = if n then max a b else if toSigned w a < toSigned w b then b else a := by
  cases n
  · simp [ltW]
  · simp only [ltW, if_true, decide_eq_true_eq]
    split <;> omega

/-- A scalar ALU instruction completes with its operation's result, sign-extended, or zero-extended with X bit 8 (R267). -/
theorem run_alu {o : Op} {f : Fields} {s : State} {op : Nat → Nat → Nat → Nat} {r : Nat} (h : s.issues o f = true)
    (hr : op (widthZ f.z) (operandA s.me f (widthZ f.z)) (operandB s.me f (widthZ f.z)) = r) :
    run o f (alu op f) s = completes s (s.setX f.d (if f.x.getLsbD 8 then BitVec.ofNat 64 r else signW (widthZ f.z) r)) f := by
  subst hr
  exact run_ok h rfl

/-- Settles O1: each operation's result at the width, which the ALU's mould extends. -/
theorem integerAluWritesItsResult : Obligations.IntegerAluWritesItsResult := by
  intro f s w a b sa sb n sat out
  refine ⟨fun h => run_ok h rfl, fun h => run_alu h (satOr_eq_cut ..), fun h => run_alu h (satOr_eq_cut ..), fun h => run_alu h (satOr_eq_cut ..),
    fun h => run_alu h rfl, fun h => run_alu h rfl, fun h => run_alu h rfl, fun h => run_alu h rfl, fun h => run_alu h rfl,
    fun h => run_alu h rfl, fun h => run_alu h rfl, fun h => run_alu h (satOr_shift_eq_cut ..), fun h => run_alu h rfl,
    fun h => run_alu h (sraW_eq ..), fun h => run_alu h rfl, fun h => run_alu h (pick_smaller ..), fun h => run_alu h (pick_larger ..)⟩

/-! ## The set bits of a mask (R133) -/

/-- The number of set bits of a mask below a place. -/
def setBelow (m i : Nat) : Nat := (List.range i).countP (fun k => m.testBit k)

/-- A place counts for the next one when its bit is set. -/
theorem setBelow_succ (m i : Nat) : setBelow m (i + 1) = setBelow m i + if m.testBit i then 1 else 0 := by
  simp only [setBelow, List.range_succ, List.countP_append, List.countP_singleton]

/-- No more bits are set below a lower place. -/
theorem setBelow_mono (m : Nat) {i j : Nat} (h : i ≤ j) : setBelow m i ≤ setBelow m j := (List.range_sublist.mpr h).countP_le

/-- A set bit is counted below each higher place. -/
theorem setBelow_lt {m i j : Nat} (hm : m.testBit i = true) (h : i < j) : setBelow m i < setBelow m j := by
  have hj := setBelow_mono m (Nat.succ_le_of_lt h)
  rw [setBelow_succ, if_pos hm] at hj
  exact hj

/-- `popW` counts the set bits. -/
theorem popW_eq_countP (w a : Nat) : popW w a = (List.range w).countP (fun i => a.testBit i) := List.countP_eq_length_filter.symm

/-! ## Bits placed where an entry names them (R132 to R134, R280) -/

/-- A bit of a sum of the powers of two below a width that a test picks. -/
theorem sum_range_testBit (w : Nat) (c : Nat → Bool) (b : Nat) :
    ((List.range w).foldl (fun acc i => if c i then acc + 2 ^ i else acc) 0).testBit b = (decide (b < w) && c b) := by
  rw [sum_filter_testBit _ List.nodup_range _ _ _ (by simp)]
  simp

/-- BREV is the sum of the powers of two of the places of set bits, counted from the top. -/
theorem brevW_eq_sum (w a : Nat) : brevW w a
    = ((List.range w).map (fun i => w - 1 - i)).foldl (fun acc j => if a.testBit (w - 1 - j) then acc + 2 ^ j else acc) 0 := by
  rw [List.foldl_map, brevW]
  refine List.foldl_ext _ _ _ fun acc i hi => ?_
  have hlt := List.mem_range.mp hi
  rw [show w - 1 - (w - 1 - i) = i by omega]

/-- BREV places each bit as far from the top as it was from bit 0. -/
theorem brevW_testBit {w i : Nat} (a : Nat) (hi : i < w) : (brevW w a).testBit i = a.testBit (w - 1 - i) := by
  have hnodup : ((List.range w).map (fun i => w - 1 - i)).Nodup := by
    refine List.nodup_range.map_on fun x hx y hy hxy => ?_
    rw [List.mem_range] at hx hy
    omega
  have hmem : i ∈ (List.range w).map (fun i => w - 1 - i) := List.mem_map.mpr ⟨w - 1 - i, List.mem_range.mpr (by omega), by omega⟩
  rw [brevW_eq_sum, sum_filter_testBit _ hnodup _ _ _ (by simp)]
  simp [hmem]

/-- CTZ of a number of the width that is not 0 is the place of its lowest set bit. -/
theorem ctzW_lowest {w a : Nat} (hw : a < 2 ^ w) (ha : a ≠ 0) :
    a.testBit (ctzW w a) = true ∧ ∀ i, i < ctzW w a → a.testBit i = false := by
  unfold ctzW
  cases hfind : (List.range w).find? (fun i => a.testBit i) with
  | none =>
    refine absurd (Nat.eq_of_testBit_eq fun i => ?_) ha
    rw [Nat.zero_testBit]
    by_cases hi : i < w
    · simpa using List.find?_eq_none.mp hfind i (List.mem_range.mpr hi)
    · exact Nat.testBit_lt_two_pow (hw.trans_le (Nat.pow_le_pow_right (by decide) (Nat.not_lt.mp hi)))
  | some j =>
    obtain ⟨hj, _, hbelow⟩ := List.find?_range_eq_some.mp hfind
    exact ⟨hj, fun i hi => by simpa using hbelow i hi⟩

/-- CTZ of 0 is the width. -/
theorem ctzW_zero (w : Nat) : ctzW w 0 = w := by
  have hnone : (List.range w).find? (fun i => Nat.testBit 0 i) = none := by simp
  rw [ctzW, hnone]
  rfl

/-- BPERM takes the bit that each entry of the table names. -/
theorem bperm64_testBit (a : Nat) (g : BitVec 384) {i : Nat} (hi : i < 64) :
    (bperm64 a g).testBit i = a.testBit (bits g.toNat (6 * i) 6) := by
  rw [bperm64, sum_range_testBit]
  simp [hi]

/-- The parity that GFM gives bit `j` of byte `i`. -/
def gfmBit (a b ij : Nat) : Bool :=
  decide ((List.range 8).countP (fun k => a.testBit (8 * (ij % 8) + k) && b.testBit (8 * (ij / 8) + k)) % 2 = 1)

/-- A bit of a field of a number. -/
theorem bits_testBit (v lo n k : Nat) : (bits v lo n).testBit k = (decide (k < n) && v.testBit (lo + k)) := by
  rw [bits, Nat.testBit_mod_two_pow, Nat.testBit_div_two_pow, Nat.add_comm]

/-- GFM is the sum of the powers of two of its bits. -/
theorem gfm64_eq_sum (a b : Nat) : gfm64 a b = (List.range 64).foldl (fun acc ij => if gfmBit a b ij then acc + 2 ^ ij else acc) 0 := by
  have hpop (i j : Nat) : popW 8 (bits a (8 * j) 8 &&& bits b (8 * i) 8)
      = (List.range 8).countP (fun k => a.testBit (8 * j + k) && b.testBit (8 * i + k)) := by
    rw [popW_eq_countP]
    refine List.countP_congr fun k hk => ?_
    simp [bits_testBit, List.mem_range.mp hk]
  simp only [gfm64, gfmBit, hpop, Nat.div_add_mod, decide_eq_true_eq]

/-- GFM gives each of its 64 bits its parity, and sets no other. -/
theorem gfm64_testBit (a b ij : Nat) : (gfm64 a b).testBit ij = (decide (ij < 64) && gfmBit a b ij) := by
  rw [gfm64_eq_sum, sum_range_testBit]

/-! ## PDEP and PEXT (R133) -/

/-- A step of PDEP at place `i`: the bits deposited, and how many have been taken. -/
def pdepStep (a m : Nat) (acc : Nat × Nat) (i : Nat) : Nat × Nat :=
  if m.testBit i then ((if a.testBit acc.2 then acc.1 + 2 ^ i else acc.1), acc.2 + 1) else acc

/-- A step of PEXT at place `i`: the bits gathered, and how many there are. -/
def pextStep (a m : Nat) (acc : Nat × Nat) (i : Nat) : Nat × Nat :=
  if m.testBit i then ((if a.testBit i then acc.1 + 2 ^ acc.2 else acc.1), acc.2 + 1) else acc

/-- The state of PDEP below place `w`. -/
def pdepRun (w a m : Nat) : Nat × Nat := (List.range w).foldl (pdepStep a m) (0, 0)

/-- The state of PEXT below place `w`. -/
def pextRun (w a m : Nat) : Nat × Nat := (List.range w).foldl (pextStep a m) (0, 0)

theorem pdepW_eq (w a m : Nat) : pdepW w a m = (pdepRun w a m).1 := rfl

theorem pextW_eq (w a m : Nat) : pextW w a m = (pextRun w a m).1 := rfl

/-- PDEP goes on by a step at the next place. -/
theorem pdepRun_succ (w a m : Nat) : pdepRun (w + 1) a m = pdepStep a m (pdepRun w a m) w := by
  simp only [pdepRun, List.range_succ, List.foldl_append, List.foldl_cons, List.foldl_nil]

/-- PEXT goes on by a step at the next place. -/
theorem pextRun_succ (w a m : Nat) : pextRun (w + 1) a m = pextStep a m (pextRun w a m) w := by
  simp only [pextRun, List.range_succ, List.foldl_append, List.foldl_cons, List.foldl_nil]

/-- PDEP has taken a bit for each set bit of the mask. -/
theorem pdepRun_taken (w a m : Nat) : (pdepRun w a m).2 = setBelow m w := by
  induction w with
  | zero => rfl
  | succ w ih =>
    rw [pdepRun_succ, setBelow_succ, pdepStep]
    split <;> simp [ih]

/-- PEXT has gathered a bit for each set bit of the mask. -/
theorem pextRun_taken (w a m : Nat) : (pextRun w a m).2 = setBelow m w := by
  induction w with
  | zero => rfl
  | succ w ih =>
    rw [pextRun_succ, setBelow_succ, pextStep]
    split <;> simp [ih]

/-- PDEP places the bits at the set bits of the mask, every other bit clear. -/
theorem pdepW_testBit (w a m i : Nat) : (pdepW w a m).testBit i = (decide (i < w) && m.testBit i && a.testBit (setBelow m i)) := by
  rw [pdepW_eq]
  induction w generalizing i with
  | zero => simp [pdepRun]
  | succ w ih =>
    have hstep : (pdepRun (w + 1) a m).1.testBit i
        = ((pdepRun w a m).1.testBit i || (decide (i = w) && m.testBit w && a.testBit (setBelow m w))) := by
      rw [pdepRun_succ, pdepStep, pdepRun_taken]
      have hclear : (pdepRun w a m).1.testBit w = false := by simp [ih]
      cases m.testBit w <;> cases a.testBit (setBelow m w) <;> simp [add_two_pow_testBit hclear]
    rw [hstep, ih]
    rcases Nat.lt_trichotomy i w with hlt | rfl | hgt
    · simp [hlt, hlt.ne, Nat.lt_succ_of_lt hlt]
    · simp
    · simp [hgt.ne', Nat.not_lt.mpr hgt.le, Nat.not_lt.mpr (Nat.succ_le_of_lt hgt)]

/-- The bits that PEXT has gathered below place `w`. -/
theorem pextRun_testBit (w a m : Nat) : (∀ i, i < w → m.testBit i = true → (pextRun w a m).1.testBit (setBelow m i) = a.testBit i)
    ∧ ∀ i, setBelow m w ≤ i → (pextRun w a m).1.testBit i = false := by
  induction w with
  | zero => simp [pextRun]
  | succ w ih =>
    obtain ⟨hset, habove⟩ := ih
    cases hm : m.testBit w with
    | false =>
      rw [pextRun_succ, pextStep, if_neg (by simp [hm]), setBelow_succ, if_neg (by simp [hm])]
      refine ⟨fun i hi hmi => hset i ?_ hmi, habove⟩
      have hne : i ≠ w := fun h => by simp [h, hm] at hmi
      omega
    | true =>
      have hstep (i : Nat) : (pextRun (w + 1) a m).1.testBit i
          = ((pextRun w a m).1.testBit i || (decide (i = setBelow m w) && a.testBit w)) := by
        rw [pextRun_succ, pextStep, if_pos hm, pextRun_taken]
        cases a.testBit w <;> simp [add_two_pow_testBit (habove _ le_rfl)]
      rw [setBelow_succ, if_pos hm]
      refine ⟨fun i hi hmi => ?_, fun i hi => ?_⟩ <;> rw [hstep]
      · rcases Nat.lt_succ_iff_lt_or_eq.mp hi with hlt | rfl
        · simp [hset i hlt hmi, (setBelow_lt hmi hlt).ne]
        · simp [habove _ le_rfl]
      · have hne : i ≠ setBelow m w := by omega
        simp [habove i (by omega), hne]

/-! ## Compare, select and bit instructions that complete -/

/-- CLZ counts the places above the highest set bit (R280). -/
theorem clzW_eq (w a : Nat) : clzW w a = if a = 0 then w else w - 1 - a.log2 := by
  rw [clzW]
  split <;> omega

/-- A unary bit instruction completes with its operation's result, sign-extended (R280). -/
theorem run_alu1 {o : Op} {f : Fields} {s : State} {op : Nat → Nat → Nat} {r : Nat} (h : s.issues o f = true)
    (hr : op (widthZ f.z) (operandA s.me f (widthZ f.z)) = r) :
    run o f (alu1 op f) s = completes s (s.setX f.d (signW (widthZ f.z) r)) f := by
  subst hr
  exact run_ok h rfl

/-- An instruction whose effect is to write an x register completes with the value. -/
theorem run_setX {o : Op} {f : Fields} {s : State} {body : State → Res} {u v : Word64} (h : s.issues o f = true)
    (hb : body s = .ok (s.setX f.d u)) (hv : u = v) : run o f body s = completes s (s.setX f.d v) f := by
  subst hv
  exact run_ok h hb

/-- Settles O2: each instruction by its value, then each bit function by the bit it has at a place. -/
theorem compareSelectAndBitInstructions : Obligations.CompareSelectAndBitInstructions := by
  refine ⟨?values, ?bits⟩
  case values =>
    intro f s w a b xa xb n pos len holds out
    refine ⟨fun h => run_ok h rfl, fun h => run_ok h rfl, fun h => run_setX h rfl ?sel, fun h hf => run_setX h rfl (by rw [liValue, hf]),
      fun h hf => run_setX h rfl (by rw [liValue, hf]), fun h hf => run_setX h rfl (by rw [liValue, hf]), fun h => run_ok h rfl,
      fun h => run_alu1 h (clzW_eq ..), fun h => run_alu1 h rfl, fun h => run_setX h rfl (congrArg _ (popW_eq_countP ..)),
      fun h => run_alu1 h rfl, fun h => run_ok h rfl, fun h => run_ok h rfl, fun h => run_ok h rfl, fun h => run_ok h rfl,
      fun h => run_ok h rfl, fun h => run_ok h rfl⟩
    case sel => by_cases hc : s.me.getX f.c = 0 <;> simp [hc, xa, xb]
  case bits =>
    intro w a m hw below
    refine ⟨fun i hi => brevW_testBit a hi, ctzW_lowest hw, ctzW_zero w, fun g i hi => bperm64_testBit a g hi, pdepW_testBit w a m,
      (pextRun_testBit w a m).1, (pextRun_testBit w a m).2, fun i j hi hj => ?parity, fun i hi => ?none⟩
    case parity =>
      have hlt : 8 * i + j < 64 := by omega
      rw [gfm64_testBit, gfmBit, Nat.mul_add_div (by decide), Nat.mul_add_mod, Nat.div_eq_of_lt hj, Nat.mod_eq_of_lt hj]
      simp [hlt]
    case none => simp [gfm64_testBit, Nat.not_lt.mpr hi]

end Sys2Proof.Machine
end

section
/-!
PROOFS. Integer vector instructions and predicates: the value that each active element takes at its width (R355, R363), the bits that a test,
predicate logic or a run leaves (R127, R129, R333), and the two statements put together from that (O20, O22).
-/

open Sys2Proof.Claims

namespace Sys2Proof.Machine

/-! ## Element-wise integer instructions (R355) -/

section
variable {o : Op} {f : Fields} {s : State} {body : State → Res} {r : Nat → Nat}

/-- An instruction that writes values without flags to its active elements of `8·2^z` bits writes what agrees with them at that width. -/
theorem run_writesElements {g : Nat → Nat} (h : s.issues o f = true) (hb : body s = .ok (putLanes s f (elemBits f) (fun i => (g i, 0))))
    (hg : ∀ i, g i % 2 ^ elemBits f = r i % 2 ^ elemBits f) : elementwise s f (elemBits f) r (run o f body s) := by
  obtain ⟨w, hw, hval⟩ := run_putLanes_noFlags h hb (elemBits_dvd f) (elemBits_pos f)
  exact ⟨w, hw, fun i hi => (hval i hi).trans (by rw [hg])⟩

/-- An element-wise instruction of two operands gives each active element its operation's result. -/
theorem run_vecOp {op : Nat → Nat → Nat → Nat} (h : s.issues o f = true)
    (hr : ∀ i, op (elemBits f) (getLane (s.me.getV f.a) (elemBits f) i) (s.me.laneB f (elemBits f) i) = r i) :
    elementwise s f (elemBits f) r (run o f (vecOp op f) s) :=
  run_writesElements h rfl fun i => by rw [hr]

/-- An element-wise instruction of one operand gives each active element its operation's result. -/
theorem run_vecOp1 {op : Nat → Nat → Nat} (h : s.issues o f = true)
    (hr : ∀ i, op (elemBits f) (getLane (s.me.getV f.a) (elemBits f) i) = r i) :
    elementwise s f (elemBits f) r (run o f (vecOp1 op f) s) :=
  run_writesElements h rfl fun i => by rw [hr]

end

/-! ## Dot products (R363) -/

/-- Cutting to a width forgets whether the number was read as signed. -/
theorem wrap_toSigned_add {w a : Nat} (ha : a < 2 ^ w) (v : Int) : wrap w (toSigned w a + v) = wrap w (a + v) := by
  rw [toSigned, Nat.mod_eq_of_lt ha, wrap, wrap]
  split
  · rfl
  · rw [show (a : Int) - (2 ^ w : Nat) + v = a + v - (2 ^ w : Nat) by omega, Int.sub_emod_right]

/-- A part of an element is an element of its own size. -/
theorem bits_getLane {n e d i k : Nat} (v : BitVec n) (h : d * k + d ≤ e) : bits (getLane v e i) (d * k) d = bits v.toNat (e * i + d * k) d := by
  refine Nat.eq_of_testBit_eq fun b => ?_
  rw [bits_testBit, bits_testBit, getLane_testBit]
  by_cases hb : b < d
  · have hlt : d * k + b < e := by omega
    simp [hb, hlt, Nat.add_assoc, BitVec.getLsbD]
  · simp [hb]

/-- A byte of a 32-bit element is a byte of the register. -/
theorem byte_of_word {k : Nat} (v : BitVec 2048) (i : Nat) (hk : k < 4) : bits (getLane v 32 i) (8 * k) 8 = getLane v 8 (4 * i + k) := by
  rw [bits_getLane v (by omega), getLane]
  congr 1
  omega

/-- The dot product of two 32-bit elements, byte by byte. -/
theorem dot4_eq (u v : BitVec 2048) (i : Nat) : dot4 (getLane u 32 i) (getLane v 32 i) =
    let dot (k : Nat) : Int := toSigned 8 (getLane u 8 (4 * i + k)) * toSigned 8 (getLane v 8 (4 * i + k))
    dot 0 + dot 1 + dot 2 + dot 3 := by
  simp only [dot4, List.range_succ, List.range_zero, List.nil_append, List.foldl_append, List.foldl_cons, List.foldl_nil]
  rw [byte_of_word u i (by decide), byte_of_word u i (by decide), byte_of_word u i (by decide), byte_of_word u i (by decide),
    byte_of_word v i (by decide), byte_of_word v i (by decide), byte_of_word v i (by decide), byte_of_word v i (by decide), zero_add]

/-- Settles O20: each operation's value at an active element. -/
theorem vectorIntegerInstructionsWriteActiveElements : Obligations.VectorIntegerInstructionsWriteActiveElements := by
  intro f s e a b c sa sb n sat each
  refine ⟨fun h => run_vecOp h fun _ => satOr_eq_cut .., fun h => run_vecOp h fun _ => satOr_eq_cut ..,
    fun h => run_vecOp h fun _ => satOr_eq_cut .., fun h => run_vecOp h fun _ => rfl,
    fun h => run_writesElements h rfl fun i => congrArg (· % 2 ^ elemBits f) (satOr_eq_cut ..), fun h => run_vecOp h fun _ => pick_smaller ..,
    fun h => run_vecOp h fun _ => pick_larger .., fun h => run_vecOp1 h fun _ => satOr_eq_cut .., fun h => run_vecOp h fun _ => rfl,
    fun h => run_vecOp h fun _ => rfl, fun h => run_vecOp h fun _ => rfl, fun h => run_vecOp h fun _ => satOr_shift_eq_cut ..,
    fun h => run_vecOp h fun _ => rfl, fun h => run_vecOp h fun _ => sraW_eq .., fun h => run_writesElements h rfl fun _ => rfl,
    fun h => run_vecOp h fun _ => rfl, fun h => run_vecOp h fun _ => rfl, fun h => run_vecOp h fun _ => rfl,
    fun h => run_writesElements h rfl fun _ => rfl, fun h => run_writesElements h rfl fun _ => rfl,
    fun h => run_writesElements h rfl fun _ => Nat.mod_mod .., fun h => ?dot⟩
  case dot =>
    have hrun := run_putLanes_noFlags (body := vdot4Body f) h rfl (by decide) (by decide)
    simp only [wrap_toSigned_add (getLane_lt ..), dot4_eq] at hrun
    exact hrun

/-! ## Predicates (R127, R129, R333) -/

section
variable {o : Op} {f : Fields} {s : State} {body : State → Res}

/-- An instruction whose effect is `putPred` and flags gives every bit of its active elements the test's outcome. -/
theorem run_putPred {e : Nat} {g r : Nat → Bool} (fl : BitVec 6) (h : s.issues o f = true)
    (hb : body s = .ok ((putPred f e g s).raiseFlags fl)) (h8 : 8 ∣ e) (he : 0 < e) (hg : ∀ i, g i = r i) :
    predicated s f e r fl (run o f body s) := by
  obtain rfl : g = r := funext hg
  obtain ⟨w, hput, hval⟩ := putPred_spec f h8 he g s
  exact ⟨w, by rw [run_ok h hb, hput]; rfl, hval⟩

/-- Predicate logic gives each bit that the guard selects its function's value. -/
theorem run_predOp {op : BitVec 256 → BitVec 256 → BitVec 256} {g : Bool → Bool → Bool} (h : s.issues o f = true)
    (hg : ∀ p q b, b < 256 → (op p q).getLsbD b = g (p.getLsbD b) (q.getLsbD b)) :
    ∃ w : BitVec 256, run o f (predOp op f) s = completes s (s.setP f.d w) f
      ∧ ∀ b, b < 256 → w.getLsbD b
        = if (s.me.guard f).getLsbD b then g ((s.me.getP f.a).getLsbD b) ((s.me.getP f.b).getLsbD b) else (s.me.getP f.d).getLsbD b := by
  refine ⟨_, run_ok h rfl, fun b hb => ?_⟩
  rw [← hg _ _ b hb]
  simp only [blend, BitVec.getLsbD_or, BitVec.getLsbD_and, BitVec.getLsbD_not]
  cases (s.me.guard f).getLsbD b <;> simp [hb]

end

/-- What PSET gives an element: none, all, or a run of xA elements. -/
theorem pset_outcome (op i n : Nat) : (match op with | 0 => false | 1 => true | _ => decide (i < n))
    = if op = 0 then false else if op = 1 then true else decide (i < n) := by
  match op with
  | 0 | 1 => rfl
  | _ + 2 => rfl

/-- Settles O22: the tests element by element, logic bit by bit, and the counts. -/
theorem predicateInstructionsWriteTheirBits : Obligations.PredicateInstructionsWriteTheirBits := by
  intro f s e n xa xb pa pb fe cmp logic
  have hplain (t : State) : t.raiseFlags 0 = t := t.raiseFlags_zero
  have hbytes : e / 8 = 2 ^ f.z.toNat := Nat.mul_div_cancel_left _ (by decide)
  refine ⟨fun h => run_putPred 0 h (by rw [hplain]; rfl) (elemBits_dvd f) (elemBits_pos f) fun _ => rfl,
    fun h => ⟨_, run_putPred _ h rfl (floatBits_dvd f) (floatBits_pos f) fun _ => rfl, fun b => ?flags⟩,
    fun h => run_putPred 0 h (by rw [hplain]; rfl) (elemBits_dvd f) (elemBits_pos f) fun _ => rfl,
    fun h => run_putPred 0 h (by rw [hplain]; rfl) (elemBits_dvd f) (elemBits_pos f) fun _ => pset_outcome ..,
    fun h => run_predOp h fun _ _ _ _ => BitVec.getLsbD_and, fun h => run_predOp h fun _ _ _ _ => BitVec.getLsbD_or,
    fun h => run_predOp h fun _ _ _ _ => BitVec.getLsbD_xor,
    fun h => run_predOp (op := fun p _ => ~~~p) (g := fun x _ => !x) h fun _ _ _ hb => by simp [hb],
    fun h => run_setX h rfl ?count, fun h => run_ok h rfl⟩
  case flags => simp only [listed_flags, mem_actives, and_assoc, cmp, fe]
  case count => rw [hbytes, List.countP_eq_length_filter]; rfl

end Sys2Proof.Machine
end

section
/-!
PROOFS. VGET, VPUT, GRANK and VSBP: the elements and the order that they give (R135, R301, R371, R381, R383); then outstanding results that
arrive, those of loads that may still be performed among them (R60, R62, R205, R208), and the statement put together from that (O24).
-/

open Sys2Proof.Claims

namespace Sys2Proof.Machine

/-! ## Registers made of elements -/

/-- An element of a register made of a list's elements. -/
theorem getLane_makeLanes {n e : Nat} (he : 0 < e) (es : List Nat) {i : Nat} (hn : e * i + e ≤ n) :
    getLane (makeLanes n e es) e i = (es[i]?).getD 0 % 2 ^ e := by
  refine Nat.eq_of_testBit_eq fun b => ?_
  rw [getLane_testBit, makeLanes_getLsbD he, Nat.testBit_mod_two_pow]
  by_cases hb : b < e
  · have hlt : e * i + b < n := by omega
    rw [Nat.mul_add_div he, Nat.div_eq_of_lt hb, Nat.mul_add_mod, Nat.mod_eq_of_lt hb]
    simp [hb, hlt]
  · simp [hb]

/-- The bits of the bytes that a mask takes. -/
theorem byteMask_getLsbD (m : BitVec 256) (b : Nat) :
    (BitVec.ofNat 2048 (spread 256 8 m.toNat)).getLsbD b = (decide (b < 2048) && m.getLsbD (b / 8)) := by
  rw [BitVec.getLsbD_ofNat, spread_testBit (by decide)]
  by_cases hb : b < 2048 <;> simp [hb, BitVec.getLsbD]

/-- An element of bytes, blended into a register under a mask of bytes that takes the whole element or nothing of it. -/
theorem getLane_blend_bytes {e i : Nat} (old new : BitVec 2048) {m : BitVec 256} {c : Bool} (h8 : 8 ∣ e) (hi : e * i + e ≤ 2048)
    (hm : ∀ b, b < e / 8 → m.getLsbD (i * (e / 8) + b) = c) :
    getLane (blend old new (BitVec.ofNat 2048 (spread 256 8 m.toNat))) e i = if c then getLane new e i else getLane old e i := by
  obtain ⟨n, rfl⟩ := h8
  rw [Nat.mul_div_cancel_left n (by decide)] at hm
  refine Nat.eq_of_testBit_eq fun b => ?_
  rw [getLane_testBit]
  by_cases hb : b < 8 * n
  · have hbyte : (8 * n * i + b) / 8 = i * n + b / 8 := by rw [Nat.mul_assoc, Nat.mul_add_div (by decide), Nat.mul_comm n]
    have hlt : 8 * n * i + b < 2048 := by omega
    simp only [blend, BitVec.getLsbD_or, BitVec.getLsbD_and, BitVec.getLsbD_not, byteMask_getLsbD, hbyte, hm (b / 8) (by omega)]
    cases c <;> simp [hb, hlt, getLane_testBit]
  · cases c <;> simp [hb, getLane_testBit]

/-! ## VGET and VPUT (R371, R381) -/

/-- Bits in a row from a place on. -/
theorem bitRun_testBit (n lo j : Nat) : ((2 ^ n - 1) * 2 ^ lo).testBit j = (decide (lo ≤ j) && decide (j - lo < n)) := by
  rw [Nat.mul_comm, Nat.testBit_two_pow_mul, Nat.testBit_two_pow_sub_one]

/-- The bytes of one element, at a byte of another. -/
theorem elementRun_testBit {n k i b : Nat} (hb : b < n) : ((2 ^ n - 1) * 2 ^ (k * n)).testBit (i * n + b) = decide (i = k) := by
  rw [bitRun_testBit]
  rcases Nat.lt_trichotomy i k with h | rfl | h
  · have hlt : i * n + b < k * n := by nlinarith
    simp [h.ne, Nat.not_le.mpr hlt]
  · simp [hb]
  · have hge : k * n + n ≤ i * n := by nlinarith
    simp [h.ne', show ¬ i * n + b - k * n < n by omega]

/-- An element index inside the register passes. -/
theorem needIndex_ok {f : Fields} {s : State} (hk : (s.me.getX f.b).toNat < s.me.lanes (elemBits f)) : needIndex f s = .ok () :=
  need_ok (decide_eq_true hk)

/-- An element index outside the register raises `bounds`. -/
theorem needIndex_no {f : Fields} {s : State} (hk : s.me.lanes (elemBits f) ≤ (s.me.getX f.b).toNat) :
    needIndex f s = .error (.fault s { code := .bounds, eval := s.me.getX f.b, offset := s.me.getX f.b }) :=
  need_no (decide_eq_false (Nat.not_lt.mpr hk))

/-- An element of the width lies in the register. -/
theorem lane_end_le (t : Task) {e i : Nat} (hi : i < t.lanes e) : e * i + e ≤ 2048 :=
  (Nat.mul_le_mul_left e (Nat.succ_le_of_lt hi)).trans ((lanes_mul_le t e).trans (bits_le t))

/-- VPUT writes the element xB of vD alone. -/
theorem vputBody_spec {f : Fields} {s : State} (hk : (s.me.getX f.b).toNat < s.me.lanes (elemBits f)) :
    ∃ w : BitVec 2048, vputBody f s = .ok (s.setV f.d w) ∧ ∀ i, i < s.me.lanes (elemBits f) → getLane w (elemBits f) i
      = if i = (s.me.getX f.b).toNat then (s.me.getX f.a).toNat % 2 ^ elemBits f else getLane (s.me.getV f.d) (elemBits f) i := by
  refine ⟨_, by rw [vputBody, needIndex_ok hk]; rfl, fun i hi => ?_⟩
  rw [getLane_blend_bytes (c := decide (i = (s.me.getX f.b).toNat)) _ _ (elemBits_dvd f) (lane_end_le s.me hi)]
  · by_cases h : i = (s.me.getX f.b).toNat
    · rw [if_pos (decide_eq_true h), if_pos h, getLane_makeLanes (elemBits_pos f) _ (lane_end_le s.me hi)]
      simp [h, operandA]
    · simp [h]
  · intro b hb
    have hend := lane_end_le s.me hi
    have hbyte : i * (elemBits f / 8) + b < 256 := by
      obtain ⟨n, hn⟩ := elemBits_dvd f
      rw [hn] at hend hb ⊢
      rw [Nat.mul_div_cancel_left n (by decide)] at hb ⊢
      nlinarith
    rw [BitVec.getLsbD_ofNat, elementRun_testBit hb]
    simp [hbyte]

/-! ## GRANK (R135, R301) -/

section
variable {α : Type} (le : α → α → Bool)

/-- Inserting a value adds it to the list. -/
theorem insertBy_perm (x : α) (ys : List α) : (insertBy le x ys).Perm (x :: ys) := by
  induction ys with
  | nil => exact List.Perm.refl _
  | cons y ys ih =>
    rw [insertBy]
    split
    · exact List.Perm.refl _
    · exact (ih.cons y).trans (List.Perm.swap x y ys)

/-- Putting a list in order keeps its values. -/
theorem sortBy_perm (xs : List α) : (sortBy le xs).Perm xs := by
  induction xs with
  | nil => exact List.Perm.refl _
  | cons x xs ih => exact (insertBy_perm le x _).trans (ih.cons x)

end

/-- `x` may stand before `y` in a stable order by key of ascending numbers. -/
def stableBefore (key : Nat → Nat) (x y : Nat) : Prop := key x < key y ∨ key x = key y ∧ x < y

/-- No number stands before itself. -/
theorem stableBefore_ne {key : Nat → Nat} {x y : Nat} (h : stableBefore key x y) : x ≠ y := by
  rintro rfl
  unfold stableBefore at h
  omega

/-- A number below those of a stable order is inserted in that order. -/
theorem insertBy_stable {key : Nat → Nat} {x : Nat} {ys : List Nat} (hx : ∀ y ∈ ys, x < y) (hys : ys.Pairwise (stableBefore key)) :
    (insertBy (fun a b => key a ≤ key b) x ys).Pairwise (stableBefore key) := by
  induction ys with
  | nil => simp [insertBy]
  | cons y ys ih =>
    obtain ⟨hy, hrest⟩ := List.pairwise_cons.mp hys
    rw [insertBy]
    split
    · next hle =>
      have hle : key x ≤ key y := of_decide_eq_true hle
      refine List.pairwise_cons.mpr ⟨fun z hz => ?_, hys⟩
      have hxz := hx z hz
      rcases List.mem_cons.mp hz with rfl | hz
      · unfold stableBefore; omega
      · have hyz := hy z hz
        unfold stableBefore at *; omega
    · next hlt =>
      have hlt : ¬ key x ≤ key y := fun h => hlt (decide_eq_true h)
      refine List.pairwise_cons.mpr ⟨fun z hz => ?_, ih (fun z hz => hx z (List.mem_cons_of_mem _ hz)) hrest⟩
      rcases List.mem_cons.mp ((insertBy_perm _ x ys).mem_iff.mp hz) with rfl | hz
      · exact .inl (by omega)
      · exact hy z hz

/-- Ascending numbers put in order by key stand in a stable order. -/
theorem sortBy_stable (key : Nat → Nat) {xs : List Nat} (hxs : xs.Pairwise (· < ·)) :
    (sortBy (fun a b => key a ≤ key b) xs).Pairwise (stableBefore key) := by
  induction xs with
  | nil => exact List.Pairwise.nil
  | cons x xs ih =>
    obtain ⟨hx, hrest⟩ := List.pairwise_cons.mp hxs
    exact insertBy_stable (fun y hy => hx y ((sortBy_perm _ xs).mem_iff.mp hy)) (ih hrest)

/-- The order of the 64 codes that GRANK gives. -/
def grankOrder (key : Nat → Nat) (v : BitVec 2048) : List Nat :=
  sortBy (fun a b => key (getLane v 4 a) ≤ key (getLane v 4 b)) (List.range 64)

theorem grankTable_eq (key : Nat → Nat) (v : BitVec 2048) : grankTable key v = makeLanes 384 6 (grankOrder key v) := rfl

theorem grankOrder_perm (key : Nat → Nat) (v : BitVec 2048) : (grankOrder key v).Perm (List.range 64) := sortBy_perm ..

theorem grankOrder_stable (key : Nat → Nat) (v : BitVec 2048) : (grankOrder key v).Pairwise (stableBefore fun x => key (getLane v 4 x)) :=
  sortBy_stable (fun x => key (getLane v 4 x)) List.pairwise_lt_range

theorem grankOrder_length (key : Nat → Nat) (v : BitVec 2048) : (grankOrder key v).length = 64 :=
  (grankOrder_perm key v).length_eq.trans List.length_range

/-- An entry of GRANK's table is the number at its place in the order. -/
theorem grankTable_getLane (key : Nat → Nat) (v : BitVec 2048) {i : Nat} (hi : i < (grankOrder key v).length) :
    getLane (grankTable key v) 6 i = (grankOrder key v)[i] := by
  have hmem : (grankOrder key v)[i] < 64 := List.mem_range.mp ((grankOrder_perm key v).mem_iff.mp (List.getElem_mem hi))
  have hi64 : i < 64 := grankOrder_length key v ▸ hi
  rw [grankTable_eq, getLane_makeLanes (by decide) _ (by omega), List.getElem?_eq_getElem hi, Option.getD_some]
  exact Nat.mod_eq_of_lt hmem

/-- The entries of GRANK's table stand in a stable order. -/
theorem grankTable_stable (key : Nat → Nat) (v : BitVec 2048) {i j : Nat} (hij : i < j) (hj : j < 64) :
    stableBefore (fun x => key (getLane v 4 x)) (getLane (grankTable key v) 6 i) (getLane (grankTable key v) 6 j) := by
  have hj : j < (grankOrder key v).length := (grankOrder_length key v).symm ▸ hj
  rw [grankTable_getLane key v (hij.trans hj), grankTable_getLane key v hj]
  exact List.pairwise_iff_getElem.mp (grankOrder_stable key v) i j (hij.trans hj) hj hij

/-! ## VSBP (R383) -/

/-- The active groups of 64 elements of VSBP. -/
def sbpGroups (f : Fields) (t : Task) : List Nat := (List.range (t.bits / 1024)).filter (fun j => t.active f 16 (64 * j))

/-- The sum by parts of group `j`, with its flags. -/
def sbpSum (f : Fields) (s : State) (j : Nat) : Nat × BitVec 6 :=
  sbpGroup (s.core s.myCore).codebook ((List.range 64).map (fun m => (fmtOf 0).value (getLane (s.me.getV f.a) 16 (64 * j + m))))
    ((List.range 64).map (fun m => getLane (s.me.getV f.b) 4 (64 * j + m)))

/-- The element of wD with the sum of group `j` added, rounded once. -/
def sbpElem (f : Fields) (s : State) (j : Nat) : Nat × BitVec 6 := fadd fp32 (getLane (s.me.getW f.d) 32 j) (sbpSum f s j).1

/-- Below a width of 1,024 bits VSBP is illegal. -/
theorem vsbpBody_narrow {f : Fields} {s : State} (h : s.me.bits < 1024) : vsbpBody f s = .fault s { code := .illegalEncoding } := by
  have hno : decide (1024 ≤ s.me.bits) = false := decide_eq_false (Nat.not_le.mpr h)
  simp only [vsbpBody, need_no hno, act_bind_error, act_run_error]

/-- VSBP defers the elements of its active groups. -/
theorem vsbpBody_wide {f : Fields} {s : State} (h : 1024 ≤ s.me.bits) : ∃ fl, vsbpBody f s = .ok (s.defer
    { dest := .w f.d, flags := fl
      val := BitVec.ofNat 4096 ((sbpGroups f s.me).foldl (fun acc j => acc + (sbpElem f s j).1 % 2 ^ 32 * 2 ^ (32 * j)) 0)
      mask := BitVec.ofNat 256 ((sbpGroups f s.me).foldl (fun acc j => acc + 2 ^ j) 0) }) := by
  simp only [vsbpBody, need_ok (decide_eq_true h), act_bind_ok, List.foldl_map]
  exact ⟨_, rfl⟩

/-- A group is among the active ones. -/
theorem mem_sbpGroups {f : Fields} {t : Task} {j : Nat} : j ∈ sbpGroups f t ↔ j < t.bits / 1024 ∧ t.active f 16 (64 * j) = true := by
  simp [sbpGroups]

/-- No group is active twice. -/
theorem sbpGroups_nodup (f : Fields) (t : Task) : (sbpGroups f t).Nodup := List.nodup_range.filter _

/-- A listed element of a sum of elements, each at its own place. -/
theorem getLane_sum_lanes {n d i : Nat} {l : List Nat} (hl : l.Nodup) (x : Nat → Nat) (hi : i ∈ l) (hn : d * i + d ≤ n) :
    getLane (BitVec.ofNat n (l.foldl (fun acc j => acc + x j % 2 ^ d * 2 ^ (d * j)) 0)) d i = x i % 2 ^ d := by
  refine Nat.eq_of_testBit_eq fun b => ?_
  rw [getLane_testBit, Nat.testBit_mod_two_pow]
  by_cases hb : b < d
  · have hlt : d * i + b < n := by omega
    rw [BitVec.getLsbD_ofNat, sum_lanes_testBit (x := fun j => x j % 2 ^ d) (fun j => Nat.mod_lt _ (Nat.two_pow_pos d)) hl (by simp) i hb]
    simp [hi, hb, hlt, Nat.testBit_mod_two_pow]
  · simp [hb]

/-- VSBP defers the wide sum of each active group of 64, and nothing else. -/
theorem vsbpBody_spec {f : Fields} {s : State} (h : 1024 ≤ s.me.bits) :
    ∃ (v : BitVec 4096) (k : BitVec 256) (fl : List (BitVec 6)),
      vsbpBody f s = .ok (s.defer { dest := .w f.d, val := v, mask := k, flags := fl })
      ∧ ∀ j, j < 128 → k.getLsbD j = decide (j ∈ sbpGroups f s.me)
        ∧ (k.getLsbD j = true → getLane v 32 j = (sbpElem f s j).1 % 2 ^ 32) := by
  obtain ⟨fl, hbody⟩ := vsbpBody_wide (f := f) h
  refine ⟨_, _, fl, hbody, fun j hj => ?_⟩
  have hmask : (BitVec.ofNat 256 ((sbpGroups f s.me).foldl (fun acc j => acc + 2 ^ j) 0)).getLsbD j = decide (j ∈ sbpGroups f s.me) := by
    rw [BitVec.getLsbD_ofNat, sum_testBit _ (sbpGroups_nodup f s.me) _ _ (by simp)]
    simp [show j < 256 by omega]
  refine ⟨hmask, fun hk => getLane_sum_lanes (sbpGroups_nodup f s.me) _ ?_ (by omega)⟩
  exact of_decide_eq_true (hmask ▸ hk)

/-! ## Elements that arrive (R60, R62) -/

/-- A unit arrives that the result still owes and whose element is chosen. -/
theorem Pend.chosen_getLsbD (p : Pend) (choice : BitVec 256) (b : Nat) :
    (p.chosen choice).getLsbD b = (p.mask.getLsbD b && choice.getLsbD (b / p.unit * p.unit)) := by
  rw [Pend.chosen, BitVec.getLsbD_and, BitVec.getLsbD_ofNat, foldl_or_testBit, Bool.and_comm]
  by_cases hb : b < 256
  · rw [Bool.eq_iff_iff]
    simp only [hb, decide_true, Bool.true_and, Nat.zero_testBit, Bool.false_or, Bool.and_eq_true, List.any_eq_true, List.mem_range,
      Nat.one_shiftLeft, Nat.testBit_two_pow, decide_eq_true_eq]
    exact and_congr_right fun _ => ⟨fun ⟨j, _, hc, hj⟩ => hj ▸ hc, fun hc => ⟨b, hb, hc, rfl⟩⟩
  · simp [BitVec.getLsbD_of_ge p.mask b (Nat.not_lt.mp hb)]

/-- The one unit of a scalar result arrives when it is chosen. -/
theorem Pend.chosen_scalar {p : Pend} {choice : BitVec 256} (hmask : p.mask = 1) (hunit : p.unit = 1) (hc : choice.getLsbD 0 = true) :
    p.chosen choice = 1 := by
  refine BitVec.eq_of_getLsbD_eq fun b hb => ?_
  rw [Pend.chosen_getLsbD, hmask, hunit]
  cases b with
  | zero => simp [hc]
  | succ b => simp

/-- A result without flags sets none. -/
theorem State.landFlags_none {s : State} {k : TaskKey} {p : Pend} (hfl : p.flags = []) (m : BitVec 256) : s.landFlags k p m = s :=
  if_pos (by simp [Pend.flagsOf, hfl])

/-- A result without flags or fault arrives by being written. -/
theorem State.arrives_value {s : State} {k : TaskKey} {p : Pend} (hfl : p.flags = []) (hfault : p.fault = none) (m : BitVec 256) :
    s.arrives k p m = s.land k p m := by
  rw [State.arrives, hfault]
  exact State.landFlags_none hfl m

/-- Going on after a switch point changes nothing of the task but its status. -/
theorem State.task_unpark {α : Type} (π : Task → α) (hπ : ∀ t st, π { t with status := st } = π t) (s : State) (k : TaskKey) :
    π ((s.unpark k).task k) = π (s.task k) := by
  rw [State.unpark]
  split
  · exact (congrArg π (State.task_setTask ..)).trans (hπ ..)
  · rfl

/-- What a result still owes once the chosen elements have arrived. -/
def Pend.left (p : Pend) (choice : BitVec 256) : BitVec 256 := p.mask &&& ~~~p.chosen choice

/-- A task once the chosen elements of its `i`-th outstanding result have arrived: it waits for what is left. -/
def Task.owing (t : Task) (i : Nat) (p : Pend) (choice : BitVec 256) : Task :=
  { t with pend := if p.left choice = 0 then t.pend.eraseIdx i else t.pend.set i { p with mask := p.left choice } }

section
variable (t : Task) (i : Nat) (p : Pend) (choice : BitVec 256)

@[simp] theorem Task.owing_getX (n : BitVec 6) : (t.owing i p choice).getX n = t.getX n := rfl
@[simp] theorem Task.owing_getV (n : BitVec 6) : (t.owing i p choice).getV n = t.getV n := rfl
@[simp] theorem Task.owing_vMask : (t.owing i p choice).vMask = t.vMask := rfl
@[simp] theorem Task.owing_pc : (t.owing i p choice).pc = t.pc := rfl

/-- A result of which nothing is left is outstanding no longer. -/
theorem Task.owing_none (h : p.left choice = 0) : (t.owing i p choice).pend = t.pend.eraseIdx i := if_pos h

/-- A result of which something is left stays outstanding with it. -/
theorem Task.owing_some (h : p.left choice ≠ 0) : (t.owing i p choice).pend = t.pend.set i { p with mask := p.left choice } := if_neg h

end

@[simp] theorem Task.setX_pend (t : Task) (n : BitVec 6) (v : Word64) : (t.setX n v).pend = t.pend := by
  unfold Task.setX
  split <;> rfl

@[simp] theorem Task.setX_pc (t : Task) (n : BitVec 6) (v : Word64) : (t.setX n v).pc = t.pc := by
  unfold Task.setX
  split <;> rfl

@[simp] theorem Task.setV_pend (t : Task) (n : BitVec 6) (v : BitVec 2048) : (t.setV n v).pend = t.pend := rfl

section
variable {s : State} {k : TaskKey} {i : Nat} {p : Pend} {choice : BitVec 256} {n : BitVec 6}

/-- A result for an x register is written there. -/
theorem State.task_land_x (hdest : p.dest = .x n) {m : BitVec 256} (hm : m ≠ 0) :
    (s.land k p m).task k = (s.task k).setX n (p.val.setWidth 64) := by
  rw [State.land, if_neg hm]
  simp only [hdest, State.task_setTask]

/-- Bytes of a result for a v register are written there. -/
theorem State.task_land_v (hdest : p.dest = .v n) {m : BitVec 256} (hm : m ≠ 0) : (s.land k p m).task k
    = (s.task k).setV n (blend ((s.task k).getV n) (p.val.setWidth 2048) (BitVec.ofNat 2048 (spread 256 8 m.toNat))) := by
  rw [State.land, if_neg hm]
  simp only [hdest, State.task_setTask]

/-- The chosen elements of a result that is there are written, and the task owes them no longer. -/
theorem State.task_landSome {α : Type} (π : Task → α) (hπ : ∀ t st, π { t with status := st } = π t)
    (hp : (s.task k).pend[i]? = some p) (hfl : p.flags = []) (hfault : p.fault = none) (hmsg : p.msg = none) :
    π ((s.landSome k i choice).task k)
      = π (((s.setTask k ((s.task k).owing i p choice)).land k p (p.chosen choice)).task k) := by
  have hthere : p.awaited = false := by simp [Pend.awaited, hmsg]
  have hresult : p.fault.isSome = false := by simp [hfault]
  simp only [State.landSome, hp, hthere, hresult, Bool.false_eq_true, if_false, State.arrives_value hfl hfault]
  split
  · next hnone =>
    rw [State.land, if_pos hnone]
    rfl
  · exact State.task_unpark π hπ ..

/-- A scalar result that is chosen is written to its x register, and is outstanding no longer. -/
theorem State.task_landSome_x (hp : (s.task k).pend[i]? = some p) (hfl : p.flags = []) (hfault : p.fault = none) (hmsg : p.msg = none)
    (hdest : p.dest = .x n) (hmask : p.mask = 1) (hunit : p.unit = 1) (hc : choice.getLsbD 0 = true) :
    ((s.landSome k i choice).task k).pend = (s.task k).pend.eraseIdx i
      ∧ (∀ m, ((s.landSome k i choice).task k).getX m = ((s.task k).setX n (p.val.setWidth 64)).getX m)
      ∧ ((s.landSome k i choice).task k).pc = (s.task k).pc := by
  have hone := Pend.chosen_scalar hmask hunit hc
  have hleft : p.left choice = 0 := by rw [Pend.left, hone, hmask]; decide
  have hland : ((s.setTask k ((s.task k).owing i p choice)).land k p (p.chosen choice)).task k
      = ((s.task k).owing i p choice).setX n (p.val.setWidth 64) := by
    rw [hone, State.task_land_x hdest (by decide), State.task_setTask]
  refine ⟨?_, fun m => ?_, ?_⟩
  · rw [State.task_landSome Task.pend (fun _ _ => rfl) hp hfl hfault hmsg, hland, Task.setX_pend, Task.owing_none _ _ _ _ hleft]
  · rw [State.task_landSome (·.getX m) (fun _ _ => rfl) hp hfl hfault hmsg, hland]
    by_cases hm : m = n
    · subst hm
      by_cases h0 : m = 0
      · rw [h0, Task.getX_zero, Task.getX_zero]
      · rw [Task.getX_setX_same _ h0, Task.getX_setX_same _ h0]
    · rw [Task.getX_setX_other _ hm, Task.getX_setX_other _ hm, Task.owing_getX]
  · rw [State.task_landSome Task.pc (fun _ _ => rfl) hp hfl hfault hmsg, hland, Task.setX_pc, Task.owing_pc]

/-- An element of the task's width lies under its mask of vector bits. -/
theorem getLane_vMask (t : Task) (v : BitVec 2048) {b : Nat} (hb : b < t.bits / 8) : getLane (v &&& t.vMask) 8 b = getLane v 8 b := by
  refine Nat.eq_of_testBit_eq fun j => ?_
  have hle := bits_le t
  rw [getLane_testBit, getLane_testBit, BitVec.getLsbD_and, Task.vMask, BitVec.getLsbD_ofNat, Nat.testBit_two_pow_sub_one]
  by_cases hj : j < 8
  · simp [hj, show 8 * b + j < 2048 by omega, show 8 * b + j < t.bits by omega]
  · simp [hj]

/-- The chosen bytes of a vector result are written to its v register; what is left stays outstanding. -/
theorem State.task_landSome_v (hp : (s.task k).pend[i]? = some p) (hfl : p.flags = []) (hfault : p.fault = none) (hmsg : p.msg = none)
    (hdest : p.dest = .v n) :
    ((s.landSome k i choice).task k).pend = ((s.task k).owing i p choice).pend ∧ ∀ b, b < (s.task k).bits / 8 →
      getLane (((s.landSome k i choice).task k).getV n) 8 b
        = if (p.chosen choice).getLsbD b then getLane (p.val.setWidth 2048 : BitVec 2048) 8 b else getLane ((s.task k).getV n) 8 b := by
  have hkeep {α : Type} (π : Task → α) (hπ : ∀ t st, π { t with status := st } = π t) :=
    State.task_landSome (choice := choice) π hπ hp hfl hfault hmsg
  rw [hkeep Task.pend fun _ _ => rfl, hkeep (·.getV n) fun _ _ => rfl]
  by_cases hm : p.chosen choice = 0
  · rw [hm, State.land, if_pos rfl, State.task_setTask]
    exact ⟨rfl, fun b _ => by simp⟩
  · rw [State.task_land_v hdest hm, State.task_setTask, Task.setV_pend, Task.getV_setV_same]
    refine ⟨rfl, fun b hb => ?_⟩
    have hle := bits_le (s.task k)
    rw [Task.owing_vMask, Task.owing_getV, getLane_vMask _ _ hb]
    exact getLane_blend_bytes _ _ (by decide) (by omega) fun j hj => by rw [show j = 0 by omega]; simp

end

/-! ## Loads that are performed after their issue (R205, R208, R370) -/

/-- What a result keeps while elements of its load are read again: all but its value and its elements. -/
def Pend.rest (p : Pend) : Pend := { p with val := 0, src := [] }

/-- Reading an element again keeps the rest. -/
theorem Pend.rest_reload (p : Pend) (idx size v : Nat) : (p.reload idx size v).rest = p.rest := by
  rw [Pend.reload]
  split <;> rfl

/-- Performing elements of a load changes which are still to be read. -/
theorem Pend.fix_eq (p : Pend) (hit : Pend → Elem → Bool) : p.fix hit = { p with src := (p.fix hit).src } := by
  unfold Pend.fix
  split
  · split <;> rfl
  · split <;> rfl
  · rfl

/-- Performing elements of a load keeps the rest. -/
theorem Pend.rest_fix (p : Pend) (hit : Pend → Elem → Bool) : (p.fix hit).rest = p.rest := by
  rw [Pend.fix_eq]
  rfl

/-- Performing elements of a load leaves what they have read. -/
theorem Pend.val_fix (p : Pend) (hit : Pend → Elem → Bool) : (p.fix hit).val = p.val := by rw [Pend.fix_eq]

/-- A result that no load gives stays as it is. -/
theorem Pend.fix_settled {p : Pend} (h : p.src = []) (hit : Pend → Elem → Bool) : p.fix hit = p := by
  unfold Pend.fix
  split
  · simp [h]
  · simp [h]
  · rw [h, List.filter_nil, ← h]

/-- A result that no load gives has no elements to read again. -/
theorem Pend.chosenElems_settled {p : Pend} (h : p.src = []) (sel : Elem → Bool) : p.chosenElems sel = [] := by
  unfold Pend.chosenElems
  split <;> simp [h]

section
variable {s : State} {k : TaskKey} {i : Nat} {p q : Pend}

/-- Reading a pointer's word and header again changes the value and the elements. -/
theorem State.reloadPointer_some {e : Elem} (h : s.reloadPointer k p e = some q) : ∃ v es, q = { p with val := v, src := es } := by
  simp only [State.reloadPointer, Option.bind_eq_bind, Option.bind_eq_some_iff] at h
  obtain ⟨bs, _, h⟩ := h
  split at h
  · exact ⟨_, _, (Option.some.inj h).symm⟩
  · split at h
    · simp at h
    · split at h
      · simp at h
      · simp only [Option.bind_eq_some_iff] at h
        obtain ⟨hd, _, h⟩ := h
        exact ⟨_, _, (Option.some.inj h).symm⟩

/-- Reading a pointer's word and header again keeps the rest. -/
theorem State.rest_reloadPointer {e : Elem} (h : s.reloadPointer k p e = some q) : q.rest = p.rest := by
  obtain ⟨v, es, rfl⟩ := State.reloadPointer_some h
  rfl

/-- Reading elements again one after the other keeps the rest. -/
theorem Pend.rest_reload_foldl (p : Pend) (size : Nat) (v : Nat → Nat) (lanes : List Nat) :
    (lanes.foldl (fun q j => q.reload j size (v j)) p).rest = p.rest := by
  induction lanes generalizing p with
  | nil => rfl
  | cons j js ih => rw [List.foldl_cons, ih, Pend.rest_reload]

/-- Reading a packed tile again keeps the rest. -/
theorem State.rest_reloadTile {e : Elem} {j es : Nat} {lanes : List Nat} (h : s.reloadTile k p e j es lanes = some q) : q.rest = p.rest := by
  simp only [State.reloadTile, Option.bind_eq_bind, Option.bind_eq_some_iff] at h
  obtain ⟨bs, _, ts, _, h⟩ := h
  split at h
  · simp at h
  · simp only [Option.bind_eq_some_iff] at h
    obtain ⟨rec0, _, h⟩ := h
    rw [← Option.some.inj h]
    exact Pend.rest_reload_foldl ..

/-- Reading elements again, each whole, keeps the rest. -/
theorem State.rest_readEach {es : List Elem}
    (h : es.foldlM (fun q e => (s.readElem k p.seq e).map (fun bs => q.reload e.idx e.size (leNat bs))) q = some q') : q'.rest = q.rest := by
  induction es generalizing q with
  | nil => rw [Option.some.inj h]
  | cons e es ih =>
    rw [List.foldlM_cons] at h
    obtain ⟨q1, hq, h⟩ := Option.bind_eq_some_iff.mp h
    obtain ⟨bs, _, rfl⟩ := Option.map_eq_some_iff.mp hq
    rw [ih h, Pend.rest_reload]

/-- Reading elements of a load again keeps the rest. -/
theorem State.rest_readAgain {es : List Elem} (h : s.readAgain k p es = some q) : q.rest = p.rest := by
  unfold State.readAgain at h
  split at h
  · rw [Option.some.inj h]
  · exact State.rest_reloadPointer h
  · exact State.rest_reloadTile h
  · exact State.rest_readEach h

/-- Reading the later loads again keeps the rest of each. -/
theorem State.rest_readLater {done : List Elem} {ps qs : List Pend} (h : s.readLater k done ps = some qs) :
    qs.map Pend.rest = ps.map Pend.rest := by
  induction ps generalizing done qs with
  | nil => rw [Option.some.inj h]
  | cons p ps ih =>
    obtain ⟨q, hq, h⟩ := Option.bind_eq_some_iff.mp h
    obtain ⟨qs', hqs, h⟩ := Option.bind_eq_some_iff.mp h
    rw [← Option.some.inj h, List.map_cons, List.map_cons, State.rest_readAgain hq, ih hqs]

/-- An element that is read now gives the bytes of its copy, or what its task's canonical load sees. -/
theorem State.readElem_some {seq : Nat} {e : Elem} {bs : List Byte} (h : s.readElem k seq e = some bs) :
    bs = if e.priv then s.mem.readN e.addr e.size else s.loadAt k seq e.addr e.size := by
  unfold State.readElem at h
  split at h
  · simp at h
  · split at h
    · next hpriv => rw [if_pos hpriv, Option.some.inj h]
    · next hpriv =>
      split at h
      · rw [if_neg hpriv, Option.some.inj h]
      · simp at h

/-- After a load may have been read again, each result keeps its rest, and the load itself has what it had or what it reads now. -/
theorem State.pend_reread (hp : (s.task k).pend[i]? = some p) : ∃ q, ((s.reread k i).task k).pend[i]? = some q
    ∧ ((s.reread k i).task k).pend.map Pend.rest = (s.task k).pend.map Pend.rest
    ∧ (q = p ∨ ∃ sel, s.fresh.2.readAgain k p (p.chosenElems sel) = some q) := by
  rw [State.reread, hp]
  dsimp only
  split
  · exact ⟨p, hp, rfl, .inl rfl⟩
  · split
    · next q qs hq hqs =>
      obtain ⟨hi, hget⟩ := List.getElem?_eq_some_iff.mp hp
      have htake : ((s.task k).pend.take i).length = i := List.length_take_of_le hi.le
      rw [State.task_setTask]
      refine ⟨q, ?_, ?_, .inr ⟨_, hq⟩⟩
      · exact (List.getElem?_append_right htake.le).trans (by rw [htake, Nat.sub_self]; rfl)
      · conv_rhs => rw [← List.take_append_drop i (s.task k).pend, List.drop_eq_getElem_cons hi, hget]
        simp only [List.map_append, List.map_cons, State.rest_readAgain hq, State.rest_readLater hqs]
        rfl
    · exact ⟨p, hp, rfl, .inl rfl⟩

/-- Performing outstanding loads performs the elements of each that are met. -/
theorem State.pend_fixLoads (s : State) (k : TaskKey) (hit : Pend → Elem → Bool) :
    ((s.fixLoads k hit).task k).pend = (s.task k).pend.map (·.fix hit) := by
  rw [State.fixLoads]
  split
  · next hall =>
    have hkeep : ∀ p ∈ (s.task k).pend, p.fix hit = p := fun p hp =>
      Pend.fix_settled (List.isEmpty_iff.mp (List.all_eq_true.mp hall p hp)) hit
    exact ((List.map_congr_left hkeep).trans (List.map_id' _)).symm
  · rw [State.task_setTask]

/-- What comes before elements that arrive is performed, and no result changes otherwise. -/
theorem State.pend_fixArriving (s : State) (k : TaskKey) (i : Nat) (choice : BitVec 256) :
    ∃ hit, ((s.fixArriving k i choice).task k).pend = (s.task k).pend.map (·.fix hit) := by
  have hnone : (s.task k).pend = (s.task k).pend.map (·.fix fun _ _ => false) := by
    refine ((List.map_congr_left fun p _ => ?_).trans (List.map_id' _)).symm
    unfold Pend.fix
    split <;> simp
  unfold State.fixArriving
  split
  · exact ⟨_, hnone⟩
  · dsimp only
    split
    · exact ⟨_, hnone⟩
    · exact ⟨_, State.pend_fixLoads ..⟩

/-- A result that no load gives is not read again. -/
theorem State.reread_settled (hp : (s.task k).pend[i]? = some p) (hsrc : p.src = []) : s.reread k i = s := by
  simp [State.reread, hp, hsrc]

/-- Where no load gives a result, none is performed before it arrives. -/
theorem State.fixArriving_settled {choice : BitVec 256} (hp : (s.task k).pend[i]? = some p) (hsrc : p.src = []) :
    s.fixArriving k i choice = s := by
  simp [State.fixArriving, hp, Pend.arriving, Pend.chosenElems_settled hsrc]

/-- The state that DEFERRED_RESULT_WRITE leads to. -/
def State.deferredWrite (s : State) (k : TaskKey) (i : Nat) (choice : BitVec 256) : State :=
  ((s.reread k i).fixArriving k i choice).landSome k i choice

theorem exec_deferredResultWrite (s : State) (k : TaskKey) (i : Nat) (choice : BitVec 256) :
    exec (.deferredResultWrite k i choice) s = .next (s.deferredWrite k i choice) := rfl

theorem State.deferredWrite_mem (s : State) (k : TaskKey) (i : Nat) (choice : BitVec 256) : (s.deferredWrite k i choice).mem = s.mem := by
  rw [State.deferredWrite, State.landSome_mem, State.fixArriving_mem, State.reread_mem]

/-- Writing a result that no load gives only writes it. -/
theorem State.deferredWrite_settled {choice : BitVec 256} (hp : (s.task k).pend[i]? = some p) (hsrc : p.src = []) :
    s.deferredWrite k i choice = s.landSome k i choice := by
  rw [State.deferredWrite, State.reread_settled hp hsrc, State.fixArriving_settled hp hsrc]

/-- A loaded value, sign-extended or zero-extended, of `n` bytes. -/
def extended (zext : Bool) (n v : Nat) : Word64 := if zext then BitVec.ofNat 64 v else signW (8 * n) v

/-- A scalar load whose element may have been read again has the value that it had, or the one that its element has now. -/
theorem State.val_readAgain_word {e : Elem} {z : Bool} {sel : Elem → Bool} (hsrc : p.src = [e]) (hhow : p.how = .word z)
    (h : s.readAgain k p (p.chosenElems sel) = some q) : q.val = p.val ∨ q.val
      = (extended z e.size (leNat (if e.priv then s.mem.readN e.addr e.size else s.loadAt k p.seq e.addr e.size))).setWidth 4096 := by
  have hchosen : p.chosenElems sel = if sel e then [e] else [] := by
    simp only [Pend.chosenElems, hhow, hsrc]
    cases hsel : sel e <;> simp [hsel]
  rw [hchosen] at h
  split at h
  · refine .inr ?_
    simp only [State.readAgain, hhow, List.foldlM_cons, List.foldlM_nil] at h
    obtain ⟨q1, hq, h⟩ := Option.bind_eq_some_iff.mp h
    obtain ⟨bs, hbs, rfl⟩ := Option.map_eq_some_iff.mp hq
    rw [← Option.some.inj h, ← State.readElem_some hbs]
    simp only [Pend.reload, hhow, extended]
  · refine .inl ?_
    simp only [State.readAgain] at h
    rw [Option.some.inj h]

end

/-- What writing the result of a scalar load leads to: the load is outstanding no longer, and its register has what the load read at issue or
what its bytes hold now. -/
theorem State.deferredWrite_word {s : State} {k : TaskKey} {i : Nat} {p : Pend} {choice : BitVec 256} {n : BitVec 6} {e : Elem} {z : Bool}
    (hp : (s.task k).pend[i]? = some p) (hfl : p.flags = []) (hfault : p.fault = none) (hmsg : p.msg = none) (hn : n ≠ 0)
    (hdest : p.dest = .x n) (hmask : p.mask = 1) (hunit : p.unit = 1) (hc : choice.getLsbD 0 = true) (hsrc : p.src = [e])
    (hhow : p.how = .word z) :
    ((s.deferredWrite k i choice).task k).pend.map (·.dest) = ((s.task k).pend.eraseIdx i).map (·.dest)
      ∧ (((s.deferredWrite k i choice).task k).getX n = p.val.setWidth 64 ∨ ((s.deferredWrite k i choice).task k).getX n
        = extended z e.size (leNat (if e.priv then s.mem.readN e.addr e.size else s.loadAt k p.seq e.addr e.size))) := by
  obtain ⟨q, hq, hrests, hread⟩ := State.pend_reread hp
  obtain ⟨hit, hfix⟩ := State.pend_fixArriving (s.reread k i) k i choice
  have hq' : (((s.reread k i).fixArriving k i choice).task k).pend[i]? = some (q.fix hit) := by rw [hfix, List.getElem?_map, hq]; rfl
  have hrests' : (((s.reread k i).fixArriving k i choice).task k).pend.map Pend.rest = (s.task k).pend.map Pend.rest := by
    rw [hfix, List.map_map, ← hrests]
    exact List.map_congr_left fun p _ => Pend.rest_fix ..
  have hrest : (q.fix hit).rest = p.rest := by
    have h := congrArg (·[i]?) hrests'
    simp only [List.getElem?_map, hq', hp, Option.map_some] at h
    exact Option.some.inj h
  obtain ⟨hpend, hx, -⟩ := State.task_landSome_x hq' ((congrArg Pend.flags hrest).trans hfl) ((congrArg Pend.fault hrest).trans hfault)
    ((congrArg Pend.msg hrest).trans hmsg) ((congrArg Pend.dest hrest).trans hdest) ((congrArg Pend.mask hrest).trans hmask)
    ((congrArg Pend.unit hrest).trans hunit) hc
  have hdests : (((s.reread k i).fixArriving k i choice).task k).pend.map (·.dest) = (s.task k).pend.map (·.dest) := by
    have h := congrArg (List.map (·.dest)) hrests'
    rw [List.map_map, List.map_map] at h
    exact h
  rw [State.deferredWrite, hpend, hx n, Task.getX_setX_same _ hn, Pend.val_fix]
  refine ⟨?dests, ?value⟩
  case dests => rw [← List.eraseIdx_map, ← List.eraseIdx_map, hdests]
  case value =>
    rcases hread with rfl | ⟨sel, hread⟩
    · exact .inl rfl
    · rcases State.val_readAgain_word hsrc hhow hread with hval | hval
      · exact .inl (by rw [hval])
      · refine .inr ?_
        rw [hval]
        exact BitVec.setWidth_setWidth_of_le _ (by decide)

/-! ## The statement -/

/-- Settles O24: the four instructions by their values, then a result that arrives: of a scalar load, of an x register, and of a v register. -/
theorem elementsTablesAndDeferredResults : Obligations.ElementsTablesAndDeferredResults := by
  refine ⟨?values, ?arrivals⟩
  case values =>
    intro f s e k cb code key bad group
    refine ⟨fun h hk => ?get, fun h hk => ?put, fun h hk => ?getOut, fun h hk => ?putOut, fun h => ?rank, fun h hbits => ?narrow,
      fun h hbits => ?wide⟩
    case get => exact run_ok h (by rw [vgetBody, needIndex_ok hk]; rfl)
    case put =>
      obtain ⟨w, hbody, hval⟩ := vputBody_spec hk
      exact ⟨w, run_ok h hbody, hval⟩
    case getOut => exact run_fault (body := vgetBody f) h (by rw [vgetBody, needIndex_no hk]; rfl) rfl (by simp)
    case putOut => exact run_fault (body := vputBody f) h (by rw [vputBody, needIndex_no hk]; rfl) rfl (by simp)
    case rank =>
      refine ⟨_, run_ok h rfl, fun i j hij hj => ?_⟩
      have hstable := grankTable_stable (fun c => if f.x.getLsbD 0 then cb.rankOf c else c) (s.me.getV f.a) hij hj
      exact ⟨stableBefore_ne hstable, hstable⟩
    case narrow => exact run_fault h (vsbpBody_narrow hbits) rfl (by decide)
    case wide =>
      obtain ⟨v, m, fl, hbody, hval⟩ := vsbpBody_spec (f := f) hbits
      refine ⟨v, m, fl, run_ok h hbody, fun j hj => ?_⟩
      obtain ⟨hmask, hsum⟩ := hval j hj
      exact ⟨hmask.trans (decide_eq_decide.mpr mem_sbpGroups), hsum⟩
  case arrivals =>
    intro s k i p choice hp hfl hfault hmsg
    refine ⟨fun n e z hn hdest hmask hunit hc hsrc hhow => ?load, fun n hsrc hdest hmask hunit hc => ?scalar,
      fun n hsrc hdest _ ⟨b, _, hleft⟩ => ?vector⟩ <;> refine ⟨s.deferredWrite k i choice, exec_deferredResultWrite .., ?_⟩
    case load =>
      exact ⟨State.deferredWrite_mem .., State.deferredWrite_word hp hfl hfault hmsg hn hdest hmask hunit hc hsrc hhow⟩
    case scalar =>
      obtain ⟨hpend, hx, hpc⟩ := State.task_landSome_x hp hfl hfault hmsg hdest hmask hunit hc
      have hmem := State.deferredWrite_mem s k i choice
      rw [State.deferredWrite_settled hp hsrc] at hmem ⊢
      exact ⟨hpend, fun hn => (hx n).trans (Task.getX_setX_same _ hn _), fun m hm => (hx m).trans (Task.getX_setX_other _ hm _), hpc, hmem⟩
    case vector =>
      obtain ⟨hpend, hval⟩ := State.task_landSome_v (choice := choice) hp hfl hfault hmsg hdest
      have hsome : p.left choice ≠ 0 := fun h => by simp [Pend.left] at h; simp [h] at hleft
      rw [State.deferredWrite_settled hp hsrc]
      exact ⟨hpend.trans (Task.owing_some _ _ _ _ hsome), hval⟩

end Sys2Proof.Machine
end

section
/-!
PROOFS. Vector memory: the lane tests and the loads that pass them (R131, R369, R374), stores whose elements are written together (R386, R391,
R392), permutation tables (R300), packed tiles (R202, R203), and the statement put together from that (O25).
-/

open Sys2Proof.Claims

namespace Sys2Proof.Machine

/-! ## Lane tests (R131) -/

/-- The bytes of an element of `8·2^z` bits. -/
theorem elemBytes_eq (f : Fields) : elemBits f / 8 = 2 ^ f.z.toNat := Nat.mul_div_cancel_left _ (by decide)

/-- The fault of an element at an offset. -/
def laneFlt (r : BitVec 128) (c : FaultCode) (off : Int) : Flt :=
  { code := c, eval := BitVec.ofInt 64 off, ptr := oCanon r, offset := BitVec.ofInt 64 off }

section
variable {s : State} {f : Fields} {r : BitVec 128} {off : Nat → Int} {i : Nat}

/-- No active element has an offset that a test picks. -/
theorem activeLanes_find_none {c : Int → Bool} (h : ∀ i ∈ s.me.actives f (elemBits f), c (off i) = false) :
    (activeLanes s.me f off).find? (fun l => c l.2) = none := by
  rw [activeLanes, List.find?_map, List.find?_eq_none.mpr fun i hi => by simp [h i hi]]
  rfl

/-- The lowest active element with an offset that a test picks. -/
theorem activeLanes_find_some {c : Int → Bool} (h : (s.me.actives f (elemBits f)).find? (fun i => c (off i)) = some i) :
    (activeLanes s.me f off).find? (fun l => c l.2) = some (i, off i) := by
  rw [activeLanes, List.find?_map]
  exact congrArg (Option.map _) h

/-- Offsets that are all aligned: no active element is misaligned. -/
theorem activeLanes_aligned (halign : ∀ i ∈ s.me.actives f (elemBits f), off i % (2 ^ f.z.toNat : Nat) = 0) :
    (activeLanes s.me f off).find? (fun l => l.2 % ((2 ^ f.z.toNat : Nat) : Int) != 0) = none :=
  activeLanes_find_none (c := fun v => v % ((2 ^ f.z.toNat : Nat) : Int) != 0) fun i hi => by simpa using halign i hi

/-- Active elements that are aligned, and inside where the out-of-bounds mode is off, pass. -/
theorem checkLanes_ok (hp : badPtr (oCanon r) = false) (halign : ∀ i ∈ s.me.actives f (elemBits f), off i % (2 ^ f.z.toNat : Nat) = 0)
    (hin : oobMode f = false → ∀ i ∈ s.me.actives f (elemBits f), laneInside r (2 ^ f.z.toNat) (off i) = true) :
    checkLanes s f r (activeLanes s.me f off) = .ok () := by
  simp only [checkLanes, checkPtr_ok hp, elemBytes_eq, activeLanes_aligned halign, act_bind_ok]
  cases hm : oobMode f with
  | true => rfl
  | false =>
    have hnone : (activeLanes s.me f off).find? (fun l => !laneInside r (2 ^ f.z.toNat) l.2) = none :=
      activeLanes_find_none (c := fun v => !laneInside r (2 ^ f.z.toNat) v) fun i hi => by simp [hin hm i hi]
    simp only [hnone]
    rfl

/-- The lowest misaligned active element raises `alignment`. -/
theorem checkLanes_misaligned (hp : badPtr (oCanon r) = false)
    (hfind : (s.me.actives f (elemBits f)).find? (fun i => off i % (2 ^ f.z.toNat : Nat) != 0) = some i) :
    checkLanes s f r (activeLanes s.me f off) = .error (.fault s (laneFlt r .alignment (off i))) := by
  have hsome : (activeLanes s.me f off).find? (fun l => l.2 % ((2 ^ f.z.toNat : Nat) : Int) != 0) = some (i, off i) :=
    activeLanes_find_some (c := fun v => v % ((2 ^ f.z.toNat : Nat) : Int) != 0) hfind
  simp only [checkLanes, checkPtr_ok hp, elemBytes_eq, hsome, act_bind_ok]
  rfl

/-- Without the out-of-bounds mode, the lowest active element outside raises `bounds`. -/
theorem checkLanes_outside (hp : badPtr (oCanon r) = false)
    (halign : ∀ i ∈ s.me.actives f (elemBits f), off i % (2 ^ f.z.toNat : Nat) = 0) (hm : oobMode f = false)
    (hfind : (s.me.actives f (elemBits f)).find? (fun i => !laneInside r (2 ^ f.z.toNat) (off i)) = some i) :
    checkLanes s f r (activeLanes s.me f off) = .error (.fault s (laneFlt r .bounds (off i))) := by
  have hsome : (activeLanes s.me f off).find? (fun l => !laneInside r (2 ^ f.z.toNat) l.2) = some (i, off i) :=
    activeLanes_find_some (c := fun v => !laneInside r (2 ^ f.z.toNat) v) hfind
  simp only [checkLanes, checkPtr_ok hp, elemBytes_eq, activeLanes_aligned halign, hsome, hm, act_bind_ok]
  rfl

end

/-! ## Elements chosen by number -/

/-- An element of a register is one of the wider register that it is put into. -/
theorem getLane_setWidth {n m e i : Nat} (v : BitVec n) (h : e * i + e ≤ m) : getLane (v.setWidth m) e i = getLane v e i := by
  refine Nat.eq_of_testBit_eq fun b => ?_
  rw [getLane_testBit, getLane_testBit, BitVec.getLsbD_setWidth]
  by_cases hb : b < e
  · simp [hb, show e * i + b < m by omega]
  · simp [hb]

section
variable {t : Task} {f : Fields} {e : Nat} {ps : List (Nat × Nat)}

/-- Each chosen element has its value. -/
theorem pairsPend_val (he : 0 < e) (hps : (ps.map Prod.fst).Nodup) {p : Nat × Nat} (hp : p ∈ ps) (hlt : p.1 < t.lanes e) :
    getLane (pairsPend t f e ps).val e p.1 = p.2 % 2 ^ e := by
  have hend := lane_end_le t hlt
  have hval : (pairsPend t f e ps).val = (makeLanes 2048 e ((List.range (t.lanes e)).map (fun i => (ps.lookup i).getD 0))).setWidth 4096 := rfl
  rw [hval, getLane_setWidth _ (by omega), makeLanes_getLane he _ hlt ((lanes_mul_le t e).trans (bits_le t)), lookup_of_mem hps hp]
  rfl

/-- The bytes of a result are those of the chosen elements. -/
theorem pairsPend_mask (h8 : 8 ∣ e) {i b : Nat} (hi : i < t.lanes e) (hb : b < e / 8) :
    (pairsPend t f e ps).mask.getLsbD (i * (e / 8) + b) = decide (i ∈ ps.map Prod.fst) := by
  have hend := lane_end_le t hi
  obtain ⟨m, rfl⟩ := h8
  rw [Nat.mul_div_cancel_left m (by decide : 0 < 8)] at hb ⊢
  have hbyte : i * m + b < 256 := by nlinarith
  have hmask : i * m + b < t.lanes (8 * m) * m := by nlinarith
  simp only [pairsPend, Nat.mul_div_cancel_left m (by decide : 0 < 8)]
  rw [BitVec.getLsbD_ofNat, spread_testBit (by omega), div_lane hb, Bool.eq_iff_iff]
  simp [hbyte, hmask, keys_testBit]

end

/-- The values of a function at listed elements, taken as pairs. -/
theorem map_fst_pairs (l : List Nat) (x : Nat → Nat) : (l.map (fun i => (i, x i))).map Prod.fst = l := by
  rw [List.map_map]
  exact List.map_id' l

/-- Parts that all go on give the list of their values. -/
theorem mapM_act_ok {α β : Type} {l : List α} {g : α → Act β} {x : α → β} (h : ∀ a ∈ l, g a = .ok (x a)) :
    l.mapM g = .ok (l.map x) := by
  induction l with
  | nil => rfl
  | cons a l ih =>
    rw [List.mapM_cons, h a (by simp), act_bind_ok, ih fun b hb => h b (by simp [hb]), act_bind_ok]
    rfl

/-! ## Vector loads (R369, R374) -/

section
variable {off : Task → Nat → Int} {offs : Nat → Int} {f : Fields} {s : State} (hoff : off s.me = offs)
include hoff

/-- A vector load ends where its lane tests do. -/
theorem vloadBody_refused {x : Flt} (hcheck : checkLanes s f (s.me.getO f.a) (activeLanes s.me f offs) = .error (.fault s x)) :
    vloadBody off f s = .fault s x := by
  simp only [vloadBody, hoff, hcheck, act_bind_error, act_run_error]

/-- The elements that a vector load defers: those inside what they read, the others 0. -/
def loadedPend (f : Fields) (t : Task) (act : List Nat) (inside : Nat → Bool) (vals : Nat → Nat) : Pend :=
  pairsPend t f (elemBits f) (act.map (fun i => (i, if inside i then vals i else 0)))

/-- A vector load that passes its tests defers its active elements. -/
theorem vloadBody_defers {ob : Obj} {s' : State} {vals : Nat → Nat}
    (hcheck : checkLanes s f (s.me.getO f.a) (activeLanes s.me f offs) = .ok ()) (hobj : objOf s (s.me.getO f.a) = .ok ob)
    (hload : loadable s.me.priv ob.hdr = true) (hact : s.me.actives f (elemBits f) ≠ []) (htouch : touch s f.a ob.hdr = .ok s')
    (hread : ∀ i, i ∈ s.me.actives f (elemBits f) → laneInside (s'.me.getO f.a) (2 ^ f.z.toNat) (offs i) = true →
      ∃ bs, readThrough s' (s'.me.getO f.a) (offs i).toNat (2 ^ f.z.toNat) = .ok bs ∧ leNat bs = vals i) :
    vloadBody off f s = .ok (s'.deferLoad (s'.me.getO f.a) (2 ^ f.z.toNat)
      (((s.me.actives f (elemBits f)).filter (fun i => laneInside (s'.me.getO f.a) (2 ^ f.z.toNat) (offs i))).map (fun i => (i, (offs i).toNat)))
      (loadedPend f s'.me (s.me.actives f (elemBits f)) (fun i => laneInside (s'.me.getO f.a) (2 ^ f.z.toNat) (offs i)) vals)) := by
  have hsome : (activeLanes s.me f offs).isEmpty = false := by simpa [activeLanes] using hact
  simp only [vloadBody, hoff, hcheck, hobj, needKind_ok hload, hsome, htouch, elemBytes_eq, act_bind_ok, Bool.false_eq_true, if_false]
  rw [mapM_act_ok (x := fun l => (l.1, if laneInside (s'.me.getO f.a) (2 ^ f.z.toNat) l.2 then vals l.1 else 0)) ?reads, act_bind_ok]
  case reads =>
    intro l hl
    obtain ⟨i, hi, rfl⟩ := List.mem_map.mp hl
    by_cases hin : laneInside (s'.me.getO f.a) (2 ^ f.z.toNat) (offs i) = true
    · obtain ⟨bs, hbs, hval⟩ := hread i hi hin
      simp only [hin, hbs, hval, if_true, act_bind_ok]
      rfl
    · simp only [hin]
      rfl
  simp only [activeLanes, List.filter_map, List.map_map, loadedPend]
  rfl

end

/-! ## Vector stores (R386, R387, R391, R392) -/

/-- What accesses made together come to, as the effect of an instruction. -/
def storedTogether (s : State) (a : Act State) : Res := Act.run do
  let s ← together s a
  return .ok s

/-- Accesses that are all made complete the instruction. -/
theorem storedTogether_ok {s t : State} {a : Act State} (h : a = .ok t) : storedTogether s a = .ok t := by
  subst h
  rfl

/-- Where one of the accesses must wait, none has been made, and only the request for its page stands. -/
theorem storedTogether_retry {s t : State} {a : Act State} (h : a = .error (.retry t)) :
    storedTogether s a = .retry { s with plat := { s.plat with pages := t.plat.pages } } := by
  subst h
  rfl

section
variable {f : Fields} {s s1 : State} {ob : Obj} {offs : Nat → Int}

/-- A vector store's tests pass: its lanes, its object, halves in a sync object, and an active element (R131, R391). -/
structure StoreReady (f : Fields) (s : State) (ob : Obj) (offs : Nat → Int) : Prop where
  lanes : checkLanes s f (s.me.getO f.a) (activeLanes s.me f offs) = .ok ()
  object : storeObj s (s.me.getO f.a) false = .ok ob
  kind : storable s (oCanon (s.me.getO f.a)) s.me.priv ob.hdr 8 = true
  half : hKind ob.hdr = 2 → ∀ i, i ∈ s.me.actives f (elemBits f) → 8 ≤ offs i % 16
  unsealed : hSealed ob.hdr = false
  active : s.me.actives f (elemBits f) ≠ []

/-- The object of a vector store that passes its tests. -/
theorem StoreReady.object_ok (h : StoreReady f s ob offs) : vstoreObject s f (activeLanes s.me f offs) = .ok ob := by
  simp only [vstoreObject, h.object, needKind_ok h.kind, act_bind_ok]
  rfl

/-- Each active element among some lies in the half of a sync object that it may store to. -/
theorem StoreReady.halves (h : StoreReady f s ob offs) (c : Nat × Int → Bool) :
    (hKind ob.hdr != 2 || ((activeLanes s.me f offs).filter c).all (fun l => 8 ≤ l.2 % 16)) = true := by
  by_cases hk : hKind ob.hdr = 2
  · simp only [hk, bne_self_eq_false, Bool.false_or, List.all_eq_true, decide_eq_true_eq]
    intro l hl
    obtain ⟨i, hi, rfl⟩ := List.mem_map.mp (List.mem_filter.mp hl).1
    exact h.half hk i hi
  · simp [hk]

/-- Some element of a vector store that passes its tests is active. -/
theorem StoreReady.notEmpty (h : StoreReady f s ob offs) : (activeLanes s.me f offs).isEmpty = false := by simpa [activeLanes] using h.active

/-- A vector store writes the elements inside in ascending order. -/
def lineWrites (f : Fields) (act : List Nat) (offs : Nat → Int) (s1 : State) : Act State :=
  (act.filter (fun i => laneInside (s1.me.getO f.a) (2 ^ f.z.toNat) (offs i))).foldlM (fun t i =>
    putThrough t (s1.me.getO f.a) (offs i).toNat (leBytes (2 ^ f.z.toNat) (getLane (s1.me.getV f.d) (elemBits f) i))) s1.stampSeq

/-- A vector store that passes its tests writes its elements together. -/
theorem vstoreBody_stores {off : Task → Nat → Int} (hoff : off s.me = offs) (h : StoreReady f s ob offs) (htouch : touch s f.a ob.hdr = .ok s1) :
    vstoreBody off f s = storedTogether s1 (lineWrites f (s.me.actives f (elemBits f)) offs s1) := by
  have hhalf := h.halves fun _ => true
  rw [List.filter_true] at hhalf
  simp only [vstoreBody, hoff, h.lanes, h.object_ok, needKind_ok hhalf, needOpen_ok h.unsealed, h.notEmpty, htouch, elemBytes_eq, act_bind_ok,
    Bool.false_eq_true, if_false, storedTogether, lineWrites]
  simp only [activeLanes, List.filter_map, List.foldlM_map]
  rfl

/-- The active elements that VSCAT finds inside. -/
def scatInside (f : Fields) (act : List Nat) (offs : Nat → Int) (r : BitVec 128) : List Nat :=
  act.filter (fun i => laneInside r (2 ^ f.z.toNat) (offs i))

/-- VSCAT writes each offset once, with the elements that meet there combined. -/
def scatWrites (f : Fields) (inside : List Nat) (offs : Nat → Int) (s1 : State) : Act State :=
  ((inside.map offs).eraseDups).foldlM (fun t off => do
    let old ← if f.x.toNat % 8 = 0 then pure 0 else (do
      let bs ← readThrough t (s1.me.getO f.a) off.toNat (2 ^ f.z.toNat)
      return leNat bs)
    putThrough t (s1.me.getO f.a) off.toNat (leBytes (2 ^ f.z.toNat) (((inside.filter (fun i => offs i == off)).map
      (fun i => getLane (s1.me.getV f.d) (elemBits f) i)).foldl (scatStep (f.x.toNat % 8) (elemBits f)) old))) s1.stampSeq

/-- VSCAT that passes its tests combines and writes its elements together. -/
theorem vscatBody_stores (hoff : indexOffset s.me f = offs) (h : StoreReady f s ob offs) (htouch : touch s f.a ob.hdr = .ok s1)
    (hlen : oLen (s1.me.getO f.a) = oLen (s.me.getO f.a)) : vscatBody f s
      = storedTogether s1 (scatWrites f (scatInside f (s.me.actives f (elemBits f)) offs (s1.me.getO f.a)) offs s1) := by
  have hinside (l : Nat × Int) : laneInside (s.me.getO f.a) (2 ^ f.z.toNat) l.2 = laneInside (s1.me.getO f.a) (2 ^ f.z.toNat) l.2 := by
    rw [laneInside, laneInside, hlen]
  simp only [vscatBody, hoff, h.lanes, h.object_ok, elemBytes_eq, needKind_ok (h.halves _), needOpen_ok h.unsealed, h.notEmpty, htouch, act_bind_ok,
    Bool.false_eq_true, if_false, hinside, storedTogether, scatWrites, scatInside]
  simp only [activeLanes, List.filter_map, List.map_map, Function.comp_def]

end

/-! ## Permutation tables (R300) -/

section
variable {f : Fields} {s s1 : State} {ob : Obj}

/-- GLD defers the 48 bytes of a table. -/
theorem gldBody_loads {bs : List Byte} (hcheck : check s (s.me.getO f.a) (tableOffset s.me f) 48 8 = .ok ()) (hobj : objOf s (s.me.getO f.a) = .ok ob)
    (hkind : hKind ob.hdr ≠ 7) (hload : loadable s.me.priv ob.hdr = true) (htouch : touch s f.a ob.hdr = .ok s1)
    (hread : readThrough s1 (s1.me.getO f.a) (tableOffset s.me f).toNat 48 = .ok bs) :
    gldBody f s = .ok (s1.deferLoad (s1.me.getO f.a) 48 [(0, (tableOffset s.me f).toNat)]
      { dest := .g f.d, val := BitVec.ofNat 4096 (leNat bs) }) := by
  have hk : (hKind ob.hdr != 7 && loadable s.me.priv ob.hdr) = true := by simp [hkind, hload]
  simp only [gldBody, hcheck, hobj, needKind_ok hk, htouch, hread, act_bind_ok]
  rfl

/-- GST writes the 48 bytes of a table. -/
theorem gstBody_stores {s2 : State} (hcheck : check s (s.me.getO f.a) (tableOffset s.me f) 48 8 = .ok ())
    (hobj : storeObj s (s.me.getO f.a) false = .ok ob) (hkind : hKind ob.hdr = 0 ∨ hKind ob.hdr = 4)
    (hstore : storable s (oCanon (s.me.getO f.a)) s.me.priv ob.hdr (tableOffset s.me f).toNat = true) (hopen : hSealed ob.hdr = false)
    (htouch : touch s f.a ob.hdr = .ok s1)
    (hwrite : writeThrough s1 (s1.me.getO f.a) (tableOffset s.me f).toNat (leBytes 48 (s1.me.getG f.d).toNat) = .ok s2) : gstBody f s = .ok s2 := by
  have hk : ((hKind ob.hdr == 0 || hKind ob.hdr == 4) && storable s (oCanon (s.me.getO f.a)) s.me.priv ob.hdr (tableOffset s.me f).toNat) = true := by
    simp [hkind, hstore]
  simp only [gstBody, hcheck, hobj, needKind_ok hk, needOpen_ok hopen, htouch, hwrite, act_bind_ok]
  rfl

end

/-! ## Packed tiles (R202, R203) -/

section
variable {f : Fields} {s s1 : State} {a : Nat} {d : PackDesc}

/-- The elements of its tile that VLDPK takes. -/
def tileLanes (f : Fields) (t : Task) : List Nat := (t.actives f (elemBits f)).filter (· < 64)

/-- The deferred elements of tile `i` of a packed object, from its record (R202, R375). -/
def tilePend (f : Fields) (t : Task) (i : Nat) (rec0 : List Byte) : Pend :=
  { pairsPend t f (elemBits f) ((tileLanes f t).map (fun j => (j, recordElem (2 ^ f.z.toNat) rec0 j))) with
    how := .tile i (2 ^ f.z.toNat) (tileLanes f t) }

/-- VLDPK defers the active elements of a tile whose record lies in the used bytes and has as many elements as its entry says. -/
theorem vldpkBody_loads {ent rec0 : List Byte} (hpack : packChecks s f false = .ok (a, d))
    (hent : readCanon s (s.me.getO f.a) (8 + 4 * (s.me.getX f.b).toNat) 4 = .ok ent)
    (hused : leNat (ent.take 3) + recordSize (leNat (ent.drop 3)) (2 ^ f.z.toNat) ≤ d.used)
    (hrec : readCanon s (s.me.getO f.a) (d.start + leNat (ent.take 3)) (recordSize (leNat (ent.drop 3)) (2 ^ f.z.toNat)) = .ok rec0)
    (hcount : popW 64 (leNat (rec0.take 8)) = leNat (ent.drop 3)) :
    vldpkBody f s = .ok (s.deferLoad (oSetTouched (s.me.getO f.a) false) (oLen (s.me.getO f.a)) [(0, 0)]
      (tilePend f s.me (s.me.getX f.b).toNat rec0)) := by
  have hk : (popW 64 (leNat (rec0.take 8)) == leNat (ent.drop 3)) = true := beq_of_eq hcount
  simp only [vldpkBody, hpack, hent, elemBytes_eq, need_ok (decide_eq_true hused), hrec, needKind_ok hk, act_bind_ok]
  rfl

/-- The value of an element of a packed tile: that of the record where its mask has a bit, else 0. -/
theorem tilePend_val {t : Task} {i j : Nat} {rec0 : List Byte} (hj : j ∈ t.actives f (elemBits f)) (h64 : j < 64) :
    getLane (tilePend f t i rec0).val (elemBits f) j = recordElem (2 ^ f.z.toNat) rec0 j % 2 ^ elemBits f := by
  have hmem : j ∈ tileLanes f t := List.mem_filter.mpr ⟨hj, decide_eq_true h64⟩
  have hnodup : (((tileLanes f t).map (fun j => (j, recordElem (2 ^ f.z.toNat) rec0 j))).map Prod.fst).Nodup := by
    rw [map_fst_pairs]
    exact (actives_nodup ..).filter _
  exact pairsPend_val (f := f) (elemBits_pos f) hnodup (List.mem_map_of_mem hmem) (mem_actives.mp hj).1

/-- The element that VSTPK stores at a place of its tile. -/
def packElem (f : Fields) (t : Task) (j : Nat) : Nat := if t.active f (elemBits f) j then getLane (t.getV f.d) (elemBits f) j else 0

/-- The places of the nonzero elements of a tile. -/
def packUsed (f : Fields) (t : Task) : List Nat := (List.range 64).filter (fun j => packElem f t j != 0)

/-- The elements' bytes of a tile's record. -/
def packBytes (f : Fields) (t : Task) : List Byte := (packUsed f t).flatMap (fun j => leBytes (2 ^ f.z.toNat) (packElem f t j))

/-- The record of a tile: its mask, its nonzero elements, and zeros up to 8 bytes (R202). -/
def packRecord (f : Fields) (t : Task) : List Byte :=
  leBytes 8 ((packUsed f t).foldl (fun acc j => acc + 2 ^ j) 0) ++ packBytes f t
    ++ List.replicate (recordSize (packUsed f t).length (2 ^ f.z.toNat) - 8 - (packBytes f t).length) 0

/-- A packed object with a tile's record appended at the end of its used bytes, its entry, and the used bytes (R203). -/
def State.packed (s : State) (f : Fields) (t : Task) (base : Nat) (d : PackDesc) (i : Nat) : State :=
  ((s.poke (base + d.start + d.used) (packRecord f t)).poke (base + 8 + 4 * i) (leBytes 3 d.used ++ leBytes 1 (packUsed f t).length)).poke
    (base + 4) (leBytes 4 (d.used + recordSize (packUsed f t).length (2 ^ f.z.toNat)))

/-- VSTPK appends its tile's record where it has room. -/
theorem vstpkBody_appends {a0 x : Nat} {h : Word64} (hwidth : 64 ≤ s.me.lanes (elemBits f)) (hptr : checkPtr s (s.me.getO f.a) = .ok ())
    (hhead : header s (oCanon (s.me.getO f.a)) = .ok (a0, h)) (hrel : releasedHome s (homeOf a0) = .ok s1) (hme : s1.me = s.me)
    (hpack : packChecks s1 f true = .ok (a, d))
    (hroom : d.used + recordSize (packUsed f s.me).length (2 ^ f.z.toNat) ≤ oLen (s.me.getO f.a) - d.start)
    (haccess : access s1 (oCanon (s.me.getO f.a)) (16 + oView (s.me.getO f.a)) (oLen (s.me.getO f.a)) = .ok x) :
    vstpkBody f s = .ok (s1.packed f s.me (a + 16 + oView (s.me.getO f.a)) d (s.me.getX f.b).toNat) := by
  simp only [vstpkBody, need_ok (decide_eq_true hwidth), hptr, hhead, act_bind_ok, pure_bind, hrel, hpack, hme, elemBytes_eq, haccess]
  simp only [packUsed, packElem] at hroom
  rw [need_ok (decide_eq_true hroom), act_bind_ok]
  rfl

end

/-! ## Offsets of elements (R369, R374) -/

/-- The offset of an element of VLD and VST. -/
def lineOff (f : Fields) (t : Task) (i : Nat) : Int := (t.getX f.b).toInt + litOffset f + i * (2 ^ f.z.toNat : Nat)

/-- The offset of an element of VLDS and VSTS. -/
def strideOff (f : Fields) (t : Task) (i : Nat) : Int := (t.getX f.b).toInt + litOffset f + i * (t.getX f.c).toInt

/-- The offset of an element of VGATH and VSCAT. -/
def gatherOff (f : Fields) (t : Task) (i : Nat) : Int := toSigned (elemBits f) (getLane (t.getV f.b) (elemBits f) i) * (2 ^ f.z.toNat : Nat)

theorem lineOffset_eq (t : Task) (f : Fields) : lineOffset t f false = lineOff f t := by
  funext i
  rw [lineOffset, elemBytes_eq]
  rfl

theorem lineOffset_strided (t : Task) (f : Fields) : lineOffset t f true = strideOff f t := rfl

theorem indexOffset_eq (t : Task) (f : Fields) : indexOffset t f = gatherOff f t := by
  funext i
  rw [indexOffset, elemBytes_eq]
  rfl

/-- A width of a task gives its number of lanes. -/
theorem lanes_eq_of_width {t u : Task} (h : t.width = u.width) (e : Nat) : t.lanes e = u.lanes e := by
  rw [Task.lanes, Task.lanes, Task.bits, Task.bits, h]

/-- An element below the lane count is among the active ones when it is active. -/
theorem decide_mem_actives {t : Task} {f : Fields} {e i : Nat} (hi : i < t.lanes e) : decide (i ∈ t.actives f e) = t.active f e i := by
  rw [Bool.eq_iff_iff, decide_eq_true_iff, mem_actives]
  simp [hi]

section
variable {f : Fields} {t : Task} {act : List Nat} (inside : Nat → Bool) (vals : Nat → Nat)

/-- An element that a vector load defers has what it read, or 0 outside. -/
theorem loadedPend_val (hact : act.Nodup) {i : Nat} (hi : i ∈ act) (hlt : i < t.lanes (elemBits f)) :
    getLane (loadedPend f t act inside vals).val (elemBits f) i = (if inside i then vals i else 0) % 2 ^ elemBits f :=
  pairsPend_val (f := f) (elemBits_pos f) (by rw [map_fst_pairs act fun i => if inside i then vals i else 0]; exact hact)
    (List.mem_map_of_mem (f := fun i => (i, if inside i then vals i else 0)) hi) hlt

/-- A vector load defers the bytes of its active elements. -/
theorem loadedPend_mask {i b : Nat} (hi : i < t.lanes (elemBits f)) (hb : b < elemBits f / 8) :
    (loadedPend f t act inside vals).mask.getLsbD (i * (elemBits f / 8) + b) = decide (i ∈ act) := by
  rw [loadedPend, pairsPend_mask (elemBits_dvd f) hi hb, map_fst_pairs act fun i => if inside i then vals i else 0]

end

/-! ## The statement -/

/-- Settles O25: vector loads by their tests and the elements they defer, stores by the accesses they make together, packed tiles by their
record. -/
theorem vectorMemoryMovesElements : Obligations.VectorMemoryMovesElements := by
  refine ⟨?loads, ?stores, ?tiles⟩
  case loads =>
    intro f s e n r act line strided gathered flt loads
    have hloads {o : Op} {off : Task → Nat → Int} {offs : Nat → Int} (hoff : off s.me = offs) : loads o offs (run o f (vloadBody off f) s) := by
      intro h hp
      refine ⟨fun ob s' vals halign hin hobj hload hact htouch hwidth hread => ?moves, fun i hfind => ?misaligned,
        fun i halign hm hfind => ?outside⟩
      case moves =>
        have hbody := vloadBody_defers hoff (checkLanes_ok hp halign hin) hobj hload hact htouch hread
        refine ⟨_, run_ok h hbody, rfl, elemBytes_eq f, rfl, rfl, rfl, fun i hi => ?val, fun i hi b hb => ?mask⟩
        case val =>
          exact loadedPend_val _ _ (actives_nodup ..) hi ((mem_actives.mp hi).1.trans_eq (lanes_eq_of_width hwidth _).symm)
        case mask =>
          have hbytes : n = elemBits f / 8 := (elemBytes_eq f).symm
          rw [hbytes] at hb ⊢
          exact (loadedPend_mask _ _ (hi.trans_eq (lanes_eq_of_width hwidth _).symm) hb).trans (decide_mem_actives hi)
      case misaligned =>
        exact run_fault h (vloadBody_refused hoff (checkLanes_misaligned hp hfind)) (Bool.and_false _) FaultCode.noConfusion
      case outside =>
        exact run_fault h (vloadBody_refused hoff (checkLanes_outside hp halign hm hfind)) (Bool.and_false _) FaultCode.noConfusion
    exact ⟨hloads (lineOffset_eq ..), hloads (lineOffset_strided ..), hloads (indexOffset_eq ..)⟩
  case stores =>
    intro f s ob s1 s2 e n r r' line strided scattered ready writes inside combined waited toff htouch
    have hready {offs : Nat → Int} (h : ready offs) : StoreReady f s ob offs := by
      obtain ⟨hlanes, hobj, hkind, hhalf, hopen, hsome⟩ := h
      exact ⟨hlanes, hobj, hkind, hhalf, hopen, hsome⟩
    refine ⟨fun h hr hw => ?vst, fun h hr hw => ?vsts, fun h hr hlen hw => ?vscat, fun h hr hw => ?vstWaits, fun h hr hw => ?vstsWaits,
      fun h hr hlen hw => ?vscatWaits, fun bs h hcheck hobj hkind hload hread => ?gld, fun h hcheck hobj hkind hstore hopen hwrite => ?gst⟩
    case vst => exact run_ok h ((vstoreBody_stores (lineOffset_eq ..) (hready hr) htouch).trans (storedTogether_ok hw))
    case vsts => exact run_ok h ((vstoreBody_stores (lineOffset_strided ..) (hready hr) htouch).trans (storedTogether_ok hw))
    case vscat => exact run_ok h ((vscatBody_stores (indexOffset_eq ..) (hready hr) htouch hlen).trans (storedTogether_ok hw))
    case vstWaits => exact run_retry h ((vstoreBody_stores (lineOffset_eq ..) (hready hr) htouch).trans (storedTogether_retry hw))
    case vstsWaits => exact run_retry h ((vstoreBody_stores (lineOffset_strided ..) (hready hr) htouch).trans (storedTogether_retry hw))
    case vscatWaits => exact run_retry h ((vscatBody_stores (indexOffset_eq ..) (hready hr) htouch hlen).trans (storedTogether_retry hw))
    case gld => exact run_ok h (gldBody_loads hcheck hobj hkind hload htouch hread)
    case gst => exact run_ok h (gstBody_stores hcheck hobj hkind hstore hopen htouch hwrite)
  case tiles =>
    intro f s a d e n r i
    refine ⟨fun ent rec0 h hpack hent hused hrec hcount => ?load,
      fun a0 hd s1 x h hwidth hptr hhead hrel hme hpack hroom haccess => ?store⟩
    case load =>
      refine ⟨_, run_ok h (vldpkBody_loads hpack hent hused hrec hcount), rfl, rfl, elemBytes_eq f, rfl, rfl, fun j hj h64 => ?_⟩
      exact tilePend_val hj h64
    case store => exact ⟨_, run_ok h (vstpkBody_appends hwidth hptr hhead hrel hme hpack hroom haccess), rfl⟩

end Sys2Proof.Machine
end

section
/-!
PROOFS. The engine's registers: what MREAD defers of a tile (R149, R322), the bindings and the codebook (R138, R150, R283, R319), and the
statement put together from that (O27).
-/

open Sys2Proof.Claims

namespace Sys2Proof.Machine

/-! ## MREAD (R149, R322) -/

section
variable {f : Fields} {s : State} (hrow : (s.me.getX f.b).toNat ≤ 63) (hn : f.x.toNat % 64 * (s.me.bits / 32) < 64)

/-- A row outside the tile raises `bounds`. -/
theorem mreadBody_outside (hrow : 63 < (s.me.getX f.b).toNat) :
    mreadBody f s = .fault s { code := .bounds, eval := s.me.getX f.b, offset := s.me.getX f.b } := by
  simp only [mreadBody, need_no (decide_eq_false (Nat.not_le.mpr hrow)), act_bind_error, act_run_error]

include hrow hn

/-- An accumulator that an error has struck gives its fault. -/
theorem mreadBody_struck (hbad : (s.accOf s.myCore f.a.toNat).bad = true) :
    mreadBody f s = .fault s { code := .uncorrectable, offset := BitVec.ofNat 64 (accAddr s.myCore f.a.toNat) } := by
  simp only [mreadBody, need_ok (decide_eq_true hrow), need_ok (decide_eq_true hn), need_no (show (!(s.accOf s.myCore f.a.toNat).bad) = false by
    rw [hbad]; rfl), act_bind_ok, act_bind_error, act_run_error]

/-- MREAD defers the lanes of a row of the committed tile, and its step counter. -/
theorem mreadBody_reads (hgood : (s.accOf s.myCore f.a.toNat).bad = false) : mreadBody f s = .ok ((deferLanes s f 32 (fun j =>
      ((tileAt (s.accOf s.myCore f.a.toNat).tile (s.me.getX f.b).toNat (f.x.toNat % 64 * (s.me.bits / 32) + j)).toNat, 0))).deferX f.c
      ((s.accOf s.myCore f.a.toNat).count.setWidth 64)) := by
  simp only [mreadBody, need_ok (decide_eq_true hrow), need_ok (decide_eq_true hn), need_ok (show (!(s.accOf s.myCore f.a.toNat).bad) = true by
    rw [hgood]; rfl), act_bind_ok]
  rfl

end

/-- Deferred elements without flags of their own set none. -/
theorem deferLanes_noFlags (s : State) (f : Fields) {e : Nat} (he : 0 < e) (x : Nat → Nat) :
    ∃ (v : BitVec 2048) (m : BitVec 256) (fl : List (BitVec 6)), deferLanes s f e (fun j => (x j, 0)) = s.deferV f.d v m (e / 8) fl
      ∧ (∀ y ∈ fl, y = 0) ∧ ∀ j, j < s.me.lanes e → s.me.active f e j = true → getLane v e j = x j % 2 ^ e := by
  have hle := (lanes_mul_le s.me e).trans (bits_le s.me)
  refine ⟨_, _, _, rfl, fun y hy => ?_, fun j hj hact => ?_⟩
  · simp only [List.map_map, List.mem_map, Function.comp_apply] at hy
    obtain ⟨j, _, rfl⟩ := hy
    split <;> rfl
  · rw [lanesOf_getLane he _ _ hj hle, if_pos hact]

/-! ## Bindings and the codebook (R138, R150, R283, R319) -/

section
variable {f : Fields} {s : State}

/-- The record that is bound: none for `o0`, else what the register names. -/
def boundRecord (f : Fields) (s : State) (kind : Nat) : Option Binding := if f.a = 0 then none else some ⟨s.me.getO f.a, kind⟩

/-- A register that names data or a bound record's kind is bound, and `o0` clears the binding. -/
theorem bindingOf_ok (kind : Nat) (h : f.a = 0 ∨ ∃ a h, checkPtr s (s.me.getO f.a) = .ok () ∧ header s (oCanon (s.me.getO f.a)) = .ok (a, h)
    ∧ (hKind h = 0 ∨ hKind h = 6)) : bindingOf s f kind = .ok (boundRecord f s kind) := by
  by_cases h0 : f.a = 0
  · simp only [bindingOf, boundRecord, if_pos h0]
    rfl
  · obtain ⟨a, hd, hptr, hhead, hkind⟩ := h.resolve_left h0
    have hk : (hKind hd == 0 || hKind hd == 6) = true := by simpa using hkind
    simp only [bindingOf, boundRecord, if_neg h0, hptr, hhead, needKind_ok hk, act_bind_ok]
    rfl

/-- CBLD defers the codebook that its 32 bytes make. -/
theorem cbldBody_loads {a : Nat} {h : Word64} {s' : State} {bs : List Byte} (hptr : checkPtr s (s.me.getO f.a) = .ok ())
    (hhead : header s (oCanon (s.me.getO f.a)) = .ok (a, h)) (hkind : hKind h = 0 ∨ hKind h = 6) (hstage : hStaged h = false ∨ 2 ≤ hState h)
    (hcheck : check s (s.me.getO f.a) 0 32 2 = .ok ()) (hrel : releasedFor [oCanon (s.me.getO f.a)] s = .ok s')
    (hread : readCanon s' (s.me.getO f.a) 0 32 = .ok bs) :
    cbldBody f s = .ok (s'.defer { dest := .codebook (f.x.getLsbD 0) (Codebook.make (BitVec.ofNat 256 (leNat bs))) }) := by
  have hk : ((hKind h == 0 || hKind h == 6) && !(hStaged h && decide (hState h ≤ 1))) = true := by
    rcases hstage with hs | hs
    · simp [hkind, hs]
    · simp [hkind, show ¬ hState h ≤ 1 by omega]
  simp only [cbldBody, hptr, hhead, needKind_ok hk, hcheck, hrel, hread, act_bind_ok]
  rfl

end

/-! ## The statement -/

/-- Settles O27: MREAD by its row and accumulator, the bindings by what they bind, the codebook by its bytes. -/
theorem engineRegistersAreReadAndWritten : Obligations.EngineRegistersAreReadAndWritten := by
  intro f s l row n acc r bound bindable struck
  refine ⟨fun h hrow hn hbad => ?struck, fun h hrow hn hgood => ?read, fun h hrow => ?outside, fun h => run_ok h rfl, fun h hb => ?scale,
    fun h hb => ?tab, fun a hd s' bs h hptr hhead hkind hstage hcheck hrel hread => ?codebook⟩
  case struck => exact run_late h (mreadBody_struck hrow hn hbad) rfl
  case read =>
    obtain ⟨v, m, fl, hdefer, hfl, hval⟩ := deferLanes_noFlags s f (e := 32) (by decide)
      (fun j => (tileAt acc.tile row (n * l + j)).toNat)
    refine ⟨v, m, fl, run_ok h ((mreadBody_reads hrow hn hgood).trans (by rw [hdefer])), hfl, fun j hj hact => ?_⟩
    exact (hval j hj hact).trans (Nat.mod_eq_of_lt (BitVec.isLt _))
  case outside => exact run_fault h (mreadBody_outside hrow) rfl (by simp)
  case scale => exact run_ok (body := mscaleBody f) h (by rw [mscaleBody, bindingOf_ok _ hb]; rfl)
  case tab => exact run_ok (body := mtabBody f) h (by rw [mtabBody, bindingOf_ok _ hb]; rfl)
  case codebook => exact run_ok h (cbldBody_loads hptr hhead hkind hstage hcheck hrel hread)

end Sys2Proof.Machine
end

section
/-!
PROOFS. The fill of a mailbox: the parts of the state that it changes, and the word that it writes (R186, R224, R226).
-/

namespace Sys2Proof.Machine

/-! ## The parts that a fill changes -/

/-- Waking the tasks that wait for something changes tasks alone. -/
theorem State.wakeAll_eq (s : State) (kind : WaitKind) (aux : Nat) : ∃ ts, s.wakeAll kind aux = { s with tasks := ts } := by
  suffices h : ∀ (xs : FMap Task) (u : State), ∃ ts, xs.foldl (fun s e =>
      match e.2.wait with
      | some w => if w.kind == kind && w.aux == aux then s.wake e.1 else s
      | none => s) u = { u with tasks := ts } from h s.tasks s
  intro xs
  induction xs with
  | nil => exact fun u => ⟨u.tasks, rfl⟩
  | cons x xs ih =>
    intro u
    obtain ⟨ts, hts⟩ := ih (match x.2.wait with
      | some w => if w.kind == kind && w.aux == aux then u.wake x.1 else u
      | none => u)
    refine ⟨ts, hts.trans ?_⟩
    cases x.2.wait with
    | none => rfl
    | some w =>
      simp only [State.wake]
      split
      · split <;> rfl
      · rfl

/-- A fill changes the tasks, the core and the mailbox's word. -/
theorem State.fillMailbox_eq (s : State) (c : CoreId) (ctx : Nat) (job : Word32) (status dropped scope : Nat) : ∃ ts cs m ps,
    s.fillMailbox c ctx job status dropped scope = { s with tasks := ts, cores := cs, mem := m, poison := ps } := by
  simp only [State.fillMailbox]
  split
  · split
    · obtain ⟨ts, hts⟩ := State.wakeAll_eq ((s.endIdle (fun k _ => coreOf k == c)).setMailbox c (job.toNat % 32) .free) .mailbox c
      exact ⟨ts, _, _, _, hts⟩
    · exact ⟨_, _, _, _, rfl⟩
  · exact ⟨s.tasks, s.cores, s.mem, s.poison, rfl⟩

/-- A fill for a context changes these, or them in shadow storage. -/
theorem State.fillBox_eq (s : State) (p ctx : Nat) (c : CoreId) (job : Word32) (status dropped scope : Nat) : ∃ ts cs m ps vs,
    s.fillBox p ctx c job status dropped scope = { s with tasks := ts, cores := cs, mem := m, poison := ps, shadow := vs } := by
  simp only [State.fillBox]
  split
  · obtain ⟨ts, cs, m, ps, h⟩ := s.fillMailbox_eq c ctx job status dropped scope
    exact ⟨ts, cs, m, ps, s.shadow, h⟩
  · split
    · exact ⟨s.tasks, s.cores, s.mem, s.poison, s.shadow, rfl⟩
    · exact ⟨_, _, _, _, _, rfl⟩

@[simp] theorem State.colls_fillBox (s : State) (p ctx : Nat) (c : CoreId) (job : Word32) (status dropped scope : Nat) :
    (s.fillBox p ctx c job status dropped scope).colls = s.colls := by
  obtain ⟨_, _, _, _, _, h⟩ := s.fillBox_eq p ctx c job status dropped scope
  rw [h]

@[simp] theorem State.boxAddr_fillBox (s : State) (p ctx : Nat) (c : CoreId) (job : Word32) (status dropped scope : Nat) :
    (s.fillBox p ctx c job status dropped scope).boxAddr = s.boxAddr := by
  obtain ⟨_, _, _, _, _, h⟩ := s.fillBox_eq p ctx c job status dropped scope
  rw [h]
  rfl

/-- What a core holds beside its mailboxes is as before a fill. -/
theorem State.core_fillMailbox {α : Type} (view : Core → α) (hview : ∀ (c : Core) mb, view { c with mailboxes := mb } = view c) (s : State)
    (c : CoreId) (ctx : Nat) (job : Word32) (status dropped scope : Nat) :
    view ((s.fillMailbox c ctx job status dropped scope).core c) = view (s.core c) := by
  have boxed (v : Mailbox) : view (({ s with tasks := (s.endIdle (fun k _ => coreOf k == c)).tasks } : State).setMailbox c (job.toNat % 32) v
      |>.core c) = view (s.core c) := by
    rw [State.setMailbox, State.core_setCore]
    exact hview ..
  simp only [State.fillMailbox]
  split
  · split
    · obtain ⟨ts, hts⟩ := State.wakeAll_eq ((s.endIdle (fun k _ => coreOf k == c)).setMailbox c (job.toNat % 32) .free) .mailbox c
      rw [State.releaseMailbox, hts]
      exact boxed .free
    · exact boxed _
  · rfl

/-! ## The word that it writes -/

/-- A mailbox takes a job's word: it is the job's, not full, and of a task that is there. -/
def State.takesWord (s : State) (c : CoreId) (job : Word32) : Bool :=
  let b := s.mailbox c (job.toNat % 32)
  b.taken && b.seq.toNat == job.toNat / 256 && !b.full && b.owner != 0

/-- A fill writes the word of a mailbox that takes it, and no other byte (R186). -/
theorem State.mem_fillMailbox (s : State) (c : CoreId) (ctx : Nat) (job : Word32) (status dropped scope : Nat) :
    (s.fillMailbox c ctx job status dropped scope).mem = if s.takesWord c job then s.mem.writeN (s.boxAddr c ctx (job.toNat % 32))
      (leBytes 8 (BitVec.ofNat 64 ((min dropped 0xFFFFFFFF) * 2 ^ 32 + (s.mailbox c (job.toNat % 32)).seq.toNat * 256 + status)).toNat)
    else s.mem := by
  simp only [State.fillMailbox]
  split
  · next hfits =>
    split
    · next howner =>
      have hnot : s.takesWord c job = false := by simp only [State.takesWord, bne, howner, Bool.not_true, Bool.and_false]
      simp only [hnot, State.releaseMailbox_mem]
      rfl
    · next howner =>
      have htakes : s.takesWord c job = true := by
        simp only [State.takesWord, hfits, bne, Bool.eq_false_iff.mpr howner, Bool.not_false, Bool.and_true]
      simp only [htakes]
      rfl
  · next hfits =>
    have hnot : s.takesWord c job = false := by simp only [State.takesWord, Bool.eq_false_iff.mpr hfits, Bool.false_and]
    simp only [hnot]
    rfl

/-- The byte stands outside the word of a job's mailbox. -/
def State.outsideBox (s : State) (b : Nat) (c : CoreId) (ctx : Nat) (job : Word32) : Prop :=
  b < s.boxAddr c ctx (job.toNat % 32) ∨ s.boxAddr c ctx (job.toNat % 32) + 8 ≤ b

section
variable {s : State} {b : Nat} {c : CoreId} {ctx : Nat} {job : Word32} (status dropped scope : Nat) (hb : s.outsideBox b c ctx job)
include hb

theorem State.read_fillMailbox : (s.fillMailbox c ctx job status dropped scope).mem.read b = s.mem.read b := by
  rw [State.mem_fillMailbox]
  split
  · exact Memory.read_writeN_outside _ _ _ (by rw [leBytes, List.length_map, List.length_range]; exact hb)
  · rfl

theorem State.read_fillBox (p : Nat) : (s.fillBox p ctx c job status dropped scope).mem.read b = s.mem.read b := by
  simp only [State.fillBox]
  split
  · exact State.read_fillMailbox status dropped scope hb
  · split
    · rfl
    · exact State.read_fillMailbox (s := { s with cores := _, tasks := _ }) status dropped scope hb

end

end Sys2Proof.Machine
end

section
/-!
PROOFS. The management registers: the addresses that MGRD and MGWR accept, what stands at an address, and the statement put together from
that (O39).
-/

open Sys2Proof.Claims

namespace Sys2Proof.Machine

/-! ## Reads by address (R217, R222, R231, R247, R254) -/

section
variable (s : State) {p : Nat}

/-- A byte of a partition's 0x100 halt registers belongs to its controller (R231). -/
theorem haltOf_partition {off : Nat} (hp : p < 16) (hoff : off < 0x100) : haltOf (0x20200000 + 0x100 * p + off) = some p := by
  have hr : 0x20200000 + 0x100 * p + off - 0x20200000 < 0x1000 := by omega
  have hq : (0x20200000 + 0x100 * p + off - 0x20200000) / 0x100 = p := by omega
  rw [haltOf, if_pos hr, hq]

/-- The registers of a partition's halt controller (R231). -/
theorem State.mgRead_halt {off : Nat} (hp : p < 16) (hoff : off < 0x100) :
    s.mgRead (0x20200000 + 0x100 * p + off) = ((s.halt p).reg off, s) := by
  have hreg : (0x20200000 + 0x100 * p + off) % 256 = off := by omega
  rw [State.mgRead, if_neg (by simp; omega), if_neg (by simp; omega), if_neg (by simp; omega), if_pos (by simp; omega),
    haltOf_partition hp hoff, hreg]

/-- The registers of a launch queue (R217). -/
theorem State.mgRead_queue {q off : Nat} (hp : p < 16) (hq : q < 64) (hoff : off < 64) :
    s.mgRead (0x20000000 + 2 ^ 16 * p + 64 * q + off) = ((s.queue p q).reg off, s) := by
  have hr : 0x20000000 + 2 ^ 16 * p + 64 * q + off - 0x20000000 = 2 ^ 16 * p + 64 * q + off := by omega
  rw [State.mgRead, if_neg (by simp; omega), if_pos (by simp; omega), hr]
  dsimp only
  rw [if_pos (by omega), show (2 ^ 16 * p + 64 * q + off) / 2 ^ 16 = p by omega, show (2 ^ 16 * p + 64 * q + off) % 2 ^ 16 / 64 = q by omega,
    show (2 ^ 16 * p + 64 * q + off) % 64 = off by omega]

/-- The words of a partition's description (R222). -/
theorem State.mgRead_partition {off : Nat} (hp : p < 16) (hoff : off < 32) :
    s.mgRead (0x20100000 + 32 * p + off) = ((s.part p).reg off, s) := by
  rw [State.mgRead, if_neg (by simp; omega), if_neg (by simp; omega), if_pos (by simp; omega),
    show (0x20100000 + 32 * p + off - 0x20100000) / 32 = p by omega, show (0x20100000 + 32 * p + off) % 32 = off by omega]

/-- The route table of an I/O die (R247). -/
theorem State.mgRead_route {io i : Nat} (hio : io < 2) (hi : i < 64) :
    s.mgRead (0x11000000 + 2 ^ 20 * io + 4 * i) = (s.plat.routes.find (64 * io + i) 0, s) := by
  have hr : 0x11000000 + 2 ^ 20 * io + 4 * i - 0x11000000 = 2 ^ 20 * io + 4 * i := by omega
  rw [State.mgRead, if_pos (by simp; omega), hr]
  dsimp only
  rw [if_pos (by omega), show 64 * ((2 ^ 20 * io + 4 * i) / 2 ^ 20) + (2 ^ 20 * io + 4 * i) % 2 ^ 20 / 4 = 64 * io + i by omega]

/-- The power budget of a die (R254). -/
theorem State.mgRead_budget {d : Nat} (hd : d < 4) : s.mgRead (0x33000000 + 2 ^ 12 * d) = ((s.die d).budget.setWidth 32, s) := by
  rw [State.mgRead, if_neg (by simp; omega), if_neg (by simp; omega), if_neg (by simp; omega), if_neg (by simp; omega),
    if_neg (by simp; omega), if_neg (by simp; omega), if_neg (by simp; omega), if_neg (by simp; omega), if_neg (by simp; omega),
    if_pos (by simp; omega), show (0x33000000 + 2 ^ 12 * d - 0x33000000) / 4096 = d by omega]
  exact congrArg (·, s) (if_pos (by omega))

/-! ## Writes by address (R231, R254) -/

/-- A plain write of a die's power budget (R254). -/
theorem State.plainWrite_budget (v : Word32) {d : Nat} (hd : d < 4) : s.plainWrite (0x33000000 + 2 ^ 12 * d) v = s.budgetWrite d v := by
  rw [State.plainWrite, if_neg (by simp; omega), if_neg (by simp; omega), if_neg (by simp; omega), if_neg (by simp; omega),
    if_pos (by simp; omega), if_pos (by omega), show (0x33000000 + 2 ^ 12 * d - 0x33000000) / 4096 = d by omega]

/-- A power budget has no effect beside its write. -/
theorem State.mgWrite_budget (tid v : Word32) {d : Nat} (hd : d < 4) : s.mgWrite tid (0x33000000 + 2 ^ 12 * d) v = s.budgetWrite d v := by
  rw [State.mgWrite, if_neg (by simp; omega), if_neg (by simp; omega), if_neg (by simp; omega), if_neg (by simp; omega),
    if_neg (by simp; omega), if_neg (by simp; omega), if_neg (by simp; omega), if_neg (by simp; omega), s.plainWrite_budget v hd]

/-- A write of HRES acts on its partition's halt (R231). -/
theorem State.mgWrite_hres (tid v : Word32) (hp : p < 16) : s.mgWrite tid (0x20200000 + 0x100 * p + 0x08) v = s.hresWrite p v := by
  rw [State.mgWrite, if_neg (by simp; omega), if_neg (by simp; omega), if_neg (by simp; omega), if_pos (by simp; omega),
    haltOf_partition hp (by decide)]
  exact if_pos (by omega)

end

/-! ## MGRD, MGWR and writes from outside (R261) -/

section
variable {f : Fields} {s : State} (hlt : (s.me.getX f.a).toNat < 2 ^ 32) (halign : (s.me.getX f.a).toNat % 4 = 0)
  (hfree : s.unitHeld s.me.tid (s.me.getX f.a).toNat = false)
include hlt halign hfree

/-- An aligned 32-bit address of a unit that the task does not wait for is accepted. -/
theorem managementAddress_ok : managementAddress s f = .ok (s.me.getX f.a).toNat := by
  simp only [managementAddress, need_ok (decide_eq_true hlt), need_ok (beq_iff_eq.mpr halign),
    needOr_ok (show (!s.unitHeld s.me.tid (s.me.getX f.a).toNat) = true by rw [hfree]; rfl), act_bind_ok]
  rfl

/-- MGRD of a register whose reading changes nothing defers its value. -/
theorem exec_mgrd_gives {w : Word32} (h : s.issues .mgrd f = true) (hr : s.mgRead (s.me.getX f.a).toNat = (w, s)) :
    exec (.mgrd f) s = completes s (s.deferX f.d (w.setWidth 64)) f := by
  refine run_ok (body := mgrdBody f) h ?_
  simp only [mgrdBody, managementAddress_ok hlt halign hfree, act_bind_ok, hr]
  rfl

/-- MGWR writes its register in its own step (log entry 18). -/
theorem exec_mgwr_writes (h : s.issues .mgwr f = true) : exec (.mgwr f) s
    = completes s (s.mgWrite s.me.tid (s.me.getX f.a).toNat ((s.me.getX f.d).setWidth 32)) f := by
  refine run_ok (body := mgwrBody f) h ?_
  simp only [mgwrBody, managementAddress_ok hlt halign hfree, act_bind_ok]
  rfl

end

/-- MGMT_REGISTER_WRITE of a power budget. -/
theorem exec_mgmtRegisterWrite_budget (s : State) (v : Word32) {d : Nat} (hd : d < 4) :
    exec (.mgmtRegisterWrite (BitVec.ofNat 32 (0x33000000 + 2 ^ 12 * d)) v) s = .next (s.budgetWrite d v) := by
  have ha : (BitVec.ofNat 32 (0x33000000 + 2 ^ 12 * d)).toNat = 0x33000000 + 2 ^ 12 * d := by
    rw [BitVec.toNat_ofNat]
    omega
  have halign : (0x33000000 + 2 ^ 12 * d) % 4 = 0 := by omega
  refine congrArg Host.Outcome.next ?_
  dsimp only
  rw [ha, if_pos halign, s.plainWrite_budget v hd]

/-! ## The statement -/

/-- Settles O39: each register by what stands at its address, MGWR by its own write, and the writes of budgets and HRES by address. -/
theorem managementRegistersAreReadAndWritten : Obligations.ManagementRegistersAreReadAndWritten := by
  intro f s a v ok gives
  refine ⟨fun h ⟨hlt, halign, hfree⟩ => ?reads, fun h ⟨hlt, halign, hfree⟩ => exec_mgwr_writes hlt halign hfree h, fun d hd ha => ?budget,
    fun p hp ha => ?hres⟩
  case reads =>
    have reads {n : Nat} {w : Word32} (hr : s.mgRead n = (w, s)) (ha : a = n) : gives w :=
      exec_mgrd_gives hlt halign hfree h ((congrArg s.mgRead ha).trans hr)
    exact ⟨fun p hp => reads (s.mgRead_halt (off := 0x00) hp (by decide)), fun p q hp hq => reads (s.mgRead_queue (off := 0x0C) hp hq (by decide)),
      fun p hp => reads (s.mgRead_partition (off := 0x00) hp (by decide)), fun io i hio hi => reads (s.mgRead_route hio hi),
      fun d hd => reads (s.mgRead_budget hd)⟩
  case budget => rw [ha]; exact ⟨s.mgWrite_budget _ v hd, exec_mgmtRegisterWrite_budget s v hd⟩
  case hres => rw [ha]; exact s.mgWrite_hres _ v hp

end Sys2Proof.Machine
end

section
/-!
PROOFS. The matrix engine's queue: what a command captures and the checks on what it reads (R147, R320), the entry that it takes (R141), and
the statement put together from that (O26).
-/

open Sys2Proof.Claims

namespace Sys2Proof.Machine

/-! ## The entry (R141) -/

/-- A queue with room has an entry. -/
theorem needEntry_ok {s : State} (o : Op) (f : Fields) (hroom : (s.core s.myCore).queue.length < 16) : needEntry s o f = .ok () :=
  needOr_ok (decide_eq_true hroom)

/-- The arbiter, which a command reaches, changes no core. -/
@[simp] theorem State.core_arrived (s : State) (c d : CoreId) : (s.arrived c).core d = s.core d := by
  simp only [State.arrived]
  split <;> rfl

/-- A command that is accepted stands last in the core's queue. -/
theorem State.queue_accept (s : State) (m : MCmd) : ((s.accept m).core s.myCore).queue = (s.core s.myCore).queue ++ [m] := by
  rw [State.accept, State.core_arrived, State.core_setCore]

/-! ## MMA and MSBP (R147, R320) -/

/-- The step count: of the loop register, or of the x register, that the instruction names. -/
def engineSteps (f : Fields) (s : State) : Word64 :=
  if f.x.getLsbD 9 then (s.core s.myCore).el[f.c.toNat]?.getD 0 else s.me.getX f.c

/-- What MMA and MSBP capture when they take no bound record: `cb` is the codebook that they read. -/
def plainCmd (kind : MKind) (cb : Codebook) (f : Fields) (s : State) : MCmd :=
  { kind := kind, acc := f.d.toNat, fa := f.x.toNat % 16, fb := f.x.toNat / 16 % 16, steps := (engineSteps f s).toNat
    oa := s.me.getO f.a, ob := s.me.getO f.b, cb := cb, tid := s.me.tid, part := s.me.part, tenant := s.me.tenant, launch := s.me.launch }

/-- The scaling that the instruction asks for. -/
def scales (kind : MKind) (f : Fields) : Bool := kind == .mma && f.x.getLsbD 8

/-- MSBP takes differences, whose groups are sorted. -/
def sorts (kind : MKind) (f : Fields) : Bool := kind == .msbp && f.x.toNat / 16 % 16 != 9

/-- What MMA and MSBP capture (R147). -/
def productCmd (kind : MKind) (f : Fields) (s : State) : MCmd :=
  { plainCmd kind (if kind == .msbp && f.x.getLsbD 8 then (s.core s.myCore).slot1 else (s.core s.myCore).slot0) f s with
    scaled := scales kind f
    scaleA := if scales kind f then (s.core s.myCore).scaleA else none
    scaleB := if scales kind f || sorts kind f then (s.core s.myCore).scaleB else none
    tab := if sorts kind f then (s.core s.myCore).tab else none }

section
variable {f : Fields} {s s' : State} {kind : MKind} {o : Op} {m : MCmd} {a b : Nat}

/-- The checks of MMA and MSBP, in order, on what they capture. -/
theorem productBody_eq (kind : MKind) (o : Op) (f : Fields) (s : State) : productBody kind o f s = Act.run do
    needEntry s o f
    need ((engineSteps f s).toNat ≤ 65535) s { code := .engineLoop, eval := engineSteps f s }
    let _ ← needOperand s (s.me.getO f.a) ((productCmd kind f s).extent (f.x.toNat % 16))
    let _ ← needOperand s (s.me.getO f.b) ((productCmd kind f s).extent (f.x.toNat / 16 % 16))
    needBound s (productCmd kind f s) (sorts kind f)
    let t ← releasedFor ((productCmd kind f s).needs.map (fun r => oCanon r.1)) s
    return .ok (if (productCmd kind f s).steps = 0 then t else t.accept (productCmd kind f s)) := rfl

/-- A product that passes its checks enters the queue, except for a step count of 0. -/
theorem productBody_enters (hroom : (s.core s.myCore).queue.length < 16) (hsteps : (engineSteps f s).toNat ≤ 65535)
    (hm : productCmd kind f s = m) (ha : needOperand s (s.me.getO f.a) (m.extent (f.x.toNat % 16)) = .ok a)
    (hb : needOperand s (s.me.getO f.b) (m.extent (f.x.toNat / 16 % 16)) = .ok b) (hbound : needBound s m (sorts kind f) = .ok ())
    (hrel : releasedFor (m.needs.map (fun r => oCanon r.1)) s = .ok s') :
    productBody kind o f s = .ok (if engineSteps f s = 0 then s' else s'.accept m) := by
  have hzero : (engineSteps f s = 0) = (m.steps = 0) := by
    subst hm
    exact propext BitVec.toNat_eq
  subst hm
  simp only [hzero]
  rw [productBody_eq]
  simp only [needEntry_ok _ _ hroom, need_ok (decide_eq_true hsteps), ha, hb, hbound, hrel, act_bind_ok]
  rfl

/-- A product without a bound record has none to check. -/
theorem needBound_plain (kind : MKind) (cb : Codebook) (f : Fields) (s : State) : needBound s (plainCmd kind cb f s) false = .ok () := rfl

/-- A scaled product takes one record at least, of scales. -/
theorem needBound_scaled (hscaled : m.scaled = true) (hsome : (s.core s.myCore).scaleA.isSome ∨ (s.core s.myCore).scaleB.isSome)
    (hkindA : (s.core s.myCore).scaleA.all (fun b => b.kind != 2)) (hkindB : (s.core s.myCore).scaleB.all (fun b => b.kind != 2))
    (hA : needRecord s m.scaleA (recordExtent 0 m.k) = .ok ()) (hB : needRecord s m.scaleB (recordExtent 0 m.k) = .ok ())
    (htab : m.tab = none) : needBound s m false = .ok () := by
  have hany {b : Option Binding} (h : b.all (fun b => b.kind != 2)) : (!b.any (fun b => b.kind == 2)) = true := by
    cases b <;> simp_all
  simp only [needBound, hscaled, if_true, need_ok (Bool.or_eq_true .. ▸ hsome), need_ok (hany hkindA), need_ok (hany hkindB), act_bind_ok, hA]
  simp only [Bool.false_eq_true, if_false, hB, htab, act_bind_ok]
  rfl

/-- A product of sorted groups takes a permutation table and a record of bases and steps. -/
theorem needBound_sorted {t x : Binding} (hscaled : m.scaled = false) (hA : m.scaleA = none) (ht : (s.core s.myCore).tab = some t)
    (hx : (s.core s.myCore).scaleB = some x) (hkind : x.kind = 2) (hB : needRecord s m.scaleB (recordExtent 2 m.k) = .ok ())
    (htab : needRecord s m.tab (3072 * (m.k / 64)) = .ok ()) : needBound s m true = .ok () := by
  have hsome : (s.core s.myCore).tab.isSome = true := by rw [ht]; rfl
  have hany : (s.core s.myCore).scaleB.any (fun b => b.kind == 2) = true := by rw [hx]; simp [hkind]
  simp only [needBound, hscaled, Bool.false_eq_true, if_false, if_true, need_ok hsome, need_ok hany, act_bind_ok, hA]
  simp only [needRecord, act_bind_ok] at hB htab ⊢
  rw [hB]
  exact htab

end

/-! ## MZERO and MDRAIN (R148, R315, R323) -/

section
variable {f : Fields} {s : State} (hroom : (s.core s.myCore).queue.length < 16)
include hroom

/-- MZERO only takes its entry. -/
theorem mzeroBody_enters : mzeroBody f s = .ok (s.accept { kind := .mzero, acc := f.d.toNat, tid := s.me.tid, part := s.me.part
                                                           tenant := s.me.tenant, launch := s.me.launch }) := by
  simp only [mzeroBody, needEntry_ok _ _ hroom, act_bind_ok]
  rfl

/-- MDRAIN takes a mailbox, makes its object filling, defers its job id and takes its entry. -/
theorem mdrainBody_enters {a : Nat} {s' u v : State} {job : Word32}
    (ha : needOperand s (s.me.getO f.b) (4096 * storeBits (f.x.toNat % 16) / 8) = .ok a) (hopen : hSealed (s.peekWord a) = false)
    (hrel : releasedFor [oCanon (s.me.getO f.b)] s = .ok s') (hbox : takeMailbox s' .mdrain f 1 = .ok (u, job))
    (hv : (u.setStaged a 1).deferX f.d (job.setWidth 64) = v) :
    mdrainBody f s = .ok (v.accept { kind := .mdrain, acc := f.a.toNat, fa := f.x.toNat % 16, ob := s.me.getO f.b, sat := f.x.getLsbD 8
                                     clr := f.x.getLsbD 9, job := job, tid := v.me.tid, part := v.me.part, tenant := v.me.tenant
                                     launch := v.me.launch }) := by
  have hme : v.me = { (u.setStaged a 1).me with pend := v.me.pend } := by
    subst hv
    rw [State.deferX, State.defer, State.me_setMe]
  simp only [mdrainBody, needEntry_ok _ _ hroom, ha, needOpen_ok hopen, hrel, hbox, act_bind_ok, hv]
  rw [hme]
  rfl

end

/-! ## The statement -/

/-- Settles O26: each command by what it captures and by its checks, then what an entry does to the queue. -/
theorem matrixCommandsEnterTheQueue : Obligations.MatrixCommandsEnterTheQueue := by
  intro f s s' core steps fa fb oa ob base scaled summed sorted operands done performed hroom
  have product {kind : MKind} {o : Op} {m : MCmd} (h : s.issues o f = true) (hsteps : steps.toNat ≤ 65535) (hm : productCmd kind f s = m)
      (hops : operands m) (hbound : needBound s m (sorts kind f) = .ok ()) (hrel : performed m) : run o f (productBody kind o f) s = done m := by
    obtain ⟨a, b, ha, hb⟩ := hops
    exact run_ok h (productBody_enters hroom hsteps hm ha hb hbound hrel)
  refine ⟨fun h hsteps hx hops hrel => ?mma, fun h hsteps hx hops hsome hkA hkB hA hB hrel => ?scaled, fun h hsteps hfb hops hrel => ?msbp,
    fun x t h hsteps hfb hops ht hx hkind hB htab hrel => ?sorted, fun h => run_ok h (mzeroBody_enters hroom),
    fun a u job h ha hopen hrel hbox => run_ok h (mdrainBody_enters hroom ha hopen hrel hbox rfl),
    fun m => ⟨s.queue_accept m, s.accept_mem m⟩⟩
  case mma =>
    have hscales : scales .mma f = false := hx
    exact product h hsteps (by rw [productCmd, hscales]; rfl) hops (needBound_plain ..) hrel
  case scaled =>
    have hscales : scales .mma f = true := hx
    exact product h hsteps (by rw [productCmd, hscales]; rfl) hops (needBound_scaled rfl hsome hkA hkB hA hB rfl) hrel
  case msbp =>
    have hsorts : sorts .msbp f = false := by simpa [sorts] using hfb
    exact product h hsteps (by rw [productCmd, hsorts]; rfl) hops (hsorts ▸ needBound_plain ..) hrel
  case sorted =>
    have hsorts : sorts .msbp f = true := by simpa [sorts] using hfb
    exact product h hsteps (by rw [productCmd, hsorts]; rfl) hops (hsorts ▸ needBound_sorted rfl rfl ht hx hkind hB htab) hrel

end Sys2Proof.Machine
end

section
/-!
PROOFS. Collective operations: the checks of COLL and the job that joins (R285 to R287), the two steps of a round (R288, R289),
and the statement put together from that (O33).
-/

open Sys2Proof.Claims

namespace Sys2Proof.Machine

/-! ## COLL joins (R285 to R287) -/

/-- The group record and the buffer of a COLL pass their checks (R285 to R287): the record's object stands at a header word `hb`, with the
16 bytes `g` and the entries' bytes `es`, and the buffer's at a header word `ha`. -/
structure CollLawful (f : Fields) (s : State) (aa ab : Nat) (ha hb : Word64) (g es : List Byte) : Prop where
  group : checkPtr s (s.me.getO f.b) = .ok ()
  groupAt : header s (oCanon (s.me.getO f.b)) = .ok (ab, hb)
  groupKind : hKind hb = 6
  groupHead : check s (s.me.getO f.b) 0 16 8 = .ok ()
  head : readCanon s (s.me.getO f.b) 0 16 = .ok g
  spare : bits (leNat (g.take 8)) 56 8 = 0
  reduce : bits (leNat (g.take 8)) 48 8 ≤ 2
  two : 2 ≤ bits (leNat (g.take 8)) 32 16
  most : bits (leNat (g.take 8)) 32 16 ≤ 1024
  elements : bits (leNat (g.take 8)) 0 32 ≠ 0
  rank : bits (leNat (g.drop 8)) 0 16 < bits (leNat (g.take 8)) 32 16
  root : bits (leNat (g.drop 8)) 16 16 < bits (leNat (g.take 8)) 32 16
  groupWhole : check s (s.me.getO f.b) 0 (16 + 8 * bits (leNat (g.take 8)) 32 16) 8 = .ok ()
  members : readCanon s (s.me.getO f.b) 16 (8 * bits (leNat (g.take 8)) 32 16) = .ok es
  packages : ((chunksOf 8 (bits (leNat (g.take 8)) 32 16 + 1) es).map leNat).all
    (fun e => e < 64 && (f.x.getLsbD 9 || e == s.plat.package.toNat)) = true
  buffer : checkPtr s (s.me.getO f.a) = .ok ()
  bufferAt : header s (oCanon (s.me.getO f.a)) = .ok (aa, ha)
  bufferKind : hKind ha = 0
  bufferLow : 1 ≤ tagOf (oCanon (s.me.getO f.a))
  bufferHigh : tagOf (oCanon (s.me.getO f.a)) ≤ 4
  bufferState : hStaged ha = false ∨ hState ha = 2
  bufferOpen : hSealed ha = false

/-- The bytes of the buffer that a COLL takes. -/
def collBytes (f : Fields) (g : List Byte) : Nat :=
  (if f.x.toNat % 8 = 0 ∨ f.x.toNat % 8 = 3 then 1 else bits (leNat (g.take 8)) 32 16) * bits (leNat (g.take 8)) 0 32
    * (storeBits (f.x.toNat / 8 % 16) / 8)

/-- The job of a COLL: what its record, its registers and, once the mailbox is taken, its task say (R285, R287). -/
def collJob (f : Fields) (t : Task) (g es : List Byte) (s : State) (job : Word32) : CollJob :=
  { job := job, core := s.myCore, tid := s.me.tid, part := if isM s.myCore then 16 else s.me.part, ctx := s.me.ctx, launch := s.me.launch
    tenant := s.me.tenant, buf := t.getO f.a, op := f.x.toNat % 8, fmt := f.x.toNat / 8 % 16, dom := f.x.getLsbD 9
    group := BitVec.ofNat 32 (leNat (g.drop 8) / 2 ^ 32), object := oCanon (t.getO f.b), rank := bits (leNat (g.drop 8)) 0 16
    root := bits (leNat (g.drop 8)) 16 16, members := bits (leNat (g.take 8)) 32 16, count := bits (leNat (g.take 8)) 0 32
    reduce := bits (leNat (g.take 8)) 48 8, entries := (chunksOf 8 (bits (leNat (g.take 8)) 32 16 + 1) es).map leNat
    waitsLeave := decide (2 ^ 20 < collBytes f g) }

/-- A job joins those in progress; a large one asks for leave. -/
def State.joinColl (s : State) (j : CollJob) : State :=
  { s with
    colls := s.colls ++ [j]
    leaves := s.leaves ++ if j.waitsLeave then [⟨.collective j.job, s.myCore⟩] else [] }

/-- A COLL that is accepted joins and defers its job id. -/
theorem State.acceptColl_eq (s : State) (f : Fields) (j : CollJob) : s.acceptColl f j = (s.joinColl j).deferX f.d (j.job.setWidth 64) := by
  cases hw : j.waitsLeave <;> simp [State.acceptColl, State.joinColl, State.askLeave, State.myCore, hw]

/-- A COLL that passes its checks takes a mailbox and joins its round. -/
theorem collBody_joins {f : Fields} {s s1 s2 : State} {aa ab : Nat} {ha hb : Word64} {g es : List Byte} {job : Word32}
    (h : CollLawful f s aa ab ha hb g es) (hsize : check s (s.me.getO f.a) 0 (collBytes f g) (storeBits (f.x.toNat / 8 % 16) / 8) = .ok ())
    (hrel : releasedAt (if f.x.getLsbD 9 then 4 else 3) (s.homeAt (oCanon (s.me.getO f.a))) s = .ok s1)
    (hbox : takeMailbox s1 .coll f 3 = .ok (s2, job)) :
    collBody f s = .ok ((s2.joinColl (collJob f s.me g es s2 job)).deferX f.d (job.setWidth 64)) := by
  have hgroup : (hKind hb == 6) = true := by simp [h.groupKind]
  have hrecord : (bits (leNat (g.take 8)) 56 8 == 0 && bits (leNat (g.take 8)) 48 8 ≤ 2 && 2 ≤ bits (leNat (g.take 8)) 32 16
      && bits (leNat (g.take 8)) 32 16 ≤ 1024 && bits (leNat (g.take 8)) 0 32 != 0
      && bits (leNat (g.drop 8)) 0 16 < bits (leNat (g.take 8)) 32 16 && bits (leNat (g.drop 8)) 16 16 < bits (leNat (g.take 8)) 32 16) = true := by
    simp [h.spare, h.reduce, h.two, h.most, h.elements, h.rank, h.root]
  have hbuffer : (hKind ha == 0 && 1 ≤ tagOf (oCanon (s.me.getO f.a)) && tagOf (oCanon (s.me.getO f.a)) ≤ 4
      && (!hStaged ha || hState ha == 2)) = true := by
    rcases h.bufferState with hst | hst <;> simp [h.bufferKind, h.bufferLow, h.bufferHigh, hst]
  have hbytes : ((if (f.x.toNat % 8 = 0 || f.x.toNat % 8 = 3) then 1 else bits (leNat (g.take 8)) 32 16) * bits (leNat (g.take 8)) 0 32
      * (storeBits (f.x.toNat / 8 % 16) / 8)) = collBytes f g := by
    simp only [collBytes, Bool.or_eq_true, decide_eq_true_eq]
  simp only [collBody, h.group, h.groupAt, needKind_ok hgroup, h.groupHead, h.head, needKind_ok hrecord, h.groupWhole, h.members,
    needKind_ok h.packages, h.buffer, h.bufferAt, needKind_ok hbuffer, needOpen_ok h.bufferOpen, hbytes, hsize, hrel, hbox, act_bind_ok]
  exact congrArg Res.ok (State.acceptColl_eq ..)

/-! ## A round ends (R289) -/

/-- The byte stands outside the mailboxes' words of jobs. -/
def State.apart (s : State) (js : List CollJob) (b : Nat) : Prop := ∀ c ∈ js, s.outsideBox b c.core c.ctx c.job

/-- The end of a round drops its jobs. -/
theorem State.colls_endRound (s : State) (js : List CollJob) (status : Nat) :
    (s.endRound js status).colls = s.colls.filter (fun c => !js.contains c) :=
  foldl_keeps State.colls (fun _ _ _ => State.colls_fillBox ..) _

/-- The end of a round writes no byte but those of its mailboxes' words. -/
theorem State.read_endRound {s : State} {js : List CollJob} {b : Nat} (status : Nat) (hb : s.apart js b) :
    (s.endRound js status).mem.read b = s.mem.read b := by
  suffices h : ∀ (ks : List CollJob) (u : State), u.apart ks b → (ks.foldl (fun s j =>
      s.fillBox j.part j.ctx j.core j.job status 0 (if j.dom then 4 else 3)) u).mem.read b = u.mem.read b from h js _ hb
  intro ks
  induction ks with
  | nil => exact fun _ _ => rfl
  | cons k ks ih =>
    intro u hu
    refine (ih _ fun c hc => ?_).trans (State.read_fillBox _ _ _ (hu k List.mem_cons_self) _)
    rw [State.outsideBox, State.boxAddr_fillBox]
    exact hu c (List.mem_cons_of_mem _ hc)

/-! ## The engine reads the contributions (R288) -/

/-- A contribution does not depend on the rounds' jobs or on the free values used. -/
theorem State.contribution_withColls (s : State) (cs : List CollJob) (n : Nat) (c : CollJob) :
    ({ s with colls := cs, free := n } : State).contribution c = s.contribution c := rfl

/-- A job of a round with what the engine has read for it. -/
def CollJob.filled (n : Nat) (xs : CollJob → List Nat) (c : CollJob) : CollJob := { c with stored := some (n, xs c) }

/-- The engine reads every contribution into its storage. -/
theorem State.readRound_reads {n : Nat} {xs : CollJob → List Nat} {js : List CollJob} {s : State} (hnew : ∀ c ∈ js, c.stored = none)
    (hok : ∀ c ∈ js, s.contribution c = .ok (xs c)) :
    s.readRound n js = { s with colls := s.colls.map (fun c => if js.contains c then c.filled n xs else c) } := by
  induction js generalizing s with
  | nil => simp [State.readRound]
  | cons j js ih =>
    have hj : j.stored = none := hnew j List.mem_cons_self
    have hother : js.contains (j.filled n xs) = false := by
      rw [Bool.eq_false_iff, ne_eq, List.contains_iff_mem]
      intro hmem
      simpa [CollJob.filled] using hnew _ (List.mem_cons_of_mem _ hmem)
    rw [State.readRound, if_neg (by simp [hj]), hok j List.mem_cons_self]
    refine (ih (s := s.setColl j (j.filled n xs)) (fun c hc => hnew c (List.mem_cons_of_mem _ hc))
      fun c hc => hok c (List.mem_cons_of_mem _ hc)).trans ?_
    simp only [State.setColl, List.map_map]
    congr 1
    refine List.map_congr_left fun c _ => ?_
    by_cases hc : c = j
    · subst hc
      simp only [Function.comp, beq_self_eq_true, if_true, hother, Bool.false_eq_true, if_false, List.contains_cons, Bool.true_or]
    · simp [hc]

/-- A contribution that cannot be read ends the reading with its fault. -/
theorem State.readRound_faults {n : Nat} {j : CollJob} {js : List CollJob} {s : State} {x : Flt} (hj : j.stored = none)
    (hx : s.contribution j = .error x) : s.readRound n (j :: js) = s.collFault j x := by
  rw [State.readRound, if_neg (by simp [hj]), hx]

/-! ## The engine writes the results (R288, R342) -/

/-- Where a job's buffer stands. -/
def State.bufferAt (s : State) (c : CollJob) : Nat :=
  match s.placeBuf c with
  | .ok a => a
  | .error _ => 0

/-- The results of the round `js` are written to the buffer of one of its jobs, which stands where it stood in the state `s`. -/
def State.writeBuffer (s : State) (js : List CollJob) (u : State) (c : CollJob) : State :=
  (roundWrites c (storedElement js) c.rank).foldl (fun u w =>
    u.poke (s.bufferAt c + 16 + oView c.buf + c.es * w.1) (leBytes c.es (storedBits c.fmt w.2))) u

/-- The first `n` buffers of a round have been written. -/
def State.written (s : State) (js : List CollJob) (n : Nat) : State := (js.take n).foldl (s.writeBuffer js) s

/-- The first `n` buffers of a round stand where they stood and are not sealed, each when its turn comes. -/
def State.openFor (s : State) (js : List CollJob) (n : Nat) : Prop := ∀ q c, q < n → js[q]? = some c →
  ∃ a, (s.written js q).placeBuf c = .ok a ∧ a = s.bufferAt c ∧ hSealed ((s.written js q).peekWord a) = false

section
variable {s : State} {js : List CollJob} {n : Nat} {c : CollJob}

/-- The next buffer is written after those before it. -/
theorem State.written_succ (h : js[n]? = some c) : s.written js (n + 1) = s.writeBuffer js (s.written js n) c := by
  rw [State.written, State.written, List.take_add_one, h, Option.toList_some, List.foldl_append]
  rfl

/-- A buffer that is written leaves the rounds' jobs and the mailboxes' places alone. -/
theorem State.writeBuffer_keeps {α : Type} (view : State → α) (hview : ∀ u a bs, view (State.poke u a bs) = view u) (u : State) (c : CollJob) :
    view (s.writeBuffer js u c) = view u := foldl_keeps view (fun _ _ _ => hview ..) u

theorem State.written_keeps {α : Type} (view : State → α) (hview : ∀ u a bs, view (State.poke u a bs) = view u) (n : Nat) :
    view (s.written js n) = view s := foldl_keeps view (fun _ _ _ => State.writeBuffer_keeps view hview ..) s

/-- While the buffers are open, the engine writes one after another. -/
theorem State.writeRound_written (hn : n ≤ js.length) (hopen : s.openFor js n) :
    s.writeRound js js = (s.written js n).writeRound js (js.drop n) := by
  induction n with
  | zero => rfl
  | succ n ih =>
    have hlt : n < js.length := hn
    have hget : js[n]? = some js[n] := List.getElem?_eq_getElem hlt
    obtain ⟨a, hplace, ha, hseal⟩ := hopen n js[n] (Nat.lt_succ_self n) hget
    rw [ih (Nat.le_of_lt hn) (fun q c hq => hopen q c (Nat.lt_succ_of_lt hq)), List.drop_eq_getElem_cons hlt, State.writeRound, hplace]
    simp only [hseal, Bool.false_eq_true, if_false]
    rw [State.written_succ hget, ha]
    rfl

/-- Once every buffer is written, the round ends. -/
theorem State.writeRound_ends (hopen : s.openFor js js.length) : s.writeRound js js = (s.written js js.length).endRound js 1 := by
  rw [State.writeRound_written le_rfl hopen, List.drop_length, State.writeRound]

/-- A buffer that is sealed when its turn comes raises `sealed-store`. -/
theorem State.writeRound_sealed {a : Nat} (hopen : s.openFor js n) (hget : js[n]? = some c) (hplace : (s.written js n).placeBuf c = .ok a)
    (hseal : hSealed ((s.written js n).peekWord a) = true) :
    s.writeRound js js = (s.written js n).collFault c { code := .sealedStore, eval := oCanon c.buf, ptr := oCanon c.buf } := by
  obtain ⟨hlt, hc⟩ := List.getElem?_eq_some_iff.mp hget
  rw [State.writeRound_written (Nat.le_of_lt hlt) hopen, List.drop_eq_getElem_cons hlt, hc, State.writeRound, hplace]
  simp only [hseal, if_true]

end

/-! ## COLL_ROUND_COMPLETE (R289) -/

/-- The jobs of a round in the order of their ranks. -/
def State.roundInOrder (s : State) (j : CollJob) : List CollJob := sortBy (fun a b => a.rank ≤ b.rank) (s.roundOf j)

/-- An outstanding job has a round. -/
theorem State.roundOf_ne_nil {s : State} {j : CollJob} (hj : j ∈ s.colls) : s.roundOf j ≠ [] := by
  have grows : ∀ (cs acc : List CollJob), acc ≠ [] → cs.foldl (fun acc c => if acc.any (·.sameMember c) then acc else acc ++ [c]) acc ≠ [] := by
    intro cs
    induction cs with
    | nil => exact fun _ h => h
    | cons c cs ih => exact fun acc h => ih _ (by dsimp only; split <;> simp [h])
  have hmem : j ∈ s.colls.filter (fun c => c.group == j.group && c.dom == j.dom) := by simp [hj]
  rw [State.roundOf]
  cases hcs : s.colls.filter (fun c => c.group == j.group && c.dom == j.dom) with
  | nil => exact absurd (hcs ▸ hmem) (by simp)
  | cons c cs => exact grows cs [c] (by simp)

theorem State.roundInOrder_ne_nil {s : State} {j : CollJob} (hj : j ∈ s.colls) : s.roundInOrder j ≠ [] := fun h => by
  have hperm := sortBy_perm (fun a b => decide (a.rank ≤ b.rank)) (s.roundOf j)
  rw [← State.roundInOrder, h] at hperm
  exact State.roundOf_ne_nil hj hperm.nil_eq.symm

/-- COLL_ROUND_COMPLETE of an outstanding job. -/
theorem State.completeRound_eq {s : State} {i : Nat} {j : CollJob} (hj : s.colls[i]? = some j) : s.completeRound i =
    let js := s.roundInOrder j
    if !s.allIssued j js || js.any s.collHeld || js.any (fun c => s.engineWaits c.part (oCanon c.buf) (16 + oView c.buf + c.size)) then s
    else if js.all (·.stored.isSome) then s.writeRound js js
    else
      match js.findSome? (·.stored) with
      | some (n, _) => s.readRound n js
      | none =>
        if roundAgrees js && (s.allHere j js || Config.remoteAgrees s.free) then s.fresh.2.readRound s.free js
        else s.fresh.2.endRound js 2 := by
  rw [State.completeRound, hj]
  rfl

section
variable {s : State} {i : Nat} {j : CollJob} {js : List CollJob} (hj : s.colls[i]? = some j) (hjs : s.roundInOrder j = js)
  (hissued : s.allIssued j js = true) (hheld : js.any s.collHeld = false)
  (hwaits : js.any (fun c => s.engineWaits c.part (oCanon c.buf) (16 + oView c.buf + c.size)) = false)
include hj hjs hissued hheld hwaits

/-- A round whose contributions the engine has is written. -/
theorem State.completeRound_writes (hall : js.all (·.stored.isSome) = true) : s.completeRound i = s.writeRound js js := by
  rw [State.completeRound_eq hj, hjs]
  simp [hissued, hheld, hwaits, hall]

variable (hnew : js.findSome? (·.stored) = none)
include hnew

/-- A round whose contributions the engine is still to read is read, where its members agree, and ends with status 2 where they do not. -/
theorem State.completeRound_begins : s.completeRound i =
    if roundAgrees js && (s.allHere j js || Config.remoteAgrees s.free) then s.fresh.2.readRound s.free js else s.fresh.2.endRound js 2 := by
  have hne : js ≠ [] := hjs ▸ State.roundInOrder_ne_nil (List.mem_of_getElem? hj)
  have hall : js.all (·.stored.isSome) = false := by
    rw [Bool.eq_false_iff, ne_eq, List.all_eq_true]
    intro h
    obtain ⟨c, hc⟩ := List.exists_mem_of_ne_nil js hne
    simpa [List.findSome?_eq_none_iff.mp hnew c hc] using h c hc
  rw [State.completeRound_eq hj, hjs]
  simp [hissued, hheld, hwaits, hall, hnew]

end

/-! ## What the storage holds (R288) -/

/-- Dropping repetitions drops elements. -/
theorem length_eraseDups_le {α : Type} [DecidableEq α] (l : List α) : l.eraseDups.length ≤ l.length := by
  induction hn : l.length using Nat.strong_induction_on generalizing l with
  | _ n ih =>
    cases l with
    | nil => simp
    | cons a as =>
      have hf : (as.filter (fun b => !b == a)).length ≤ as.length := List.length_filter_le ..
      rw [List.length_cons] at hn
      rw [List.eraseDups_cons, List.length_cons]
      have := ih _ (by omega) (as.filter (fun b => !b == a)) rfl
      omega

/-- A list that has no repetition to drop has none. -/
theorem nodup_of_length_eraseDups {α : Type} [DecidableEq α] {l : List α} (h : l.eraseDups.length = l.length) : l.Nodup := by
  induction l with
  | nil => exact List.nodup_nil
  | cons a as ih =>
    rw [List.eraseDups_cons, List.length_cons, List.length_cons] at h
    have hle := length_eraseDups_le (as.filter (fun b => !b == a))
    have hf : (as.filter (fun b => !b == a)).length = as.length := Nat.le_antisymm (List.length_filter_le ..) (by omega)
    have hall : ∀ b ∈ as, b ≠ a := by simpa using List.length_filter_eq_length_iff.mp hf
    rw [List.filter_eq_self.mpr (by simpa using hall)] at h
    exact List.nodup_cons.mpr ⟨fun ha => hall a ha rfl, ih (by omega)⟩

/-- Keys that do not repeat find their own element. -/
theorem find?_of_nodup_key {α β : Type} [DecidableEq β] {key : α → β} {l : List α} (h : (l.map key).Nodup) {c : α} (hc : c ∈ l) :
    l.find? (fun d => key d == key c) = some c := by
  induction l with
  | nil => cases hc
  | cons d l ih =>
    obtain ⟨hd, hl⟩ := List.nodup_cons.mp h
    rcases List.mem_cons.mp hc with rfl | hc
    · simp
    · have : key d ≠ key c := fun e => hd (e ▸ List.mem_map_of_mem hc)
      simp [this, ih hl hc]

/-- The ranks of a round that agrees are claimed once each. -/
theorem ranks_nodup_of_roundAgrees {js : List CollJob} (h : roundAgrees js = true) : (js.map (·.rank)).Nodup := by
  cases js with
  | nil => exact List.nodup_nil
  | cons j rest =>
    have hlen := beq_iff_eq.mp (Bool.and_eq_true_iff.mp h).2
    exact nodup_of_length_eraseDups (hlen.trans (List.length_map _).symm)

/-- An element that the engine has read of a member comes back from its storage. -/
theorem storedElement_gives {js : List CollJob} {c : CollJob} {n : Nat} {xs : List Nat} (h : roundAgrees js = true) (hc : c ∈ js)
    (hst : c.stored = some (n, xs)) (q : Nat) : storedElement js c.rank (c.gives.1 + q) = xs.getD q 0 := by
  have hfind : js.find? (fun d => d.rank == c.rank) = some c := find?_of_nodup_key (ranks_nodup_of_roundAgrees h) hc
  simp only [storedElement, hfind, hst, Option.map_some, Option.getD_some, Nat.add_sub_cancel_left]

/-- What a member contributes stands in its buffer. -/
theorem State.contribution_reads {s : State} {c : CollJob} {a : Nat} {xs : List Nat} (ha : s.placeBuf c = .ok a)
    (hx : s.contribution c = .ok xs) :
    xs = (List.range c.gives.2).map (fun q => leNat (s.mem.readN (a + 16 + oView c.buf + c.es * (c.gives.1 + q)) c.es)) := by
  simp only [State.contribution, ha] at hx
  split at hx
  · cases hx
  · cases hx
    rfl

/-! ## The statement -/

/-- Settles O33: COLL by its checks and the job that joins, then the two steps of a round, each from the equation of its branch. -/
theorem collectivesRunInRounds : Obligations.CollectivesRunInRounds := by
  refine ⟨?joins, ?rounds⟩
  case joins =>
    intro f s s1 s2 aa ab ha hb g es job op fmt dom ra rb w0 w1 m n entries e size h hptrB hheadB hkindB hcheckB hg hspare hred hm2 hm hn hrank
      hroot hwhole hes hent hptrA hheadA hkindA htag1 htag4 hstate hopen hsize hrel hbox
    have lawful : CollLawful f s aa ab ha hb g es := ⟨hptrB, hheadB, hkindB, hcheckB, hg, hspare, hred, hm2, hm, hn, hrank, hroot, hwhole, hes,
      hent, hptrA, hheadA, hkindA, htag1, htag4, hstate, hopen⟩
    refine ⟨s2.joinColl (collJob f s.me g es s2 job), collJob f s.me g es s2 job, run_ok h (collBody_joins lawful hsize hrel hbox), rfl, rfl, ?_,
      rfl, rfl, rfl, rfl, rfl, rfl, rfl, rfl, rfl, rfl, rfl, rfl, rfl, rfl, rfl⟩
    simp only [State.joinColl, collJob, decide_eq_true_eq]
    rfl
  case rounds =>
    intro s i j hj js place write after apart open_ hissued hheld hwaits
    have begins := State.completeRound_begins hj (js := js) rfl hissued hheld hwaits
    have writes := State.completeRound_writes hj (js := js) rfl hissued hheld hwaits
    refine ⟨fun xs hnew hagree hhere hok => ?reads, fun c rest x hnew hagree hhere hjs hx => ?faults, fun hnew hdis => ?disagrees,
      fun hall hopen => ?writes, fun n c a hall hopen hget hplace hseal => ?sealed, fun c n xs hagree hc hst q => storedElement_gives hagree hc hst q,
      fun c a xs ha hx => State.contribution_reads ha hx⟩
    case reads =>
      have hgo : (roundAgrees js && (s.allHere j js || Config.remoteAgrees s.free)) = true := by simpa [hagree] using hhere
      have hstored := List.findSome?_eq_none_iff.mp hnew
      have hread := State.readRound_reads (n := s.free) (s := s.fresh.2) hstored
        fun c hc => (s.contribution_withColls s.colls (s.free + 1) c).trans (hok c hc)
      exact ⟨_, congrArg Host.Outcome.next (((begins hnew).trans (if_pos hgo)).trans hread), rfl, rfl⟩
    case faults =>
      have hgo : (roundAgrees js && (s.allHere j js || Config.remoteAgrees s.free)) = true := by simpa [hagree] using hhere
      have hc : c.stored = none := List.findSome?_eq_none_iff.mp hnew c (hjs ▸ List.mem_cons_self)
      refine congrArg Host.Outcome.next (((begins hnew).trans (if_pos hgo)).trans ?_)
      rw [hjs]
      exact State.readRound_faults hc ((s.contribution_withColls s.colls (s.free + 1) c).trans hx)
    case disagrees =>
      have hstay : ¬ (roundAgrees js && (s.allHere j js || Config.remoteAgrees s.free)) = true := by
        rcases hdis with hdis | ⟨hhere, hfar⟩
        · simp [hdis]
        · simp [hhere, hfar]
      exact ⟨_, congrArg Host.Outcome.next ((begins hnew).trans (if_neg hstay)), State.colls_endRound .., fun b hb => State.read_endRound 2 hb⟩
    case writes =>
      refine ⟨_, congrArg Host.Outcome.next ((writes hall).trans (State.writeRound_ends hopen)), ?_, fun b hb => State.read_endRound 1 ?_⟩
      · rw [State.colls_endRound, State.written_keeps State.colls (fun _ _ _ => rfl)]
      · have hbox : (s.written js js.length).boxAddr = s.boxAddr := State.written_keeps State.boxAddr (fun _ _ _ => rfl) _
        intro c hc
        rw [State.outsideBox, hbox]
        exact hb c hc
    case sealed =>
      exact congrArg Host.Outcome.next ((writes hall).trans (State.writeRound_sealed hopen hget hplace hseal))

end Sys2Proof.Machine
end

section
/-!
PROOFS. K steps: what a pass commits (R155), the element that a step adds to a tile (R151, R320), and the sums that it rounds: of products with
or without scales (R124), and of sorted groups (R126).
-/

namespace Sys2Proof.Machine

/-! ## The steps of a pass (R155) -/

section
variable {s : State} {core : CoreId} {m : MCmd} {pl : Placed} {t n : Nat} {acc : Acc} (hgood : acc.bad = false)
include hgood

/-- Steps that read nothing poisoned are run one after the other. -/
theorem State.runSteps_clean (hclean : ∀ j, j < n → s.poisonIn (m.stepSpans pl (t + j)) = none) :
    s.runSteps core m pl n t acc = { acc := (List.range n).foldl (fun a j => s.kStepRun m pl a (t + j)) acc, next := t + n } := by
  induction n generalizing t acc with
  | zero => rfl
  | succ n ih =>
    have hfirst : s.poisonIn (m.stepSpans pl t) = none := hclean 0 (Nat.zero_lt_succ n)
    have hrest : ∀ j, j < n → s.poisonIn (m.stepSpans pl (t + 1 + j)) = none := fun j hj => by
      rw [Nat.add_assoc, Nat.add_comm 1 j]
      exact hclean (j + 1) (Nat.succ_lt_succ hj)
    rw [State.runSteps, if_neg (by simp [hgood]), hfirst]
    dsimp only
    rw [ih rfl hrest, List.range_succ_eq_map, List.foldl_cons, List.foldl_map]
    simp only [Nat.add_zero, Nat.succ_eq_add_one, Nat.add_assoc, Nat.add_comm 1]

/-- A step that meets a poisoned block ends the pass before it commits. -/
theorem State.runSteps_poisoned {x : Flt} (hx : s.poisonIn (m.stepSpans pl t) = some x) :
    s.runSteps core m pl (n + 1) t acc = { acc := acc, next := t, fault := some x } := by
  rw [State.runSteps, if_neg (by simp [hgood]), hx]

end

/-! ## The elements of a tile (R151) -/

/-- A map that leaves out the keys of the default finds every value of those it was made from. -/
theorem find_filterMap_nonzero (g : Nat → Word32) (l : List Nat) (k : Nat) :
    FMap.find (l.filterMap (fun k => if g k = 0 then none else some (k, g k))) k 0 = if k ∈ l then g k else 0 := by
  induction l with
  | nil => rfl
  | cons x l ih =>
    by_cases hx : g x = 0
    · simp only [List.filterMap_cons, if_pos hx, ih]
      by_cases hk : k = x
      · subst hk
        simp [hx]
      · simp [hk]
    · simp only [List.filterMap_cons, if_neg hx]
      by_cases hk : k = x
      · subst hk
        simp [FMap.find]
      · have hne : (k == x) = false := beq_eq_false_iff_ne.mpr hk
        simpa [FMap.find, List.lookup, hne, hk] using ih

/-- The elements of a tile are those that it is made from. -/
theorem tileAt_makeTile (g : Nat → Nat → Word32) {i c : Nat} (hi : i < 64) (hc : c < 64) : tileAt (makeTile g) i c = g i c := by
  have hmem : 64 * i + c ∈ List.range 4096 := List.mem_range.mpr (by omega)
  have hrow : (64 * i + c) / 64 = i := by omega
  have hcol : (64 * i + c) % 64 = c := by omega
  rw [tileAt, makeTile, find_filterMap_nonzero (fun k => g (k / 64) (k % 64)), if_pos hmem, hrow, hcol]

/-- A list of rows or columns at one of its 64 numbers. -/
theorem getD_map_range {α : Type} (g : Nat → List α) {n i : Nat} (hi : i < n) : ((List.range n).map g).getD i [] = g i := by
  simp [hi]

/-- A span has as many elements as are asked for. -/
theorem State.opSpan_length (s : State) (a : Nat) (r : BitVec 128) (code K i k n : Nat) : (s.opSpan a r code K i k n).length = n := by
  simp [State.opSpan, unpack]

/-! ## Products with scales (R124, R144) -/

/-- K of a step of a product of elements is a multiple of the block of a scale. -/
theorem MCmd.ks_blocks {m : MCmd} (h : m.kind = .mma) : m.ks = m.ks / 32 * 32 := by
  have hstep (code : Nat) : kStep code = 64 ∨ kStep code = 128 ∨ kStep code = 256 := by
    unfold kStep
    split
    · simp
    · split <;> simp
  have hks : m.ks = kStep m.fa ∨ m.ks = kStep m.fb := by
    simp only [MCmd.ks, h, reduceCtorEq, if_false]
    split
    · exact .inl rfl
    · split
      · exact .inr rfl
      · exact min_choice ..
  rcases hks with hks | hks
  · rcases hstep m.fa with hk | hk | hk <;> rw [hks, hk]
  · rcases hstep m.fb with hk | hk | hk <;> rw [hks, hk]

/-- The pieces of a list of whole blocks. -/
theorem chunksOf_blocks {α : Type} {w n fuel : Nat} {xs : List α} (hw : 0 < w) (hlen : xs.length = n * w) (hfuel : n ≤ fuel) :
    chunksOf w fuel xs = (List.range n).map (fun b => (xs.drop (w * b)).take w) := by
  induction n generalizing xs fuel with
  | zero =>
    obtain rfl : xs = [] := List.length_eq_zero_iff.mp (hlen.trans (Nat.zero_mul w))
    cases fuel <;> rfl
  | succ n ih =>
    obtain ⟨k, rfl⟩ : ∃ k, fuel = k + 1 := ⟨fuel - 1, by omega⟩
    rw [Nat.succ_mul] at hlen
    have hne : xs.isEmpty = false := by
      cases xs with
      | nil => simp at hlen; omega
      | cons => rfl
    rw [chunksOf, hne, if_neg (by simp), ih (by rw [List.length_drop]; omega) (by omega), List.range_succ_eq_map, List.map_cons, List.map_map]
    simp only [Nat.mul_zero, List.drop_zero, Function.comp_def, List.drop_drop, Nat.succ_eq_add_one, Nat.mul_add, Nat.mul_one, Nat.add_comm w]

/-- The blocks with their numbers. -/
theorem zipIdx_map_range {α β : Type} (h : Nat → α) (g : α → Nat → β) (n : Nat) :
    ((List.range n).map h).zipIdx.map (fun q => g q.1 q.2) = (List.range n).map (fun b => g (h b) b) :=
  List.ext_getElem (by simp) (by simp)

section
variable {s : State} {m : MCmd} {pl : Placed} {acc : Acc} {t i c : Nat}

/-- The products of row `i` and column `c` in K step `t`. -/
def State.products (s : State) (m : MCmd) (pl : Placed) (t i c : Nat) : List Val :=
  (((s.opSpan pl.a m.oa m.fa m.k i (t * m.ks) m.ks).map (operandValue m.cb m.fa)).zip
    ((s.opSpan pl.b m.ob m.fb m.k c (t * m.ks) m.ks).map (operandValue m.cb m.fb))).map (fun p => p.1.mul p.2)

/-- A step has one product for each K. -/
theorem State.products_length : (s.products m pl t i c).length = m.ks := by
  simp [State.products, State.opSpan_length]

/-- Block `b` of 32 products of a step, summed and times its two scales. -/
def State.scaledBlock (s : State) (m : MCmd) (pl : Placed) (t i c b : Nat) : Val :=
  (Val.sum (((s.products m pl t i c).drop (32 * b)).take 32)).mul
    ((s.scaleOf pl.sa m.k i (t * m.ks / 32 + b)).mul (s.scaleOf pl.sb m.k c (t * m.ks / 32 + b)))

section
variable (hkind : m.kind = .mma) (hi : i < 64) (hc : c < 64)
include hkind hi hc

/-- An MMA step adds a rounded sum to each element. -/
theorem State.kStepRun_mma : tileAt (s.kStepRun m pl acc t).work i c = BitVec.ofNat 32 (add32 (tileAt acc.work i c).toNat (fp32.value
    (fp32.round .ne false (if m.scaled then Val.sum ((chunksOf 32 (m.ks + 1) (s.products m pl t i c)).zipIdx.map (fun q =>
        (Val.sum q.1).mul ((s.scaleOf pl.sa m.k i (t * m.ks / 32 + q.2)).mul (s.scaleOf pl.sb m.k c (t * m.ks / 32 + q.2)))))
      else Val.sum (s.products m pl t i c))).1)) := by
  simp only [State.kStepRun, if_pos hkind]
  rw [tileAt_makeTile _ hi hc]
  simp only [State.denseSum, getD_map_range _ hi, getD_map_range _ hc]
  rfl

/-- Without scales the sum is of all products of the step. -/
theorem State.kStepRun_dense (hscaled : m.scaled = false) : tileAt (s.kStepRun m pl acc t).work i c = BitVec.ofNat 32
    (add32 (tileAt acc.work i c).toNat (fp32.value (fp32.round .ne false (Val.sum (s.products m pl t i c))).1)) := by
  rw [State.kStepRun_mma hkind hi hc, if_neg (by simp [hscaled])]

/-- With scales it is of the blocks' sums times theirs. -/
theorem State.kStepRun_scaled (hscaled : m.scaled = true) : tileAt (s.kStepRun m pl acc t).work i c = BitVec.ofNat 32
    (add32 (tileAt acc.work i c).toNat (fp32.value (fp32.round .ne false (Val.sum ((List.range (m.ks / 32)).map (s.scaledBlock m pl t i c)))).1)) := by
  have hlen : (s.products m pl t i c).length = m.ks / 32 * 32 := State.products_length.trans (MCmd.ks_blocks hkind)
  rw [State.kStepRun_mma hkind hi hc, if_pos hscaled, chunksOf_blocks (by decide) hlen (by omega),
    zipIdx_map_range _ (fun x b => (Val.sum x).mul ((s.scaleOf pl.sa m.k i (t * m.ks / 32 + b)).mul (s.scaleOf pl.sb m.k c (t * m.ks / 32 + b))))]
  rfl

end

/-! ## Groups of MSBP (R125, R126) -/

/-- The number that bytes hold has no more digits than they are. -/
theorem leNat_lt (bs : List Byte) : leNat bs < 256 ^ bs.length := by
  induction bs with
  | nil => decide
  | cons b bs ih =>
    have hb : b.toNat < 256 := b.isLt
    rw [leNat, List.length_cons, Nat.pow_succ]
    omega

/-- An engine reads as many bytes as it asks for. -/
theorem State.engineRead_length (s : State) (a : Nat) (r : BitVec 128) (off n : Nat) : (s.engineRead a r off n).length = n := by
  simp [State.engineRead, Memory.readN]

/-- The activations of group `g` of a step. -/
def State.groupActs (s : State) (m : MCmd) (pl : Placed) (t i g : Nat) : List Val :=
  (((s.opSpan pl.a m.oa m.fa m.k i (t * m.ks) m.ks).map (valueOf m.fa)).drop (64 * g)).take 64

/-- The codes or differences of group `g` of a step. -/
def State.groupCodes (s : State) (m : MCmd) (pl : Placed) (t c g : Nat) : List Nat :=
  ((s.opSpan pl.b m.ob m.fb m.k c (t * m.ks) m.ks).drop (64 * g)).take 64

/-- An MSBP step adds its four group sums in turn. -/
theorem State.kStepRun_msbp (hkind : m.kind = .msbp) (hi : i < 64) (hc : c < 64) :
    tileAt (s.kStepRun m pl acc t).work i c = BitVec.ofNat 32 ((List.range 4).foldl (fun w g =>
      add32 w (fp32.value (s.groupSum m pl (s.groupActs m pl t i g) (s.groupCodes m pl t c g) c (4 * t + g)))) (tileAt acc.work i c).toNat) := by
  simp only [State.kStepRun, hkind, reduceCtorEq, if_false]
  rw [tileAt_makeTile _ hi hc]
  simp only [getD_map_range _ hi, getD_map_range _ hc]
  rfl

/-- A group of codes is summed by parts (R125). -/
theorem State.groupSum_codes (hfb : m.fb = 9) (acts : List Val) (codes : List Nat) (g : Nat) :
    s.groupSum m pl acts codes c g = (sbpGroup m.cb acts codes).1 := if_pos hfb

/-- The two BF16 halves of a group's record are its base and its step (R126). -/
theorem State.groupSum_sorted {tb rb : Binding} {ta ra : Nat} (hfb : m.fb ≠ 9) (htab : pl.tab = some (tb, ta)) (hsb : pl.sb = some (rb, ra))
    (acts : List Val) (diffs : List Nat) (g : Nat) :
    let perm := leNat (s.engineRead ta tb.reg (48 * (c * (m.k / 64) + g)) 48)
    let pair := leNat (s.engineRead ra rb.reg (4 * (c * (m.k / 64) + g)) 4)
    s.groupSum m pl acts diffs c g = sortedGroup ((List.range 64).map (fun j => acts.getD (bits perm (6 * j) 6) (.fin false 0 0))) diffs
      ((fmtOf 0).value (pair / 2 ^ (16 * 0) % 2 ^ 16)) ((fmtOf 0).value (pair / 2 ^ (16 * 1) % 2 ^ 16)) := by
  intro perm pair
  have hlt : pair < 256 ^ 4 := by
    have h := leNat_lt (s.engineRead ra rb.reg (4 * (c * (m.k / 64) + g)) 4)
    rwa [State.engineRead_length] at h
  have hbase : pair / 2 ^ (16 * 0) % 2 ^ 16 = pair % 2 ^ 16 := by rw [Nat.mul_zero, Nat.pow_zero, Nat.div_one]
  have hstep : pair / 2 ^ (16 * 1) % 2 ^ 16 = pair / 2 ^ 16 := Nat.mod_eq_of_lt (by omega)
  rw [hbase, hstep]
  simp only [State.groupSum, if_neg hfb, htab, hsb]
  rfl

end

/-! ## The sum of a sorted group (R126) -/

/-- Partial sums of activations from the last, number `last`, down; `n` of them are added to it. -/
def partsDown (a : Nat → Val) (last : Nat) : Nat → Nat
  | 0 => (fp32.round .ne false (a last)).1
  | n + 1 => add32 (partsDown a last n) (a (last - (n + 1)))

/-- The partial sum of the activations from number `j` up. -/
def partsFrom (a : Nat → Val) (last j : Nat) : Nat := partsDown a last (last - j)

theorem partsFrom_last (a : Nat → Val) (last : Nat) : partsFrom a last last = (fp32.round .ne false (a last)).1 := by
  rw [partsFrom, Nat.sub_self, partsDown]

theorem partsFrom_step (a : Nat → Val) {last j : Nat} (hj : j < last) : partsFrom a last j = add32 (partsFrom a last (j + 1)) (a j) := by
  obtain ⟨n, hn⟩ : ∃ n, last - j = n + 1 := ⟨last - j - 1, by omega⟩
  have hnext : last - (j + 1) = n := by omega
  have hat : last - (n + 1) = j := by omega
  rw [partsFrom, hn, partsDown, partsFrom, hnext, hat]

/-- Adding activations from the last down lists their partial sums in order. -/
theorem foldl_partsFrom (a : Nat → Val) {last n : Nat} (hn : n ≤ last) {us : List Nat} (hus : us.headD 0 = partsFrom a last n) :
    (((List.range n).map a).reverse).foldl (fun (acc : List Nat) x => add32 (acc.headD 0) x :: acc) us
      = (List.range n).map (partsFrom a last) ++ us := by
  induction n generalizing us with
  | zero => rfl
  | succ n ih =>
    have hhead : (add32 (us.headD 0) (a n) :: us).headD 0 = partsFrom a last n := by
      rw [List.headD_cons, hus, partsFrom_step a (Nat.lt_of_succ_le hn)]
    rw [List.range_succ, List.map_append, List.reverse_append, List.foldl_append, List.map_append]
    refine (ih (Nat.le_of_succ_le hn) hhead).trans ?_
    rw [hus, ← partsFrom_step a (Nat.lt_of_succ_le hn), List.append_assoc]
    rfl

/-- A sorted group: its base times the sum of all activations, and its step times the rounded sum of differences times partial sums. -/
theorem sortedGroup_eq (a : Nat → Val) (d : Nat → Nat) (base step : Val) :
    sortedGroup ((List.range 64).map a) ((List.range 64).map d) base step =
      add32 (mul32 base (fp32.value (partsFrom a 63 0))) (fp32.value (mul32 step (fp32.value (fp32.round .ne false
        (Val.sum ((List.range 63).map (fun j => (Val.fin false (d (j + 1)) 0).mul (fp32.value (partsFrom a 63 (j + 1))))))).1))) := by
  have hrev : ((List.range 64).map a).reverse = a 63 :: ((List.range 63).map a).reverse := by
    rw [List.range_succ, List.map_append, List.reverse_append]
    rfl
  have hus : (((List.range 63).map a).reverse).foldl (fun (acc : List Nat) x => add32 (acc.headD 0) x :: acc) [(fp32.round .ne false (a 63)).1]
      = (List.range 64).map (partsFrom a 63) := by
    rw [foldl_partsFrom a (last := 63) (us := [(fp32.round .ne false (a 63)).1]) le_rfl (partsFrom_last a 63).symm,
      List.range_succ (n := 63), List.map_append, List.map_singleton, partsFrom_last]
  simp only [sortedGroup, hrev, List.drop_one, List.tail_cons]
  rw [hus, List.zip_map', List.range_succ_eq_map]
  simp only [List.map_cons, List.tail_cons, List.headD_cons, List.map_map, Function.comp_def, Nat.succ_eq_add_one]

end Sys2Proof.Machine
end

section
/-!
PROOFS. Leave and tile passes: what a grant counts (R156, R254), what the pass of each command comes to (R142, R148, R155, R240), and the
statement put together from that (O28).
-/

namespace Sys2Proof.Machine

/-! ## Leave (R156, R254) -/

/-- The request of an engine is granted: its wait goes to the core and to the die's controller, and its cluster has leave. -/
def State.engineGranted (s : State) (i : Nat) (k : ClusterId) (c : CoreId) : State :=
  let t : State := { s.fresh.2 with leaves := s.leaves.eraseIdx i }
  let t := t.setDie (dieOf c) { s.die (dieOf c) with pwait := (s.die (dieOf c)).pwait + Config.leaveWait s.free }
  let t := t.setCore c { s.core c with grant := (s.core c).grant + (Config.leaveWait s.free).setWidth 64 }
  t.setCluster k { s.cluster k with leave := true }

/-- The request of an engine is granted while the budget lets it. -/
theorem State.grantLeave_engine {s : State} {i : Nat} {k : ClusterId} {c : CoreId} (hi : s.leaves[i]? = some ⟨.engine k, c⟩)
    (hc : isM c = false) : s.grantLeave i = if s.leaveFits ⟨.engine k, c⟩ s.free then s.engineGranted i k c else s.fresh.2 := by
  have hfits : s.fresh.2.leaveFits ⟨.engine k, c⟩ s.fresh.1 = s.leaveFits ⟨.engine k, c⟩ s.free := rfl
  simp only [State.grantLeave, hi, hfits, hc]
  cases s.leaveFits ⟨.engine k, c⟩ s.free <;> rfl

/-! ## What a queue, an accumulator and a cluster hold after each part of a pass -/

section
variable (s : State) (k : ClusterId) (c : CoreId) (m : MCmd) (n : Nat) (v : Acc)

@[simp] theorem State.queue_setAcc : ((s.setAcc c n v).core c).queue = (s.core c).queue := by
  rw [State.setAcc, State.core_setCore]

/-- An accumulator reads what was written. -/
theorem State.accOf_setAcc (hn : n < 8) : (s.setAcc c n v).accOf c n = v := by
  rw [State.accOf, State.setAcc, State.core_setCore]
  simp [hn]

@[simp] theorem State.core_wakeAll (kind : WaitKind) (aux : Nat) (d : CoreId) : (s.wakeAll kind aux).core d = s.core d := by
  obtain ⟨ts, hts⟩ := s.wakeAll_eq kind aux
  rw [hts]
  rfl

/-- The oldest command leaves its queue. -/
theorem State.core_popCmd : (s.popCmd c).core c = { s.core c with queue := (s.core c).queue.drop 1, qhead := (s.core c).qhead + 1 } := by
  rw [State.popCmd, State.core_wakeAll, State.core_setCore]

@[simp] theorem State.queue_popCmd : ((s.popCmd c).core c).queue = (s.core c).queue.drop 1 := by rw [State.core_popCmd]

@[simp] theorem State.accOf_popCmd : (s.popCmd c).accOf c n = s.accOf c n := by rw [State.accOf, State.core_popCmd, State.accOf]

/-- The command at the head of a queue is replaced. -/
def State.setHead (s : State) (c : CoreId) (m : MCmd) : State := s.setCore c { s.core c with queue := m :: (s.core c).queue.drop 1 }

@[simp] theorem State.setHead_mem : (s.setHead c m).mem = s.mem := rfl

@[simp] theorem State.queue_setHead : ((s.setHead c m).core c).queue = m :: (s.core c).queue.drop 1 := by
  rw [State.setHead, State.core_setCore]

@[simp] theorem State.accOf_setHead : (s.setHead c m).accOf c n = s.accOf c n := by
  rw [State.accOf, State.setHead, State.core_setCore, State.accOf]

/-- The arbiter changes no core when a pass has ended. -/
@[simp] theorem State.core_nextPass (d : CoreId) : (s.nextPass k).core d = s.core d := by
  simp only [State.nextPass]
  split
  · rfl
  · split <;> rfl

@[simp] theorem State.accOf_nextPass : (s.nextPass k).accOf c n = s.accOf c n := by rw [State.accOf, State.core_nextPass, State.accOf]

/-- A fault of the engine changes no core. -/
@[simp] theorem State.core_engineFault (x : Flt) (d : CoreId) : (s.engineFault k m x).core d = s.core d := by
  simp only [State.engineFault, State.unitFault]
  split <;> rfl

@[simp] theorem State.accOf_engineFault (x : Flt) : (s.engineFault k m x).accOf c n = s.accOf c n := by
  rw [State.accOf, State.core_engineFault, State.accOf]

/-- The engine's fault has been reported after what stood with the partition's controller in the state `s`, with a code and the steps
committed, and the leave has ended. -/
def State.faultReported (s t : State) (k : ClusterId) (m : MCmd) (code : FaultCode) (progress : Nat) : Prop :=
  ∃ x, (t.halt m.part).reports = (s.halt m.part).reports ++ [x] ∧ x.agent = .engine k ∧ x.info.code = some code
    ∧ x.info.progress = BitVec.ofNat 64 progress ∧ (t.cluster k).leave = false

/-- An engine that no halt holds reports its fault. -/
theorem State.engineFault_reports {s : State} {k : ClusterId} {m : MCmd} {x : Flt} {progress : Nat}
    (hgo : s.stopped (.engine k) m.part = false) (hx : x.progress = BitVec.ofNat 64 progress) :
    s.faultReported (s.engineFault k m x) k m x.code progress := by
  have hstays : (s.setCluster k { s.cluster k with leave := false }).stopped (.engine k) m.part = false := hgo
  rw [State.engineFault, State.unitFault, if_neg (by simp [hstays])]
  refine ⟨_, State.reports_report .., rfl, rfl, hx, ?_⟩
  exact congrArg Cluster.leave (State.cluster_setCluster ..)

/-- A cleared accumulator does not change what the fill of a mailbox writes. -/
theorem State.mem_fillMailbox_setAcc (ctx : Nat) (job : Word32) (status dropped scope : Nat) :
    ((s.setAcc c n v).fillMailbox c ctx job status dropped scope).mem = (s.fillMailbox c ctx job status dropped scope).mem := by
  have hbox : (s.setAcc c n v).mailbox c (job.toNat % 32) = s.mailbox c (job.toNat % 32) := by
    rw [State.mailbox, State.setAcc, State.core_setCore, State.mailbox]
  have htakes : (s.setAcc c n v).takesWord c job = s.takesWord c job := by rw [State.takesWord, hbox, State.takesWord]
  rw [State.mem_fillMailbox, State.mem_fillMailbox, hbox, htakes]
  rfl

end

/-! ## The parts of a drain (R148) -/

section
variable (s : State) (c : CoreId) (m : MCmd)

/-- The tile of an MDRAIN has been written to the object at `a`, which is full. -/
def State.drained (s : State) (c : CoreId) (m : MCmd) (a : Nat) : State :=
  (s.poke (a + 16 + oView m.ob) (drainBytes m.fa m.sat (s.accOf c m.acc).tile)).setStaged a 2

@[simp] theorem State.core_drained (a : Nat) (d : CoreId) : (s.drained c m a).core d = s.core d := by
  simp only [State.drained, State.setStaged]
  split <;> rfl

@[simp] theorem State.accOf_drained (a n : Nat) : (s.drained c m a).accOf c n = s.accOf c n := by
  rw [State.accOf, State.core_drained, State.accOf]

@[simp] theorem State.part_drained (a p : Nat) : (s.drained c m a).part p = s.part p := by
  simp only [State.drained, State.setStaged]
  split <;> rfl

/-- The accumulator of an MDRAIN with `.clr` has been zeroed. -/
def State.cleared (s : State) (c : CoreId) (m : MCmd) : State := if m.clr then s.setAcc c m.acc ⟨[], [], 0, false⟩ else s

@[simp] theorem State.queue_cleared : ((s.cleared c m).core c).queue = (s.core c).queue := by
  rw [State.cleared]
  split
  · exact s.queue_setAcc ..
  · rfl

theorem State.accOf_cleared (hacc : m.acc < 8) :
    (s.cleared c m).accOf c m.acc = if m.clr then ⟨[], [], 0, false⟩ else s.accOf c m.acc := by
  rw [State.cleared]
  split
  · exact s.accOf_setAcc c _ _ hacc
  · rfl

@[simp] theorem State.part_cleared (p : Nat) : (s.cleared c m).part p = s.part p := by
  rw [State.cleared]
  split <;> rfl

@[simp] theorem State.mem_fillMailbox_cleared (ctx : Nat) (job : Word32) (status dropped scope : Nat) :
    ((s.cleared c m).fillMailbox c ctx job status dropped scope).mem = (s.fillMailbox c ctx job status dropped scope).mem := by
  rw [State.cleared]
  split
  · exact s.mem_fillMailbox_setAcc ..
  · rfl

@[simp] theorem State.queue_fillMailbox (ctx : Nat) (job : Word32) (status dropped scope : Nat) :
    ((s.fillMailbox c ctx job status dropped scope).core c).queue = (s.core c).queue :=
  State.core_fillMailbox Core.queue (fun _ _ => rfl) ..

@[simp] theorem State.accOf_fillMailbox (ctx : Nat) (job : Word32) (status dropped scope n : Nat) :
    (s.fillMailbox c ctx job status dropped scope).accOf c n = s.accOf c n :=
  State.core_fillMailbox (fun x => x.acc[n]?.getD ⟨[], [], 0, false⟩) (fun _ _ => rfl) ..

end

/-! ## The pass of each command (R142, R148, R155) -/

section
variable {s : State} {k : ClusterId} {c : CoreId} {m : MCmd} {rest : List MCmd}

section
variable (hq : (s.core (firstCore k + (s.cluster k).queue)).queue = m :: rest) (hleave : (s.cluster k).leave = true)
  (hgo : s.stopped (.engine k) m.part = false)
include hq hleave hgo

/-- A command whose traffic the routers do not let through ends the pass (R223). -/
theorem State.tilePass_refused {x : Flt} (hx : s.cmdRefused k m = some x) :
    s.tilePass k = s.engineFault k m { x with progress := BitVec.ofNat 64 m.done } := by
  simp only [State.tilePass, hq, hleave, hgo, hx]
  rfl

/-- A command that the routers let through and that waits for nothing runs. -/
theorem State.tilePass_runs (hpass : s.cmdRefused k m = none) (hwait : s.cmdWait m = none) :
    s.tilePass k = s.runPass k (firstCore k + (s.cluster k).queue) m := by
  simp only [State.tilePass, hq, hleave, hgo, hpass, hwait]
  rfl

end

/-- The routers refuse with `remote-permission`. -/
theorem State.code_of_cmdRefused {x : Flt} (hx : s.cmdRefused k m = some x) : x.code = .remotePermission := by
  obtain ⟨r, _, rfl⟩ := Option.map_eq_some_iff.mp hx
  rfl

/-- An entry that cannot be read runs nothing. -/
theorem State.runPass_struck (hbad : m.bad = true) : s.runPass k c m = s.engineFault k m
    { code := .uncorrectable, offset := BitVec.ofNat 64 (queueAddr c (s.core c).qhead.toNat), progress := BitVec.ofNat 64 m.done } :=
  if_pos hbad

variable (hgood : m.bad = false)
include hgood

/-- MZERO zeroes its accumulator. -/
theorem State.runPass_mzero (hkind : m.kind = .mzero) :
    s.runPass k c m = ((s.setAcc c m.acc ⟨[], [], 0, false⟩).popCmd c).nextPass k := by
  simp only [State.runPass, hgood, hkind]
  rfl

/-- MDRAIN writes its destination, makes it full and fills its mailbox. -/
theorem State.runPass_mdrain {a : Nat} (hkind : m.kind = .mdrain) (hopen : hSealed (s.peekWord a) = false) (hacc : (s.accOf c m.acc).bad = false)
    (hplace : s.placeReg m.part m.ob (drainBytes m.fa m.sat (s.accOf c m.acc).tile).length = .ok a) :
    s.runPass k c m = ((((s.drained c m a).cleared c m).fillMailbox c (s.part m.part).ctx m.job 1 0
      (fillScope (dieOf c) (some k) (oCanon m.ob) a)).popCmd c).nextPass k := by
  rw [← s.part_drained c m a, ← State.part_cleared _ c m]
  simp only [State.runPass, hgood, hkind, State.runDrain, hplace, hacc, hopen]
  rfl

section
variable {pl : Placed} {r : Pass} (hkind : m.kind = .mma ∨ m.kind = .msbp) (hplace : s.placeCmd m = .ok pl)
  (hr : s.runSteps c m pl (min 4 (m.steps - m.done)) m.done (s.accOf c m.acc) = r)
include hkind hplace hr

/-- A pass of a product keeps what its steps committed. -/
theorem State.runPass_product : s.runPass k c m = match r.fault with
    | some f => ((s.setAcc c m.acc r.acc).setHead c { m with done := r.next }).engineFault k { m with done := r.next }
        { f with progress := BitVec.ofNat 64 r.next }
    | none => (if m.steps ≤ r.next then (s.setAcc c m.acc r.acc).popCmd c
        else (s.setAcc c m.acc r.acc).setHead c { m with done := r.next }).nextPass k := by
  subst hr
  rcases hkind with hkind | hkind <;> simp only [State.runPass, hgood, hkind, State.runProduct, hplace] <;> rfl

/-- After its last step the command leaves the queue. -/
theorem State.runPass_ends (hok : r.fault = none) (hlast : m.steps ≤ r.next) :
    s.runPass k c m = ((s.setAcc c m.acc r.acc).popCmd c).nextPass k := by
  rw [State.runPass_product hgood hkind hplace hr, hok]
  exact congrArg (State.nextPass · k) (if_pos hlast)

/-- Before it the command stays at the head, with the steps committed. -/
theorem State.runPass_goesOn (hok : r.fault = none) (hmore : r.next < m.steps) :
    s.runPass k c m = ((s.setAcc c m.acc r.acc).setHead c { m with done := r.next }).nextPass k := by
  rw [State.runPass_product hgood hkind hplace hr, hok]
  exact congrArg (State.nextPass · k) (if_neg (Nat.not_le.mpr hmore))

/-- So it does at a step that faults. -/
theorem State.runPass_faults {x : Flt} (hx : r.fault = some x) :
    s.runPass k c m = ((s.setAcc c m.acc r.acc).setHead c { m with done := r.next }).engineFault k { m with done := r.next }
      { x with progress := BitVec.ofNat 64 r.next } := by
  rw [State.runPass_product hgood hkind hplace hr, hx]

end

end

/-! ## The statement -/

/-- A pass that runs is what TILE_PASS comes to. -/
theorem exec_tilePass {s t : State} {k : ClusterId} (h : s.tilePass k = t) : exec (.tilePass k) s = .next t := congrArg Host.Outcome.next h

/-- Settles O28: leave by its grant, the pass of each command by its equation, and the sums of a step by the element that they are added to. -/
theorem tilePassesAddKSteps : Obligations.TilePassesAddKSteps := by
  refine ⟨?passes, ?steps⟩
  case passes =>
    intro s k m rest c acc r reports
    refine ⟨fun i hi hc => ?leave, fun hq hleave hgo hacc => ?pass⟩
    case leave =>
      refine ⟨s.grantLeave i, rfl, s.grantLeave_mem i, ?_⟩
      rw [State.grantLeave_engine hi hc]
      split
      · exact ⟨congrArg Cluster.leave (State.cluster_setCluster ..), rfl, congrArg Core.grant (State.core_setCore ..),
          congrArg Die.pwait (State.die_setDie ..)⟩
      · rfl
    case pass =>
      have hqueue : (s.core c).queue.drop 1 = rest := by rw [hq]; rfl
      refine ⟨fun x hx => ?refused, fun hpass hwait => ?runs⟩
      case refused =>
        refine ⟨_, exec_tilePass (State.tilePass_refused hq hleave hgo hx), by rw [State.core_engineFault]; exact hq,
          State.engineFault_mem .., ?_⟩
        rw [← State.code_of_cmdRefused hx]
        exact State.engineFault_reports hgo rfl
      case runs =>
        have runs {t : State} (ht : s.runPass k c m = t) : exec (.tilePass k) s = .next t :=
          exec_tilePass ((State.tilePass_runs hq hleave hgo hpass hwait).trans ht)
        refine ⟨fun hbad => ?struck, fun hgood => ⟨fun hkind => ?mzero, fun pl hkind hplace hok hlast => ?ends,
          fun pl hkind hplace hok hmore => ?goesOn, fun pl x hkind hplace hx => ?faults, fun a hkind hopen haccGood hplace => ?mdrain⟩⟩
        case struck =>
          exact ⟨_, runs (State.runPass_struck hbad), by rw [State.core_engineFault]; exact hq, State.engineFault_mem ..,
            State.engineFault_reports hgo rfl⟩
        case mzero =>
          refine ⟨_, runs (State.runPass_mzero hgood hkind), ?_, ?_, ?_⟩
          · rw [State.accOf_nextPass, State.accOf_popCmd, State.accOf_setAcc _ _ _ _ hacc]
          · rw [State.core_nextPass, State.queue_popCmd, State.queue_setAcc, hqueue]
          · rw [State.nextPass_mem, State.popCmd_mem, State.setAcc_mem]
        case ends =>
          refine ⟨_, runs (State.runPass_ends hgood hkind hplace rfl hok hlast), ?_, ?_, ?_⟩
          · rw [State.core_nextPass, State.queue_popCmd, State.queue_setAcc, hqueue]
          · rw [State.nextPass_mem, State.popCmd_mem, State.setAcc_mem]
          · rw [State.accOf_nextPass, State.accOf_popCmd, State.accOf_setAcc _ _ _ _ hacc]
        case goesOn =>
          refine ⟨_, runs (State.runPass_goesOn hgood hkind hplace rfl hok hmore), ?_, ?_, ?_⟩
          · rw [State.core_nextPass, State.queue_setHead, State.queue_setAcc, hqueue]
          · rw [State.nextPass_mem, State.setHead_mem, State.setAcc_mem]
          · rw [State.accOf_nextPass, State.accOf_setHead, State.accOf_setAcc _ _ _ _ hacc]
        case faults =>
          refine ⟨_, runs (State.runPass_faults hgood hkind hplace rfl hx), ?_, ?_, ?_, ?_⟩
          · rw [State.core_engineFault, State.queue_setHead, State.queue_setAcc, hqueue]
          · rw [State.engineFault_mem, State.setHead_mem, State.setAcc_mem]
          · rw [State.accOf_engineFault, State.accOf_setHead, State.accOf_setAcc _ _ _ _ hacc]
          · exact State.engineFault_reports (s := (s.setAcc c m.acc (r pl).acc).setHead c { m with done := (r pl).next })
              (m := { m with done := (r pl).next }) hgo rfl
        case mdrain =>
          refine ⟨_, runs (State.runPass_mdrain hgood hkind hopen haccGood hplace), ?_, ?_, ?_⟩
          · rw [State.core_nextPass, State.queue_popCmd, State.queue_fillMailbox, State.queue_cleared, State.core_drained, hqueue]
          · rw [State.nextPass_mem, State.popCmd_mem, State.mem_fillMailbox_cleared, State.drained]
          · rw [State.accOf_nextPass, State.accOf_popCmd, State.accOf_fillMailbox, State.accOf_cleared _ _ _ hacc, State.accOf_drained]
  case steps =>
    intro s m pl acc t i c hi hc k0 row col products old new
    refine ⟨fun core n hgood hclean => State.runSteps_clean hgood hclean, fun core n x hgood hx => State.runSteps_poisoned hgood hx, rfl, rfl, rfl,
      fun hkind hscaled => State.kStepRun_dense hkind hi hc hscaled, fun hkind hscaled => State.kStepRun_scaled hkind hi hc hscaled,
      fun hkind hfb => ?codes, fun tb ta rb ra hkind hfb htab hsb => ?sorted, fun a d base step => ?parts⟩
    case codes =>
      refine (State.kStepRun_msbp hkind hi hc).trans ?_
      simp only [State.groupSum_codes hfb]
      rfl
    case sorted =>
      refine (State.kStepRun_msbp hkind hi hc).trans ?_
      simp only [State.groupSum_sorted hfb htab hsb]
      rfl
    case parts =>
      exact ⟨partsFrom a 63, partsFrom_last a 63, fun j hj => partsFrom_step a hj, sortedGroup_eq a d base step⟩

end Sys2Proof.Machine
end

section
/-!
PROOFS. The mailbox's word of a near-bank job that ends (R163, R186), and the refutation of O29.
-/

open Sys2Proof.Claims

namespace Sys2Proof.Machine

/-! ## The status that a fill writes (R186) -/

/-- The first byte of a word of dropped count, sequence number and status is the status. -/
theorem leBytes_boxWord (dropped seq status : Nat) :
    (leBytes 8 (BitVec.ofNat 64 (dropped * 2 ^ 32 + seq * 256 + status)).toNat)[0]? = some (BitVec.ofNat 8 status) := by
  have hbyte : BitVec.ofNat 8 (BitVec.ofNat 64 (dropped * 2 ^ 32 + seq * 256 + status)).toNat = BitVec.ofNat 8 status := by
    apply BitVec.eq_of_toNat_eq
    simp only [BitVec.toNat_ofNat]
    omega
  simpa [leBytes] using hbyte

/-- A fill for a context that is in writes its status to the first byte of a mailbox that takes its word. -/
theorem State.read_fillBox_status {s : State} {p ctx : Nat} {c : CoreId} {job : Word32} (hm : Canonical s.mem) (hruns : s.runs p ctx = true)
    (htakes : s.takesWord c job = true) (status dropped scope : Nat) :
    (s.fillBox p ctx c job status dropped scope).mem.read (s.boxAddr c ctx (job.toNat % 32)) = BitVec.ofNat 8 status := by
  rw [State.fillBox, if_pos hruns, State.mem_fillMailbox, if_pos htakes]
  have hfirst := leBytes_boxWord (min dropped 0xFFFFFFFF) (s.mailbox c (job.toNat % 32)).seq.toNat status
  rw [List.getElem?_eq_some_iff] at hfirst
  obtain ⟨hlen, hfirst⟩ := hfirst
  exact (Memory.read_writeN_inside hm _ _ hlen).trans hfirst

/-! ## What a job has written when it fills its mailbox (R161, R163) -/

/-- The results of a job at its addresses, in the order of its result object. -/
def State.nearResults (s : State) (j : NbJob) (wa aa : Nat) : List Byte :=
  (List.range (j.m * j.n)).flatMap (fun e =>
    leBytes 4 (s.nbElement j wa aa (Codebook.make (shapeOf (s.engineRead wa j.oa 0 64)).codebook) (e / j.n) (e % j.n)))

/-- The state with a job's results written, its result object full where it is staged. -/
def State.nearWritten (s : State) (j : NbJob) (wa aa ca : Nat) : State :=
  (s.poke (ca + 16 + oView j.oc) (s.nearResults j wa aa)).setStaged ca 2

section
variable {s : State} {j : NbJob} {wa aa ca : Nat}

/-- Writing the results changes only memory and its struck blocks. -/
theorem State.nearWritten_eq : ∃ m ps, s.nearWritten j wa aa ca = { s with mem := m, poison := ps } := by
  simp only [State.nearWritten, State.setStaged]
  split <;> exact ⟨_, _, rfl⟩

theorem State.nearWritten_canonical (hm : Canonical s.mem) : Canonical (s.nearWritten j wa aa ca).mem :=
  State.setStaged_wf _ _ _ (poke_canon hm ..)

/-- A job whose context is in and whose mailbox takes its word leaves its status there, whatever its results are. -/
theorem State.read_nearWritten_fillBox (hm : Canonical s.mem) (hruns : s.runs j.part j.ctx = true) (htakes : s.takesWord j.core j.job = true)
    (status dropped scope : Nat) : ((s.nearWritten j wa aa ca).fillBox j.part j.ctx j.core j.job status dropped scope).mem.read
      (s.boxAddr j.core j.ctx (j.job.toNat % 32)) = BitVec.ofNat 8 status := by
  have hcanon : Canonical (s.nearWritten j wa aa ca).mem := State.nearWritten_canonical hm
  obtain ⟨m, ps, hw⟩ := s.nearWritten_eq (j := j) (wa := wa) (aa := aa) (ca := ca)
  rw [hw] at hcanon ⊢
  exact State.read_fillBox_status hcanon hruns htakes ..

end

/-! ## The counterexample -/

/-- NBMV of one activation vector against weights of format 2: it reads o1 and o2, writes o3 and has its job id in x9. -/
def nearNbmv : Fields := { form := .f2, x := 2, d := 9, a := 1, b := 2, c := 3 }

/-- The task that issues it, on core 0: 256 weights in stack 0, 256 activations and one result in the pad of core 0. -/
def nearTask : Task :=
  let t := { Task.empty with status := .ready, tid := 1, width := 3 }
  let t := t.setO 1 (oMake false false 0 320 (heapPtr 1 0))
  let t := t.setO 2 (oMake false false 0 512 (padPtr (.core 0) 0x1000))
  t.setO 3 (oMake false false 0 16 (padPtr (.core 0) 0x2000))

/-- The state in which NBMV issues: the weights are sealed and bank-spread, their prefix gives K = 256, N = 1 and format 2, and all weights and
activations are zero. -/
def nearBefore : State :=
  let s : State := { State.reset with
    tasks := [(0, nearTask)], regions := [(1, 0x8000000000000000)]
    parts := [(0, { Partition.initial with configured := true, member := 1 })] }
  let s := s.pokeWord (stackAddr 0 0) (newHeader 320 0 false true ||| (1#64 <<< 41))
  let s := (s.pokeWord (stackAddr 0 16) 0x10000000001).pokeWord (stackAddr 0 24) 2
  let s := s.pokeWord (padPtr (.core 0) 0x1000).toNat (newHeader 512 0 false false)
  s.pokeWord (padPtr (.core 0) 0x2000).toNat (newHeader 16 0 false false)

/-- The state that the NBMV and then the start of its job lead to. -/
def nearStarted : State := (issue .nbmv nearNbmv (nbmvBody nearNbmv) nearBefore).nbStart 0

/-- The job that has started: it holds mailbox 0 of core 0, which it fills at its end. -/
def nearJob : NbJob :=
  { job := 0x140, core := 0, tid := 1, part := 0, ctx := 0, launch := none, tenant := 0
    oa := nearTask.getO 1, ob := nearTask.getO 2, oc := nearTask.getO 3, m := 1, fmt := 2, n := 1, k := 256, started := true, waitsLeave := false }

/-- The model reaches the state by an NBMV that issues and by NBMV_JOB_START. -/
theorem nearStarted_reached : nearBefore.issues .nbmv nearNbmv = true ∧ ∃ t, exec (.nbmv nearNbmv) nearBefore = .next t
    ∧ exec (.nbmvJobStart 0) t = .next nearStarted :=
  ⟨by decide +kernel, _, rfl, rfl⟩

/-- The state with its results written, before the mailbox is filled. -/
def nearEnd : State := nearStarted.nearWritten nearJob (stackAddr 0 0) (padPtr (.core 0) 0x1000).toNat (padPtr (.core 0) 0x2000).toNat

/-- The stack is at the job, whose operands it reaches without waiting. -/
theorem nearStarted_ready : nearStarted.nearAt 0 = some nearJob ∧ [(nearJob.oa, 64 + nearJob.weights), (nearJob.ob, 2 * nearJob.m * nearJob.k),
      (nearJob.oc, 4 * nearJob.m * nearJob.n)].any (fun r => nearStarted.engineWaits nearJob.part (oCanon r.1) (16 + oView r.1 + r.2)) = false
    ∧ nearStarted.nearPlaces nearJob = .ok (stackAddr 0 0, (padPtr (.core 0) 0x1000).toNat, (padPtr (.core 0) 0x2000).toNat) := by
  decide +kernel

/-- The context of the job is in and its mailbox takes its word, whose first byte is zero while only the results are written. -/
theorem nearStarted_box : Canonical nearStarted.mem ∧ nearStarted.runs nearJob.part nearJob.ctx = true
    ∧ nearStarted.takesWord nearJob.core nearJob.job = true
    ∧ nearEnd.mem.read (nearStarted.boxAddr nearJob.core nearJob.ctx (nearJob.job.toNat % 32)) = 0 := by
  unfold Canonical
  decide +kernel

/-- Refutes O29: its last clause has the memory after the fill of the job's mailbox equal the memory before it. The mailboxes of compute cores are
words in memory (R186), so that the fill of one whose task is there writes the job's status: the byte that was 0 reads 1. Only that clause is
refuted here. -/
theorem not_nearBankJobsComputeTheirProduct : ¬ Obligations.NearBankJobsComputeTheirProduct := by
  rintro ⟨-, hjobs⟩
  obtain ⟨hat, hwaits, hplaces⟩ := nearStarted_ready
  obtain ⟨hcanon, hruns, htakes, hzero⟩ := nearStarted_box
  obtain ⟨-, -, hends⟩ := hjobs nearStarted 0 nearJob hat
  obtain ⟨u, -, hfilled, hmem⟩ := hends _ _ _ rfl hwaits hplaces
  have hsame : u.mem = nearEnd.mem := hmem
  have hone : u.mem.read (nearStarted.boxAddr nearJob.core nearJob.ctx (nearJob.job.toNat % 32)) = BitVec.ofNat 8 1 := by
    rw [hfilled]
    exact State.read_nearWritten_fillBox hcanon hruns htakes ..
  rw [hsame, hzero] at hone
  exact absurd hone (by decide)

end Sys2Proof.Machine
end

section
/-!
PROOFS. The classes of tiles (R166, R170): what a class promises of a pair, for a literal, a term and a program, and the statement put together
from that (O30).
-/

namespace Sys2Proof.Machine

/-! ## What a class promises of one pair -/

/-- A class agrees with a test's outcome at a pair of its tile: all-true where the test holds, none where it fails. -/
def Truth.agrees (c : Truth) (v : Bool) : Prop := (c = .all → v = true) ∧ (c = .none → v = false)

/-- A class that is all-true only where the test holds, and none only where it fails, agrees with it. -/
theorem Truth.agrees_ite {a b v : Bool} (ha : a = true → v = true) (hb : b = true → v = false) :
    (if a then Truth.all else if b then .none else .mixed).agrees v := by
  cases a with
  | true => exact ⟨fun _ => ha rfl, nofun⟩
  | false =>
    cases b with
    | true => exact ⟨nofun, fun _ => hb rfl⟩
    | false => exact ⟨nofun, nofun⟩

/-- A negated literal swaps the classes as it swaps the outcomes. -/
theorem Truth.agrees_neg {c : Truth} {v : Bool} (h : c.agrees v) (neg : Bool) : (if neg then c.flip else c).agrees (neg ^^ v) := by
  obtain ⟨hall, hnone⟩ := h
  cases neg with
  | false => exact ⟨by simpa using hall, by simpa using hnone⟩
  | true => cases c <;> simp_all [Truth.agrees, Truth.flip]

/-- The class of an interval agrees with the test of each number in it. -/
theorem spanTruth_agrees {a b x : Int} (lo hi : Int) (ha : a ≤ x) (hb : x ≤ b) :
    (spanTruth a b lo hi).agrees (decide (lo ≤ x) && decide (x ≤ hi)) := by
  refine Truth.agrees_ite (fun hin => ?_) (fun hout => ?_)
  · simp at hin ⊢
    omega
  · simp at hout ⊢
    omega

/-! ## Documents (R166) -/

/-- A larger bound takes no fewer numbers from the front of a list. -/
theorem length_takeWhile_le_mono {x y : Nat} (h : x ≤ y) (l : List Nat) :
    (l.takeWhile (· ≤ x)).length ≤ (l.takeWhile (· ≤ y)).length := by
  induction l with
  | nil => exact Nat.le_refl _
  | cons a l ih =>
    by_cases hx : a ≤ x
    · simpa [hx, hx.trans h] using ih
    · simp [hx]

/-- Documents rise with positions, whatever the start vector holds. -/
theorem MaskProg.doc_mono (p : MaskProg) {x y : Nat} (h : x ≤ y) : p.doc x ≤ p.doc y :=
  Nat.sub_le_sub_right (length_takeWhile_le_mono h p.starts) 1

/-- A tile whose class of DOC is all-true has its keys in one document. -/
theorem MaskProg.doc_eq_of_docTruth (p : MaskProg) {q0 k0 : Nat} (h : p.docTruth q0 k0 = .all) : p.doc k0 = p.doc (k0 + 63) := by
  unfold MaskProg.docTruth at h
  dsimp only at h
  split at h
  · next hone =>
    simp at hone
    exact hone.2
  · split at h <;> exact nomatch h

/-! ## Literals, terms and programs (R166, R170) -/

section
variable (p : MaskProg) {q0 k0 q k : Nat} (hq : q0 ≤ q) (hq' : q ≤ q0 + 63) (hk : k0 ≤ k) (hk' : k ≤ k0 + 63)

include hq hq' hk hk' in
/-- The class of DOC agrees with the test that a pair lies in one document. -/
theorem MaskProg.docTruth_agrees : (p.docTruth q0 k0).agrees (p.doc k == p.doc q) := by
  have hdq := p.doc_mono hq
  have hdq' := p.doc_mono hq'
  have hdk := p.doc_mono hk
  have hdk' := p.doc_mono hk'
  refine Truth.agrees_ite (fun hone => ?_) (fun hapart => ?_)
  · simp at hone ⊢
    omega
  · simp at hapart ⊢
    omega

include hq hq' hk hk' in
/-- The keys of a tile in one document lie no farther from the document's start than its last key. -/
theorem MaskProg.docSpan_near {hi : Int} (hdoc : p.docTruth q0 k0 = .all) (hlast : (k0 : Int) + 63 - p.start (p.doc k0) ≤ hi) :
    (p.doc k == p.doc q && decide ((k : Int) - p.start (p.doc q) ≤ hi)) = true := by
  have hsame : p.doc k = p.doc q := by simpa using (p.docTruth_agrees hq hq' hk hk').1 hdoc
  have hfirst : p.doc k0 = p.doc q := by
    have hone := p.doc_eq_of_docTruth hdoc
    have hle := p.doc_mono hk
    have hle' := p.doc_mono hk'
    omega
  rw [hfirst] at hlast
  simp [hsame]
  omega

include hk hk' in
/-- The keys of a tile in one document lie no nearer to the document's start than its first key. -/
theorem MaskProg.docSpan_far {hi : Int} (hone : p.doc k0 = p.doc (k0 + 63)) (hfirst : hi < (k0 : Int) - p.start (p.doc k0)) :
    (p.doc k == p.doc q && decide ((k : Int) - p.start (p.doc q) ≤ hi)) = false := by
  rw [Bool.and_eq_false_imp]
  intro hsame
  have hdoc : p.doc k0 = p.doc q := by
    have hle := p.doc_mono hk
    have hle' := p.doc_mono hk'
    rw [beq_iff_eq] at hsame
    omega
  rw [hdoc] at hfirst
  simp
  omega

include hq hq' hk hk'

/-- The class of a literal agrees with it. -/
theorem MaskProg.litTile_agrees (l : MaskLit) : (p.litTile l q0 k0).agrees (p.litTrue l q k) := by
  unfold MaskProg.litTile MaskProg.litTrue
  refine Truth.agrees_neg ?_ l.neg
  generalize l.op.toNat = op
  match op with
  | 0 => exact spanTruth_agrees _ _ (by omega) (by omega)
  | 1 => exact spanTruth_agrees _ _ (by omega) (by omega)
  | 2 => exact spanTruth_agrees _ _ (by omega) (by omega)
  | 3 => exact p.docTruth_agrees hq hq' hk hk'
  | _ + 4 =>
    refine Truth.agrees_ite (fun hnear => ?_) (fun hfar => ?_)
    · simp only [Bool.and_eq_true, beq_iff_eq, decide_eq_true_eq] at hnear
      obtain ⟨hdoc, hlast⟩ := hnear
      exact p.docSpan_near hq hq' hk hk' hdoc hlast
    · simp only [Bool.or_eq_true, Bool.and_eq_true, beq_iff_eq, decide_eq_true_eq] at hfar
      obtain hdoc | ⟨hone, hfirst⟩ := hfar
      · exact Bool.and_eq_false_iff.mpr (.inl ((p.docTruth_agrees hq hq' hk hk').2 hdoc))
      · exact p.docSpan_far hk hk' hone hfirst

/-- The class of a term agrees with the conjunction of its literals. -/
theorem MaskProg.termTile_agrees (n : Nat) : (p.termTile n q0 k0).agrees ((p.term n).all (fun l => p.litTrue l q k)) := by
  have hlit := p.litTile_agrees hq hq' hk hk'
  refine Truth.agrees_ite (fun hall => List.all_eq_true.mpr fun l hl => (hlit l).1 ?_) (fun hany => List.all_eq_false.mpr ?_)
  · simpa using List.all_eq_true.mp hall _ (List.mem_map_of_mem hl)
  · obtain ⟨c, hc, hnone⟩ := List.any_eq_true.mp hany
    obtain ⟨l, hl, rfl⟩ := List.mem_map.mp hc
    exact ⟨l, hl, by simp [(hlit l).2 (by simpa using hnone)]⟩

/-- The class of a program, as 2 for full and 0 for empty, agrees with what a pair's visibility is. -/
theorem MaskProg.classify_agrees :
    (p.classify q0 k0 = 2 → p.visible q k = true) ∧ (p.classify q0 k0 = 0 → p.visible q k = false) := by
  have hterm := p.termTile_agrees hq hq' hk hk'
  unfold MaskProg.classify MaskProg.visible
  dsimp only
  split
  · next hfull =>
    refine ⟨fun _ => List.any_eq_true.mpr ?_, nofun⟩
    obtain ⟨c, hc, hall⟩ := List.any_eq_true.mp hfull
    obtain ⟨n, hn, rfl⟩ := List.mem_map.mp hc
    exact ⟨n, hn, (hterm n).1 (by simpa using hall)⟩
  · split
    · next hempty =>
      refine ⟨nofun, fun _ => List.any_eq_false.mpr fun n hn => ?_⟩
      have hnone := List.all_eq_true.mp hempty _ (List.mem_map_of_mem hn)
      simp [(hterm n).2 (by simpa using hnone)]
    · exact ⟨nofun, nofun⟩

end

/-- Settles O30: every pair of the tile lies in the intervals that its class was computed from. -/
theorem tileClassesAreSound : Obligations.TileClassesAreSound := by
  intro p q k i j hi hj
  exact p.classify_agrees (by omega) (by omega) (by omega) (by omega)

end Sys2Proof.Machine
end

section
/-!
PROOFS. Attention: AGX tile by tile (R177, R178), MKLD, MKCLS, MKAPP and MKCNT (R169 to R173), and the statement put together from that (O19).
-/

namespace Sys2Proof.Machine

/-! ## Parts of an instruction that succeed -/

/-- A chain succeeds when its first part does and what follows it does. -/
theorem act_bind_eq_ok {α β : Type} {x : Act α} {g : α → Act β} {b : β} (h : x >>= g = .ok b) : ∃ a, x = .ok a ∧ g a = .ok b := by
  cases x with
  | error r => exact nomatch h
  | ok a => exact ⟨a, rfl, h⟩

/-! ## AGX (R177, R178) -/

section
variable {f : Fields} {s s1 s2 : State} {g g' : AgxJob}

/-- A query tile that is expanded counts its nodes, and the next one follows. -/
theorem AgxJob.expand_counts (h : g.expand s = .ok (g', s2)) : g'.tile = g.tile + 1 ∧ g'.made = g.made + g.live + 1 := by
  unfold AgxJob.expand at h
  dsimp only at h
  split at h
  · cases h
    exact ⟨rfl, rfl⟩
  · obtain ⟨u, -, h⟩ := act_bind_eq_ok h
    cases h
    exact ⟨rfl, rfl⟩

/-- An AGX that has passed its tests for room expands its tile. -/
theorem AgxJob.run_counts (h : AgxJob.run f g s = .ok (g', s2)) : g'.tile = g.tile + 1 ∧ g'.made = g.made + g.live + 1 := by
  obtain ⟨-, -, h⟩ := act_bind_eq_ok h
  obtain ⟨-, -, h⟩ := act_bind_eq_ok h
  exact AgxJob.expand_counts h

/-- AGX comes to its query tile in the state `s1` with the expansion `g`: one that it goes on with, or one that it starts after the task's
own accesses to its record. -/
def AgxReaches (f : Fields) (s s1 : State) (g : AgxJob) : Prop :=
  (s.me.agx = some g ∧ g.pc = s.me.pc ∧ s1 = s)
    ∨ (s.me.agx = none ∧ releasedHome s (s.homeAt (oCanon (s.me.getO f.a))) = .ok s1 ∧ agxStart f s1 = .ok g)

/-- AGX once its query tile is expanded: it goes on with the next one, or frees its templates and ends. -/
def agxEnd (f : Fields) (g : AgxJob) (s : State) : Res :=
  if g.tile < g.stop then .retry (s.setMe { s.me with agx := some g })
  else
    let d := dieOf s.myCore
    let s := (s.freeNode d (g.compute.toNat % 65536)).freeNode d (g.merge.toNat % 65536)
    .ok ((s.setMe { s.me with agx := none }).deferX f.d (BitVec.ofNat 64 g.made))

theorem agxBody_ends (hreach : AgxReaches f s s1 g) (hrun : AgxJob.run f g s1 = .ok (g', s2)) : agxBody f s = agxEnd f g' s2 := by
  unfold agxEnd
  rcases hreach with ⟨hgoing, hpc, rfl⟩ | ⟨hnew, hrel, hstart⟩
  · simp only [agxBody, hgoing, hpc, Option.filter_some, beq_self_eq_true, if_true, Option.isSome_some, pure, Except.pure, act_bind_ok, hrun]
    split <;> rfl
  · simp only [agxBody, hnew, Option.filter_none, Option.isSome_none, Bool.false_eq_true, if_false, hrel, act_bind_ok, hstart, hrun]
    split <;> rfl

end

/-! ## Mask slots and positions (R169, R171, R172) -/

/-- A slot that holds a program gives it. -/
theorem needMask_some {s : State} {one : Bool} {p : MaskProg} (h : ((s.core s.myCore).maskSlot one).prog = some p) :
    needMask s one = .ok p := by
  simp only [needMask, h]

/-- A position from 0 to its bound is taken as it is. -/
theorem needPosition_ok {s : State} {v : Word64} {top : Nat} (h : v.toNat ≤ top) (htop : top < 2 ^ 63) :
    needPosition s v top = .ok v.toNat := by
  have hint : v.toInt = v.toNat := BitVec.toInt_eq_toNat_of_lt (by omega)
  rw [needPosition, need_ok (by simp [hint, h])]
  rfl

/-- The slot that is replaced holds the new contents. -/
@[simp] theorem Core.maskSlot_setMaskSlot (c : Core) (one : Bool) (v : MaskSlot) : (c.setMaskSlot one v).maskSlot one = v := by
  cases one <;> rfl

/-! ## MKLD and MKCLS (R169, R171) -/

section
variable {f : Fields} {s : State} {p : MaskProg}

/-- MKLD without a start vector, its checks passed, defers the program that it reads into its slot. -/
theorem mkldBody_defers {a : Nat} {h : Word64} {s' : State} {bs : List Byte} (hb : f.b = 0) (hptr : checkPtr s (s.me.getO f.a) = .ok ())
    (hhead : header s (oCanon (s.me.getO f.a)) = .ok (a, h)) (hkind : hKind h = 6) (hcheck : check s (s.me.getO f.a) 0 16 8 = .ok ())
    (hrel : releasedHome s (s.homeAt (oCanon (s.me.getO f.a))) = .ok s')
    (hread : readCanon s' (s.me.getO f.a) 0 (min (oLen (s.me.getO f.a)) 208) = .ok bs) (hparse : parseMask bs [0] = .ok p) :
    mkldBody f s = .ok (s'.defer { dest := .mask (f.x.getLsbD 0) p }) := by
  have hstarts : startsOf [0] = [0] := by decide
  simp only [mkldBody, hb, hptr, hhead, act_bind_ok]
  rw [needKind_ok (by simp [hkind]), act_bind_ok, hcheck, act_bind_ok]
  simp only [bne_self_eq_false, Bool.false_eq_true, if_false, if_true, pure, Except.pure, act_bind_ok, hrel, hread, hstarts, hparse]
  rfl

/-- MKCLS of a slot with a program and a lawful tile counts and defers the tile's class. -/
theorem mkclsBody_counts (hprog : ((s.core s.myCore).maskSlot (f.x.getLsbD 0)).prog = some p) (hq : (s.me.getX f.a).toNat ≤ 2 ^ 24 - 64)
    (hk : (s.me.getX f.b).toNat ≤ 2 ^ 24 - 64) :
    let cls := p.classify (s.me.getX f.a).toNat (s.me.getX f.b).toNat
    mkclsBody f s = .ok ((s.countTiles (f.x.getLsbD 0) cls 1).deferX f.d (BitVec.ofNat 64 cls)) := by
  have hposition {v : Word64} (h : v.toNat ≤ 2 ^ 24 - 64) : needPosition s v (2 ^ 24 - 64) = .ok v.toNat := needPosition_ok h (by decide)
  simp only [mkclsBody, needMask_some hprog, act_bind_ok, hposition hq, hposition hk]
  rfl

/-! ## MKAPP (R172) -/

/-- The checks of MKAPP pass for a slot with a program, a query below 2^24 and keys that end by 2^24. -/
theorem mkappChecks_ok (hprog : ((s.core s.myCore).maskSlot (f.x.getLsbD 0)).prog = some p) (hq : (s.me.getX f.a).toNat < 2 ^ 24)
    (hk : (s.me.getX f.b).toNat + s.me.maskKeys ≤ 2 ^ 24) : mkappChecks f s = .ok (p, (s.me.getX f.a).toNat, (s.me.getX f.b).toNat) := by
  have htop : (2 : Int) ^ 24 - s.me.maskKeys = (2 ^ 24 - s.me.maskKeys : Nat) := by omega
  have hquery : needPosition s (s.me.getX f.a) (2 ^ 24 - 1) = .ok (s.me.getX f.a).toNat := needPosition_ok (top := 2 ^ 24 - 1) (by omega) (by decide)
  have hkey : needPosition s (s.me.getX f.b) (2 ^ 24 - s.me.maskKeys) = .ok (s.me.getX f.b).toNat := by
    rw [htop]
    exact needPosition_ok (by omega) (by omega)
  simp only [mkappChecks, needMask_some hprog, act_bind_ok, hquery, hkey]
  rfl

/-- The keys of MKAPP that its query sees, as one bit each. -/
def MaskProg.seen (p : MaskProg) (q k n : Nat) : Nat := (List.range n).foldl (fun acc j => if p.visible q (k + j) then acc + 2 ^ j else acc) 0

theorem MaskProg.seen_testBit (p : MaskProg) (q k : Nat) {n j : Nat} (hj : j < n) : (p.seen q k n).testBit j = p.visible q (k + j) := by
  rw [MaskProg.seen, sum_filter_testBit _ List.nodup_range _ _ _ (by simp)]
  simp [hj]

/-- The active elements among the first `n`, as one bit each. -/
def Task.activeBelow (t : Task) (f : Fields) (n : Nat) : Nat := ((t.actives f 32).filter (· < n)).foldl (fun acc j => acc + 2 ^ j) 0

theorem Task.activeBelow_testBit (t : Task) (f : Fields) {n j : Nat} (hj : j < n) (hn : n ≤ t.lanes 32) :
    (t.activeBelow f n).testBit j = t.active f 32 j := by
  rw [Task.activeBelow, sum_testBit _ ((actives_nodup t f 32).filter _) _ _ (by simp), ← decide_mem_actives (hj.trans_le hn)]
  simp [hj]

/-- A bit of values given to four bits in a row. -/
theorem spread4_getLsbD {w n m j b : Nat} (hj : j < n) (hb : b < 4) (hw : 4 * n ≤ w) :
    (BitVec.ofNat w (spread n 4 m)).getLsbD (4 * j + b) = m.testBit j := by
  have hlane : (4 * j + b) / 4 = j := by omega
  rw [BitVec.getLsbD_ofNat, spread_testBit (by decide), hlane]
  simp [show 4 * j + b < w by omega, show 4 * j + b < n * 4 by omega]

/-- The predicate form of MKAPP defers the keys that its query sees to the active elements. -/
theorem mkappBody_defers (hprog : ((s.core s.myCore).maskSlot (f.x.getLsbD 0)).prog = some p) (hq : (s.me.getX f.a).toNat < 2 ^ 24)
    (hk : (s.me.getX f.b).toNat + s.me.maskKeys ≤ 2 ^ 24) : mkappBody f s = .ok (s.defer
      { dest := .p f.d, val := BitVec.ofNat 4096 (spread s.me.maskKeys 4 (p.seen (s.me.getX f.a).toNat (s.me.getX f.b).toNat s.me.maskKeys))
        mask := BitVec.ofNat 256 (spread s.me.maskKeys 4 (s.me.activeBelow f s.me.maskKeys)), unit := 4 }) := by
  rw [mkappBody, mkappChecks_ok hprog hq hk]
  rfl

/-- The bias form of MKAPP defers +0 for a key that its query sees, and −∞ for any other. -/
theorem mkappBiasBody_defers (hprog : ((s.core s.myCore).maskSlot (f.x.getLsbD 0)).prog = some p) (hq : (s.me.getX f.a).toNat < 2 ^ 24)
    (hk : (s.me.getX f.b).toNat + s.me.maskKeys ≤ 2 ^ 24) : mkappBiasBody f s = .ok (deferLanes s f 32 (fun j =>
      (if p.visible (s.me.getX f.a).toNat ((s.me.getX f.b).toNat + j) then 0 else 0xFF800000, 0))) := by
  rw [mkappBiasBody, mkappChecks_ok hprog hq hk]
  rfl

/-! ## MKCNT (R173) -/

/-- What MKCNT reads of a slot: one of its counters, or their sum. -/
def MaskSlot.selected (m : MaskSlot) (sel : Nat) : Word64 :=
  if sel = 0 then m.empty else if sel = 1 then m.partialTiles else if sel = 2 then m.full else m.empty + m.partialTiles + m.full

/-- A slot with the counters zeroed that MKCNT reads. -/
def MaskSlot.zeroed (m : MaskSlot) (sel : Nat) : MaskSlot :=
  { m with empty := if sel = 0 ∨ sel = 3 then 0 else m.empty
           partialTiles := if sel = 1 ∨ sel = 3 then 0 else m.partialTiles
           full := if sel = 2 ∨ sel = 3 then 0 else m.full }

/-- The state in which MKCNT has zeroed what it reads, if it clears. -/
def State.countsCleared (s : State) (f : Fields) : State :=
  let slot := (s.core s.myCore).maskSlot (f.x.getLsbD 3)
  if f.x.getLsbD 2 then s.setCore s.myCore ((s.core s.myCore).setMaskSlot (f.x.getLsbD 3) (slot.zeroed (f.x.toNat % 4))) else s

theorem State.countsCleared_keeps (h : f.x.getLsbD 2 = false) : s.countsCleared f = s := if_neg (ne_true_of_eq_false h)

theorem State.maskSlot_countsCleared (h : f.x.getLsbD 2 = true) : ((s.countsCleared f).core s.myCore).maskSlot (f.x.getLsbD 3)
    = ((s.core s.myCore).maskSlot (f.x.getLsbD 3)).zeroed (f.x.toNat % 4) := by
  simp [State.countsCleared, h]

/-- MKCNT defers the counters that it selects. -/
theorem mkcntBody_defers :
    mkcntBody f s = .ok ((s.countsCleared f).deferX f.d (((s.core s.myCore).maskSlot (f.x.getLsbD 3)).selected (f.x.toNat % 4))) := by
  have hsel : f.x.toNat % 4 < 4 := Nat.mod_lt _ (by decide)
  unfold mkcntBody State.countsCleared
  dsimp only
  generalize f.x.toNat % 4 = sel at hsel
  match sel, hsel with
  | 0, _ | 1, _ | 2, _ | 3, _ => rfl

end

/-! ## The statement -/

/-- Settles O19: AGX by its tile, the mask instructions by their bodies. -/
theorem attentionTilesAndMasks : Obligations.AttentionTilesAndMasks := by
  refine ⟨?agx, ?masks⟩
  case agx =>
    intro f s s1 s2 g g' d freed hi hreach hrun
    obtain ⟨htile, hmade⟩ := AgxJob.run_counts hrun
    have hbody : agxBody f s = agxEnd f g' s2 := agxBody_ends hreach hrun
    refine ⟨htile, hmade, fun hmore => ?_, fun hlast => ?_⟩
    · exact run_retry hi (hbody.trans (if_pos hmore))
    · exact run_ok hi (hbody.trans (if_neg (Nat.not_lt.mpr hlast)))
  case masks =>
    intro f s p one slot q k n
    refine ⟨?mkld, ?mkcls, ?mkapp, ?bias, ?mkcnt⟩
    case mkld =>
      intro a h s' bs hi hb hptr hhead hkind hcheck hrel hread hparse
      exact run_ok hi (mkldBody_defers hb hptr hhead hkind hcheck hrel hread hparse)
    case mkcls => exact fun hi hprog hq hk => run_ok hi (mkclsBody_counts hprog hq hk)
    case mkapp =>
      intro hi hprog hq hk
      have hn : n ≤ 64 := Nat.min_le_left ..
      have hlanes : n ≤ s.me.lanes 32 := Nat.min_le_right ..
      refine ⟨_, _, run_ok hi (mkappBody_defers hprog hq hk), fun j hj b hb => ⟨?_, ?_⟩⟩
      · exact (spread4_getLsbD hj hb (by omega)).trans (s.me.activeBelow_testBit f hj hlanes)
      · exact (spread4_getLsbD hj hb (by omega)).trans (p.seen_testBit q k hj)
    case bias =>
      exact fun hi hprog hq hk => run_deferLanes hi (mkappBiasBody_defers hprog hq hk) (by decide) (by decide) fun _ _ => ⟨rfl, rfl⟩
    case mkcnt =>
      intro slot sel hi
      exact ⟨s.countsCleared f, run_ok hi mkcntBody_defers, State.countsCleared_keeps, State.maskSlot_countsCleared⟩

end Sys2Proof.Machine
end

section
/-!
PROOFS. What a task still owes: the stores in its buffer and the loads that may be performed again, through every step of a release (R205 to
R209, R228).
-/

namespace Sys2Proof.Machine

/-! ## Loads that are still to be performed (R205, R208) -/

/-- Performing elements of a load leaves only elements of it that were not met. -/
theorem Pend.mem_src_fix {p : Pend} {hit : Pend → Elem → Bool} {e : Elem} (h : e ∈ (p.fix hit).src) : e ∈ p.src ∧ hit p e = false := by
  have together (h : e ∈ (if p.src.any (hit p) then { p with src := [] } else p).src) : e ∈ p.src ∧ hit p e = false := by
    split at h
    · exact nomatch h
    · next hnone => exact ⟨h, by simpa using fun hh => hnone (List.any_eq_true.mpr ⟨e, h, hh⟩)⟩
  unfold Pend.fix at h
  split at h
  · exact together h
  · exact together h
  · simpa using h

/-- The elements of a task's outstanding loads that may be performed again. -/
def Task.loading (t : Task) : List Elem := t.pend.flatMap (·.src)

theorem Task.mem_loading {t : Task} {p : Pend} {e : Elem} (hp : p ∈ t.pend) (he : e ∈ p.src) : e ∈ t.loading :=
  List.mem_flatMap.mpr ⟨p, hp, he⟩

section
variable (s : State) (k : TaskKey) (hit : Pend → Elem → Bool)

@[simp] theorem State.cur_fixLoads : (s.fixLoads k hit).cur = s.cur := by rw [State.fixLoads_eq]

/-- Performing loads of a task changes only its outstanding results. -/
theorem State.task_fixLoads : ∃ ps, (s.fixLoads k hit).task k = { s.task k with pend := ps } := by
  unfold State.fixLoads
  split
  · exact ⟨_, rfl⟩
  · exact ⟨_, State.task_setTask ..⟩

/-- What is left of a task's loads was among them and was not met. -/
theorem State.mem_loading_fixLoads {e : Elem} (h : e ∈ ((s.fixLoads k hit).task k).loading) :
    e ∈ (s.task k).loading ∧ ∃ q, hit q e = false := by
  rw [Task.loading, State.pend_fixLoads, List.flatMap_map, List.mem_flatMap] at h
  obtain ⟨p, hp, he⟩ := h
  obtain ⟨hsrc, hmiss⟩ := Pend.mem_src_fix he
  exact ⟨Task.mem_loading hp hsrc, p, hmiss⟩

end

/-! ## What a task owes (R60, R208) -/

/-- What a task has still to perform: its buffer and its outstanding results. -/
def Task.owed (t : Task) : List Store × List Pend := (t.sb, t.pend)

@[simp] theorem Task.owed_setX (t : Task) (n : BitVec 6) (v : Word64) : (t.setX n v).owed = t.owed := by
  unfold Task.setX
  split <;> rfl

@[simp] theorem Task.owed_setO (t : Task) (n : BitVec 6) (v : BitVec 128) : (t.setO n v).owed = t.owed := by
  unfold Task.setO
  split <;> rfl

/-- What a task owes in a state, with the task that acts. -/
def State.owed (s : State) (k : TaskKey) : TaskKey × List Store × List Pend := (s.cur, (s.task k).owed)

@[simp] theorem State.owed_setTask (s : State) (k : TaskKey) (t : Task) : (s.setTask k t).owed k = (s.cur, t.owed) := by
  rw [State.owed, State.task_setTask, State.setTask_cur]

-- A result that arrives, a fault that stops a task, and a task that goes on leave what is owed alone.
section
variable (s : State) (k : TaskKey) (p : Pend) (m : BitVec 256)

@[simp] theorem State.owed_land : (s.land k p m).owed k = s.owed k := by
  unfold State.land
  split
  · rfl
  · dsimp only
    split
    case h_1 => rw [State.owed_setTask, Task.owed_setX, State.owed]
    case h_2 => rw [State.owed_setTask, Task.owed_setO, State.owed]
    case h_3 | h_4 | h_5 | h_6 => rw [State.owed_setTask]; rfl
    all_goals rfl

@[simp] theorem State.owed_landFlags : (s.landFlags k p m).owed k = s.owed k := by
  unfold State.landFlags
  split
  · rfl
  · rw [State.owed_setTask]; rfl

@[simp] theorem State.owed_stopAt (x : Flt) (pos epc : Word32) (atIssue : Bool) : (s.stopAt k x pos epc atIssue).owed k = s.owed k := by
  unfold State.stopAt
  dsimp only
  split
  · rfl
  · exact State.owed_setTask s k _

@[simp] theorem State.owed_arrives : (s.arrives k p m).owed k = s.owed k := by
  unfold State.arrives
  split <;> simp

@[simp] theorem State.owed_unpark : (s.unpark k).owed k = s.owed k := by
  unfold State.unpark
  dsimp only
  split
  · exact State.owed_setTask ..
  · rfl

/-- A switch point leaves the buffer alone, and of the results those that are still awaited. -/
theorem State.owed_landAll : (s.landAll k).owed k = (s.cur, (s.task k).sb, (s.task k).pend.filter (·.awaited)) := by
  rw [State.landAll, State.owed_unpark, foldl_keeps (fun t => t.owed k) fun p _ t => State.owed_arrives t k p p.mask, State.owed_setTask]
  rfl

end

section
variable (s : State) (k : TaskKey)

@[simp] theorem State.owed_setDie (d : Nat) (v : Die) : (s.setDie d v).owed k = s.owed k := rfl

@[simp] theorem State.owed_requestTo (p : Nat) (ptr : Word64) (a : Nat) : (s.requestTo p ptr a).owed k = s.owed k := by
  unfold State.requestTo
  split
  · rw [State.owed, State.cur_requestOver, State.task_requestOver, State.owed]
  · rfl

@[simp] theorem State.owed_pokeStore (st : Store) : (s.pokeStore st).owed k = s.owed k := by
  unfold State.pokeStore
  split <;> rfl

end

/-! ## A release leaves a task owing less (R206, R208, R233) -/

/-- From `s` to `t` a task has come to owe nothing more, and the same task acts. -/
structure OwesNoMore (k : TaskKey) (s t : State) : Prop where
  cur : t.cur = s.cur
  stores : ∀ st ∈ (t.task k).sb, st ∈ (s.task k).sb
  loads : ∀ e ∈ (t.task k).loading, e ∈ (s.task k).loading

namespace OwesNoMore
variable {k : TaskKey} {s t u : State}

theorem trans (h : OwesNoMore k s t) (h' : OwesNoMore k t u) : OwesNoMore k s u :=
  ⟨h'.cur.trans h.cur, fun st hst => h.stores st (h'.stores st hst), fun e he => h.loads e (h'.loads e he)⟩

/-- Buffered stores and results that are left out are owed no longer. -/
theorem of_fewer {sb : List Store} {pend : List Pend} (h : t.owed k = (s.cur, sb, pend)) (hsb : ∀ st ∈ sb, st ∈ (s.task k).sb)
    (hpend : ∀ p ∈ pend, p ∈ (s.task k).pend) : OwesNoMore k s t := by
  simp only [State.owed, Task.owed, Prod.mk.injEq] at h
  obtain ⟨hcur, rfl, rfl⟩ := h
  refine ⟨hcur, hsb, fun e he => ?_⟩
  obtain ⟨p, hp, hsrc⟩ := List.mem_flatMap.mp he
  exact Task.mem_loading (hpend p hp) hsrc

/-- A change of nothing that is owed. -/
theorem of_owed (h : t.owed k = s.owed k) : OwesNoMore k s t := of_fewer h (fun _ h => h) (fun _ h => h)

theorem fixLoads (s : State) (k : TaskKey) (hit : Pend → Elem → Bool) : OwesNoMore k s (s.fixLoads k hit) := by
  obtain ⟨ps, htask⟩ := s.task_fixLoads k hit
  exact ⟨s.cur_fixLoads k hit, fun st hst => by rwa [htask] at hst, fun e he => (s.mem_loading_fixLoads k hit he).1⟩

/-- A fault that strikes a task makes it owe nothing more. -/
theorem raiseAt (s : State) (k : TaskKey) (x : Flt) (pos epc : Word32) (atIssue : Bool) :
    OwesNoMore k s (s.raiseAt k x pos epc atIssue) :=
  of_fewer ((State.owed_stopAt ..).trans (s.owed_landAll k)) (fun _ h => h) (fun _ h => List.mem_of_mem_filter h)

/-- A store that is refused makes its task owe nothing more. -/
theorem refuseStore (s : State) (k : TaskKey) (st : Store) : OwesNoMore k s (s.refuseStore k st) := by
  unfold State.refuseStore
  dsimp only
  refine trans ?_ (raiseAt ..)
  exact of_owed (State.owed_setDie ..)

/-- A store that reaches its home, or is refused there, makes its task owe nothing more. -/
theorem performStore (s : State) (k : TaskKey) (st : Store) : OwesNoMore k s (s.performStore k st) := by
  refine (OwesNoMore.fixLoads s k (st.after k)).trans ?_
  unfold State.performStore
  dsimp only
  split
  · exact refuseStore ..
  · split
    · exact raiseAt ..
    · exact of_owed (by rw [State.owed_pokeStore, State.owed_requestTo])

/-- A store of the buffer that is taken up again goes to its home or back into the buffer. -/
theorem drainStore {st : Store} (needed : List Store) (h : OwesNoMore k s t) (hst : st ∈ (s.task k).sb) :
    OwesNoMore k s (t.drainStore k needed st) := by
  unfold State.drainStore
  split
  · refine ⟨h.cur, fun x hx => ?_, fun e he => ?_⟩
    · rw [State.task_setTask] at hx
      rcases List.mem_append.mp hx with hx | hx
      · exact h.stores x hx
      · exact List.mem_singleton.mp hx ▸ hst
    · rw [State.task_setTask] at he
      exact h.loads e he
  · exact h.trans (performStore t k st)

/-- Draining chosen stores of a buffer makes its task owe nothing more. -/
theorem drainSel (s : State) (k : TaskKey) (sel : Store → Bool) : OwesNoMore k s (s.drainSel k sel) := by
  have hempty : OwesNoMore k s (s.setTask k { s.task k with sb := [] }) :=
    of_fewer (State.owed_setTask ..) (fun _ h => nomatch h) (fun _ h => h)
  exact List.foldlRecOn _ _ hempty fun t ht st hst => drainStore _ ht hst

end OwesNoMore

/-- What a release comes to, whatever it orders: the task owes nothing more, no store that it drains is left, and each load that is left was
none that it performs. -/
theorem drained_performs {s s' : State} {sel : Store → Bool} {hit : Pend → Elem → Bool}
    (h : drained sel ((s.fixLoads s.cur hit).drainSel s.cur sel) = .ok s') :
    OwesNoMore s.cur s s' ∧ (∀ st ∈ s'.me.sb, sel st = false) ∧ ∀ e ∈ s'.me.loading, ∃ q, hit q e = false := by
  have hfix := OwesNoMore.fixLoads s s.cur hit
  have hdrain := OwesNoMore.drainSel (s.fixLoads s.cur hit) s.cur sel
  unfold drained at h
  split at h
  · exact nomatch h
  · split at h
    · exact nomatch h
    · next hnone =>
      cases h
      refine ⟨hfix.trans hdrain, fun st hst => ?_, fun e he => ?_⟩
      · simpa using fun hsel => hnone (List.any_eq_true.mpr ⟨st, hst, hsel⟩)
      · rw [State.me, hdrain.cur, hfix.cur] at he
        exact (s.mem_loading_fixLoads s.cur hit (hdrain.loads e he)).2

/-- No store of the acting task to a home that `homes` picks is buffered, and no canonical load from one may be performed again. -/
structure Ordered (homes : Nat → Prop) (s : State) : Prop where
  stores : ∀ st ∈ s.me.sb, ¬ homes st.home
  loads : ∀ p ∈ s.me.pend, ∀ e ∈ p.src, e.priv = false → ¬ homes (homeOf e.addr)

section
variable {s s' : State}

/-- A release at dom or sys performs every earlier access. -/
theorem released_orders (h : released s = .ok s') : Ordered (fun _ => True) s' := by
  obtain ⟨-, hstores, hloads⟩ := drained_performs h
  refine ⟨fun st hst => absurd (hstores st hst) (by simp), fun p hp e he hpriv => ?_⟩
  obtain ⟨q, hq⟩ := hloads e (Task.mem_loading hp he)
  simp [hpriv] at hq

/-- A release at pkg performs the earlier accesses to the dies. -/
theorem releasedDies_orders (h : releasedDies s = .ok s') : Ordered (· < 4) s' := by
  obtain ⟨-, hstores, hloads⟩ := drained_performs h
  refine ⟨fun st hst => by simpa using hstores st hst, fun p hp e he hpriv => ?_⟩
  obtain ⟨q, hq⟩ := hloads e (Task.mem_loading hp he)
  simpa [hpriv] using hq

/-- A release below pkg performs the earlier accesses to its home, and makes its task owe nothing more. -/
theorem releasedHome_orders {home : Nat} (h : releasedHome s home = .ok s') : OwesNoMore s.cur s s' ∧ Ordered (· = home) s' := by
  obtain ⟨hless, hstores, hloads⟩ := drained_performs h
  refine ⟨hless, fun st hst heq => ?_, fun p hp e he hpriv heq => ?_⟩
  · simpa [Task.before, heq] using hstores st hst
  · obtain ⟨q, hq⟩ := hloads e (Task.mem_loading hp he)
    simp [hpriv, Task.before, heq] at hq

/-- Homes that are ordered one after the other are ordered together. -/
theorem Ordered.or {homes homes' : Nat → Prop} (h : Ordered homes s) (h' : Ordered homes' s) : Ordered (fun n => homes n ∨ homes' n) s :=
  ⟨fun st hst => not_or.mpr ⟨h.stores st hst, h'.stores st hst⟩,
    fun p hp e he hpriv => not_or.mpr ⟨h.loads p hp e he hpriv, h'.loads p hp e he hpriv⟩⟩

/-- What has been ordered stays ordered while the task comes to owe nothing more. -/
theorem Ordered.mono {homes : Nat → Prop} (h : Ordered homes s) (hless : OwesNoMore s.cur s s') : Ordered homes s' := by
  have hme : s'.me = s'.task s.cur := by rw [State.me, hless.cur]
  refine ⟨fun st hst => h.stores st (hless.stores st (hme ▸ hst)), fun p hp e he hpriv => ?_⟩
  obtain ⟨q, hq, hsrc⟩ := List.mem_flatMap.mp (hless.loads e (hme ▸ Task.mem_loading hp he))
  exact h.loads q hq e hsrc hpriv

/-- A release orders the written home below pkg, the dies as well at pkg, and every home at dom and sys. -/
theorem releasedAt_orders {scope home : Nat} (h : releasedAt scope home s = .ok s') :
    Ordered (fun n => if scope < 3 then n = home else if scope = 3 then n < 4 ∨ n = home else True) s' := by
  unfold releasedAt at h
  split at h
  · next hbelow =>
    simp only [if_pos hbelow]
    exact (releasedHome_orders h).2
  · next hbelow =>
    simp only [if_neg hbelow]
    split at h
    · next hpkg =>
      simp only [if_pos hpkg]
      obtain ⟨u, hdies, h⟩ := act_bind_eq_ok h
      obtain ⟨hless, hhome⟩ := releasedHome_orders h
      exact ((releasedDies_orders hdies).mono hless).or hhome
    · next hpkg =>
      simp only [if_neg hpkg]
      exact released_orders h

end

end Sys2Proof.Machine
end

section
/-!
PROOFS. HDL, HNEW and HREV (R179 to R182), PREF and its copy (R337), FENCE and releases (R206, R209, R212), and the statement put together from
that (O9).
-/

namespace Sys2Proof.Machine

/-! ## HDL (R181) -/

/-- A handle test that holds is passed. -/
theorem needHandle_ok {c : Bool} {s : State} {v : Word64} (h : c = true) : needHandle c s v = .ok () := need_ok h

/-- Performing loads of the acting task leaves its tenant alone. -/
theorem State.tenant_fixLoads (s : State) (hit : Pend → Elem → Bool) : (s.fixLoads s.cur hit).me.tenant = s.me.tenant := by
  obtain ⟨ps, htask⟩ := s.task_fixLoads s.cur hit
  rw [State.me, State.cur_fixLoads, htask, State.me]

/-- A load that is performed at once leaves the task's tenant alone. -/
theorem tenant_loadNow {s t : State} {ptr : Word64} {lo n : Nat} {bs : List Byte} (h : loadNow s ptr lo n = .ok (t, bs)) :
    t.me.tenant = s.me.tenant := by
  obtain ⟨bs', -, h⟩ := act_bind_eq_ok h
  cases h
  unfold State.fixObj
  split
  · exact State.tenant_fixLoads ..
  · rfl

/-- HDL finds the block that a handle names: the table's entry `e`, the directory's word `bs` and the block's header are read in turn, and every
test of R181 holds. -/
structure HdlFinds (f : Fields) (s s1 s2 : State) (e bs : List Byte) (a : Nat) : Prop where
  tag : tagOf (s.me.getX f.a) = 6
  table : s.htab ≠ 0
  owner : bits (s.me.getX f.a).toNat 52 8 = s.me.tenant.toNat % 256
  header : ∃ ta th, header s s.htab = .ok (ta, th) ∧ bits (s.me.getX f.a).toNat 36 16 < hLen th / 32
  entry : loadNow s s.htab (16 + 32 * bits (s.me.getX f.a).toNat 36 16) 16 = .ok (s1, e)
  tenant : bits (leNat (e.take 8)) 32 16 = s.me.tenant.toNat
  generation : bits (leNat (e.take 8)) 48 16 = bits (s.me.getX f.a).toNat 20 16
  counted : (s.me.getX f.b).toNat < bits (s.me.getX f.a).toNat 0 20
  filled : (s.me.getX f.b).toNat < bits (leNat (e.take 8)) 0 20
  plain : bits (leNat (e.take 8)) 28 4 = 0
  block : loadNow s1 (leWord (e.drop 8)) (16 + 8 * ((s.me.getX f.b).toNat / 64)) 8 = .ok (s2, bs)
  named : badPtr (leWord bs) = false
  reached : access s2 (leWord bs) 0 16 = .ok a
  sound : s2.poisoned a 16 = false
  valid : validHeader (leWord (s2.loadBytes s2.cur a 8)) = true
  data : hKind (leWord (s2.loadBytes s2.cur a 8)) = 0
  long : 36864 ≤ hLen (leWord (s2.loadBytes s2.cur a 8))

/-- HDL of a live handle defers the register of its block's entry. -/
theorem hdlBody_finds {f : Fields} {s s1 s2 : State} {e bs : List Byte} {a : Nat} (h : HdlFinds f s s1 s2 e bs a) :
    hdlBody f s = .ok ((s2.fixAt a 16).deferO f.d (oMake false true (576 * ((s.me.getX f.b).toNat % 64)) 576 (leWord bs))) := by
  obtain ⟨ta, th, hhead, hindex⟩ := h.header
  have htenant : s1.me.tenant = s.me.tenant := tenant_loadNow h.entry
  unfold hdlBody
  dsimp only
  have hhandle : (tagOf (s.me.getX f.a) == 6 && s.htab != 0) = true := by
    rw [Bool.and_eq_true, beq_iff_eq, bne_iff_ne]
    exact ⟨h.tag, h.table⟩
  rw [needHandle_ok hhandle, act_bind_ok, needHandle_ok (by simp [h.owner]), act_bind_ok, hhead, act_bind_ok]
  dsimp only
  rw [needHandle_ok (by simp [hindex]), act_bind_ok, h.entry, act_bind_ok]
  dsimp only
  rw [needHandle_ok (by simp [h.tenant, h.generation, htenant]), act_bind_ok, needHandle_ok (by simp [h.counted, h.filled]), act_bind_ok,
    needHandle_ok (by simp [h.plain]), act_bind_ok, h.block, act_bind_ok]
  dsimp only
  rw [needHandle_ok (by simp [h.named]), act_bind_ok, h.reached, act_bind_ok, need_ok (by simp [h.sound]), act_bind_ok,
    needHandle_ok (by simp [h.valid, h.data, h.long]), act_bind_ok]
  rfl

/-! ## PREF and its copy (R337) -/

section
variable {f : Fields} {s : State}

/-- PREF on a pointer that names nothing to copy does nothing. -/
theorem prefBody_badPtr (h : badPtr (oCanon (s.me.getO f.a)) = true) : prefBody f s = .ok s := if_pos (by simp [h])

/-- PREF of an object that may be copied, with room for it, enters the copy. -/
theorem prefBody_enters {a : Nat} {h : Word64} {u : PadUnit} {off : Nat} (hptr : badPtr (oCanon (s.me.getO f.a)) = false)
    (hnew : s.copyOf s.myCore (oCanon (s.me.getO f.a)) = none) (hmap : (s.core s.myCore).copies.length < 512)
    (hhead : header s (oCanon (s.me.getO f.a)) = .ok (a, h)) (hpad : prefPad s f (oCanon (s.me.getO f.a)) h = some u)
    (hroom : s.padRoom u s.me.ctx (16 + hLen h) = some off) : prefBody f s =
      .ok (s.copyIn s.myCore u s.me.ctx off (16 + hLen h) (oCanon (s.me.getO f.a)) (leBytes 8 h.toNat) true) := by
  have hgoes : ¬ (badPtr (oCanon (s.me.getO f.a)) || (s.copyOf s.myCore (oCanon (s.me.getO f.a))).isSome
      || decide (512 ≤ (s.core s.myCore).copies.length)) = true := by
    simp [hptr, hnew, hmap]
  rw [prefBody, if_neg hgoes]
  simp only [hhead, hpad, hroom]

end

section
variable {s : State} {c : CoreId} {ptr : Word64} {e : Copy}

/-- The blocks that are read before something else may happen are some of those left, and at least one; a last one draws no free value. -/
theorem State.someBlocks_spec (s : State) (h : e.next < e.blocks) : ∃ n k, s.someBlocks e = (k, { s with free := n })
    ∧ 1 ≤ k ∧ k ≤ e.blocks - e.next := by
  unfold State.someBlocks
  dsimp only
  split
  · exact ⟨s.free, _, rfl, by omega, Nat.le_refl _⟩
  · have hlt := Nat.mod_lt (Config.touchBlocks s.fresh.1) (show 0 < e.blocks - e.next by omega)
    exact ⟨s.free + 1, _, rfl, by omega, by omega⟩

/-- A prefetch that is not complete goes on with some of its blocks. -/
theorem State.prefComplete_goesOn (he : s.copyOf c ptr = some e) (hpref : e.pref = true) (hopen : e.complete = false) :
    s.prefComplete c ptr = (s.someBlocks e).2.prefBlocks c ptr (s.someBlocks e).1 := by
  simp [State.prefComplete, he, hpref, hopen]

/-- The last block of a prefetch is read from the canonical object, and the copy is complete. -/
theorem State.prefComplete_last {a : Nat} (he : s.copyOf c ptr = some e) (hpref : e.pref = true) (hopen : e.complete = false)
    (hlast : e.blocks = e.next + 1) (hreader : s.readerOf e = none)
    (hreach : s.reach ((s.partOf (clusterOf c)).getD 0) ptr (16 + 64 * e.next) (e.blockSize e.next) = .ok a)
    (hsound : s.poisoned (a + (16 + 64 * e.next)) (e.blockSize e.next) = false) :
    s.prefComplete c ptr = (s.poke (e.copy.toNat + (16 + 64 * e.next)) (s.mem.readN (a + (16 + 64 * e.next)) (e.blockSize e.next))).setCopy c
      { e with next := e.next + 1, complete := true } := by
  have hone : s.someBlocks e = (1, s) := by simp [State.someBlocks, hlast]
  have hread : s.readBlock c e a = (s.poke (e.copy.toNat + (16 + 64 * e.next))
      (s.mem.readN (a + (16 + 64 * e.next)) (e.blockSize e.next))).setCopy c { e with next := e.next + 1, complete := true } := by
    simp [State.readBlock, hreader, hlast]
  rw [← Nat.add_assoc] at hsound
  rw [State.prefComplete_goesOn he hpref hopen, hone, ← hread]
  simp [State.prefBlocks, he, hreach, hsound]

end

/-! ## FENCE (R209, R212, R297) -/

section
variable {f : Fields} {s s' : State} {scope : Nat}

/-- At a scope below sys, and at sys without a management write that waits, a fence does not wait for one. -/
theorem fence_free {u : State} (hctl : scope = 5 → u.ctlHeld u.me.tid = false) : (scope != 5 || !u.ctlHeld u.me.tid) = true := by
  by_cases hsys : scope = 5
  · simp [hctl hsys]
  · simp [hsys]

/-- A fence of kind acq, no fault of an earlier load being outstanding. -/
theorem fenceBody_acq (hsound : s.me.faulting = false) (hkind : f.x.toNat / 8 % 4 = 2) :
    fenceBody f s = .ok (s.fenceAcq (f.x.toNat % 8)) := by
  simp only [fenceBody, hkind]
  rw [needOr_ok (by simp [hsound]), act_bind_ok]
  rfl

/-- A fence of kind full. -/
theorem fenceBody_full (hsound : s.me.faulting = false) (hkind : f.x.toNat / 8 % 4 = 0) (hfull : fenceFull (f.x.toNat % 8) s = .ok s')
    (hctl : f.x.toNat % 8 = 5 → s'.ctlHeld s'.me.tid = false) : fenceBody f s = .ok s' := by
  simp only [fenceBody, hkind]
  rw [needOr_ok (by simp [hsound]), act_bind_ok]
  simp only [if_true, hfull, act_bind_ok, needOr_ok (fence_free hctl)]
  rfl

/-- A release fence leaves management writes and the task's id alone. -/
theorem State.ctlHeld_fenceRel (s : State) (scope : Nat) : (s.fenceRel scope).ctlHeld (s.fenceRel scope).me.tid = s.ctlHeld s.me.tid := by
  unfold State.fenceRel
  split
  · rfl
  · split <;> rw [State.me_setMe] <;> rfl

/-- A fence of kind rel. -/
theorem fenceBody_rel (hsound : s.me.faulting = false) (hkind : f.x.toNat / 8 % 4 = 1)
    (hctl : f.x.toNat % 8 = 5 → s.ctlHeld s.me.tid = false) : fenceBody f s = .ok (s.fenceRel (f.x.toNat % 8)) := by
  rw [← s.ctlHeld_fenceRel (f.x.toNat % 8)] at hctl
  simp only [fenceBody, hkind]
  rw [needOr_ok (by simp [hsound]), act_bind_ok]
  simp only [one_ne_zero, if_false, pure, Except.pure, act_bind_ok, needOr_ok (fence_free hctl), act_run_ok]

/-- A full fence at pkg orders the dies, and at dom and sys every home. -/
theorem fenceFull_orders (h : fenceFull scope s = .ok s') (hscope : 3 ≤ scope) : Ordered (fun n => scope = 3 → n < 4) s' := by
  unfold fenceFull at h
  rw [if_neg (by omega)] at h
  split at h
  · next hpkg => simpa [hpkg] using releasedDies_orders h
  · next hpkg => simpa [hpkg] using released_orders h

/-- A full fence below pkg marks every store of the buffer. -/
theorem fenceFull_marks (h : fenceFull scope s = .ok s') (hscope : scope < 3) :
    s'.me.sb = s.me.sb.map (fun st => { st with fenced := true }) ∧ s'.mem = s.mem := by
  rw [fenceFull, if_pos hscope] at h
  cases h
  exact ⟨congrArg Task.sb (State.me_setMe ..), rfl⟩

/-- A load of a marked store's home waits. -/
theorem access_fenced {ptr : Word64} {lo n a : Nat} {st : Store} (hadmits : s.admits s.cur ptr = true)
    (hreach : s.reach (s.tablePart s.me) ptr lo n = .ok a) (hst : st ∈ s.me.sb) (hfenced : st.fenced = true) (hhome : st.home = homeOf a) :
    access s ptr lo n = .error (.retry s) := by
  have hwaits : s.fencedTo a = true := List.any_eq_true.mpr ⟨st, hst, by simp [hfenced, hhome]⟩
  simp [access, accessVia, hadmits, hreach, hwaits]

end

/-! ## HNEW and HREV (R180) -/

section
variable {f : Fields} {s s' : State} {a e0 : Nat} {dir : Word64} (hentry : handleEntry s (s.me.getX f.a) = .ok (a, e0, dir))
  (hrel : releasedAt 3 (homeOf a) s = .ok s')
include hentry hrel

/-- HNEW of a count that the directory holds writes it into the entry and defers the handle. -/
theorem hnewBody_writes {x : Nat} {h : Word64} (hdir : header s dir = .ok (x, h)) (hlong : (s.me.getX f.b).toNat ≤ 64 * (hLen h / 8))
    (hfits : (s.me.getX f.b).toNat < 2 ^ 20) : hnewBody f s =
      .ok ((s'.pokeWord a (BitVec.ofNat 64 (e0 / 2 ^ 20 * 2 ^ 20 + (s.me.getX f.b).toNat))).deferX f.d
        (BitVec.ofNat 64 (6 * 2 ^ 60 + s'.me.tenant.toNat % 256 * 2 ^ 52 + (s.me.getX f.a).toNat * 2 ^ 36 + bits e0 48 16 * 2 ^ 20
          + (s.me.getX f.b).toNat))) := by
  have hcount : (decide ((s.me.getX f.b).toNat ≤ 64 * (hLen h / 8)) && decide ((s.me.getX f.b).toNat < 2 ^ 20)) = true :=
    Bool.and_eq_true_iff.mpr ⟨decide_eq_true hlong, decide_eq_true hfits⟩
  simp only [hnewBody, hentry, act_bind_ok, hdir]
  rw [need_ok hcount, act_bind_ok, hrel]
  rfl

/-- HREV writes the next generation into the entry, with a count of 0. -/
theorem hrevBody_writes : hrevBody f s = .ok (s'.pokeWord a
    (BitVec.ofNat 64 ((if bits e0 48 16 = 65535 then 1 else bits e0 48 16 + 1) * 2 ^ 48 + bits e0 20 28 * 2 ^ 20))) := by
  simp only [hrevBody, hentry, act_bind_ok, hrel]
  rfl

end

/-! ## The statement -/

/-- Settles O9: each instruction by its body, and the orders by what a release leaves owed. -/
theorem handlesPrefetchesAndFences : Obligations.HandlesPrefetchesAndFences := by
  refine ⟨?instructions, ?orders, ?handles⟩
  case instructions =>
    intro f s canon hv b tab scope index
    refine ⟨?hdl, fun hi hbad => run_ok hi (prefBody_badPtr hbad), ?enters, ?goesOn, ?last, fun hi hs hk => run_ok hi (fenceBody_acq hs hk),
      fun s' hi hs hk hfull hctl => run_ok hi (fenceBody_full hs hk hfull hctl), fun hi hs hk hctl => run_ok hi (fenceBody_rel hs hk hctl)⟩
    case hdl =>
      intro s1 s2 ta th e dir bs blkAddr entry blk h hi htag htab howner hhead hindex hentry htenant hgen hb hb' hplain hdir hblock hnamed hreached
        hsound hvalid hdata hlong
      subst hdir
      exact run_ok hi (hdlBody_finds ⟨htag, htab, howner, ⟨ta, th, hhead, hindex⟩, hentry, htenant, hgen, hb, hb', hplain, hblock, hnamed,
        hreached, hsound, hvalid, hdata, hlong⟩)
    case enters => exact fun a h u off hi hptr hnew hmap hhead hpad hroom => run_ok hi (prefBody_enters hptr hnew hmap hhead hpad hroom)
    case goesOn =>
      intro c ptr e he hpref hopen hleft
      obtain ⟨n, k, hsome, hlow, hhigh⟩ := s.someBlocks_spec hleft
      have hgoes : s.prefComplete c ptr = State.prefBlocks c ptr k { s with free := n } := by
        rw [State.prefComplete_goesOn he hpref hopen, hsome]
      exact ⟨n, k, hlow, hhigh, congrArg Host.Outcome.next hgoes⟩
    case last =>
      exact fun c ptr e a he hpref hopen hlast hreader hreach hsound =>
        congrArg Host.Outcome.next (State.prefComplete_last he hpref hopen hlast hreader hreach hsound)
  case orders =>
    intro s s' scope home ordered
    refine ⟨fun h => ?release, fun h hscope => ?full, fun h hscope => ?marks,
      fun ptr lo n a st hadmits hreach hst hfenced hhome => access_fenced hadmits hreach hst hfenced hhome⟩
    case release =>
      obtain ⟨hstores, hloads⟩ := releasedAt_orders h
      exact ⟨hstores, hloads⟩
    case full =>
      obtain ⟨hstores, hloads⟩ := fenceFull_orders h hscope
      refine ⟨fun st hst => ?_, fun p hp e he hpriv => ?_⟩
      · obtain ⟨hpkg, hfar⟩ := Classical.not_imp.mp (hstores st hst)
        exact ⟨Nat.le_of_not_lt hfar, hpkg⟩
      · obtain ⟨hpkg, hfar⟩ := Classical.not_imp.mp (hloads p hp e he hpriv)
        exact ⟨Nat.le_of_not_lt hfar, hpkg⟩
    case marks =>
      obtain ⟨hsb, hmem⟩ := fenceFull_marks h hscope
      refine ⟨by rw [hsb, List.length_map], fun st hst => ?_, hmem⟩
      obtain ⟨x, -, rfl⟩ := List.mem_map.mp (hsb ▸ hst)
      rfl
  case handles =>
    intro f s s' a e0 x dir h v n g hentry hrel
    exact ⟨fun hi hdir hlong hfits => run_ok hi (hnewBody_writes hentry hrel hdir hlong hfits),
      fun hi => run_ok hi (hrevBody_writes hentry hrel)⟩

end Sys2Proof.Machine
end

section
/-!
PROOFS. A copy without a graph: the bytes that its sequencer produces, which of them take effect, and the chunks that they are cut into (R191,
R195), and the statement put together from that (O32).
-/

namespace Sys2Proof.Machine

/-! ## Pieces of a list -/

/-- Pieces put together again are the list, when the fuel is enough for every one of them. -/
theorem flatten_chunksOf {α : Type} {n fuel : Nat} {xs : List α} (hn : 0 < n) (hfuel : xs.length < fuel) : (chunksOf n fuel xs).flatten = xs := by
  induction fuel generalizing xs with
  | zero => exact absurd hfuel (Nat.not_lt_zero _)
  | succ fuel ih =>
    rw [chunksOf]
    split
    · next hnil => exact (List.isEmpty_iff.mp hnil).symm
    · next hcons =>
      have hpos : 0 < xs.length := List.length_pos_iff.mpr fun h => hcons (List.isEmpty_iff.mpr h)
      have hrest : (xs.drop n).length < fuel := by rw [List.length_drop]; omega
      rw [List.flatten_cons, ih hrest, List.take_append_drop]

/-- No piece is longer than asked for. -/
theorem length_le_of_mem_chunksOf {α : Type} {n fuel : Nat} {xs ch : List α} (h : ch ∈ chunksOf n fuel xs) : ch.length ≤ n := by
  induction fuel generalizing xs with
  | zero => exact nomatch h
  | succ fuel ih =>
    rw [chunksOf] at h
    split at h
    · exact nomatch h
    · rcases List.mem_cons.mp h with rfl | htail
      · exact List.length_take_le ..
      · exact ih htail

/-! ## The bytes that take effect (R195) -/

/-- A byte that is no padding and whose offset no newer byte has takes effect. -/
theorem effective_cons {valid seen : Nat} {p : Put} {ps : List Put} {acc : List (Option Put)} (hpad : p.pad = false)
    (hnew : seen.testBit p.off = false) : effective valid (p :: ps) seen acc = effective valid ps (seen ||| (1 <<< p.off)) (some p :: acc) := by
  simp [effective, hpad, hnew]

/-- Where no byte is padding and no two have one offset, every byte takes effect, in the order of production. -/
theorem effective_distinct {valid seen : Nat} {ps : List Put} {acc : List (Option Put)} (hpad : ∀ p ∈ ps, p.pad = false)
    (hnew : ∀ p ∈ ps, seen.testBit p.off = false) (hdistinct : ps.Pairwise (fun p q => p.off ≠ q.off)) :
    effective valid ps seen acc = ps.reverse.map some ++ acc := by
  induction ps generalizing seen acc with
  | nil => rfl
  | cons p ps ih =>
    obtain ⟨hp, hpads⟩ := List.forall_mem_cons.mp hpad
    obtain ⟨hfirst, hrest⟩ := List.forall_mem_cons.mp hnew
    obtain ⟨hne, hpairs⟩ := List.pairwise_cons.mp hdistinct
    have hunseen : ∀ q ∈ ps, (seen ||| (1 <<< p.off)).testBit q.off = false := by
      intro q hq
      have hpq : p.off ≠ q.off := hne q hq
      rw [Nat.testBit_or, hrest q hq, Nat.one_shiftLeft, Nat.testBit_two_pow, Bool.false_or]
      exact decide_eq_false hpq
    rw [effective_cons hp hfirst, ih hpads hunseen hpairs, List.reverse_cons, List.map_append, List.append_assoc]
    rfl

/-! ## The plan of bytes that are all there -/

/-- A byte that a sink writes at an offset, read without a fault. -/
def Put.plain (e : Nat × Byte) : Put := { off := e.1, byte := .ok e.2 }

/-- The plan writes these bytes, in order and with no other, in chunks of at most 256, and nothing goes wrong. -/
structure Plan.Writes (p : Plan) (bytes : List (Nat × Byte)) : Prop where
  all : p.chunks.flatten = bytes
  faultless : p.fault = none
  matched : p.miss = false
  undropped : p.drops = []
  short : ∀ ch ∈ p.chunks, ch.length ≤ 256

/-- Bytes that are all there, each at an offset of its own, given in order of production, are all written. -/
theorem Made.plan_writes {es : List (Nat × Byte)} {n : Nat} (dst : View) (base : Nat) (hdistinct : es.Pairwise (fun d e => d.1 ≠ e.1)) :
    (Made.plan { puts := (es.map Put.plain).reverse, count := n } false dst base).Writes (es.map fun e => (base + e.1, e.2)) := by
  have heff (valid : Nat) : effective valid (es.map Put.plain).reverse 0 [] = es.map (some ∘ Put.plain) := by
    rw [effective_distinct]
    · simp
    · simp only [List.mem_reverse, List.forall_mem_map, Put.plain, implies_true]
    · simp
    · rw [List.pairwise_reverse, List.pairwise_map]
      exact hdistinct.imp Ne.symm
  have hbad (isBad : Option Put → Bool) (hgood : ∀ e, isBad (some (Put.plain e)) = false) :
      (es.map (some ∘ Put.plain)).findIdx? isBad = none := by
    rw [List.findIdx?_eq_none_iff, List.forall_mem_map]
    exact fun e _ => hgood e
  have hflat (place : Option Put → Option (Nat × Byte)) (hplace : ∀ e, place (some (Put.plain e)) = some (base + e.1, e.2)) :
      (es.map (some ∘ Put.plain)).filterMap place = es.map fun e => (base + e.1, e.2) := by
    rw [List.filterMap_map, ← List.filterMap_eq_map]
    exact List.filterMap_congr fun e _ => hplace e
  simp only [Made.plan, heff]
  rw [hbad _ fun _ => rfl]
  refine ⟨?all, rfl, rfl, rfl, ?short⟩
  case all =>
    rw [← List.filterMap_flatten, flatten_chunksOf (by decide) (Nat.lt_succ_self _)]
    exact hflat _ fun _ => rfl
  case short =>
    rw [List.forall_mem_map]
    exact fun ch hch => (List.length_filterMap_le ..).trans (length_le_of_mem_chunksOf hch)

/-! ## What a copy produces (R191) -/

section
variable {s : State}

/-- Where no block is struck, a byte of a view is memory's. -/
theorem State.viewRead_byte (hs : s.poison = []) (v : View) (i : Nat) :
    (s.viewRead v i 1).map (BitVec.ofNat 8) = .ok (s.mem.read (v.base + i)) := by
  simp [State.viewRead, hs, Memory.readN, leNat, Except.map]

/-- Where no block is struck, a copy produces the bytes of its source's view, in order. -/
theorem copyMade_eq (hs : s.poison = []) (src : View) : copyMade s src
    = { puts := (((List.range src.len).map fun i => (i, s.mem.read (src.base + i))).map Put.plain).reverse, count := src.len } := by
  simp only [copyMade, State.viewRead_byte hs, List.map_map]
  rfl

end

/-! ## The statement -/

/-- Settles O32: the bytes of the source's view are produced each at an offset of its own, so that the plan writes them all. -/
theorem plainCopiesMoveEachByte : Obligations.PlainCopiesMoveEachByte := by
  intro s j a b used hgraph hs p
  have hdistinct : ((List.range (oLen j.src)).map fun i => (i, s.mem.read (a + 16 + oView j.src + i))).Pairwise (fun d e => d.1 ≠ e.1) := by
    rw [List.pairwise_map]
    exact List.nodup_range
  have hplan : p.Writes ((List.range (oLen j.src)).map fun i => (16 + oView j.dst + i, s.mem.read (a + 16 + oView j.src + i))) := by
    simp only [p, CopyJob.planOf, hgraph, copyMade_eq hs]
    simpa only [List.map_map, Function.comp_def] using Made.plan_writes _ _ hdistinct
  exact ⟨hplan.all, hplan.faultless, hplan.matched, hplan.undropped, hplan.short⟩

end Sys2Proof.Machine
end

section
/-!
PROOFS. The word that a copy job leaves in its mailbox at its end, in a memory of the canonical form (R186, R191; log entry 3), and the refutation
of O31 by a memory that has not that form.
-/

namespace Sys2Proof.Machine

/-! ## A word that is written and read back (R1) -/

/-- The low bytes of a number hold it up to their width. -/
theorem leNat_leBytes (n v : Nat) : leNat (leBytes n v) = v % 256 ^ n := by
  induction n generalizing v with
  | zero => exact (Nat.mod_one v).symm
  | succ n ih =>
    have htail : leBytes (n + 1) v = BitVec.ofNat 8 v :: leBytes n (v / 256) := by
      simp only [leBytes, List.range_succ_eq_map, List.map_cons, List.map_map, pow_zero, Nat.div_one]
      refine congrArg _ (List.map_congr_left fun i _ => ?_)
      simp only [Function.comp_apply, Nat.succ_eq_add_one, Nat.pow_succ', Nat.div_div_eq_div_mul]
    rw [htail, leNat, ih, BitVec.toNat_ofNat, Nat.pow_succ' (m := 256), Nat.mod_mul]

/-- In a memory of the canonical form a word reads what was written. -/
theorem State.peekWord_pokeWord {s : State} (hm : Canonical s.mem) (a : Nat) (w : Word64) : (s.pokeWord a w).peekWord a = w := by
  have hbytes : (s.pokeWord a w).mem.readN a 8 = leBytes 8 w.toNat := by
    apply List.ext_getElem (by simp [Memory.readN, leBytes])
    intro i hi hi'
    simpa [Memory.readN, State.pokeWord] using Memory.read_writeN_inside hm a (leBytes 8 w.toNat) hi'
  rw [State.peekWord, hbytes, leWord, leNat_leBytes, Nat.mod_eq_of_lt (b := 256 ^ 8) w.isLt, BitVec.ofNat_toNat, BitVec.setWidth_eq]

/-! ## The end of a copy job (R186, R191) -/

/-- Nothing but memory and its struck blocks differs. -/
def State.memOnly (s t : State) : Prop := ∃ m ps, t = { s with mem := m, poison := ps }

theorem State.memOnly.refl (s : State) : s.memOnly s := ⟨s.mem, s.poison, rfl⟩

theorem State.memOnly.trans {s t u : State} (h : s.memOnly t) (h' : t.memOnly u) : s.memOnly u := by
  obtain ⟨_, _, rfl⟩ := h
  obtain ⟨m, ps, rfl⟩ := h'
  exact ⟨m, ps, rfl⟩

theorem State.memOnly_setStaged (s : State) (a st : Nat) : s.memOnly (s.setStaged a st) := by
  simp only [State.setStaged]
  split
  · exact ⟨_, _, rfl⟩
  · exact .refl s

section
variable {s t : State} (h : s.memOnly t) (k : ClusterId) (j : CopyJob)
include h

theorem State.memOnly.mailbox_dropJob (c : CoreId) (m : Nat) : (t.dropJob k j).mailbox c m = s.mailbox c m := by
  obtain ⟨_, _, rfl⟩ := h
  rfl

theorem State.memOnly.takesWord_dropJob (c : CoreId) (job : Word32) : (t.dropJob k j).takesWord c job = s.takesWord c job := by
  obtain ⟨_, _, rfl⟩ := h
  rfl

theorem State.memOnly.boxAddr_dropJob : (t.dropJob k j).boxAddr = s.boxAddr := by
  obtain ⟨_, _, rfl⟩ := h
  rfl

theorem State.memOnly.runs_dropJob (p ctx : Nat) : (t.dropJob k j).runs p ctx = s.runs p ctx := by
  obtain ⟨_, _, rfl⟩ := h
  rfl

theorem State.memOnly.waiters_dropJob (kind : WaitKind) (aux : Nat) : (t.dropJob k j).waiters kind aux = s.waiters kind aux := by
  obtain ⟨_, _, rfl⟩ := h
  rfl

end

/-- Giving staged states back changes memory only. -/
theorem State.memOnly_restoreStates (s : State) (j : CopyJob) : s.memOnly (s.restoreStates j) := by
  unfold State.restoreStates
  extract_lets t
  have hsrc : s.memOnly t := by
    unfold t
    split
    · exact State.memOnly_setStaged ..
    · exact .refl s
  split
  · exact hsrc.trans (State.memOnly_setStaged ..)
  · exact hsrc

/-- The end of IDLEs leaves what waits for anything else. -/
theorem State.waiters_endIdle (s : State) (sel : TaskKey → Task → Bool) {kind : WaitKind} (hk : kind ≠ .idle) (aux : Nat) :
    (s.endIdle sel).waiters kind aux = s.waiters kind aux := by
  simp only [State.waiters, State.endIdle, FMap.mapKeyed, List.filterMap_map]
  congr 1
  refine List.filterMap_congr fun e _ => ?_
  cases hw : e.2.wait with
  | none => simp [hw]
  | some w =>
    cases hends : e.2.status == .parked && w.kind == .idle && sel e.1 e.2 with
    | false => simp only [Function.comp_apply, hw, hends, Bool.false_eq_true, if_false]
    | true =>
      have hidle : w.kind = .idle := by
        simp only [Bool.and_eq_true, beq_iff_eq] at hends
        exact hends.1.2
      have hother : (w.kind == kind) = false := by simpa [hidle] using Ne.symm hk
      simp only [Function.comp_apply, hw, hends, if_true, hother, Bool.and_false, Bool.false_and, Bool.false_eq_true, if_false]

/-- What makes a mailbox take a job's word. -/
theorem State.takesWord_iff {s : State} {c : CoreId} {job : Word32} : s.takesWord c job = true ↔
    let b := s.mailbox c (job.toNat % 32)
    b.taken = true ∧ b.seq.toNat = job.toNat / 256 ∧ b.full = false ∧ b.owner ≠ 0 := by
  simp only [State.takesWord, Bool.and_eq_true, beq_iff_eq, Bool.not_eq_true', bne_iff_ne, and_assoc]

/-- A mailbox that takes a job's word is filled with it (R186). -/
theorem State.fillMailbox_takes {s : State} {c : CoreId} {job : Word32} (h : s.takesWord c job = true) (ctx status dropped scope : Nat) :
    let b := s.mailbox c (job.toNat % 32)
    s.fillMailbox c ctx job status dropped scope
      = ((s.endIdle (fun k _ => coreOf k == c)).setMailbox c (job.toNat % 32) { b with full := true, scope := scope }).pokeWord
        (s.boxAddr c ctx (job.toNat % 32)) (BitVec.ofNat 64 ((min dropped 0xFFFFFFFF) * 2 ^ 32 + b.seq.toNat * 256 + status)) := by
  obtain ⟨htaken, hseq, hfull, howner⟩ := State.takesWord_iff.mp h
  have hfits : ((s.mailbox c (job.toNat % 32)).taken && (s.mailbox c (job.toNat % 32)).seq.toNat == job.toNat / 256
      && !(s.mailbox c (job.toNat % 32)).full) = true := by simp [htaken, hseq, hfull]
  have hthere : ((s.mailbox c (job.toNat % 32)).owner == 0) = false := beq_eq_false_iff_ne.mpr howner
  simp only [State.fillMailbox, hfits, if_true, hthere, Bool.false_eq_true, if_false]
  rfl

/-- A fill leaves what waits for anything but the end of an IDLE. -/
theorem State.waiters_fillMailbox {s : State} {c : CoreId} {job : Word32} (h : s.takesWord c job = true) (ctx status dropped scope : Nat)
    {kind : WaitKind} (hk : kind ≠ .idle) (aux : Nat) :
    (s.fillMailbox c ctx job status dropped scope).waiters kind aux = s.waiters kind aux := by
  rw [State.fillMailbox_takes h]
  exact s.waiters_endIdle (fun k _ => coreOf k == c) hk aux

/-- A queue that nobody waits for is left as it is. -/
theorem State.serveQueue_nobody {s : State} {k : ClusterId} (h : s.waiters .queue (1000 + k) = []) : s.serveQueue k = s := by
  simp only [State.serveQueue, h]

section
variable {s : State} {k : ClusterId} {j : CopyJob} {c : CoreId}

/-- A job of a core, whose context is in, ends by the fill of its mailbox. -/
theorem State.closeJob_fills (hcore : j.core = some c) (hnode : j.node = none) (hruns : s.runs j.part j.ctx = true) (status : Nat) :
    s.closeJob k j status = s.fillMailbox c j.ctx j.job status j.drops.length (s.copyScope k j) := by
  simp only [State.closeJob, hcore, hnode, State.fillBox, hruns, if_true]

/-- A job with every chunk visible leaves its queue and is closed, and who waits for its entry is served. -/
theorem State.jobDone_closes (hat : s.jobAt k = some j) (hstarted : j.started = true) (hall : j.plan.length ≤ j.committed)
    (hfault : j.fault = none) :
    s.jobDone k = (((s.restoreStates j).dropJob k j).closeJob k j (if j.mismatch then 2 else 1)).serveQueue k := by
  have hready : (!j.started || decide (j.committed < j.plan.length) || j.fault.isSome) = false := by simp [hstarted, hfault, hall]
  simp only [State.jobDone, hat, hready, Bool.false_eq_true, if_false]

/-- The copy job of a core is at its end: its context is in, its mailbox takes its word, and nobody waits for its entry. -/
structure State.Ends (s : State) (k : ClusterId) (j : CopyJob) (c : CoreId) : Prop where
  current : s.jobAt k = some j
  started : j.started = true
  visible : j.plan.length ≤ j.committed
  faultless : j.fault = none
  core : j.core = some c
  unbound : j.node = none
  runs : s.runs j.part j.ctx = true
  takes : s.takesWord c j.job = true
  nobody : s.waiters .queue (1000 + k) = []

/-- The job leaves the queue and its mailbox is filled, with status 1, or 2 for a mismatch. -/
theorem State.Ends.jobDone (h : s.Ends k j c) : ∃ scope, s.jobDone k
    = ((s.restoreStates j).dropJob k j).fillMailbox c j.ctx j.job (if j.mismatch then 2 else 1) j.drops.length scope := by
  have hmem : s.memOnly (s.restoreStates j) := s.memOnly_restoreStates j
  have htakes := hmem.takesWord_dropJob k j c j.job ▸ h.takes
  have hruns := hmem.runs_dropJob k j j.part j.ctx ▸ h.runs
  have hnobody := hmem.waiters_dropJob k j .queue (1000 + k) ▸ h.nobody
  rw [State.jobDone_closes h.current h.started h.visible h.faultless, State.closeJob_fills h.core h.unbound hruns, State.serveQueue_nobody]
  · exact ⟨_, rfl⟩
  · rw [State.waiters_fillMailbox htakes _ _ _ _ (by decide), hnobody]

/-- Where memory has its canonical form, the mailbox's word reads the dropped count, the sequence number and the status. -/
theorem State.Ends.peekWord (h : s.Ends k j c) (hm : Canonical s.mem) : (s.jobDone k).peekWord (s.boxAddr c j.ctx (j.job.toNat % 32))
    = BitVec.ofNat 64 (min j.drops.length 0xFFFFFFFF * 2 ^ 32 + (s.mailbox c (j.job.toNat % 32)).seq.toNat * 256
      + (if j.mismatch then 2 else 1)) := by
  obtain ⟨scope, hdone⟩ := h.jobDone
  have hmem : s.memOnly (s.restoreStates j) := s.memOnly_restoreStates j
  have htakes := hmem.takesWord_dropJob k j c j.job ▸ h.takes
  rw [hdone, State.fillMailbox_takes htakes, hmem.mailbox_dropJob, ← hmem.boxAddr_dropJob k j]
  exact State.peekWord_pokeWord (State.restoreStates_wf s j hm) ..

end

/-! ## The counterexample -/

/-- A copy job of core 0 that has started and has nothing to write, with mailbox 0. -/
def endedCopy : CopyJob :=
  let empty (off : Nat) : BitVec 128 := oMake false false 0 0 (padPtr (.core 0) off)
  { copyJob 0x100 (some 0) 0 1 0 0 none 0 (empty 0x1000) (empty 0x2000) none none with started := true }

/-- The place of the dropped count in the word of mailbox 0 of core 0. -/
def droppedAt : Nat := State.reset.boxAddr 0 0 0 + 4

/-- The state in which the job ends. Its memory lists one address twice, which no memory of the canonical form does. -/
def twiceListed : State :=
  { State.reset with
    clusters := [(0, { Cluster.initial with jobs := [endedCopy] })]
    cores := [(0, { Core.initial with
      mailboxes := Core.initial.mailboxes.set 0 { taken := true, seq := 1, owner := 1, full := false, scope := 0 } })]
    mem := [(droppedAt, 1), (droppedAt, 1)] }

/-- The job is at its end. -/
theorem twiceListed_ends : twiceListed.Ends 0 endedCopy 0 where
  current := by decide +kernel
  started := rfl
  visible := Nat.le_refl _
  faultless := rfl
  core := rfl
  unbound := rfl
  runs := rfl
  takes := rfl
  nobody := rfl

/-- The dropped count of 0 that the fill writes takes the first of the two bytes off the list, and the second one is read in its place. -/
theorem twiceListed_word : (twiceListed.jobDone 0).peekWord (twiceListed.boxAddr 0 0 0) = BitVec.ofNat 64 (1 * 2 ^ 32 + 1 * 256 + 1) := by
  decide +kernel

/-- Refutes O31: its FABRIC_JOB_COMPLETE clause reads the mailbox's word back in every memory, also in a list of bytes that has not the canonical
form of log entry 3. Where an address is listed twice, a 0 that is written there is not what is read. No run comes to such a list,
since what is executed keeps the form, and in a memory that has it the word is the one that the clause gives (`State.Ends.peekWord`). Only that
clause is refuted here. -/
theorem not_copiesAreAcceptedAndRun : ¬ Obligations.CopiesAreAcceptedAndRun := by
  rintro ⟨-, hjobs, -⟩
  have h : twiceListed.Ends 0 endedCopy 0 := twiceListed_ends
  obtain ⟨htaken, hseq, hfull, howner⟩ := State.takesWord_iff.mp h.takes
  obtain ⟨-, -, hends⟩ := hjobs twiceListed 0 endedCopy h.current
  obtain ⟨t, hexec, -, -, hword⟩ :=
    hends 0 h.started h.visible h.faultless h.core h.unbound h.runs htaken hfull hseq howner h.nobody
  have ht : twiceListed.jobDone 0 = t := Host.Outcome.next.inj hexec
  have hclaimed : (twiceListed.jobDone 0).peekWord (twiceListed.boxAddr 0 0 0) = BitVec.ofNat 64 (0 * 2 ^ 32 + 1 * 256 + 1) := ht ▸ hword
  rw [twiceListed_word] at hclaimed
  exact absurd hclaimed (by decide)

end Sys2Proof.Machine
end

section
/-!
PROOFS. What every instruction, event and step has in common: it leads to a next state (O48), it is one of the things that may happen (O50),
and it keeps memory in its canonical form (O55), which memory has at reset (O54).
-/

open Sys2Proof.Claims

namespace Sys2Proof.Machine

/-! ## The canonical form of memory (log entry 3) -/

/-- Whatever is executed keeps memory canonical: each instruction and each event by the law of its meaning. -/
theorem exec_canonical {s t : State} (hm : Canonical s.mem) : (i : Instr) → exec i s = .next t → Canonical t.mem
  | .nop f => execNop_canonical f s hm
  | .add f => execAdd_canonical f s hm
  | .sub f => execSub_canonical f s hm
  | .mul f => execMul_canonical f s hm
  | .mulh f => execMulh_canonical f s hm
  | .div f => execDiv_canonical f s hm
  | .rem f => execRem_canonical f s hm
  | .and f => execAnd_canonical f s hm
  | .or f => execOr_canonical f s hm
  | .xor f => execXor_canonical f s hm
  | .andn f => execAndn_canonical f s hm
  | .shl f => execShl_canonical f s hm
  | .shr f => execShr_canonical f s hm
  | .sra f => execSra_canonical f s hm
  | .ror f => execRor_canonical f s hm
  | .min f => execMin_canonical f s hm
  | .max f => execMax_canonical f s hm
  | .cmp f => execCmp_canonical f s hm
  | .cmpp f => execCmpp_canonical f s hm
  | .sel f => execSel_canonical f s hm
  | .li f => execLi_canonical f s hm
  | .liH f => execLiH_canonical f s hm
  | .clz f => execClz_canonical f s hm
  | .ctz f => execCtz_canonical f s hm
  | .popc f => execPopc_canonical f s hm
  | .brev f => execBrev_canonical f s hm
  | .ext f => execExt_canonical f s hm
  | .ins f => execIns_canonical f s hm
  | .pdep f => execPdep_canonical f s hm
  | .pext f => execPext_canonical f s hm
  | .gfm f => execGfm_canonical f s hm
  | .bperm f => execBperm_canonical f s hm
  | .br f => execBr_canonical f s hm
  | .bz f => execBz_canonical f s hm
  | .bnz f => execBnz_canonical f s hm
  | .bp f => execBp_canonical f s hm
  | .call f => execCall_canonical f s hm
  | .callr f => execCallr_canonical f s hm
  | .jmp f => execJmp_canonical f s hm
  | .ret f => execRet_canonical f s hm
  | .loop f => execLoop_canonical f s hm
  | .lexit f => execLexit_canonical f s hm
  | .mfl f => execMfl_canonical f s hm
  | .mtl f => execMtl_canonical f s hm
  | .trap f => execTrap_canonical f s hm
  | .ld f => execLd_canonical f s hm
  | .st f => execSt_canonical f s hm
  | .ldo f => execLdo_canonical f s hm
  | .sto f => execSto_canonical f s hm
  | .alloc f => execAlloc_canonical f s hm
  | .olen f => execOlen_canonical f s hm
  | .omov f => execOmov_canonical f s hm
  | .oview f => execOview_canonical f s hm
  | .oeq f => execOeq_canonical f s hm
  | .acq f => execAcq_canonical f s hm
  | .rel f => execRel_canonical f s hm
  | .osync f => execOsync_canonical f s hm
  | .odrop f => execOdrop_canonical f s hm
  | .pin f => execPin_canonical f s hm
  | .unpin f => execUnpin_canonical f s hm
  | .seal f => execSeal_canonical f s hm
  | .okind f => execOkind_canonical f s hm
  | .ldc f => execLdc_canonical f s hm
  | .stc f => execStc_canonical f s hm
  | .hdl f => execHdl_canonical f s hm
  | .pref f => execPref_canonical f s hm
  | .fence f => execFence_canonical f s hm
  | .vadd f => execVadd_canonical f s hm
  | .vsub f => execVsub_canonical f s hm
  | .vmul f => execVmul_canonical f s hm
  | .vmulh f => execVmulh_canonical f s hm
  | .vmad f => execVmad_canonical f s hm
  | .vmin f => execVmin_canonical f s hm
  | .vmax f => execVmax_canonical f s hm
  | .vabs f => execVabs_canonical f s hm
  | .vand f => execVand_canonical f s hm
  | .vor f => execVor_canonical f s hm
  | .vxor f => execVxor_canonical f s hm
  | .vshl f => execVshl_canonical f s hm
  | .vshr f => execVshr_canonical f s hm
  | .vsra f => execVsra_canonical f s hm
  | .vcmp f => execVcmp_canonical f s hm
  | .vsel f => execVsel_canonical f s hm
  | .vgfm f => execVgfm_canonical f s hm
  | .vpdep f => execVpdep_canonical f s hm
  | .vpext f => execVpext_canonical f s hm
  | .vbperm f => execVbperm_canonical f s hm
  | .vdot4 f => execVdot4_canonical f s hm
  | .vred f => execVred_canonical f s hm
  | .vscan f => execVscan_canonical f s hm
  | .vsplat f => execVsplat_canonical f s hm
  | .viota f => execViota_canonical f s hm
  | .vget f => execVget_canonical f s hm
  | .vput f => execVput_canonical f s hm
  | .vfadd f => execVfadd_canonical f s hm
  | .vfsub f => execVfsub_canonical f s hm
  | .vfmul f => execVfmul_canonical f s hm
  | .vfma f => execVfma_canonical f s hm
  | .vfmin f => execVfmin_canonical f s hm
  | .vfmax f => execVfmax_canonical f s hm
  | .vrcp f => execVrcp_canonical f s hm
  | .vrsq f => execVrsq_canonical f s hm
  | .vexp2 f => execVexp2_canonical f s hm
  | .vlog2 f => execVlog2_canonical f s hm
  | .vfcmp f => execVfcmp_canonical f s hm
  | .vfred f => execVfred_canonical f s hm
  | .vfscan f => execVfscan_canonical f s hm
  | .vcvt f => execVcvt_canonical f s hm
  | .vcvti f => execVcvti_canonical f s hm
  | .vscacc f => execVscacc_canonical f s hm
  | .vcbx f => execVcbx_canonical f s hm
  | .vwacc f => execVwacc_canonical f s hm
  | .vwget f => execVwget_canonical f s hm
  | .vld f => execVld_canonical f s hm
  | .vst f => execVst_canonical f s hm
  | .vlds f => execVlds_canonical f s hm
  | .vsts f => execVsts_canonical f s hm
  | .vgath f => execVgath_canonical f s hm
  | .vscat f => execVscat_canonical f s hm
  | .vldpk f => execVldpk_canonical f s hm
  | .vstpk f => execVstpk_canonical f s hm
  | .vperm f => execVperm_canonical f s hm
  | .vcomp f => execVcomp_canonical f s hm
  | .vexpd f => execVexpd_canonical f s hm
  | .vwhile f => execVwhile_canonical f s hm
  | .vlen f => execVlen_canonical f s hm
  | .pand f => execPand_canonical f s hm
  | .por f => execPor_canonical f s hm
  | .pxor f => execPxor_canonical f s hm
  | .pnot f => execPnot_canonical f s hm
  | .pcnt f => execPcnt_canonical f s hm
  | .pset f => execPset_canonical f s hm
  | .gld f => execGld_canonical f s hm
  | .gst f => execGst_canonical f s hm
  | .grank f => execGrank_canonical f s hm
  | .vsbp f => execVsbp_canonical f s hm
  | .mma f => execMma_canonical f s hm
  | .msbp f => execMsbp_canonical f s hm
  | .mzero f => execMzero_canonical f s hm
  | .mdrain f => execMdrain_canonical f s hm
  | .mread f => execMread_canonical f s hm
  | .mloop f => execMloop_canonical f s hm
  | .mscale f => execMscale_canonical f s hm
  | .cbld f => execCbld_canonical f s hm
  | .mtab f => execMtab_canonical f s hm
  | .nbmv f => execNbmv_canonical f s hm
  | .mkld f => execMkld_canonical f s hm
  | .mkcls f => execMkcls_canonical f s hm
  | .mkapp f => execMkapp_canonical f s hm
  | .mkappBias f => execMkappBias_canonical f s hm
  | .mkcnt f => execMkcnt_canonical f s hm
  | .agx f => execAgx_canonical f s hm
  | .fld f => execFld_canonical f s hm
  | .ftake f => execFtake_canonical f s hm
  | .fput f => execFput_canonical f s hm
  | .fset f => execFset_canonical f s hm
  | .fclr f => execFclr_canonical f s hm
  | .amo f => execAmo_canonical f s hm
  | .cas f => execCas_canonical f s hm
  | .cas2 f => execCas2_canonical f s hm
  | .fork f => execFork_canonical f s hm
  | .join f => execJoin_canonical f s hm
  | .halt f => execHalt_canonical f s hm
  | .haltRetain f => execHaltRetain_canonical f s hm
  | .yield f => execYield_canonical f s hm
  | .send f => execSend_canonical f s hm
  | .sendSpawn f => execSendSpawn_canonical f s hm
  | .recv f => execRecv_canonical f s hm
  | .cpy f => execCpy_canonical f s hm
  | .cpyNode f => execCpyNode_canonical f s hm
  | .sgld f => execSgld_canonical f s hm
  | .jwait f => execJwait_canonical f s hm
  | .jpoll f => execJpoll_canonical f s hm
  | .tgnode f => execTgnode_canonical f s hm
  | .tgedge f => execTgedge_canonical f s hm
  | .tgrun f => execTgrun_canonical f s hm
  | .sigdecl f => execSigdecl_canonical f s hm
  | .coll f => execColl_canonical f s hm
  | .idle f => execIdle_canonical f s hm
  | .mfc f => execMfc_canonical f s hm
  | .mtc f => execMtc_canonical f s hm
  | .eret f => execEret_canonical f s hm
  | .hnew f => execHnew_canonical f s hm
  | .hrev f => execHrev_canonical f s hm
  | .rgset f => execRgset_canonical f s hm
  | .stoprd f => execStoprd_canonical f s hm
  | .ctxsv f => execCtxsv_canonical f s hm
  | .ctxld f => execCtxld_canonical f s hm
  | .wftrd f => execWftrd_canonical f s hm
  | .mgrd f => execMgrd_canonical f s hm
  | .mgwr f => execMgwr_canonical f s hm
  | .tenset f => execTenset_canonical f s hm
  | .atlog f => execAtlog_canonical f s hm
  | .migration t => execMigration_canonical t s hm
  | .deferredResultWrite t n lanes => execDeferredResultWrite_canonical t n lanes s hm
  | .dequePop c => execDequePop_canonical c s hm
  | .steal c => execSteal_canonical c s hm
  | .spillReturn c => execSpillReturn_canonical c s hm
  | .forkPlace t => execForkPlace_canonical t s hm
  | .fullEmptyRetry word => execFullEmptyRetry_canonical word s hm
  | .joinWake t => execJoinWake_canonical t s hm
  | .acqGrant t => execAcqGrant_canonical t s hm
  | .jwaitWake t => execJwaitWake_canonical t s hm
  | .idleWake t => execIdleWake_canonical t s hm
  | .messageArrival n => execMessageArrival_canonical n s hm
  | .spawnPush c => execSpawnPush_canonical c s hm
  | .recvDelivery t => execRecvDelivery_canonical t s hm
  | .sendInboxEntry c => execSendInboxEntry_canonical c s hm
  | .icoldWrite c e v => execIcoldWrite_canonical c e v s hm
  | .tgNodeReady d n => execTgNodeReady_canonical d n s hm
  | .tgNodeFinish d n => execTgNodeFinish_canonical d n s hm
  | .tgHeldPlace d => execTgHeldPlace_canonical d s hm
  | .copyNodeKick d n => execCopyNodeKick_canonical d n s hm
  | .powerLeaveGrant n => execPowerLeaveGrant_canonical n s hm
  | .tilePass k => execTilePass_canonical k s hm
  | .nbmvJobStart stack => execNbmvJobStart_canonical stack s hm
  | .nbmvJobComplete stack => execNbmvJobComplete_canonical stack s hm
  | .fabricJobStart k => execFabricJobStart_canonical k s hm
  | .chunkCommit k => execChunkCommit_canonical k s hm
  | .fabricJobComplete k => execFabricJobComplete_canonical k s hm
  | .collRoundComplete n => execCollRoundComplete_canonical n s hm
  | .prefCopyComplete c ptr => execPrefCopyComplete_canonical c ptr s hm
  | .collection u colour => execCollection_canonical u colour s hm
  | .collectionEnd u colour => execCollectionEnd_canonical u colour s hm
  | .regionEvacuation p d colour => execRegionEvacuation_canonical p d colour s hm
  | .glcmdGo d unit v => execGlcmdGo_canonical d unit v s hm
  | .glpauseRead d unit => execGlpauseRead_canonical d unit s hm
  | .qtailWrite p q v => execQtailWrite_canonical p q v s hm
  | .qctlEnable p q v => execQctlEnable_canonical p q v s hm
  | .launchSelect io => execLaunchSelect_canonical io s hm
  | .launchRootPlace io => execLaunchRootPlace_canonical io s hm
  | .launchComplete l => execLaunchComplete_canonical l s hm
  | .derrWrite io v => execDerrWrite_canonical io v s hm
  | .partitionWrite p off v => execPartitionWrite_canonical p off v s hm
  | .sliceBoundary p time => execSliceBoundary_canonical p time s hm
  | .contextSwap p ctx => execContextSwap_canonical p ctx s hm
  | .haltReport p => execHaltReport_canonical p s hm
  | .agentStop a => execAgentStop_canonical a s hm
  | .hresGo p => execHresGo_canonical p s hm
  | .hresHandler p => execHresHandler_canonical p s hm
  | .hresEnd p => execHresEnd_canonical p s hm
  | .waitAbort p => execWaitAbort_canonical p s hm
  | .mCoreFault t => execMCoreFault_canonical t s hm
  | .vigilScan d => execVigilScan_canonical d s hm
  | .remoteStoreRefused t => execRemoteStoreRefused_canonical t s hm
  | .routerDelivery n => execRouterDelivery_canonical n s hm
  | .atomicResponseError t n => execAtomicResponseError_canonical t n s hm
  | .hostAccess what addr bytes => execHostAccess_canonical what addr bytes s hm
  | .correctedError loc time => execCorrectedError_canonical loc time s hm
  | .uncorrectableError loc => execUncorrectableError_canonical loc s hm
  | .lastingFaultAction loc => execLastingFaultAction_canonical loc s hm
  | .errorWindowLapse loc time => execErrorWindowLapse_canonical loc time s hm
  | .flitReceive port seq ack good nack payload => execFlitReceive_canonical port seq ack good nack payload s hm
  | .flitReplay port seq => execFlitReplay_canonical port seq s hm
  | .linkTraining port range number => execLinkTraining_canonical port range number s hm
  | .portDown port => execPortDown_canonical port s hm
  | .ethernetFrame port sent ptp frame => execEthernetFrame_canonical port sent ptp frame s hm
  | .boot results => execBoot_canonical results s hm
  | .coldStartWarming dies bases => execColdStartWarming_canonical dies bases s hm
  | .warmingTimeout => execWarmingTimeout_canonical s hm
  | .attestationRequest nonce => execAttestationRequest_canonical nonce s hm
  | .clockStretch k steps => execClockStretch_canonical k steps s hm
  | .stretchRelax k => execStretchRelax_canonical k s hm
  | .stretchCountRead k steps => execStretchCountRead_canonical k steps s hm
  | .ctlRun ch v => execCtlRun_canonical ch v s hm
  | .ctlQuiesce ch v => execCtlQuiesce_canonical ch v s hm
  | .ctlTrainMode ch v => execCtlTrainMode_canonical ch v s hm
  | .ctlWriteApply ch => execCtlWriteApply_canonical ch s hm
  | .patternRunDone ch good => execPatternRunDone_canonical ch good s hm
  | .rdlyWrite ch lane v => execRdlyWrite_canonical ch lane v s hm
  | .wdlyWrite ch lane v => execWdlyWrite_canonical ch lane v s hm
  | .repairWrite ch v => execRepairWrite_canonical ch v s hm
  | .autoRetrain ch temp => execAutoRetrain_canonical ch temp s hm
  | .autoRetrainDone ch => execAutoRetrainDone_canonical ch s hm
  | .mgmtRegisterWrite addr v => execMgmtRegisterWrite_canonical addr v s hm
  | .undecodableParcel code => execUndecodableParcel_canonical code s hm
  | .storeBufferDrain t home => execStoreBufferDrain_canonical t home s hm
  | .priResponse n ok => execPriResponse_canonical n ok s hm
  | .firmwareKernelStart c code argument entry => execFirmwareKernelStart_canonical c code argument entry s hm
  | .firmwareMailboxMessage m => execFirmwareMailboxMessage_canonical m s hm
  | .deviceControl2Write fn enable => execDeviceControl2Write_canonical fn enable s hm
  | .referenceClockTick d => execReferenceClockTick_canonical d s hm

/-- Settles O55: each instruction and event by its own law; a step executes one of them, and its choice writes no memory. -/
theorem stepsKeepMemoryCanonical : Obligations.StepsKeepMemoryCanonical :=
  ⟨fun i _ _ hm => exec_canonical hm i, fun s _ hm => exec_canonical (hm := (s.pickNext_mem).symm ▸ hm) s.pickNext.2⟩

/-- Settles O54: at reset no slot, no agenda and no byte is listed. -/
theorem resetMemoryIsEmpty : Obligations.ResetMemoryIsEmpty :=
  ⟨fun _ => rfl, rfl, rfl, fun _ => rfl⟩

/-! ## The next state, and the choice of what happens (log entry 1) -/

/-- Whatever is executed leads to a next state: an instruction runs, and an event happens. -/
theorem exec_next (i : Instr) (s : State) : ∃ t, exec i s = .next t := by
  cases h : i.parts with
  | some q =>
    obtain ⟨body, hrun⟩ := exec_issue h
    exact ⟨_, (hrun s).trans rfl⟩
  | none =>
    obtain ⟨g, hevent⟩ := exec_event h
    exact ⟨g s, hevent s⟩

/-- Settles O48: `exec` answers a next state, and a step is an `exec`. -/
theorem everyInstructionLeadsToANextState : Obligations.EveryInstructionLeadsToANextState :=
  ⟨exec_next, fun s => exec_next s.pickNext.2 s.pickNext.1⟩

/-- With several things that may happen, the free value takes one of them. -/
theorem State.pickNext_several {s : State} {a b : Choice} {cs : List Choice} (h : s.choices = a :: b :: cs) :
    ∃ ch ∈ s.choices, s.pickNext = s.fresh.2.start ch := by
  refine ⟨(a :: b :: cs).getD (Config.pick s.free % (cs.length + 2)) a, ?_, ?_⟩
  · have hlt : Config.pick s.free % (cs.length + 2) < (a :: b :: cs).length := Nat.mod_lt _ (by omega)
    rw [h, List.getD_eq_getElem _ _ hlt]
    exact List.getElem_mem hlt
  · cases a <;> simp only [State.pickNext, h] <;> rfl

/-- Settles O50: nothing, several things, or one event may happen. -/
theorem stepTakesOneOfTheChoices : Obligations.StepTakesOneOfTheChoices := by
  intro s
  refine ⟨fun h => ?nothing, fun a b cs h => ?several, fun i h => ?event⟩
  case nothing =>
    simp only [step, State.pickNext, h]
    rfl
  case several =>
    obtain ⟨ch, hmem, hpick⟩ := State.pickNext_several h
    exact ⟨ch, hmem, by rw [step, hpick]⟩
  case event =>
    have hone : Config.pick s.free % 1 = 0 := Nat.mod_one _
    have hpick : s.pickNext = s.fresh.2.start (.event i) := by
      simp only [State.pickNext, h]
      exact congrArg (fun j => s.fresh.2.start ([Choice.event i].getD j (.event i))) hone
    rw [step, hpick]
    rfl

end Sys2Proof.Machine
end

section
/-!
PROOFS. Transfers of control: taken, not taken, and to an illegal target (R65, R277, R306, R340), the loop instructions and the loop-end
check (R311, R312, R317), and the two statements put together from that (O3, O4).
-/

open Sys2Proof.Claims

namespace Sys2Proof.Machine

variable {s : State} {f : Fields} {o : Op} {t : Word64} {body : State → Res}

/-! ## A taken transfer (R61, R277) -/

/-- A task that is written back as it stands is no other task for the switch point that follows. -/
theorem State.switchAt_setMe_me (s : State) : (s.setMe s.me).switchAt s.cur = s.switchAt s.cur := by
  have hme : (s.setMe s.me).task s.cur = s.task s.cur := State.task_cur_setMe ..
  have hset (v : Task) : (s.setMe s.me).setTask s.cur v = s.setTask s.cur v := State.setTask_setTask ..
  simp only [State.switchAt, State.landAll, hme, hset]

/-- Nor for a transfer. -/
theorem transfers_setMe_me (s : State) (a : Word32) : transfers s (s.setMe s.me) a = transfers s s a := by
  simp only [transfers, State.switchAt_setMe_me]

/-- A transfer to a legal target is taken, with its change to the task. -/
theorem run_transfer {change : Task → Task} (h : s.issues o f = true) (hb : body s = transfer t change s) (ht : s.targetOk t = true) :
    run o f body s = transfers s (s.setMe (change s.me)) (t.setWidth 32) :=
  run_jump h (by rw [hb, transfer, if_neg (by simp [ht])])

/-- A transfer that changes nothing else of the task. -/
theorem run_transfer_only (h : s.issues o f = true) (hb : body s = transfer t id s) (ht : s.targetOk t = true) :
    run o f body s = transfers s s (t.setWidth 32) :=
  (run_transfer h hb ht).trans (transfers_setMe_me ..)

/-- A transfer to an illegal target raises `branch-target`, and nothing is written (R65). -/
theorem run_transfer_illegal {change : Task → Task} (h : s.issues o f = true) (hb : body s = transfer t change s)
    (ht : s.targetOk t = false) : run o f body s = faults s s { code := .branchTarget, offset := t } :=
  run_fault h (by rw [hb, transfer, if_pos (by simp [ht])]) (Bool.and_false _) FaultCode.noConfusion

/-- A conditional branch whose condition holds is a transfer over {D,B}. -/
theorem branchIf_holds {c : Bool} (hb : body s = branchIf c f s) (hc : c = true) :
    body s = transfer (relTarget s.me (offDB f)) id s := by
  rw [hb, branchIf, if_pos hc]

/-- It is taken to a legal target. -/
theorem run_branch {c : Bool} (h : s.issues o f = true) (hb : body s = branchIf c f s) (hc : c = true)
    (ht : s.targetOk (relTarget s.me (offDB f)) = true) :
    run o f body s = transfers s s ((relTarget s.me (offDB f)).setWidth 32) :=
  run_transfer_only h (branchIf_holds hb hc) ht

/-- To an illegal target it raises `branch-target` (R65). -/
theorem run_branch_illegal {c : Bool} (h : s.issues o f = true) (hb : body s = branchIf c f s) (hc : c = true)
    (ht : s.targetOk (relTarget s.me (offDB f)) = false) :
    run o f body s = faults s s { code := .branchTarget, offset := relTarget s.me (offDB f) } :=
  run_transfer_illegal h (branchIf_holds hb hc) ht

/-- A conditional branch whose condition fails falls through. -/
theorem run_branch_fails {c : Bool} (h : s.issues o f = true) (hb : body s = branchIf c f s) (hc : c = false) :
    run o f body s = completes s s f :=
  run_ok h (by rw [hb, branchIf, if_neg (by simp [hc])])

/-- BP's test, as its entry gives it for each value of Z. -/
theorem bpHolds_iff (u : Task) : bpHolds u f = true ↔
    if f.z = 0 then u.getP f.a &&& u.pMask ≠ 0 else if f.z = 1 then u.getP f.a &&& u.pMask = u.pMask else u.getP f.a &&& u.pMask = 0 := by
  have hz : f.z = 0 ∨ f.z = 1 ∨ f.z = 2 ∨ f.z = 3 := by generalize f.z = z; revert z; decide
  rcases hz with hz | hz | hz | hz <;> simp [bpHolds, hz]

/-- A task whose link register holds the return address. -/
def linked (f : Fields) (u : Task) : Task := u.setX lr ((nextPc u f).setWidth 64)

/-- Settles O3: each transfer taken and refused, and each conditional branch not taken. -/
theorem branchesAndTheirTargets : Obligations.BranchesAndTheirTargets := by
  refine ⟨fun f s => ?taken, fun f s => ?illegal⟩
  case taken =>
    intro xa near far pa takes link go call on
    exact ⟨fun h ht => run_transfer_only h rfl ht,
      fun h hx ht => run_branch h rfl (beq_iff_eq.mpr hx) ht,
      fun h hx => run_branch_fails h rfl (beq_eq_false_iff_ne.mpr hx),
      fun h hx ht => run_branch h rfl (bne_iff_ne.mpr hx) ht,
      fun h hx => run_branch_fails h rfl (bne_eq_false_iff_eq.mpr hx),
      fun h hp ht => run_branch h rfl ((bpHolds_iff _).mpr hp) ht,
      fun h hp => run_branch_fails h rfl (Bool.eq_false_iff.mpr (mt (bpHolds_iff _).mp hp)),
      fun h ht => run_transfer (change := linked f) h rfl ht, fun h ht => run_transfer (change := linked f) h rfl ht,
      fun h ht => run_transfer_only h rfl ht, fun h ht => run_transfer_only h rfl ht⟩
  case illegal =>
    intro xa near far pa takes bad
    exact ⟨fun h ht => run_transfer_illegal h rfl ht,
      fun h hx ht => run_branch_illegal h rfl (beq_iff_eq.mpr hx) ht,
      fun h hx ht => run_branch_illegal h rfl (bne_iff_ne.mpr hx) ht,
      fun h hp ht => run_branch_illegal h rfl ((bpHolds_iff _).mpr hp) ht,
      fun h ht => run_transfer_illegal h rfl ht, fun h ht => run_transfer_illegal h rfl ht, fun h ht => run_transfer_illegal h rfl ht,
      fun h ht => run_transfer_illegal h rfl ht, fun h ht => run_transfer_illegal h rfl ht⟩

/-! ## Loops (R311, R312, R317) -/

/-- The parcels of the instruction at a parcel address: one where no code is. -/
def State.lenAt (s : State) (e : Word64) : Nat :=
  match parcelsAt (s.codeOf s.myCore) e.toNat with
  | p :: _ => lenOf p
  | [] => 1

/-- As a word. -/
theorem State.lenAt_word (s : State) (e : Word64) : BitVec.ofNat 64 (s.lenAt e) =
    match parcelsAt (s.codeOf s.myCore) e.toNat with
    | p :: _ => BitVec.ofNat 64 (lenOf p)
    | [] => 1 := by
  unfold State.lenAt
  cases parcelsAt (s.codeOf s.myCore) e.toNat <;> rfl

/-- LOOP arms its level with the address after it, its end and its count, and goes past the end at once with a count of 0 (R311). -/
theorem loopBody_arms (he : (nextPc s.me f).toNat ≤ (relTarget s.me (offDB f)).toNat) (ht : s.targetOk (relTarget s.me (offDB f)) = true) :
    loopBody f s =
      let armed := s.me.arm (f.z == 1) ((nextPc s.me f).setWidth 64) (relTarget s.me (offDB f)) (s.me.getX f.a)
      if s.me.getX f.a ≠ 0 then .ok (s.setMe armed)
      else transfer (relTarget s.me (offDB f) + BitVec.ofNat 64 (s.lenAt (relTarget s.me (offDB f)))) (fun _ => armed) s := by
  have hin : ((decide ((relTarget s.me (offDB f)).toNat < (nextPc s.me f).toNat)) || !s.targetOk (relTarget s.me (offDB f))) = false := by
    simp [ht, Nat.not_lt.mpr he]
  simp only [loopBody, hin, Bool.false_eq_true, if_false, bne_iff_ne]
  rfl

/-- Arming a level, as the levels' registers. -/
theorem Task.arm_eq (u : Task) (z : BitVec 2) (ls le lc : Word64) : u.arm (z == 1) ls le lc =
    if z = 1 then { u with ls1 := ls, le1 := le, lc1 := lc } else { u with ls0 := ls, le0 := le, lc0 := lc } := by
  simp only [Task.arm, beq_iff_eq]

/-- MTL writes a count, and any legal start or end. -/
theorem mtlBody_writes (h : f.d.toNat % 3 = 2 ∨ s.me.getX f.a = 0 ∨ s.targetOk (s.me.getX f.a) = true) :
    mtlBody f s = .ok (s.setMe (s.me.setLoop f.d (s.me.getX f.a))) := by
  have hlegal : (f.d.toNat % 3 != 2 && s.me.getX f.a != 0 && !s.targetOk (s.me.getX f.a)) = false := by
    rcases h with h | h | h <;> simp [h]
  simp only [mtlBody, hlegal, Bool.false_eq_true, if_false]

section
variable {u : Task} {len : Nat}

/-- Level 1 ends at the pc, with a count that is not 0. -/
theorem Task.atEnd1_iff : (u.pc.setWidth 64 == u.le1 && u.lc1 != 0) = true ↔ u.le1 = u.pc.setWidth 64 ∧ u.lc1 ≠ 0 := by
  rw [Bool.and_eq_true, beq_iff_eq, bne_iff_ne, eq_comm]

/-- So for level 0. -/
theorem Task.atEnd0_iff : (u.pc.setWidth 64 == u.le0 && u.lc0 != 0) = true ↔ u.le0 = u.pc.setWidth 64 ∧ u.lc0 ≠ 0 := by
  rw [Bool.and_eq_true, beq_iff_eq, bne_iff_ne, eq_comm]

/-- The loop-end check of level 0, which follows that of level 1. -/
def Task.fallThrough0 (u : Task) (len : Nat) : Task × Bool :=
  if u.pc.setWidth 64 == u.le0 && u.lc0 != 0 then
    if 1 < u.lc0.toNat then ({ u with lc0 := u.lc0 - 1, pc := u.ls0.setWidth 32 }, true)
    else ({ u with lc0 := 0, pc := u.pc + BitVec.ofNat 32 len }, false)
  else ({ u with pc := u.pc + BitVec.ofNat 32 len }, false)

/-- Level 1 is checked first, and disarmed where it falls through. -/
theorem Task.fallThrough_eq : u.fallThrough len =
    if u.pc.setWidth 64 == u.le1 && u.lc1 != 0 then
      if 1 < u.lc1.toNat then ({ u with lc1 := u.lc1 - 1, pc := u.ls1.setWidth 32 }, true)
      else { u with lc1 := 0 }.fallThrough0 len
    else u.fallThrough0 len := rfl

/-- Level 0 wraps while its count is above 1. -/
theorem Task.fallThrough0_wraps (h : u.le0 = u.pc.setWidth 64 ∧ u.lc0 ≠ 0) (hn : 1 < u.lc0.toNat) :
    u.fallThrough0 len = ({ u with lc0 := u.lc0 - 1, pc := u.ls0.setWidth 32 }, true) := by
  rw [fallThrough0, if_pos (atEnd0_iff.mpr h), if_pos hn]

/-- It falls through at 1, and is disarmed. -/
theorem Task.fallThrough0_ends (h : u.le0 = u.pc.setWidth 64 ∧ u.lc0 ≠ 0) (hn : u.lc0 = 1) :
    u.fallThrough0 len = ({ u with lc0 := 0, pc := u.pc + BitVec.ofNat 32 len }, false) := by
  rw [fallThrough0, if_pos (atEnd0_iff.mpr h), if_neg (by simp [hn])]

/-- Elsewhere the next parcel address follows. -/
theorem Task.fallThrough0_next (h : ¬ (u.le0 = u.pc.setWidth 64 ∧ u.lc0 ≠ 0)) :
    u.fallThrough0 len = ({ u with pc := u.pc + BitVec.ofNat 32 len }, false) := by
  rw [fallThrough0, if_neg (mt atEnd0_iff.mp h)]

/-- Level 1 wraps while its count is above 1. -/
theorem Task.fallThrough_wraps (h : u.le1 = u.pc.setWidth 64 ∧ u.lc1 ≠ 0) (hn : 1 < u.lc1.toNat) :
    u.fallThrough len = ({ u with lc1 := u.lc1 - 1, pc := u.ls1.setWidth 32 }, true) := by
  rw [fallThrough_eq, if_pos (atEnd1_iff.mpr h), if_pos hn]

/-- At 1 it is disarmed, and level 0 is checked. -/
theorem Task.fallThrough_ends (h : u.le1 = u.pc.setWidth 64 ∧ u.lc1 ≠ 0) (hn : u.lc1 = 1) :
    u.fallThrough len = { u with lc1 := 0 }.fallThrough0 len := by
  rw [fallThrough_eq, if_pos (atEnd1_iff.mpr h), if_neg (by simp [hn])]

/-- Elsewhere level 0 is checked. -/
theorem Task.fallThrough_next (h : ¬ (u.le1 = u.pc.setWidth 64 ∧ u.lc1 ≠ 0)) : u.fallThrough len = u.fallThrough0 len := by
  rw [fallThrough_eq, if_neg (mt atEnd1_iff.mp h)]

end

/-- Settles O4: each loop instruction, and each way to fall through. -/
theorem loopsArmAndWrap : Obligations.LoopsArmAndWrap := by
  refine ⟨fun f s => ?instructions, fun u len => ?falls⟩
  case instructions =>
    intro n e next far armed past
    have harm : s.me.arm (f.z == 1) (next.setWidth 64) e n = armed := Task.arm_eq ..
    refine ⟨fun h he ht hn => ?_, fun h he ht hn hpast => ?_, fun h ht => ?_, fun h => run_ok h rfl, fun h hv => run_ok h (mtlBody_writes hv)⟩
    · refine run_ok h ?_
      rw [loopBody_arms he ht, ← harm]
      exact if_pos hn
    · have hlen : e + BitVec.ofNat 64 (s.lenAt e) = past := congrArg (e + ·) (s.lenAt_word e)
      have hbody : loopBody f s = transfer past (fun _ => armed) s := by
        rw [loopBody_arms he ht, ← harm, ← hlen]
        exact if_neg (not_not.mpr hn)
      exact run_transfer h hbody hpast
    · refine (run_transfer h rfl ht).trans ?_
      simp only [beq_iff_eq, far]
  case falls =>
    intro at1 at0 next
    exact ⟨fun h hn => Task.fallThrough_wraps h hn, fun h hn h0 hn0 => (Task.fallThrough_ends h hn).trans (Task.fallThrough0_wraps h0 hn0),
      fun h hn h0 hn0 => (Task.fallThrough_ends h hn).trans (Task.fallThrough0_ends h0 hn0),
      fun h hn h0 => (Task.fallThrough_ends h hn).trans (Task.fallThrough0_next h0),
      fun h h0 hn0 => (Task.fallThrough_next h).trans (Task.fallThrough0_wraps h0 hn0),
      fun h h0 hn0 => (Task.fallThrough_next h).trans (Task.fallThrough0_ends h0 hn0),
      fun h h0 => (Task.fallThrough_next h).trans (Task.fallThrough0_next h0)⟩

end Sys2Proof.Machine
end

section
/-!
PROOFS. The PHY of an HBM channel: its CTL register (R255 to R257), its runs and lanes (R256, R263) and automatic retraining (R257), and
the statement put together from that (O43).
-/

open Sys2Proof.Claims

namespace Sys2Proof.Machine

variable {s : State} {ch : Nat} {v : Word32} {c : Channel}

/-! ## CTL (R256, R257) -/

/-- A CTL write takes effect at once on a channel that is idle. -/
theorem State.ctlWrite_idle (hb : (s.channel ch).busy = false) (hw : (s.channel ch).waiting = []) (tid : Word32) :
    s.ctlWrite ch tid v = s.setChannel ch ((s.channel ch).take v) := by
  simp only [State.ctlWrite, hb, hw, List.isEmpty_nil, Bool.not_true, Bool.or_self, Bool.false_eq_true, if_false]

/-- It waits while the channel is busy. -/
theorem State.ctlWrite_busy (hb : (s.channel ch).busy = true) (tid : Word32) :
    s.ctlWrite ch tid v = s.setChannel ch { s.channel ch with waiting := (s.channel ch).waiting ++ [(tid, v)] } := by
  simp only [State.ctlWrite, hb, Bool.true_or, if_true]

/-- A write that starts a run makes the channel busy. -/
theorem Channel.take_run (hv : v.toNat % 8 = 7) (hp : bits v.toNat 4 4 < 5) :
    (c.take v).busy = true ∧ (c.take v).done = false ∧ (c.take v).ctl = v.setWidth 8 &&& 0xFB := by
  have hrun : (v.toNat % 8 != 7) = false := by simp [hv]
  simp only [Channel.take, hrun, Bool.false_eq_true, if_false, if_neg (Nat.not_le.mpr hp), true_and]
  split <;> rfl

/-- A run of a reserved pattern ends at once, with no lane passed. -/
theorem Channel.take_reserved (hv : v.toNat % 8 = 7) (hp : 5 ≤ bits v.toNat 4 4) :
    (c.take v).busy = c.busy ∧ (c.take v).done = true ∧ (c.take v).result = 0 := by
  have hrun : (v.toNat % 8 != 7) = false := by simp [hv]
  simp only [Channel.take, hrun, Bool.false_eq_true, if_false, if_pos hp, true_and, Channel.setResult, Channel.result, Channel.sel]
  split <;> split <;> simp_all

/-- Every CTL write leaves automatic retraining as it is. -/
theorem Channel.take_auto (c : Channel) (v : Word32) : (c.take v).auto = c.auto := by
  simp only [Channel.take, Channel.setResult]
  repeat' split
  all_goals rfl

/-- The write that waits takes effect when the channel is no longer busy. -/
theorem State.ctlApply_run {t u : Word32} {rest : List (Word32 × Word32)} (hw : (s.channel ch).waiting = (t, u) :: rest)
    (hb : (s.channel ch).busy = false) (ha : (s.channel ch).auto = false) :
    s.ctlApply ch = s.setChannel ch (Channel.take { s.channel ch with waiting := rest } u) := by
  simp only [State.ctlApply, hw, ha, hb, Bool.false_eq_true, if_false]

/-- One write that waits for automatic retraining: it ends the retraining where it sets train mode. -/
theorem Channel.takeAll_one (hr : c.run = none) (t u : Word32) : c.takeAll [(t, u)] =
    if u.getLsbD 0 then { Channel.take { c with auto := false, busy := false, autoPc := false } u with waiting := [] }
    else { c.take u with waiting := [] } := by
  simp only [Channel.takeAll, hr, Option.isSome_none, Bool.false_eq_true, if_false]
  split <;> rfl

/-- It takes effect when the pseudo-channel is done. -/
theorem State.ctlApply_auto {t u : Word32} (hw : (s.channel ch).waiting = [(t, u)]) (ha : (s.channel ch).auto = true)
    (hr : (s.channel ch).run = none) : s.ctlApply ch = s.setChannel ch (if u.getLsbD 0
      then { Channel.take { s.channel ch with auto := false, busy := false, autoPc := false } u with waiting := [] }
      else Channel.retrained { (s.channel ch).take u with waiting := [] }) := by
  simp only [State.ctlApply, hw, ha, if_true, Channel.takeAll_one hr]
  cases u.getLsbD 0 with
  | true => simp only [if_true, Channel.take_auto, Bool.false_eq_true, if_false]
  | false => simp only [Bool.false_eq_true, if_false, Channel.take_auto, ha, if_true]

/-! ## Runs and lanes (R256, R263) -/

/-- A run ends with the lanes that passed, where no lane is repaired. -/
theorem State.runDone_result {pc : Bool} {rep : BitVec 8} {good : BitVec 37} (hr : (s.channel ch).run = some (pc, rep))
    (hrep : rep.getLsbD 7 = false) : s.runDone ch good
      = s.setChannel ch { (s.channel ch).setResult pc good with done := true, busy := false, run := none } := by
  simp only [State.runDone, hr, hrep, Bool.false_eq_true, if_false]

/-- A lane's delay is written in train mode. -/
theorem train_lane {lane : Nat} (ht : c.train = true) (hl : lane ≤ 36) : (c.train && decide (lane ≤ 36)) = true := by
  simp [ht, hl]

/-- It is written in train mode only, and up to lane 36. -/
theorem not_train_lane {lane : Nat} (h : c.train = false ∨ 36 < lane) : (c.train && decide (lane ≤ 36)) = false := by
  rcases h with h | h <;> simp [h]

/-- A repair is written in train mode, unless it enables a lane above 35. -/
theorem State.repairWrite_writes (ht : (s.channel ch).train = true) (hv : v.getLsbD 7 = false ∨ v.toNat % 128 ≤ 35) :
    s.repairWrite ch v = s.setChannel ch (if (s.channel ch).sel then { s.channel ch with repair1 := v.setWidth 8 }
      else { s.channel ch with repair0 := v.setWidth 8 }) := by
  have hlawful : (!(s.channel ch).train || (v.getLsbD 7 && decide (35 < v.toNat % 128))) = false := by
    rcases hv with hv | hv
    · rw [ht, hv]
      rfl
    · rw [ht, decide_eq_false (Nat.not_lt.mpr hv), Bool.and_false]
      rfl
  exact if_neg (ne_true_of_eq_false hlawful)

/-- No other repair is. -/
theorem State.repairWrite_ignored (h : (s.channel ch).train = false ∨ (v.getLsbD 7 = true ∧ 35 < v.toNat % 128)) :
    s.repairWrite ch v = s := by
  refine if_pos ?_
  rcases h with h | ⟨h, hlane⟩
  · simp [h]
  · simp [h, hlane]

/-! ## Automatic retraining (R257) -/

/-- A drift of 8 °C starts retraining on a channel that nobody holds. -/
theorem State.autoRetrain_starts {temp : BitVec 8} (ht : (s.channel ch).train = false) (hb : (s.channel ch).busy = false)
    (hw : (s.channel ch).waiting = []) (hd : 8 ≤ (temp.toInt - (s.channel ch).trained.toInt).natAbs) :
    s.autoRetrain ch temp = s.setChannel ch { s.channel ch with current := temp, auto := true, busy := true, autoPc := false } := by
  have hidle : (!(s.channel ch).train && !(s.channel ch).busy && (s.channel ch).waiting.isEmpty
      && decide (8 ≤ (temp.toInt - (s.channel ch).trained.toInt).natAbs)) = true := by
    simp [ht, hb, hw, hd]
  exact congrArg (s.setChannel ch) (if_pos hidle)

/-- A smaller drift, or train mode, only changes the temperature. -/
theorem State.autoRetrain_stays {temp : BitVec 8}
    (h : (temp.toInt - (s.channel ch).trained.toInt).natAbs < 8 ∨ (s.channel ch).train = true) :
    s.autoRetrain ch temp = s.setChannel ch { s.channel ch with current := temp } := by
  have hstays : (!(s.channel ch).train && !(s.channel ch).busy && (s.channel ch).waiting.isEmpty
      && decide (8 ≤ (temp.toInt - (s.channel ch).trained.toInt).natAbs)) = false := by
    rcases h with h | h
    · simp [Nat.not_le.mpr h]
    · simp [h]
  exact congrArg (s.setChannel ch) (if_neg (ne_true_of_eq_false hstays))

/-- A pseudo-channel is done with no write waiting. -/
theorem State.retrainDone_eq (ha : (s.channel ch).auto = true) (hw : (s.channel ch).waiting = []) :
    s.retrainDone ch = s.setChannel ch (s.channel ch).retrained := by
  simp only [State.retrainDone, ha, hw, List.isEmpty_nil, Bool.not_true, Bool.or_self, Bool.false_eq_true, if_false]

/-- Settles O43: CTL's cases, the runs and lanes, and the two parts of automatic retraining. -/
theorem channelsAreTrainedAndRetrained : Obligations.ChannelsAreTrainedAndRetrained := by
  refine ⟨fun s ch v => ?registers, fun s ch => ?retraining⟩
  case registers =>
    intro c idle leads
    refine ⟨fun hi hv => ?_, fun hi hv => ?_, fun hb hv => ?_, Channel.take_run, Channel.take_reserved,
      fun t u rest hw hb ha => congrArg _ (State.ctlApply_run hw hb ha), fun t u hw ha hr => congrArg _ (State.ctlApply_auto hw ha hr),
      fun pc rep good hr hrep => congrArg _ (State.runDone_result hr hrep),
      fun lane hl ht => ⟨congrArg _ (if_pos (train_lane ht hl)), congrArg _ (if_pos (train_lane ht hl))⟩,
      fun lane h => ⟨congrArg _ (if_neg (ne_true_of_eq_false (not_train_lane h))), congrArg _ (if_neg (ne_true_of_eq_false (not_train_lane h)))⟩,
      fun ht hv => congrArg _ (State.repairWrite_writes ht hv), fun h => congrArg _ (State.repairWrite_ignored h)⟩
    · have hset : (if v.getLsbD 2 then s else s.ctlWrite ch 0 v) = s.setChannel ch (c.take v) := by
        rw [if_neg (ne_true_of_eq_false hv), State.ctlWrite_idle hi.1 hi.2]
      exact ⟨congrArg _ hset, congrArg _ hset⟩
    · exact congrArg _ ((if_pos hv).trans (State.ctlWrite_idle hi.1 hi.2 0))
    · exact congrArg _ ((if_pos hv).trans (State.ctlWrite_busy hb 0))
  case retraining =>
    intro c leads
    refine ⟨fun temp ht hb hw hd => congrArg _ (State.autoRetrain_starts ht hb hw hd), fun temp h => congrArg _ (State.autoRetrain_stays h),
      fun ha hw hpc => congrArg Host.Outcome.next ?_, fun ha hw hpc => congrArg Host.Outcome.next ?_⟩
    · exact (State.retrainDone_eq ha hw).trans (congrArg (s.setChannel ch) (if_neg (ne_true_of_eq_false hpc)))
    · exact (State.retrainDone_eq ha hw).trans (congrArg (s.setChannel ch) (if_pos hpc))

end Sys2Proof.Machine
end

section
/-!
PROOFS. The supervisor's instructions (rules): region tables and tenants (R239, R341, R350), the reads of records, waits and atomics (R235,
R275, R349, R397), contexts saved and restored (R236 to R238, R291, R292), and the statement put together from that (O38).
-/

open Sys2Proof.Claims

namespace Sys2Proof.Machine

/-- A lawful operand is passed. -/
theorem needOperandOk_ok {c : Bool} {s : State} {v : Word64} (h : c = true) : needOperandOk c s v = .ok () := need_ok h

section
variable {f : Fields} {s : State}

/-! ## Region tables and tenants (R341, R350) -/

/-- RGSET replaces its entry: a valid one's region lies in the stack, and the reserved bits are 0. -/
theorem rgsetBody_replaces (hd : (s.me.getX f.d).toNat < 16) (hp : (s.part (s.me.getX f.d).toNat).configured = true)
    (ha : (s.me.getX f.a).toNat < 2 ^ 20) (hhigh : bits (s.me.getX f.b).toNat 54 6 = 0) (hlow : bits (s.me.getX f.b).toNat 8 40 = 0)
    (hfits : (s.me.getX f.b).getLsbD 63 = false ∨ bits (s.me.getX f.b).toNat 0 8 + bits (s.me.getX f.b).toNat 48 6 + 1 ≤ 256) :
    rgsetBody f s = .ok { s with regions := s.regions.set (2 ^ 20 * (s.me.getX f.d).toNat + (s.me.getX f.a).toNat) (s.me.getX f.b) } := by
  have hpart : (s.me.getX f.d).toNat % 16 = (s.me.getX f.d).toNat := Nat.mod_eq_of_lt hd
  have hentry : (bits (s.me.getX f.b).toNat 54 6 == 0 && bits (s.me.getX f.b).toNat 8 40 == 0) = true := by simp [hhigh, hlow]
  have hregion : (!rgValid (s.me.getX f.b)
      || decide (bits (s.me.getX f.b).toNat 0 8 + (bits (s.me.getX f.b).toNat 48 6 + 1) ≤ 256)) = true := by
    rcases hfits with h | h
    · rw [rgValid, h]
      rfl
    · rw [← Nat.add_assoc, decide_eq_true h, Bool.or_true]
  simp only [rgsetBody, hpart, needOperandOk_ok hentry, needOperandOk_ok hregion, needOperandOk_ok (decide_eq_true ha),
    needOperandOk_ok (show (decide ((s.me.getX f.d).toNat < 16) && (s.part (s.me.getX f.d).toNat).configured) = true by simp [hd, hp])]
  rfl

section
variable (ha : (s.me.getX f.a).toNat < 16) (hp : (s.part (s.me.getX f.a).toNat).configured = true)
include ha hp

/-- TENSET names a configured partition, and a group: it replaces group and members, but for the supervisor's group (R222, R350). -/
theorem tensetBody_eq (hb : (s.me.getX f.b).toNat < 1024) : tensetBody f s = .ok (if s.me.getX f.b = 0x3FF then s.ignoredWrite
    else s.setPart (s.me.getX f.a).toNat { s.part (s.me.getX f.a).toNat with
      part := ((s.part (s.me.getX f.a).toNat).part &&& ~~~(0x3FF#64 <<< 28)) ||| (s.me.getX f.b <<< 28), member := s.me.getX f.d }) := by
  have hpart : (s.me.getX f.a).toNat % 16 = (s.me.getX f.a).toNat := Nat.mod_eq_of_lt ha
  simp only [tensetBody, hpart, needOperandOk_ok (decide_eq_true hb),
    needOperandOk_ok (show (decide ((s.me.getX f.a).toNat < 16) && (s.part (s.me.getX f.a).toNat).configured) = true by simp [ha, hp])]
  split <;> rfl

/-- A group of a partition is set with its members. -/
theorem tensetBody_sets (hb : (s.me.getX f.b).toNat < 0x3FF) : tensetBody f s = .ok (s.setPart (s.me.getX f.a).toNat
    { s.part (s.me.getX f.a).toNat with
      part := ((s.part (s.me.getX f.a).toNat).part &&& ~~~(0x3FF#64 <<< 28)) ||| (s.me.getX f.b <<< 28), member := s.me.getX f.d }) := by
  have hother : s.me.getX f.b ≠ 0x3FF := fun h => by
    rw [h] at hb
    exact absurd hb (by decide)
  rw [tensetBody_eq ha hp (by omega), if_neg hother]

/-- The supervisor's group is never a partition's. -/
theorem tensetBody_ignored (hb : (s.me.getX f.b).toNat = 0x3FF) : tensetBody f s = .ok s.ignoredWrite := by
  have hsupervisor : s.me.getX f.b = 0x3FF := BitVec.eq_of_toNat_eq hb
  rw [tensetBody_eq ha hp (by omega), if_pos hsupervisor]

end

/-! ## The supervisor's reads (R349, R397, R275) -/

/-- STOPRD stores the record that xB names, and defers how many there are. -/
theorem stoprdBody_stores {x : StopRec} {u : State} (hroom : needRoomFor s (s.me.getO (f.a &&& 31)) 64 = .ok ())
    (hzero : bits (s.me.getX f.b).toNat 16 16 = 0) (hw : (s.me.getX f.b).toNat < 2 ^ 37)
    (hsup : (s.me.getX f.b).toNat.testBit 36 = true → bits (s.me.getX f.b).toNat 32 4 = 0)
    (hx : (s.halt (if (s.me.getX f.b).toNat.testBit 36 then 16 else bits (s.me.getX f.b).toNat 32 4)).records[(s.me.getX f.b).toNat % 65536]?
      = some x)
    (hu : writeCanon s (s.me.getO (f.a &&& 31)) 0 x.bytes = .ok u) :
    stoprdBody f s = .ok (u.deferX f.d (BitVec.ofNat 64
      (s.halt (if (s.me.getX f.b).toNat.testBit 36 then 16 else bits (s.me.getX f.b).toNat 32 4)).records.length)) := by
  have hlawful : (bits (s.me.getX f.b).toNat 16 16 == 0 && decide ((s.me.getX f.b).toNat < 2 ^ 37)
      && (!(s.me.getX f.b).toNat.testBit 36 || bits (s.me.getX f.b).toNat 32 4 == 0)) = true := by
    cases hbit : (s.me.getX f.b).toNat.testBit 36 with
    | true =>
      rw [hzero, decide_eq_true hw, hsup hbit]
      rfl
    | false =>
      rw [hzero, decide_eq_true hw]
      rfl
  simp only [stoprdBody, hroom, needOperandOk_ok hlawful, act_bind_ok, hx, hu]
  rfl

/-- WFTRD stores the wait that xB names, and defers how many the die has. -/
theorem wftrdBody_stores {e : TaskKey × Wait} {u : State} (hroom : needRoomFor s (s.me.getO (f.a &&& 31)) 32 = .ok ())
    (hw : (s.me.getX f.b).toNat < 2 ^ 18)
    (he : (s.waitTable ((s.me.getX f.b).toNat / 65536))[(s.me.getX f.b).toNat % 65536]? = some e)
    (hu : writeCanon s (s.me.getO (f.a &&& 31)) 0 (waitEntry (s.task e.1).tid e.2) = .ok u) :
    wftrdBody f s = .ok (u.deferX f.d (BitVec.ofNat 64 (s.waitTable ((s.me.getX f.b).toNat / 65536)).length)) := by
  simp only [wftrdBody, hroom, needOperandOk_ok (decide_eq_true hw), act_bind_ok, he, hu]
  rfl

/-- The atomics that xB's home has logged for xB's requester (R275). -/
def State.loggedAtomics (s : State) (w : Nat) : List AtomicLog :=
  match s.coreAt (BitVec.ofNat 16 w) with
  | some c => (s.core c).results.filter (fun l => l.home == if w.testBit 34 then 4 + bits w 32 2 else bits w 32 2)
  | none => []

/-- ATLOG stores a home's log of a requester's atomics, and defers how many it has. -/
theorem atlogBody_stores {w : Nat} {u : State} (hb : (s.me.getX f.b).toNat = w)
    (hroom : needRoomFor s (s.me.getO (f.a &&& 31)) 768 = .ok ()) (hzero : bits w 16 16 = 0) (hw : w < 2 ^ 35)
    (hio : w.testBit 34 = true → bits w 32 2 < 2)
    (hu : writeCanon s (s.me.getO (f.a &&& 31)) 0 ((s.loggedAtomics w).flatMap AtomicLog.bytes
      ++ List.replicate (768 - 48 * (s.loggedAtomics w).length) 0) = .ok u) :
    atlogBody f s = .ok (u.deferX f.d (BitVec.ofNat 64 (s.loggedAtomics w).length)) := by
  have hlawful : (bits w 16 16 == 0 && decide (w < 2 ^ 35) && (!w.testBit 34 || decide (bits w 32 2 < 2))) = true := by
    cases hbit : w.testBit 34 with
    | true =>
      rw [hzero, decide_eq_true hw, decide_eq_true (hio hbit)]
      rfl
    | false =>
      rw [hzero, decide_eq_true hw]
      rfl
  simp only [atlogBody, hb, hroom, needOperandOk_ok hlawful, act_bind_ok]
  change Act.run (writeCanon s (s.me.getO (f.a &&& 31)) 0 ((s.loggedAtomics w).flatMap AtomicLog.bytes
    ++ List.replicate (768 - 48 * (s.loggedAtomics w).length) 0) >>= _) = _
  rw [hu]
  rfl

/-! ## Saved contexts (R291, R292) -/

/-- CTXSV stores the context's image, and the model keeps what its free bytes stand for. -/
theorem ctxsvBody_saves {p ctx : Nat} {u : State} (hn : needImage f s true = .ok (p, ctx)) :
    let im : Image := { context := s.fresh.2.contextAt p ctx, count := (s.halt p).count, blocks := (s.part p).blocks }
    writeCanon s.fresh.2 (s.me.getO (f.a &&& 31)) 0 (im.bytes s.free) = .ok u →
    ctxsvBody f s = .ok { u with images := u.images.set s.free im } := by
  intro im hu
  simp only [ctxsvBody, hn, act_bind_ok]
  change Act.run (writeCanon s.fresh.2 (s.me.getO (f.a &&& 31)) 0 (im.bytes s.free) >>= _) = _
  rw [hu]
  rfl

/-- CTXLD replaces the context whose image holds, and reports the block of one that does not. -/
theorem ctxldBody_loads {p ctx h : Nat} (hn : needImage f s false = .ok (p, ctx))
    (ha : access s (oCanon (s.me.getO (f.a &&& 31))) (16 + oView (s.me.getO (f.a &&& 31))) (imageSize (s.part p).blocks) = .ok h) :
    ctxldBody f s = .ok (match s.checkImage p ctx (h + 16 + oView (s.me.getO (f.a &&& 31))) with
      | .ok v => if (s.part p).ctx = ctx then s.loadContext p v.halted
          else { s with shadow := s.shadow.filter (fun x => !(x.part == p && x.ctx == ctx)) ++ [v] }
      | .error n => s.report p { agent := .restore p, tid := 0, info := {
          code := some .saveIntegrity, ptr := oCanon (s.me.getO (f.a &&& 31)), progress := BitVec.ofNat 64 n, atIssue := false } }) := by
  simp only [ctxldBody, hn, act_bind_ok, ha]
  cases s.checkImage p ctx (h + 16 + oView (s.me.getO (f.a &&& 31))) with
  | error n => rfl
  | ok v =>
    dsimp only
    split <;> rfl

end

/-- Settles O38: each instruction completes with what its operands come to. -/
theorem supervisorInstructionsHaveTheirEffect : Obligations.SupervisorInstructionsHaveTheirEffect := by
  intro f s a b w d r
  refine ⟨fun h hd hp ha hhigh hlow hfits => run_ok h (rgsetBody_replaces hd hp ha hhigh hlow hfits),
    fun h ha hp hb => run_ok h (tensetBody_sets ha hp hb), fun h ha hp hb => run_ok h (tensetBody_ignored ha hp hb),
    fun x u h hroom hzero hw hsup hx hu => run_ok h (stoprdBody_stores hroom hzero hw hsup hx hu),
    fun e u h hroom hw he hu => run_ok h (wftrdBody_stores hroom hw he hu),
    fun u h hroom hzero hw hio hu => run_ok h (atlogBody_stores rfl hroom hzero hw hio hu),
    fun p ctx u h hn hu => run_ok h (ctxsvBody_saves hn hu), fun p ctx h hi hn ha => ?load⟩
  case load =>
    refine (run_ok hi (ctxldBody_loads hn ha)).trans ?_
    cases s.checkImage p ctx (h + 16 + oView r) <;> rfl

end Sys2Proof.Machine
end

section
/-!
PROOFS. Loads (rules): what LD, LDC, LDO and OKIND defer (R309, R310, R328), what an outstanding load is (R60, R205, R208), the bytes of a
canonical load (R212, R240), and the statement put together from that (O5).
-/

open Sys2Proof.Claims

namespace Sys2Proof.Machine

/-! ## The instructions (R309, R310, R328) -/

section
variable {f : Fields} {s s' : State} {ob : Obj} {bs : List Byte}

/-- LD defers what it reads through its register, as the register stands after the touch. -/
theorem loadBody_touches (hc : check s (s.me.getO f.a) (memOffset s.me f (accessSize f)) (accessSize f) (accessSize f) = .ok ())
    (ho : objOf s (s.me.getO f.a) = .ok ob) (hk : loadable s.me.priv ob.hdr = true) (ht : touch s f.a ob.hdr = .ok s')
    (hr : readThrough s' (s'.me.getO f.a) (memOffset s.me f (accessSize f)).toNat (accessSize f) = .ok bs) :
    loadBody false f s = .ok (s'.deferLoad (s'.me.getO f.a) (accessSize f) [(0, (memOffset s.me f (accessSize f)).toNat)] (loadPend f bs)) := by
  simp only [loadBody, hc, act_bind_ok, Bool.false_eq_true, if_false, ho, needKind_ok hk, ht, hr]
  rfl

/-- LDC defers what it reads past the copy. -/
theorem loadBody_canonical (hc : check s (s.me.getO f.a) (memOffset s.me f (accessSize f)) (accessSize f) (accessSize f) = .ok ())
    (ho : canonOf s (s.me.getO f.a) = .ok ob) (hk : loadable s.me.priv ob.hdr = true)
    (hr : readCanon s (s.me.getO f.a) (memOffset s.me f (accessSize f)).toNat (accessSize f) = .ok bs) :
    loadBody true f s = .ok (s.deferLoad (oSetTouched (s.me.getO f.a) false) (accessSize f)
      [(0, (memOffset s.me f (accessSize f)).toNat)] (loadPend f bs)) := by
  simp only [loadBody, hc, act_bind_ok, if_true, ho, needKind_ok hk, hr]
  rfl

/-- LDO defers the pointer it reads, with the length of the canonical object there. -/
theorem ldoBody_defers {hd : Option (Nat × Nat)} (hc : check s (s.me.getO f.a) (memOffset s.me f 8) 8 8 = .ok ())
    (ho : objOf s (s.me.getO f.a) = .ok ob) (hk : hKind ob.hdr = 1 ∨ hKind ob.hdr = 2 ∧ memOffset s.me f 8 % 16 = 0)
    (hs : hStaged ob.hdr = false) (ht : touch s f.a ob.hdr = .ok s')
    (hr : readThrough s' (s'.me.getO f.a) (memOffset s.me f 8).toNat 8 = .ok bs) (hp : pointerHead s' (leWord bs) = .ok hd) :
    ldoBody f s = .ok (s'.deferElems (oCanon (s'.me.getO f.a))
      (s'.elems (s'.me.getO f.a) 8 [(0, (memOffset s.me f 8).toNat)] ++ headElem hd)
      { dest := .o f.d, val := (oMake false false 0 (headLen hd) (leWord bs)).setWidth 4096, how := .pointer }) := by
  have hkind : ((hKind ob.hdr == 1 || hKind ob.hdr == 2) && !(hStaged ob.hdr && decide (hState ob.hdr ≤ 1))) = true := by
    rcases hk with hk | ⟨hk, -⟩ <;> simp [hk, hs]
  have halign : (hKind ob.hdr != 2 || memOffset s.me f 8 % 16 == 0) = true := by
    rcases hk with hk | ⟨-, hk⟩ <;> simp [hk]
  simp only [ldoBody, hc, act_bind_ok, ho, needKind_ok hkind, need_ok halign, ht, hr, hp]
  rfl

/-- OKIND defers the header's word 0, once the task's earlier loads of it are performed. -/
theorem okindBody_defers {a : Nat} {h : Word64} (hc : checkPtr s (s.me.getO f.a) = .ok ()) (hh : header s (oCanon (s.me.getO f.a)) = .ok (a, h)) :
    okindBody f s = .ok (((s.fixAt a 8).requestTo (s.tablePart s.me) (oCanon (s.me.getO f.a)) a).defer
      { dest := .x f.d, val := h.setWidth 4096, peer := s.via (s.tablePart s.me) (oCanon (s.me.getO f.a)) a }) := by
  simp only [okindBody, hc, act_bind_ok, hh]
  rfl

end

/-! ## Outstanding loads (R60, R205, R208) -/

section
variable {s : State}

/-- A request toward another package leaves the acting task alone. -/
@[simp] theorem State.me_requestTo (s : State) (p : Nat) (ptr : Word64) (a : Nat) : (s.requestTo p ptr a).me = s.me := by
  unfold State.requestTo
  split
  · rw [State.me, State.cur_requestOver, State.task_requestOver, State.me]
  · rfl

/-- The state in which a load's result is put behind the task's others: one place further in its program order, with the load's request on
its way. -/
def State.requested (s : State) (ptr : Word64) (es : List Elem) : State :=
  match es.find? (fun e => !e.priv) with
  | some e => s.stampSeq.requestTo (s.stampSeq.tablePart s.stampSeq.me) ptr e.addr
  | none => s.stampSeq

/-- A request changes nothing of the task but its place in the program order. -/
theorem State.me_requested (s : State) (ptr : Word64) (es : List Elem) : (s.requested ptr es).me = { s.me with seq := s.me.seq + 1 } := by
  have hstamp : s.stampSeq.me = { s.me with seq := s.me.seq + 1 } := State.me_setMe ..
  unfold State.requested
  split
  · rw [State.me_requestTo, hstamp]
  · exact hstamp

/-- A deferred load is the last of the task's outstanding results, with the load's place in program order. -/
theorem State.deferElems_last (s : State) (ptr : Word64) (es : List Elem) (p : Pend) :
    (s.deferElems ptr es p).me.seq = s.me.seq + 1 ∧ ∃ via, (s.deferElems ptr es p).me.pend
      = s.me.pend ++ [{ p with src := es, seq := s.me.seq + 1, peer := via, pc := s.me.pc }] := by
  have hdefer (q : Pend) : ((s.requested ptr es).defer q).me =
      { (s.requested ptr es).me with pend := (s.requested ptr es).me.pend ++ [{ q with pc := (s.requested ptr es).me.pc }] } :=
    State.me_setMe ..
  have hload : ∃ via, s.deferElems ptr es p
      = (s.requested ptr es).defer { p with src := es, seq := (s.requested ptr es).me.seq, peer := via } := ⟨_, rfl⟩
  obtain ⟨via, hload⟩ := hload
  rw [hload, hdefer, State.me_requested]
  exact ⟨rfl, via, rfl⟩

/-! ## Canonical loads (R205, R208, R212, R240) -/

/-- An access that the routers let through, whose object has its place, and which no fence holds back. -/
theorem access_reaches {ptr : Word64} {lo n a : Nat} (hadmits : s.admits s.cur ptr = true)
    (hreach : s.reach (s.tablePart s.me) ptr lo n = .ok a) (hfence : s.fencedTo a = false) : access s ptr lo n = .ok a := by
  simp only [access, accessVia, hadmits, Bool.not_true, Bool.and_false, Bool.false_eq_true, if_false, hreach, hfence]

/-- A canonical load of what is not poisoned reads the bytes there, as the acting task sees them. -/
theorem readCanon_reads {r : BitVec 128} {off n a : Nat} (hadmits : s.admits s.cur (oCanon r) = true)
    (hreach : s.reach (s.tablePart s.me) (oCanon r) (16 + oView r + off) n = .ok a) (hfence : s.fencedTo a = false)
    (hpoison : s.poisoned (a + (16 + oView r + off)) n = false) :
    readCanon s r off n = .ok (s.loadBytes s.cur (a + (16 + oView r + off)) n) := by
  have hsound : (!s.poisoned (a + (16 + oView r + off)) n) = true := by rw [hpoison]; rfl
  simp only [readCanon, loadAct, access_reaches hadmits hreach hfence, act_bind_ok, need_ok hsound]
  rfl

/-- A task that has no store in its buffer sees memory. -/
theorem State.loadBytes_memory (h : s.me.sb = []) (a n : Nat) : s.loadBytes s.cur a n = s.mem.readN a n := by
  have hempty : (s.task s.cur).sb.isEmpty = true := List.isEmpty_iff.mpr h
  rw [State.loadBytes, State.loadAt, if_pos hempty]

end

/-- Settles O5: each load, its result among the outstanding ones, and the bytes that it reads. -/
theorem loadsReadTheirBytes : Obligations.LoadsReadTheirBytes := by
  refine ⟨fun f s => ?loads, fun s ptr es p => ?outstanding, fun s r off n a hadmits hreach hfence hpoison => ?bytes⟩
  case loads =>
    exact ⟨fun ob s' bs h hc ho hk ht hr => run_ok h (loadBody_touches hc ho hk ht hr),
      fun ob bs h hc ho hk hr => run_ok h (loadBody_canonical hc ho hk hr),
      fun ob s' bs hd h hc ho hk hs ht hr hp => run_ok h (ldoBody_defers hc ho hk hs ht hr hp),
      fun a h hi hc hh => run_ok hi (okindBody_defers hc hh)⟩
  case outstanding =>
    obtain ⟨hseq, via, hpend⟩ := s.deferElems_last ptr es p
    exact ⟨State.deferElems_mem .., hseq, _, hpend, rfl, rfl, rfl, rfl, rfl, rfl, rfl, rfl, rfl⟩
  case bytes =>
    have hread := readCanon_reads hadmits hreach hfence hpoison
    exact ⟨hread, fun hsb => by rw [hread, State.loadBytes_memory hsb]⟩

end Sys2Proof.Machine
end

section
/-!
PROOFS. What a store that becomes visible leaves in memory (R205, R209), and the memory in which the statement of the stores fails (O6).
-/

open Sys2Proof.Claims

namespace Sys2Proof.Machine

/-! ## A store in a memory of the canonical form (R209, log entry 3) -/

/-- Where memory has its canonical form, a store that is performed is read back at its bytes, and every other byte reads as before. -/
theorem State.read_pokeStore {s : State} (hm : Canonical s.mem) (st : Store) (a : Nat) :
    (s.pokeStore st).mem.read a
      = if st.addr ≤ a ∧ a < st.addr + st.size then st.bytes[a - st.addr]?.getD 0 else s.mem.read a := by
  have hlen : st.bytes.length ≤ st.size := Nat.le_add_right ..
  by_cases hzero : st.zero = 0
  · have hsize : st.size = st.bytes.length := by rw [Store.size, hzero, Nat.add_zero]
    have hmem : (s.pokeStore st).mem = s.mem.writeN st.addr st.bytes := by rw [State.pokeStore, if_pos hzero]; rfl
    rw [hmem, hsize]
    by_cases hin : st.addr ≤ a ∧ a < st.addr + st.bytes.length
    · have hread := Memory.read_writeN_inside hm st.addr st.bytes (i := a - st.addr) (by omega)
      rw [show st.addr + (a - st.addr) = a by omega] at hread
      rw [hread, if_pos hin, List.getElem?_eq_getElem (by omega), Option.getD_some]
    · rw [Memory.read_writeN_outside _ _ _ (by omega), if_neg hin]
  · have hmem : (s.pokeStore st).mem
        = Memory.writeN (s.mem.filter (fun c => c.1 < st.addr || st.addr + st.size ≤ c.1)) st.addr st.bytes := by
      rw [State.pokeStore, if_neg hzero]
      rfl
    rw [hmem, Memory.read_clear_writeN s.mem hlen a]

/-! ## The counterexample -/

/-- A store of one byte of 0 at address 0, the header address of its object. -/
def zeroStore : Store := { addr := 0, hdr := 0, bytes := [0], home := 0, posted := false, ptr := 0, pc := 0 }

/-- The state in which the store is due. Its memory lists address 0 twice, which no memory of the canonical form does. -/
def storeTwiceListed : State := { State.reset with tasks := [(0, { Task.empty with sb := [zeroStore] })], mem := [(0, 1), (0, 2)] }

/-- The store waits for none. -/
theorem storeTwiceListed_drainable : (storeTwiceListed.task 0).drainable 4 = some zeroStore := rfl

/-- The 0 takes the first of the two bytes off the list, and the second one is read in its place. -/
theorem storeTwiceListed_read : (storeTwiceListed.drainOne 0 4).mem.read 0 = 2 := by decide +kernel

/-- Refutes O6: its STORE_BUFFER_DRAIN clause reads the stored bytes back in every memory, also in a list of bytes that has not the canonical
form of log entry 3. Where an address is listed twice, a 0 that is written there is not what is read. No run comes to such a list,
since what is executed keeps the form (`exec_canonical`), and in a memory that has it the bytes are those that the clause gives
(`State.read_pokeStore`). Only that clause is refuted here. -/
theorem not_storesWriteAndReachTheirHomes : ¬ Obligations.StoresWriteAndReachTheirHomes := by
  rintro ⟨-, hstores, -⟩
  obtain ⟨-, -, -, hdrains⟩ := hstores storeTwiceListed
  obtain ⟨t, hexec, -, hread⟩ :=
    hdrains 0 4 zeroStore storeTwiceListed_drainable (fun h => Bool.noConfusion h) (by decide +kernel) (by decide +kernel)
  have ht : storeTwiceListed.drainOne 0 4 = t := Host.Outcome.next.inj hexec
  have hclaimed : (storeTwiceListed.drainOne 0 4).mem.read 0 = 0 := ht ▸ hread 0
  rw [storeTwiceListed_read] at hclaimed
  exact absurd hclaimed (by decide)

end Sys2Proof.Machine
end

section
/-!
PROOFS. Header instructions (rules): ACQ and what it waits for (R210, R265), REL and OSYNC (R330, R339), PIN, UNPIN and SEAL (R335, R342), and
the statement put together from that (O8).
-/

open Sys2Proof.Claims

namespace Sys2Proof.Machine

section
variable {f : Fields} {s s1 s2 : State} {a : Nat} {h : Word64}

/-! ## The lock word (R210) -/

/-- The header's word 1 allows the acquire: it is not held exclusively, and for an exclusive one not shared either. -/
def lockFree (ex : Bool) (w : Word64) : Prop := w.getLsbD 31 = false ∧ (if ex then lockShared w = 0 else lockShared w < 32767)

/-- That is the test that ACQ makes. -/
theorem lockFree_iff {ex : Bool} {w : Word64} :
    (!lockEx w && (if ex then lockShared w == 0 else decide (lockShared w < 32767))) = true ↔ lockFree ex w := by
  cases ex <;> simp [lockFree, lockEx]

/-! ## ACQ (R265) -/

section
variable (hp : checkPtr s (s.me.getO f.a) = .ok ()) (hh : header s (oCanon (s.me.getO f.a)) = .ok (a, h)) (hk : hKind h ≠ 3)
  (hpriv : hKind h = 7 → s.me.priv = true) (hn : needAtomicOps s (oCanon (s.me.getO f.a)) = .ok ())
include hk hpriv

/-- No code object, and a supervisor object for a privileged task only. -/
theorem kind_acquirable : (hKind h != 3 && (hKind h != 7 || s.me.priv)) = true := by
  by_cases h7 : hKind h = 7
  · simp [h7, hpriv h7]
  · simp [hk, h7]

include hp hh hn

/-- ACQ of a header that is held against it parks. -/
theorem acqBody_parks (hheld : ¬ lockFree (f.x.getLsbD 3) (s.peekWord (a + 8))) :
    acqBody f s = .park s { kind := .acq, op := .acq, f := f, object := oCanon (s.me.getO f.a), aux := a } := by
  have htest := Bool.eq_false_iff.mpr (mt lockFree_iff.mp hheld)
  simp only [acqBody, hp, act_bind_ok, hh, needKind_ok (kind_acquirable hk hpriv), hn, needOr_no htest]
  rfl

variable (hfree : lockFree (f.x.getLsbD 3) (s.peekWord (a + 8))) (hr : releasedHome s (homeOf a) = .ok s1)
include hfree hr

/-- ACQ of a free header counts itself there, once the task's stores to that home are performed, and there is nothing to re-read. -/
theorem acqBody_takes (hcopy : acquiredCopy s (s.me.getO f.a) = .ok none) :
    acqBody f s = .ok (s1.pokeWord (a + 8) (lockTake (f.x.getLsbD 3) (s.peekWord (a + 8)))) := by
  simp only [acqBody, hp, act_bind_ok, hh, needKind_ok (kind_acquirable hk hpriv), hn, needOr_ok (lockFree_iff.mpr hfree), hcopy, hr]
  rfl

/-- Then the clean blocks of its copy are read again. -/
theorem acqBody_refreshes {e : Copy} {t : State} (hcopy : acquiredCopy s (s.me.getO f.a) = .ok (some e))
    (ht : (s1.pokeWord (a + 8) (lockTake (f.x.getLsbD 3) (s.peekWord (a + 8)))).fixPrivate.refresh e a = (t, true)) :
    acqBody f s = .ok t := by
  simp only [acqBody, hp, act_bind_ok, hh, needKind_ok (kind_acquirable hk hpriv), hn, needOr_ok (lockFree_iff.mpr hfree), hcopy, hr, ht]
  rfl

end

/-- An untouched register has no copy to re-read. -/
theorem acquiredCopy_untouched {r : BitVec 128} (hu : oTouched r = false) : acquiredCopy s r = .ok none := by
  simp only [acquiredCopy, hu, Bool.not_false, if_true]
  rfl

/-! ## REL, OSYNC, PIN, UNPIN and SEAL (R330, R335, R339, R342) -/

section
variable (hp : checkPtr s (s.me.getO f.a) = .ok ())
include hp

/-- OSYNC of a touched register writes its copy back, and performs what its scope orders. -/
theorem osyncBody_touched (ht : oTouched (s.me.getO f.a) = true) (hf : flush s (s.me.getO f.a) = .ok s1)
    (hr : releasedAt (f.x.toNat % 8) (s1.homeAt (oCanon (s.me.getO f.a))) s1 = .ok s2) : osyncBody f s = .ok s2 := by
  simp only [osyncBody, hp, act_bind_ok, ht, if_true, hf, hr]
  rfl

/-- OSYNC of an untouched register writes nothing back. -/
theorem osyncBody_untouched (ht : oTouched (s.me.getO f.a) = false)
    (hr : releasedAt (f.x.toNat % 8) (s.homeAt (oCanon (s.me.getO f.a))) s = .ok s2) : osyncBody f s = .ok s2 := by
  have hpure : (pure s : Act State) = .ok s := rfl
  simp only [osyncBody, hp, act_bind_ok, ht, Bool.false_eq_true, if_false, hpure, hr]
  rfl

variable (hh : header s (oCanon (s.me.getO f.a)) = .ok (a, h))
include hh

/-- REL writes back, performs what its scope orders and gives the header up. -/
theorem relBody_gives (hk : hKind h ≠ 3) (hpriv : hKind h = 7 → s.me.priv = true) (hn : needAtomicOps s (oCanon (s.me.getO f.a)) = .ok ())
    (hf : flush s (s.me.getO f.a) = .ok s1) (hr : releasedAt (f.x.toNat % 8) (homeOf a) s1 = .ok s2) :
    relBody f s = .ok (s2.pokeWord (a + 8) (lockDrop (s2.peekWord (a + 8)))) := by
  simp only [relBody, hp, act_bind_ok, hh, needKind_ok (kind_acquirable hk hpriv), hn, hf, hr]
  rfl

/-- PIN and UNPIN write the pinned flag. -/
theorem pinBody_writes (on : Bool) (hpriv : hKind h = 7 → s.me.priv = true) (hr : releasedHome s (homeOf a) = .ok s1) :
    pinBody on f s = .ok (s1.pokeWord a (if on then h ||| (1#64 <<< 40) else h &&& ~~~(1#64 <<< 40))) := by
  have hkind : (hKind h != 7 || s.me.priv) = true := by
    by_cases h7 : hKind h = 7
    · simp [h7, hpriv h7]
    · simp [h7]
  simp only [pinBody, hp, act_bind_ok, hh, needKind_ok hkind, hr]
  rfl

/-- SEAL of an object that is not sealed writes back, performs what its scope orders and writes the sealed flag. -/
theorem sealBody_seals (hk : hKind h = 0 ∨ hKind h = 4) (hopen : hSealed h = false) (hf : flush s (s.me.getO f.a) = .ok s1)
    (hr : releasedAt (f.x.toNat % 8) (homeOf a) s1 = .ok s2) :
    sealBody f s = .ok (s2.pokeWord a (s2.peekWord a ||| (1#64 <<< 41))) := by
  have hkind : (hKind h == 0 || hKind h == 4) = true := by simpa using hk
  simp only [sealBody, hp, act_bind_ok, hh, needKind_ok hkind, hopen, Bool.false_eq_true, if_false, hf, hr]
  rfl

end

end

/-- Settles O8: each instruction on the header it reads, and a parked ACQ that tries again. -/
theorem headersAreUpdatedAndAwaited : Obligations.HeadersAreUpdatedAndAwaited := by
  refine ⟨fun f s s1 a h => ?updates, fun s s1 f a h => ?waits⟩
  case updates =>
    rintro r w ex taken ⟨hp, hh⟩
    exact ⟨fun hi hk hpriv hn hex hshared hcopy hr => run_ok hi (acqBody_takes hp hh hk hpriv hn ⟨hex, hshared⟩ hr hcopy),
      fun e t hi hk hpriv hn hex hshared hcopy hr ht => run_ok hi (acqBody_refreshes hp hh hk hpriv hn ⟨hex, hshared⟩ hr hcopy ht),
      fun s1 s2 hi hk hpriv hn hf hr => run_ok hi (relBody_gives hp hh hk hpriv hn hf hr),
      fun s1 s2 hi ht hf hr => run_ok hi (osyncBody_touched hp ht hf hr),
      fun s2 hi ht hr => run_ok hi (osyncBody_untouched hp ht hr),
      fun hi hpriv hr => run_ok hi (pinBody_writes hp hh true hpriv hr),
      fun hi hpriv hr => run_ok hi (pinBody_writes hp hh false hpriv hr),
      fun s1 s2 hi hk hopen hf hr => run_ok hi (sealBody_seals hp hh hk hopen hf hr)⟩
  case waits =>
    intro r w ex free hp hh hk hpriv hn hu
    refine ⟨fun hi hheld => run_park hi (acqBody_parks hp hh hk hpriv hn hheld), fun u wt hw hparked hkind hf hs hfree hr => ?_⟩
    exact congrArg Host.Outcome.next (State.reissue_completes hw hparked hkind hf hs
      (acqBody_takes hp hh hk hpriv hn hfree hr (acquiredCopy_untouched hu)))

end Sys2Proof.Machine
end

section
/-!
PROOFS. Atomics (rules): AMO and CAS (R273, R274, R281), CAS2 (R213, R259), a lost result (R234), and the statement put together from that (O11).
-/

open Sys2Proof.Claims

namespace Sys2Proof.Machine

/-! ## Their outstanding results (R60, R213) -/

/-- The last outstanding result of a task is the value `v` for a register. -/
def endsIn (s t : State) (d : Dest) (v : BitVec 128) : Prop := ∃ p, t.me.pend = s.me.pend ++ [p] ∧ p.dest = d ∧ p.val = v.setWidth 4096

/-- An atomic defers its result last. -/
theorem State.deferAtomic_endsIn (s : State) (a : Nat) (d : Dest) (v : BitVec 128) (ptr off : Word64) :
    endsIn s (s.deferAtomic a d v ptr off) d v :=
  ⟨_, State.pend_defer .., rfl, rfl⟩

/-- A word passes unchanged through the width of an outstanding result. -/
theorem word_of_result (v : Word64) : ((v.setWidth 128).setWidth 4096).setWidth 64 = v := by
  rw [BitVec.setWidth_setWidth_of_le _ (by omega), BitVec.setWidth_setWidth_of_le _ (by omega), BitVec.setWidth_eq]

/-- And so does a pointer. -/
theorem pointer_of_result (v : BitVec 128) : (v.setWidth 4096).setWidth 128 = v := by
  rw [BitVec.setWidth_setWidth_of_le _ (by omega), BitVec.setWidth_eq]

/-- A task that has the same results outstanding. -/
theorem endsIn.of_me {s s' t : State} {d : Dest} {v : BitVec 128} (h : endsIn s' t d v) (hme : s'.me = s.me) : endsIn s t d v := by
  rwa [endsIn, ← hme]

/-- Memory is as it was. -/
@[simp] theorem State.deferAtomic_sameMem (s : State) (a : Nat) (d : Dest) (v : BitVec 128) (ptr off : Word64) :
    (s.deferAtomic a d v ptr off).mem = s.mem := rfl

section
variable {f : Fields} {s s' : State} {a : Nat}

/-! ## AMO and CAS (R273, R274, R281) -/

/-- An AMO's new value, case by case. -/
theorem amoNew_eq (op w old b : Nat) : amoNew op w old b =
    if op = 0 then (old + b) % 2 ^ w else if op = 1 then old &&& b else if op = 2 then old ||| b else if op = 3 then old ^^^ b
    else if op = 4 then (if toSigned w b < toSigned w old then b else old)
    else if op = 5 then (if toSigned w old < toSigned w b then b else old)
    else if op = 6 then min old b else if op = 7 then max old b else if op = 8 then b else add32 old (fp32.value b) := by
  match op with
  | 0 | 1 | 2 | 3 | 4 | 5 | 6 | 7 | 8 | n + 9 => simp [amoNew]

/-- AMO replaces the word by its new value and defers the old one. -/
theorem amoBody_replaces (hc : atomicChecks f s (f.x.toNat % 16 == 0 || f.x.toNat % 16 == 8) = .ok a)
    (hr : atomicRelease s f (homeOf a) = .ok s') :
    let old := leNat (s'.mem.readN a (amoSize f))
    ∃ t, amoBody f s = .ok t
      ∧ t.mem = s'.mem.writeN a (leBytes (amoSize f) (amoNew (f.x.toNat % 16) (8 * amoSize f) old
        ((s.me.getX f.b).toNat % 2 ^ (8 * amoSize f))))
      ∧ endsIn s' t (.x f.d) ((if f.x.toNat % 16 = 6 || f.x.toNat % 16 = 7 || f.x.toNat % 16 = 9 then BitVec.ofNat 64 old
        else signW (8 * amoSize f) old).setWidth 128) := by
  intro old
  simp only [amoBody, hc, act_bind_ok, hr]
  refine ⟨_, rfl, ?_, ?_⟩
  · simp only [State.deferAtomic_sameMem, State.requestTo_mem, State.noteAtomic_mem]
    rfl
  · exact (State.deferAtomic_endsIn ..).of_me (State.me_requestTo ..)

/-- CAS replaces the word by its third operand when it equals the second, and defers the old one. -/
theorem casBody_replaces (hc : atomicChecks f s true = .ok a) (hr : atomicRelease s f (homeOf a) = .ok s') :
    let old := leNat (s'.mem.readN a (amoSize f))
    ∃ t, casBody f s = .ok t ∧ endsIn s' t (.x f.d) ((signW (8 * amoSize f) old).setWidth 128)
      ∧ t.mem = if old = (s'.me.getX f.b).toNat % 2 ^ (8 * amoSize f) then s'.mem.writeN a (leBytes (amoSize f) (s'.me.getX f.c).toNat)
        else s'.mem := by
  intro old
  simp only [casBody, hc, act_bind_ok, hr]
  refine ⟨_, rfl, ?_, ?_⟩
  · refine (State.deferAtomic_endsIn ..).of_me ((State.me_requestTo ..).trans ?_)
    split <;> rfl
  · simp only [State.deferAtomic_sameMem, State.requestTo_mem, State.noteAtomic_mem]
    exact apply_ite State.mem _ _ _

end

/-! ## CAS2 (R213, R259) -/

section
variable {f : Fields} {s s1 s2 : State} {a : Nat}

/-- The element holds the register pair that CAS2 compares it with. -/
def State.pairEquals (s : State) (f : Fields) (a : Nat) : Prop :=
  s.peekWord a = oCanon (s.me.getO f.d) ∧ s.peekWord (a + 8) = s.me.getX f.c

/-- The state in which CAS2 has replaced the element where it does. -/
def State.pairSwapped (s : State) (f : Fields) (a : Nat) : State :=
  if s.peekWord a == oCanon (s.me.getO f.d) && s.peekWord (a + 8) == s.me.getX f.c then
    (s.pokeWord a (oCanon (s.me.getO (f.d + 1)))).pokeWord (a + 8) (s.me.getX (f.c + 1))
  else s

/-- The replacement leaves the acting task alone. -/
theorem State.me_pairSwapped (s : State) (f : Fields) (a : Nat) : (s.pairSwapped f a).me = s.me := by
  unfold State.pairSwapped
  split <;> rfl

/-- An element that equals the pair is replaced by the next pointer and version. -/
theorem State.pairSwapped_mem (hsame : s.pairEquals f a) : (s.pairSwapped f a).mem
    = (s.mem.writeN a (leBytes 8 (oCanon (s.me.getO (f.d + 1))).toNat)).writeN (a + 8) (leBytes 8 (s.me.getX (f.c + 1)).toNat) := by
  have htest : (s.peekWord a == oCanon (s.me.getO f.d) && s.peekWord (a + 8) == s.me.getX f.c) = true := by
    rw [Bool.and_eq_true, beq_iff_eq, beq_iff_eq]
    exact hsame
  rw [State.pairSwapped, if_pos htest]
  rfl

/-- Any other stays. -/
theorem State.pairSwapped_other (hother : ¬ s.pairEquals f a) : s.pairSwapped f a = s := by
  refine if_neg fun htest => hother ?_
  rw [Bool.and_eq_true, beq_iff_eq, beq_iff_eq] at htest
  exact htest

/-- What CAS2 checks before it swaps: the element of the object in oA, the pointers of its operands, and its earlier accesses. -/
structure Cas2Reaches (f : Fields) (s s1 s2 : State) (a : Nat) : Prop where
  inside : check s (s.me.getO f.a) (s.me.getX f.b).toInt 16 16 = .ok ()
  kind : ∃ hAddr h, header s (oCanon (s.me.getO f.a)) = .ok (hAddr, h) ∧ hKind h = 2
  old : malformed (oCanon (s.me.getO f.d)) = false ∧ tagOf (oCanon (s.me.getO f.d)) ≠ 6
  next : malformed (oCanon (s.me.getO (f.d + 1))) = false ∧ tagOf (oCanon (s.me.getO (f.d + 1))) ≠ 6
  host : needAtomicOps s (oCanon (s.me.getO f.a)) = .ok ()
  escapes : escape f.a (f.d + 1) 400 [] s = .ok s1
  place : ∃ base, access s1 (oCanon (s1.me.getO f.a)) (16 + oView (s1.me.getO f.a) + (s.me.getX f.b).toInt.toNat) 16 = .ok base
    ∧ a = base + 16 + oView (s1.me.getO f.a) + (s.me.getX f.b).toInt.toNat
  sound : s1.poisoned a 16 = false
  ordered : atomicRelease s1 f (homeOf a) = .ok s2

/-- The state in which CAS2 has swapped, and has counted and logged itself (R213, R234). -/
def State.pairNoted (s : State) (f : Fields) (a : Nat) (ptr : Word64) : State :=
  let u := s.pairSwapped f a
  u.noteAtomic a
    { tid := u.me.tid, op := 0x11, lost := false, ptr := ptr, offset := u.me.getX f.b
      old := if u.hostWindow ptr then 0 else s.peekWord a, oldHigh := if u.hostWindow ptr then 0 else s.peekWord (a + 8)
      home := u.logHome ptr a }

/-- Then what the element held is deferred: its pointer, with the length of the object there, and its version. -/
def State.pairDeferred (s : State) (f : Fields) (a : Nat) (ptr : Word64) (hd : Option (Nat × Nat)) : State :=
  let u := s.pairNoted f a ptr
  let v := (u.requestTo (u.tablePart u.me) ptr a).deferAtomic a (.o f.d) (oMake false false 0 (headLen hd) (s.peekWord a)) ptr (u.me.getX f.b)
  v.deferAtomic a (.x f.c) ((s.peekWord (a + 8)).setWidth 128) ptr (v.me.getX f.b)

/-- Counting an atomic leaves the acting task alone. -/
theorem State.me_noteAtomic (s : State) (a : Nat) (l : AtomicLog) : (s.noteAtomic a l).me = s.me := rfl

/-- And so does the swap. -/
theorem State.me_pairNoted (s : State) (f : Fields) (a : Nat) (ptr : Word64) : (s.pairNoted f a ptr).me = s.me := by
  rw [State.pairNoted, State.me_noteAtomic, State.me_pairSwapped]

/-- Memory is as the swap leaves it. -/
theorem State.pairNoted_mem (s : State) (f : Fields) (a : Nat) (ptr : Word64) : (s.pairNoted f a ptr).mem = (s.pairSwapped f a).mem := by
  rw [State.pairNoted, State.noteAtomic_mem]

/-- What CAS2 defers. -/
theorem State.pairDeferred_pend (s : State) (f : Fields) (a : Nat) (ptr : Word64) (hd : Option (Nat × Nat)) :
    ∃ p1 p2, (s.pairDeferred f a ptr hd).me.pend = s.me.pend ++ [p1, p2]
      ∧ p1.dest = .o f.d ∧ p1.val.setWidth 128 = oMake false false 0 (headLen hd) (s.peekWord a)
      ∧ p2.dest = .x f.c ∧ p2.val.setWidth 64 = s.peekWord (a + 8) := by
  let u := s.pairNoted f a ptr
  let v := u.requestTo (u.tablePart u.me) ptr a
  have hme : v.me = s.me := (State.me_requestTo ..).trans (s.me_pairNoted f a ptr)
  obtain ⟨p1, hp1, hd1, hv1⟩ := v.deferAtomic_endsIn a (.o f.d) (oMake false false 0 (headLen hd) (s.peekWord a)) ptr (u.me.getX f.b)
  let w := v.deferAtomic a (.o f.d) (oMake false false 0 (headLen hd) (s.peekWord a)) ptr (u.me.getX f.b)
  obtain ⟨p2, hp2, hd2, hv2⟩ := w.deferAtomic_endsIn a (.x f.c) ((s.peekWord (a + 8)).setWidth 128) ptr (w.me.getX f.b)
  refine ⟨p1, p2, ?_, hd1, ?_, hd2, ?_⟩
  · rw [hp1, hme, List.append_assoc] at hp2
    exact hp2
  · rw [hv1, pointer_of_result]
  · rw [hv2, word_of_result]

/-- CAS2 then completes with the results, or faults in place of them when the header cannot be read. -/
theorem cas2Body_swaps {len : Except Flt (Option (Nat × Nat))} (hr : Cas2Reaches f s s1 s2 a)
    (hl : faultLater (pointerHead s2 (s2.peekWord a)) = .ok len) : cas2Body f s = match len with
      | .error x => .fault ((s2.pairNoted f a (oCanon (s1.me.getO f.a))).setMe { s2.me with refused := none }) x
      | .ok hd => .ok (s2.pairDeferred f a (oCanon (s1.me.getO f.a)) hd) := by
  obtain ⟨hin, ⟨hAddr, h, hh, hk⟩, hold, hnext, hn, hesc, ⟨base, hbase, ha⟩, hsound, hord⟩ := hr
  have hok {p : Word64} (hp : malformed p = false ∧ tagOf p ≠ 6) : (!malformed p && tagOf p != 6) = true := by simp [hp.1, hp.2]
  have hkind : (hKind h == 2) = true := by simp [hk]
  have hpoison : (!s1.poisoned a 16) = true := by rw [hsound]; rfl
  have hswap : (if s2.peekWord a == oCanon (s2.me.getO f.d) && s2.peekWord (a + 8) == s2.me.getX f.c then
      (s2.pokeWord a (oCanon (s2.me.getO (f.d + 1)))).pokeWord (a + 8) (s2.me.getX (f.c + 1)) else s2) = s2.pairSwapped f a := rfl
  simp only [cas2Body, hin, act_bind_ok, hh, needKind_ok hkind, need_ok (hok hold), need_ok (hok hnext), hn, hesc, hbase, ← ha, need_ok hpoison,
    hord, hl, hswap]
  cases len with
  | ok hd =>
    unfold State.pairDeferred State.pairNoted
    rfl
  | error x =>
    unfold State.pairNoted
    simp only [State.me_noteAtomic, State.me_pairSwapped]
    rfl

/-- Memory after a CAS2 that completes. -/
theorem State.pairDeferred_mem (s : State) (f : Fields) (a : Nat) (ptr : Word64) (hd : Option (Nat × Nat)) :
    (s.pairDeferred f a ptr hd).mem = (s.pairSwapped f a).mem := by
  rw [State.pairDeferred, State.deferAtomic_sameMem, State.deferAtomic_sameMem, State.requestTo_mem, State.pairNoted_mem]

end

/-! ## A lost result (R234) -/

/-- A task that goes on and has nothing outstanding stops with the fault it raises, and keeps its registers. -/
theorem State.raiseAt_idle {s : State} {k : TaskKey} (x : Flt) (pos epc : Word32) (atIssue : Bool) (hrun : (s.task k).status = .ready)
    (hidle : (s.task k).pend = []) :
    ∃ info, ((s.raiseAt k x pos epc atIssue).task k) = { s.task k with status := .stopped, wait := none, stop := some info }
      ∧ info.code = some x.code ∧ info.pos = pos ∧ info.ptr = x.ptr ∧ info.offset = x.offset := by
  have hset : (s.setTask k { s.task k with pend := [] }).task k = s.task k := by rw [State.task_setTask, ← hidle]
  have hparked : ¬ (((s.setTask k { s.task k with pend := [] }).task k).status == .parked
      && ((s.setTask k { s.task k with pend := [] }).task k).wait.isNone
      && ((s.setTask k { s.task k with pend := [] }).task k).pend.isEmpty) = true := by
    rw [hset, hrun]
    exact Bool.false_ne_true
  have hland : (s.landAll k).task k = s.task k := by
    rw [State.landAll, hidle]
    exact (congrArg (fun u : State => u.task k) (if_neg hparked)).trans hset
  have hgoes : ¬ (((s.landAll k).task k).status == .stopped) = true := by rw [hland, hrun]; decide
  rw [State.raiseAt, State.stopAt]
  dsimp only
  rw [if_neg hgoes, State.report, State.setHalt_task, State.task_setTask, hland]
  exact ⟨_, rfl, rfl, rfl, rfl, rfl⟩

/-- The state in which the results of a lost atomic have left their task, and the loss is logged. -/
def State.lost (s : State) (k : TaskKey) (p : Pend) (ptr off : Word64) : State :=
  let u := s.setTask k { s.task k with pend := (s.task k).pend.filter (fun q => !(q.pc == p.pc && q.atomic == some (ptr, off))) }
  u.setCore (coreOf k) { u.core (coreOf k) with results := markLost (s.task k).tid ptr off (u.core (coreOf k)).results }

/-- The task raises `atomic-result-lost` there. -/
theorem State.atomicLost_eq {s : State} {k : TaskKey} {i : Nat} {p : Pend} {ptr off : Word64} (hp : (s.task k).pend[i]? = some p)
    (ha : p.atomic = some (ptr, off)) :
    s.atomicLost k i = (s.lost k p ptr off).raiseAt k { code := .atomicResultLost, ptr := ptr, offset := off } p.pc p.pc false := by
  simp only [State.atomicLost, hp, ha]
  rfl

/-- The only outstanding result of a task is an atomic's, and is lost: its registers are not written. -/
theorem State.atomicLost_stops {s : State} {k : TaskKey} {p : Pend} {ptr off : Word64} (hp : (s.task k).pend = [p])
    (ha : p.atomic = some (ptr, off)) (hrun : (s.task k).status = .ready) :
    (s.atomicLost k 0).mem = s.mem ∧ ∃ info, (s.atomicLost k 0).task k
        = { s.task k with pend := [], status := .stopped, wait := none, stop := some info }
      ∧ info.code = some .atomicResultLost ∧ info.pos = p.pc ∧ info.ptr = ptr ∧ info.offset = off := by
  have hfirst : (s.task k).pend[0]? = some p := by rw [hp]; rfl
  have hnone : (s.task k).pend.filter (fun q => !(q.pc == p.pc && q.atomic == some (ptr, off))) = [] := by simp [hp, ha]
  have htask : (s.lost k p ptr off).task k = { s.task k with pend := [] } := by
    rw [State.lost, State.setCore_task, State.task_setTask, hnone]
  obtain ⟨info, hstopped, hinfo⟩ := State.raiseAt_idle (s := s.lost k p ptr off) { code := .atomicResultLost, ptr := ptr, offset := off } p.pc p.pc
    false (by rw [htask, hrun]) (by rw [htask])
  rw [State.atomicLost_eq hfirst ha]
  refine ⟨State.raiseAt_mem (atIssue := false) .., info, ?_, hinfo⟩
  rw [hstopped, htask]

/-- Settles O11: AMO and CAS, CAS2 with its three outcomes, and the lost result. -/
theorem atomicsReplaceAndReturn : Obligations.AtomicsReplaceAndReturn := by
  refine ⟨fun f s s' a => ?single, fun f s s1 s2 hAddr base h => ?pair, fun s k i p ptr off hp hi ha hrun => ?lost⟩
  case single =>
    intro n w op old b so sb new result last
    refine ⟨fun hi hc hr => ?_, fun hi hc hr => ?_⟩
    · obtain ⟨t, hb, hmem, hlast⟩ := amoBody_replaces hc hr
      have hres : result = if op = 6 || op = 7 || op = 9 then BitVec.ofNat 64 old else signW w old := by
        simp only [result, Bool.or_eq_true, decide_eq_true_eq, or_assoc]
      obtain ⟨q, hpend, hdest, hval⟩ := hlast
      have hnew : amoNew op w old b = new := amoNew_eq ..
      exact ⟨t, run_ok hi hb, hmem.trans (congrArg (fun v => s'.mem.writeN a (leBytes n v)) hnew), q, hpend, hdest,
        (congrArg (BitVec.setWidth 64) hval).trans ((word_of_result _).trans hres.symm)⟩
    · obtain ⟨t, hb, hlast, hmem⟩ := casBody_replaces hc hr
      obtain ⟨q, hpend, hdest, hval⟩ := hlast
      exact ⟨t, run_ok hi hb, ⟨q, hpend, hdest, (congrArg (BitVec.setWidth 64) hval).trans (word_of_result _)⟩, hmem⟩
  case pair =>
    intro r0 off r a p v fits same next hi hin hh hk hold hnext hn hesc hbase hsound hord
    have hr : Cas2Reaches f s s1 s2 a := ⟨hin, ⟨hAddr, h, hh, hk⟩, hold, hnext, hn, hesc, ⟨base, hbase, rfl⟩, hsound, hord⟩
    have hcompletes {hd : Option (Nat × Nat)} (hl : pointerHead s2 p = .ok hd) :
        exec (.cas2 f) s = completes s (s2.pairDeferred f a (oCanon r) hd) f :=
      run_ok hi (cas2Body_swaps (len := .ok hd) hr (by rw [hl]; rfl))
    have hswapped (hsame : s2.pairEquals f a) : (s2.pairSwapped f a).mem = next := State.pairSwapped_mem hsame
    refine ⟨fun hd hsame hl => ⟨_, hcompletes hl, ?_, s2.pairDeferred_pend f a (oCanon r) hd⟩,
      fun hd hother hl => ⟨_, hcompletes hl, ?_, s2.pairDeferred_pend f a (oCanon r) hd⟩, fun s3 x hsame hl hlate => ?_⟩
    · rw [State.pairDeferred_mem, hswapped hsame]
    · rw [State.pairDeferred_mem, State.pairSwapped_other hother]
    · have hfaults := cas2Body_swaps (len := .error x) hr (by rw [hl]; rfl)
      refine ⟨_, run_late hi hfaults hlate, ?_, ?_⟩
      · rw [State.defer_mem, State.setMe_mem, State.pairNoted_mem, hswapped hsame]
      · rw [State.pend_defer, State.me_setMe]
        exact ⟨_, rfl, rfl⟩
  case lost =>
    subst hi
    obtain ⟨hmem, info, htask, hcode, hpos, hptr, hoff⟩ := State.atomicLost_stops hp ha hrun
    refine ⟨s.atomicLost k 0, rfl, hmem, ?_⟩
    rw [htask]
    exact ⟨rfl, rfl, rfl, by simp only [Option.map_some, hcode, hpos, hptr, hoff]⟩

end Sys2Proof.Machine
end

section
/-!
PROOFS. Halts (rules): the reports that reach a controller (R229, R403), the agents that the line stops (R228, R230), and the statement put
together from that (O35).
-/

open Sys2Proof.Claims

namespace Sys2Proof.Machine

variable {s : State} {p : Nat} {r : Report} {k : TaskKey}

/-! ## Reports (R229, R403) -/

/-- A record is written while its die has room for it: so it is where the controller has fewer than 2,048. -/
theorem State.writeRec_room {x : StopRec} (h : (s.halt p).records.length < 2048) :
    s.writeRec p x = s.setHalt p { s.halt p with records := (s.halt p).records ++ [x] } := by
  have hdie := List.length_filter_le (fun y => agentDie y.who == agentDie x.who) (s.halt p).records
  exact if_neg (by omega)

/-- The record of a task that a fault has stopped. -/
def State.taskRec (s : State) (p : Nat) (k : TaskKey) (r : Report) (primary : Bool) : StopRec :=
  (s.stopRec p (.task k) r.info r.tid r.owner primary 0).1

/-- The controller once a report has reached it, and before its record is written: the first of a halt is its primary fault. -/
def State.reached (s : State) (p : Nat) (r : Report) : HaltCtl :=
  let h := { s.halt p with reports := [] }
  if h.halted then h
  else { h with
    halted := true, eligible := s.eligible r.agent r.info, overflow := false, hprim := BitVec.ofNat 32 h.records.length
    primary := BitVec.ofNat 8 ((r.info.code.map faultNum).getD 0), count := h.count + 1, who := some r.agent }

/-- Its records are as before. -/
theorem State.records_reached (s : State) (p : Nat) (r : Report) : (s.reached p r).records = (s.halt p).records := by
  unfold State.reached
  dsimp only
  split <;> rfl

/-- The only report on its way, of a task, reaches its controller and is recorded. -/
theorem State.takeReport_only (hr : (s.halt p).reports = [r]) (ha : r.agent = .task k) (hroom : (s.halt p).records.length < 2048) :
    s.takeReport p 0 = s.setHalt p { s.reached p r with
      records := (s.halt p).records ++ [(s.setHalt p (s.reached p r)).taskRec p k r (!(s.halt p).halted)] } := by
  have hfirst : (s.halt p).reports[0]? = some r := by rw [hr]; rfl
  have hleft : (s.halt p).reports.eraseIdx 0 = [] := by rw [hr]; rfl
  have hhalt : (s.setHalt p (s.reached p r)).halt p = s.reached p r := State.halt_setHalt ..
  have htake : s.takeReport p 0 = (s.setHalt p (s.reached p r)).writeRec p
      ((s.setHalt p (s.reached p r)).taskRec p k r (!(s.halt p).halted)) := by
    simp only [State.takeReport, hfirst, hleft, State.reached]
    cases (s.halt p).halted with
    | true =>
      simp only [Bool.not_true, Bool.false_eq_true, if_false, if_true, ha]
      rfl
    | false =>
      simp only [Bool.not_false, Bool.false_eq_true, if_false, if_true, ha]
      rfl
  have hrecs : ((s.setHalt p (s.reached p r)).halt p).records = (s.halt p).records := by rw [hhalt, State.records_reached]
  rw [htake, State.writeRec_room (by rw [hrecs]; exact hroom), hrecs, hhalt]
  exact congrArg (fun m => { s with halts := m }) (FMap.set_set ..)

/-- The first report halts its partition and is the primary one. -/
theorem State.reached_first (h : (s.halt p).halted = false) : s.reached p r = { s.halt p with
    reports := [], halted := true, eligible := s.eligible r.agent r.info, overflow := false, hprim := BitVec.ofNat 32 (s.halt p).records.length
    primary := BitVec.ofNat 8 ((r.info.code.map faultNum).getD 0), count := (s.halt p).count + 1, who := some r.agent } :=
  if_neg (ne_true_of_eq_false h)

/-- A later one is only recorded. -/
theorem State.reached_later (h : (s.halt p).halted = true) : s.reached p r = { s.halt p with reports := [] } := if_pos h

/-- The controller of a single report takes it. -/
theorem State.haltReport_only (hr : (s.halt p).reports = [r]) : s.haltReport p = s.takeReport p 0 := by
  simp only [State.haltReport, hr]

/-- And so does the supervisor's, for the M-core task that it comes from (R403). -/
theorem State.mCoreFault_only (hr : (s.halt 16).reports = [r]) (ha : r.agent = .task k) : s.mCoreFault k = s.takeReport 16 0 := by
  have hfound : (s.halt 16).reports.findIdx? (fun x => x.agent == .task k) = some 0 := by simp [hr, ha]
  simp only [State.mCoreFault, hfound]

/-! ## Agents that stop (R228, R230) -/

/-- A task is a busy agent of the partitions of the slots that list it. -/
theorem State.mem_busyAgents {q : Nat} : Agent.task k ∈ s.busyAgents q ↔ ∃ t, (k, t) ∈ s.tasks ∧ t.status ≠ .free ∧ t.part = q := by
  simp [State.busyAgents]

/-- A task that is listed once is busy for its own partition. -/
theorem State.mem_busyAgents_once {q : Nat} (honce : s.tasks.filter (fun e => e.1 == k) = [(k, s.task k)]) (hbusy : (s.task k).status ≠ .free) :
    Agent.task k ∈ s.busyAgents q ↔ (s.task k).part = q := by
  have hlisted (t : Task) : (k, t) ∈ s.tasks ↔ t = s.task k := by
    have hmem : (k, t) ∈ s.tasks.filter (fun e => e.1 == k) ↔ (k, t) ∈ s.tasks := by simp
    rw [← hmem, honce, List.mem_singleton, Prod.mk.injEq]
    simp
  simp only [State.mem_busyAgents, hlisted]
  simp [hbusy]

/-- What a switch point changes of a task that has nothing outstanding: it may become ready. -/
theorem State.landAll_idle (hidle : (s.task k).pend = []) :
    ∃ st, (st = (s.task k).status ∨ st = .ready) ∧ s.landAll k = s.setTask k { s.task k with status := st } := by
  have hsame : ({ s.task k with pend := [] } : Task) = s.task k := by rw [← hidle]
  have hset : s.landAll k = (s.setTask k (s.task k)).unpark k := by
    rw [State.landAll, hidle]
    exact congrArg (fun t => (s.setTask k t).unpark k) hsame
  rw [hset, State.unpark, State.task_setTask]
  split
  · exact ⟨.ready, .inr rfl, State.setTask_setTask ..⟩
  · exact ⟨_, .inl rfl, rfl⟩

/-- What a stopped agent is seen as by every halt. -/
theorem State.agentStops_stopped {q : Nat} (h : (s.task k).status = .stopped) : s.agentStops (.task k) q = s := by
  refine if_pos ?_
  simp [State.hasStopped, h]

/-- An agent that is not busy for a partition does not stop in its halt. -/
theorem State.agentStops_other {q : Nat} (h : Agent.task k ∉ s.busyAgents q) : s.agentStops (.task k) q = s := by
  refine if_pos ?_
  simp [h]

/-- A fold in which one element alone acts, after which none does. -/
theorem foldl_once {α β : Type} {g : β → α → β} {a : α} {b c : β} {l : List α} (hmem : a ∈ l) (hbefore : ∀ x ≠ a, g b x = b)
    (hacts : g b a = c) (hafter : ∀ x, g c x = c) : l.foldl g b = c := by
  induction l with
  | nil => exact absurd hmem (by simp)
  | cons x l ih =>
    by_cases hx : x = a
    · rw [List.foldl_cons, hx, hacts]
      exact List.foldl_fixed' hafter l
    · rw [List.foldl_cons, hbefore x hx]
      exact ih ((List.mem_cons.mp hmem).resolve_left (Ne.symm hx))

/-- A task that the line stops keeps its place, and writes a record that names no fault. -/
theorem State.writeStop_task (hroom : (s.halt p).records.length < 2048) :
    ∃ info x, (s.writeStop (.task k) p).task k = { s.task k with status := .stopped, stop := some info }
      ∧ ((s.writeStop (.task k) p).halt p).records = (s.halt p).records ++ [x] ∧ x.code = 0 ∧ x.pos = (s.task k).pc ∧ x.primary = false
      ∧ (s.writeStop (.task k) p).mem = s.mem := by
  obtain ⟨info, x, hwrite, hcode, hpos, hprimary⟩ : ∃ info x, s.writeStop (.task k) p
      = (s.setTask k { s.task k with status := .stopped, stop := some info }).fresh.2.writeRec p x
      ∧ x.code = 0 ∧ x.pos = (s.task k).pc ∧ x.primary = false := ⟨_, _, rfl, rfl, rfl, rfl⟩
  have hhalt (t : Task) : (s.setTask k t).fresh.2.halt p = s.halt p := rfl
  rw [hwrite, State.writeRec_room (by rw [hhalt]; exact hroom), hhalt, State.setHalt_task, State.halt_setHalt, State.setHalt_mem]
  exact ⟨info, x, State.task_setTask .., rfl, hcode, hpos, hprimary, rfl⟩

/-- A busy task with nothing outstanding stops in the halt of its partition. -/
theorem State.agentStops_stops (hhalted : (s.halt p).halted = true) (hbusy : Agent.task k ∈ s.busyAgents p)
    (hruns : (s.task k).status ≠ .stopped) (hidle : (s.task k).pend = []) (hroom : (s.halt p).records.length < 2048) :
    ∃ info x, (s.agentStops (.task k) p).task k = { s.task k with status := .stopped, stop := some info }
      ∧ ((s.agentStops (.task k) p).halt p).records = (s.halt p).records ++ [x] ∧ x.code = 0 ∧ x.pos = (s.task k).pc ∧ x.primary = false
      ∧ (s.agentStops (.task k) p).mem = s.mem := by
  obtain ⟨st, hst, hland⟩ := State.landAll_idle hidle
  have hgoes : ¬ (!(s.halt p).halted || s.hasStopped (.task k) p || !(s.busyAgents p).contains (.task k)) = true := by
    simp [hhalted, hbusy, State.hasStopped, hruns]
  have htask : (s.landAll k).task k = { s.task k with status := st } := by rw [hland, State.task_setTask]
  have hstops : ¬ (((s.landAll k).task k).status == .stopped) = true := by
    rw [htask, beq_iff_eq]
    rcases hst with rfl | rfl
    · exact hruns
    · exact SlotState.noConfusion
  have hstop : s.agentStops (.task k) p = (s.landAll k).writeStop (.task k) p := (if_neg hgoes).trans (if_neg hstops)
  have hhalt : (s.landAll k).halt p = s.halt p := by rw [hland]; rfl
  obtain ⟨info, x, hwritten, hrecs, hx⟩ := State.writeStop_task (s := s.landAll k) (k := k) (by rw [hhalt]; exact hroom)
  rw [htask] at hwritten hx
  rw [hhalt] at hrecs
  rw [State.landAll_mem] at hx
  exact hstop ▸ ⟨info, x, hwritten, hrecs, hx⟩

/-- The line stops a busy task in its own partition's halt, and in no other. -/
theorem State.agentStop_stops (hp : p < 16) (hhalted : (s.halt p).halted = true) (hpart : (s.task k).part = p)
    (hstatus : (s.task k).status = .ready ∨ (s.task k).status = .parked) (hidle : (s.task k).pend = [])
    (honce : s.tasks.filter (fun e => e.1 == k) = [(k, s.task k)]) (hroom : (s.halt p).records.length < 2048) :
    ∃ t info x, exec (.agentStop (.task k)) s = .next t ∧ t.task k = { s.task k with status := .stopped, stop := some info }
      ∧ (t.halt p).records = (s.halt p).records ++ [x] ∧ x.code = 0 ∧ x.pos = (s.task k).pc ∧ x.primary = false ∧ t.mem = s.mem := by
  have hbusy : (s.task k).status ≠ .free := by rcases hstatus with h | h <;> rw [h] <;> exact SlotState.noConfusion
  have hruns : (s.task k).status ≠ .stopped := by rcases hstatus with h | h <;> rw [h] <;> exact SlotState.noConfusion
  have hown (q : Nat) : Agent.task k ∈ s.busyAgents q ↔ p = q := by rw [State.mem_busyAgents_once honce hbusy, hpart]
  obtain ⟨info, x, htask, hrest⟩ := State.agentStops_stops hhalted ((hown p).mpr rfl) hruns hidle hroom
  have hfold : (List.range 16).foldl (fun s q => s.agentStops (.task k) q) s = s.agentStops (.task k) p :=
    foldl_once (List.mem_range.mpr hp) (fun q hq => State.agentStops_other (mt (hown q).mp (Ne.symm hq))) rfl
      fun q => State.agentStops_stopped (by rw [htask])
  exact ⟨_, info, x, congrArg Host.Outcome.next hfold, htask, hrest⟩

/-- Settles O35: the first report and a later one, an agent that the line stops, and the report of an M-core task. -/
theorem haltsRecordTheirAgents : Obligations.HaltsRecordTheirAgents := by
  intro s p r k h
  refine ⟨fun hr ha hnone hrun => ?first, fun hr ha hroom hhalted => ?later, fun hp hhalted hpart hstatus hidle _ honce hroom => ?stops,
    fun hr ha hroom => ?supervisor⟩
  case first =>
    have htake := State.takeReport_only hr ha (by rw [show (s.halt p).records = [] from hnone]; decide)
    refine ⟨s.takeReport p 0, (s.setHalt p (s.reached p r)).taskRec p k r (!(s.halt p).halted),
      congrArg Host.Outcome.next (State.haltReport_only hr), ?_⟩
    rw [htake, State.halt_setHalt, State.reached_first hrun, show (s.halt p).records = [] from hnone, ha]
    exact ⟨rfl, rfl, rfl, rfl, rfl, rfl, rfl, rfl, by rw [show (s.halt p).halted = false from hrun]; rfl, rfl, rfl, rfl, rfl, rfl, rfl⟩
  case later =>
    have htake := State.takeReport_only hr ha hroom
    refine ⟨s.takeReport p 0, (s.setHalt p (s.reached p r)).taskRec p k r (!(s.halt p).halted),
      congrArg Host.Outcome.next (State.haltReport_only hr), ?_⟩
    rw [htake, State.halt_setHalt, State.reached_later hhalted]
    exact ⟨rfl, by rw [show (s.halt p).halted = true from hhalted]; rfl, rfl, rfl, rfl⟩
  case stops =>
    obtain ⟨t, info, x, hexec, htask, hrecs, hcode, hpos, hprimary, hmem⟩ :=
      State.agentStop_stops hp hhalted hpart hstatus hidle honce hroom
    exact ⟨t, x, hexec, by rw [htask], by rw [htask], by rw [htask], by rw [htask], hrecs, hcode, hpos, hprimary, hmem⟩
  case supervisor =>
    have htake := State.takeReport_only hr ha hroom
    refine ⟨s.takeReport 16 0, congrArg Host.Outcome.next (State.mCoreFault_only hr ha), ?_, fun q hq => ?_⟩
    · rw [htake, State.halt_setHalt, List.length_append]
      rfl
    · rw [htake, State.halt_setHalt_other _ (by omega)]

end Sys2Proof.Machine
end

section
/-!
PROOFS. The host and memory errors (rules): host accesses and pages (R239, R243, R244, R250), corrected and uncorrectable errors (R240), and
the statement put together from that (O44).
-/

open Sys2Proof.Claims

namespace Sys2Proof.Machine

/-- A key that is set is found. -/
theorem FMap.lookup_set_same {α : Type} (m : FMap α) (k : Nat) (v : α) : (m.set k v).lookup k = some v := by
  induction m with
  | nil => simp [FMap.set]
  | cons e m ih =>
    obtain ⟨j, w⟩ := e
    rw [FMap.set]
    split
    · exact List.lookup_cons_self
    · split
      · exact List.lookup_cons_self
      · next hne =>
        have hother : (k == j) = false := beq_eq_false_iff_ne.mpr hne
        rw [List.lookup_cons, hother]
        exact ih

/-- A change that leaves the default alone changes every entry that is found. -/
theorem FMap.find_mapVals {α : Type} (m : FMap α) (g : α → α) (k : Nat) (d : α) (h : g d = d) : (m.mapVals g).find k d = g (m.find k d) :=
  FMap.find_mapKeyed m (fun _ => g) k d h

section
variable {s : State}

/-! ## Host accesses (R244, R250) -/

/-- A host store writes its bytes where it leads, unless a channel stalls one of them. -/
theorem State.hostAccess_write {a pa : Nat} {bs : List Byte} (hmode : s.plat.recovery = false) (hreach : s.hostReach a bs.length = some pa)
    (hgoes : isHost pa = true ∨ ∀ i, i < bs.length → s.deviceStalls (a + i) (pa + i) = false) : s.hostAccess .write a bs = s.poke pa bs := by
  have hnostall : (!isHost pa && (List.range bs.length).any (fun i => s.deviceStalls (a + i) (pa + i))) = false := by
    rcases hgoes with hhost | hdevice
    · simp [hhost]
    · simp only [Bool.and_eq_false_iff, List.any_eq_false, List.mem_range]
      exact .inr fun i hi => ne_true_of_eq_false (hdevice i hi)
  simp only [State.hostAccess, hmode, Bool.false_eq_true, if_false, hreach, hnostall]

/-- A host store that leads nowhere writes nothing. -/
theorem State.hostAccess_nowhere {a : Nat} {bs : List Byte} (hreach : s.hostReach a bs.length = none) : s.hostAccess .write a bs = s := by
  simp only [State.hostAccess, hreach, ite_self]

/-- In recovery the module offers no access. -/
theorem State.hostAccess_recovery {what : HostOp} {a : Nat} {bs : List Byte} (hmode : s.plat.recovery = true) : s.hostAccess what a bs = s :=
  if_pos hmode

/-- The supervisor's map replaces what a frame showed. -/
theorem State.hostAccess_map {a p r i : Nat} (hmode : s.plat.recovery = false) : s.hostAccess (.map p r i) a []
    = { s with plat := { s.plat with frameMap := s.plat.frameMap.set (a / 2 ^ 28) (p, r, i) } } :=
  if_neg (ne_true_of_eq_false hmode)

/-! ## Page responses (R239) -/

/-- A page that the host grants is granted. -/
theorem State.priAnswer_grants {i : Nat} {q : PageReq} (hq : s.plat.pages[i]? = some q) :
    pageOf q ∈ (s.priAnswer i true).plat.grantedPages ∧ (s.priAnswer i true).tasks = s.tasks ∧ (s.priAnswer i true).mem = s.mem := by
  simp only [State.priAnswer, hq, if_true, and_true]
  split
  · next hin => exact List.contains_iff_mem.mp hin
  · exact List.mem_cons_self

/-- What a refused page changes of a task: it is noted for the one that has the id (R239). -/
def Task.refuses (tid : Word32) (g : Nat) (t : Task) : Task := if t.tid == tid && t.status != .free then { t with refused := some g } else t

/-- A page that the host refuses to a task is noted for the task that has the id. -/
theorem State.priAnswer_refuses {i k g : Nat} {tid : Word32} {ptr : Word64} (hq : s.plat.pages[i]? = some (.task k tid ptr g)) :
    (s.priAnswer i false).mem = s.mem ∧ ∀ j, (s.task j).tid = tid → (s.task j).status ≠ .free →
      (s.priAnswer i false).task j = { s.task j with refused := some g } := by
  simp only [State.priAnswer, hq, Bool.false_eq_true, if_false]
  refine ⟨rfl, fun j htid hthere => ?_⟩
  have hnoted : (((s.task j).tid == tid) && ((s.task j).status != .free)) = true := by simp [htid, hthere]
  have hfree : Task.refuses tid g Task.empty = Task.empty := if_neg (by simp [Task.empty])
  exact (FMap.find_mapVals s.tasks (Task.refuses tid g) j Task.empty hfree).trans (if_pos hnoted)

/-- An access to a page that the host has not given raises `host-translation` where the host has refused it, and else asks for it and waits. -/
theorem access_page {ptr : Word64} {off n g : Nat} (hadmits : s.admits s.cur ptr = true)
    (hreach : s.reach (s.tablePart s.me) ptr off n = .page g) : access s ptr off n = if s.me.refused = some g
      then .error (.fault (s.setMe { s.me with refused := none }) { code := .hostTranslation, ptr := ptr, offset := BitVec.ofNat 64 (off - 16) })
      else .error (.retry (s.askPage (.task s.cur s.me.tid ptr g))) := by
  simp only [access, accessVia, hadmits, Bool.not_true, Bool.and_false, Bool.false_eq_true, if_false, hreach, beq_iff_eq]

/-! ## Errors (R240) -/

/-- A struck block of memory is poisoned. -/
theorem State.poisoned_poisonBlock (s : State) {a n : Nat} (hn : 0 < n) : (s.poisonBlock a).poisoned a n = true := by
  have hmem : a / 64 * 64 ∈ (s.poisonBlock a).poison := by
    simp only [State.poisonBlock]
    split
    · next hin => exact List.contains_iff_mem.mp hin
    · simp
  rw [State.poisoned, List.any_eq_true]
  exact ⟨_, hmem, by simp; omega⟩

/-- The first error of a location is counted, with its time. -/
theorem State.corrected_first {loc : EccLoc} {time : Nat} (hnone : s.ecc.find? (fun e => e.loc == loc) = none) :
    (s.corrected loc time).ecc.find? (fun e => e.loc == loc) = some ⟨loc, 1, time⟩ := by
  have hecc : (s.corrected loc time).ecc = s.ecc.filter (fun e => e.loc != loc) ++ [⟨loc, 1, time⟩] := by
    simp only [State.corrected, hnone]
    repeat' split
    all_goals rfl
  have hrest : (s.ecc.filter (fun e => e.loc != loc)).find? (fun e => e.loc == loc) = none := by
    rw [List.find?_eq_none]
    intro e he
    simpa using (List.mem_filter.mp he).2
  rw [hecc, List.find?_append, hrest]
  simp

/-- A row at its threshold goes to a spare, and its count starts anew. -/
theorem State.lastingFault_row {x y : Nat} {e : EccCount} (he : s.ecc.find? (fun e => e.loc == .hbmRow x y) = some e) (hcount : 3 ≤ e.count) :
    (s.lastingFault (.hbmRow x y)).spared = s.spared ++ [.hbmRow x y]
      ∧ (s.lastingFault (.hbmRow x y)).ecc = s.ecc.filter (fun e => e.loc != .hbmRow x y) := by
  have hdue : ¬ e.count < 3 := by omega
  simp only [State.lastingFault, he, eccLimit, if_neg hdue]
  exact ⟨rfl, rfl⟩

/-- AtomicOp Requester Enable changes for its function alone (R243). -/
theorem State.deviceControl_bit (s : State) {fn j : Nat} (on : Bool) (hj : j < 18) :
    (s.deviceControl fn on).plat.atomicOps.getLsbD j = if j = fn then on else s.plat.atomicOps.getLsbD j := by
  have hbit : (BitVec.ofNat 18 (2 ^ fn)).getLsbD j = decide (j = fn) := by
    rw [BitVec.getLsbD_ofNat, Nat.testBit_two_pow]
    simp [hj, eq_comm]
  cases on with
  | true =>
    simp only [State.deviceControl, if_true, BitVec.getLsbD_or, hbit]
    by_cases h : j = fn <;> simp [h]
  | false =>
    simp only [State.deviceControl, Bool.false_eq_true, if_false, BitVec.getLsbD_and, BitVec.getLsbD_not, hbit]
    by_cases h : j = fn <;> simp [h, hj]

end

/-- Settles O44: each thing that the host does, and each error. -/
theorem hostAndErrorsActOnMemory : Obligations.HostAndErrorsActOnMemory := by
  intro s
  refine ⟨fun a bs pa hmode hreach hgoes => ?write, fun a bs => congrArg _ (ite_self s), fun a bs hreach => congrArg _ (State.hostAccess_nowhere hreach),
    fun what a bs hmode => congrArg _ (State.hostAccess_recovery hmode), fun a p r i hmode => ?map, fun i k tid ptr g hq => ?page,
    fun ptr off n g => access_page, fun a n hn => ?block, fun c n hn => ?accumulator, fun loc time hnone => ?corrected,
    fun x y e he hcount => ?row, fun x y e time he => ⟨_, rfl, rfl⟩, fun fn on hfn => ?enable⟩
  case write => exact ⟨_, congrArg Host.Outcome.next (State.hostAccess_write hmode hreach hgoes), rfl, rfl⟩
  case map => exact ⟨_, congrArg Host.Outcome.next (State.hostAccess_map hmode), FMap.lookup_set_same .., rfl⟩
  case page =>
    obtain ⟨hgranted, htasks, hmem⟩ := State.priAnswer_grants hq
    obtain ⟨hsame, hnoted⟩ := State.priAnswer_refuses hq
    exact ⟨⟨_, rfl, hgranted, htasks, hmem⟩, _, rfl, hsame, hnoted⟩
  case block => exact ⟨_, rfl, State.poisoned_poisonBlock _ hn, State.strike_mem ..⟩
  case accumulator => exact ⟨_, rfl, congrArg Acc.bad (State.accOf_setAcc s c n _ hn), rfl⟩
  case corrected => exact ⟨_, rfl, State.corrected_first hnone, State.corrected_mem ..⟩
  case row =>
    obtain ⟨hspared, hecc⟩ := State.lastingFault_row he hcount
    refine ⟨_, rfl, hspared, ?_⟩
    rw [hecc, List.find?_eq_none]
    intro e he
    simpa using (List.mem_filter.mp he).2
  case enable =>
    refine ⟨_, rfl, (s.deviceControl_bit on hfn).trans (if_pos rfl), fun j hj hne => (s.deviceControl_bit on hj).trans (if_neg hne)⟩

end Sys2Proof.Machine
end

section
/-!
PROOFS. Launch queues (rules): their registers (R217, R250, R404), the selection of a packet (R220), the packet that is refused (R218, R219) and
the one that becomes a launch (R221), and the statement put together from that (O41).
-/

open Sys2Proof.Claims

namespace Sys2Proof.Machine

section
variable {s : State} {p q io : Nat} {v : Word32} {bs : List Byte}

/-! ## The registers (R217) -/

/-- A doorbell has no effect in recovery. -/
theorem State.qtailWrite_recovery (h : s.plat.recovery = true) : s.qtailWrite p q v = s := if_pos h

/-- A tail within the ring is taken. -/
theorem State.qtailWrite_within (h : s.plat.recovery = false) (hin : (v - (s.queue p q).head).toNat ≤ (s.queue p q).ring) :
    s.qtailWrite p q v = s.setQueue p q { s.queue p q with tail := v } := by
  simp only [State.qtailWrite, h, Bool.false_eq_true, if_false, if_neg (Nat.not_lt.mpr hin)]

/-- A tail beyond it stops the queue with the error bit. -/
theorem State.qtailWrite_beyond (h : s.plat.recovery = false) (hout : (s.queue p q).ring < (v - (s.queue p q).head).toNat) :
    s.qtailWrite p q v = s.setQueue p q { s.queue p q with tail := v, ctl := ((s.queue p q).ctl &&& ~~~1#32) ||| 2#32 } := by
  simp only [State.qtailWrite, h, Bool.false_eq_true, if_false, if_pos hout]

/-- A write that enables the queue has bit 0. -/
theorem getLsbD_enabled (v : Word32) : (v ||| 1#32).getLsbD 0 = true := by simp

/-- An enabled queue takes the fields of the write, where its ring is usable. -/
theorem State.qctlWrite_enables (hring : s.ringOk p (s.queue p q).base (v ||| 1#32) = true) : s.qctlWrite p q (v ||| 1#32)
    = s.setQueue p q { s.queue p q with ctl := ((v ||| 1#32) &&& 0x003FFFC1#32) ||| ((s.queue p q).ctl &&& 2#32) } := by
  simp only [State.qctlWrite, hring, Bool.not_true, Bool.and_false, Bool.false_eq_true, if_false]

/-- An unusable ring is not enabled. -/
theorem State.qctlWrite_refused (hring : s.ringOk p (s.queue p q).base (v ||| 1#32) = false) : s.qctlWrite p q (v ||| 1#32)
    = s.setQueue p q { s.queue p q with ctl := (s.queue p q).ctl ||| 2#32 } := by
  simp only [State.qctlWrite, hring, getLsbD_enabled, Bool.not_false, Bool.and_self, if_true]

/-! ## The selected packet (R219, R220) -/

/-- What makes a packet a launch (R219). -/
def State.packetUsable (s : State) (p : Nat) (bs : List Byte) : Prop :=
  bits (packetWord bs 0) 0 8 = 1 ∧ packetBad bs = false ∧ 1 ≤ bits (packetWord bs 0) 32 16 ∧ bits (packetWord bs 0) 32 16 ≤ 4096
    ∧ s.maskClusters p (bits (packetWord bs 0) 20 4) ≠ []
    ∧ s.packetCode p (BitVec.ofNat 64 (packetWord bs 1)) (bits (packetWord bs 2) 0 32) = true
    ∧ malformed (BitVec.ofNat 64 (packetWord bs 3)) = false

/-- It is the one that neither its own words nor its code object refuse. -/
theorem State.packetUsable_iff : s.packetUsable p bs ↔
    (s.packetRefused p bs || !s.packetCode p (BitVec.ofNat 64 (packetWord bs 1)) (bits (packetWord bs 2) 0 32)) = false := by
  have hroots : 1 ≤ bits (packetWord bs 0) 32 16 ↔ bits (packetWord bs 0) 32 16 ≠ 0 := Nat.one_le_iff_ne_zero
  simp only [State.packetUsable, State.packetRefused, hroots, Bool.or_eq_false_iff, bne_eq_false_iff_eq, beq_eq_false_iff_ne,
    decide_eq_false_iff_not, Nat.not_lt, Bool.not_eq_false', List.isEmpty_eq_false_iff, and_assoc]
  tauto

/-- A distributor that has read every head, and for whose selected packet all is at hand, starts it. -/
theorem State.launchSelect_starts (hsel : s.selection io = some (p, q, bs)) (hmode : s.plat.recovery = false) (hheads : s.headWaits io = false)
    (hmail : s.engineWaits p (BitVec.ofNat 64 (packetWord bs 4)) 24 = false)
    (hcode : s.packetRefused p bs = false →
      s.engineWaits p (BitVec.ofNat 64 (packetWord bs 1)) (s.codeSize p (BitVec.ofNat 64 (packetWord bs 1))) = false
      ∧ s.distFault p q (BitVec.ofNat 64 (packetWord bs 1)) (s.codeSize p (BitVec.ofNat 64 (packetWord bs 1))) = none) :
    s.launchSelect io = s.startPacket io p q bs := by
  simp only [State.launchSelect, hmode, hheads, hsel, hmail, Bool.false_eq_true, if_false]
  cases hrefused : s.packetRefused p bs with
  | true => simp
  | false =>
    obtain ⟨hwait, hfault⟩ := hcode hrefused
    simp [hwait, hfault]

/-- The state in which the packet has left its queue. -/
def State.served (s : State) (io p q : Nat) (bs : List Byte) : State :=
  (s.setDist io { s.dist io with last := (s.dist io).last.set (s.priority p q bs) (64 * p + q) }).setQueue p q
    { s.queue p q with head := (s.queue p q).head + 1 }

@[simp] theorem State.queue_served : (s.served io p q bs).queue p q = { s.queue p q with head := (s.queue p q).head + 1 } := State.queue_setQueue ..

/-! ## A refused packet (R218, R219) -/

/-- A refused packet completes at once with status 2. -/
theorem State.startPacket_refused (h : ¬ s.packetUsable p bs) : s.startPacket io p q bs
    = (s.served io p q bs).completePacket io p q (BitVec.ofNat 64 (packetWord bs 4)) (s.queue p q).head 2 ((packetWord bs 0).testBit 25) :=
  if_pos (Bool.not_eq_false _ ▸ mt State.packetUsable_iff.mpr h)

/-- What stops a distributor's access is the same once the packet has left its queue. -/
theorem State.distFault_served (ptr : Word64) (n : Nat) : (s.served io p q bs).distFault p q ptr n = s.distFault p q ptr n := by
  have htenant : (s.served io p q bs).queueTenant p q = s.queueTenant p q := by
    rw [State.queueTenant, State.queue_served]
    rfl
  rw [State.distFault, htenant]
  rfl

/-- A packet that completes writes its word where its mailbox is usable. -/
theorem State.completePacket_word {mailbox : Word64} {count : Word32} {status a : Nat} {notify : Bool} (ha : s.mailboxAt p mailbox = some a)
    (hf : s.distFault p q mailbox 16 = none) :
    (s.completePacket io p q mailbox count status notify).queues = s.queues
      ∧ (s.completePacket io p q mailbox count status notify).mem = s.mem.writeN a (leBytes 8 (BitVec.ofNat 64 (count.toNat * 2 ^ 32 + status)).toNat) := by
  simp only [State.completePacket, ha, hf]
  split <;> exact ⟨rfl, rfl⟩

/-- The completion word's count and status. -/
theorem toNat_completion (count : Word32) {status : Nat} (h : status < 2 ^ 32) :
    (BitVec.ofNat 64 (count.toNat * 2 ^ 32 + status)).toNat = count.toNat * 2 ^ 32 + status := by
  rw [BitVec.toNat_ofNat]
  exact Nat.mod_eq_of_lt (by have := count.isLt; omega)

/-! ## A launch (R221) -/

/-- Loading a launch's code changes no queue. -/
theorem State.queues_loadLaunch (s : State) (l : Nat) : (s.loadLaunch l).queues = s.queues := by
  unfold State.loadLaunch
  split
  · rfl
  · split
    · rfl
    · split
      · rfl
      · dsimp only
        split
        · rfl
        · change (List.foldl _ s _).queues = _
          refine foldl_keeps (fun t => t.queues) (fun _ _ _ => ?_) s
          rfl

/-- Loading a launch changes of it only where its code is. -/
theorem State.lookup_loadLaunch {l : Nat} {la : Launch} (h : s.launches.lookup l = some la) :
    ∃ loaded base, (s.loadLaunch l).launches.lookup l = some { la with loaded := loaded, base := base } := by
  simp only [State.loadLaunch, h]
  split
  · exact ⟨_, _, h⟩
  · split
    · exact ⟨_, _, h⟩
    · split
      · exact ⟨_, _, h⟩
      · exact ⟨_, _, FMap.lookup_set_same ..⟩

/-- A usable packet becomes a launch that runs in its queue. -/
theorem State.startPacket_launches (h : s.packetUsable p bs) : ∃ la : Launch,
    s.startPacket io p q bs = ((({ (s.served io p q bs) with order := s.order + 1, launches := s.launches.set s.order la } : State).setQueue p q
        { (s.served io p q bs).queue p q with running := some s.order }).loadLaunch s.order)
      ∧ la.part = p ∧ la.queue = q ∧ la.count = (s.queue p q).head ∧ la.mailbox = BitVec.ofNat 64 (packetWord bs 4)
      ∧ la.code = BitVec.ofNat 64 (packetWord bs 1) ∧ la.roots = bits (packetWord bs 0) 32 16 :=
  ⟨_, if_neg (ne_true_of_eq_false (State.packetUsable_iff.mp h)), rfl, rfl, rfl, rfl, rfl, rfl⟩

end

/-- Settles O41: the registers, and the selected packet that is refused or launched. -/
theorem queuesAndPacketsBecomeLaunches : Obligations.QueuesAndPacketsBecomeLaunches := by
  refine ⟨fun s p q io v => ?registers, fun s io p q bs hsel => ?packets⟩
  case registers =>
    have hderr : (s.derrWrite io v).dist io = { s.dist io with derr := (s.dist io).derr &&& ~~~(v &&& 0xE0000000#32) } := State.dist_setDist ..
    exact ⟨fun hmode => congrArg _ (State.qtailWrite_recovery hmode), fun hmode hin => congrArg _ (State.qtailWrite_within hmode hin),
      fun hmode hout => congrArg _ (State.qtailWrite_beyond hmode hout), fun hring => congrArg _ (State.qctlWrite_enables hring),
      fun hring => congrArg _ (State.qctlWrite_refused hring), s.derrWrite io v, rfl, by rw [hderr], by rw [hderr]⟩
  case packets =>
    intro k w0 code mailbox usable hmode hheads hmail hcode
    have hstart : exec (.launchSelect io) s = .next (s.startPacket io p q bs) :=
      congrArg Host.Outcome.next (State.launchSelect_starts hsel hmode hheads hmail hcode)
    refine ⟨fun a hrefused ha hf => ?_, fun husable => ?_⟩
    · obtain ⟨hqueues, hmem⟩ := State.completePacket_word (s := s.served io p q bs) (io := io) (count := k.head) (status := 2)
        (notify := (packetWord bs 0).testBit 25) (show (s.served io p q bs).mailboxAt p mailbox = some a from ha) ((State.distFault_served ..).trans hf)
      rw [← State.startPacket_refused hrefused] at hqueues hmem
      have hqueue : (s.startPacket io p q bs).queue p q = { k with head := k.head + 1 } := by
        rw [State.queue, hqueues]
        exact State.queue_served
      exact ⟨_, hstart, by rw [hqueue], by rw [hqueue], hmem.trans (by rw [toNat_completion _ (by decide)]; rfl)⟩
    · obtain ⟨la, hlaunch, hla⟩ := State.startPacket_launches (s := s) (io := io) (q := q) husable
      have hqueue : (s.startPacket io p q bs).queue p q = { k with head := k.head + 1, running := some s.order } := by
        rw [hlaunch, State.queue, State.queues_loadLaunch]
        exact (State.queue_setQueue ..).trans (by rw [State.queue_served])
      obtain ⟨loaded, base, hlookup⟩ := State.lookup_loadLaunch (s := (({ (s.served io p q bs) with
        order := s.order + 1, launches := s.launches.set s.order la } : State).setQueue p q
        { (s.served io p q bs).queue p q with running := some s.order })) (FMap.lookup_set_same s.launches s.order la)
      rw [← hlaunch] at hlookup
      exact ⟨_, hstart, by rw [hqueue], by rw [hqueue], by rw [hlaunch, State.loadLaunch_mem]; rfl, _, hlookup, hla⟩

end Sys2Proof.Machine
end

section
/-!
PROOFS. The firmware and the clocks (rules): boot and its steps (R249, R250), warming (R252), attestation and the mailbox (R251), kernels (R262),
adaptive clocking (R14, R253), and the statement put together from that (O46).
-/

open Sys2Proof.Claims

namespace Sys2Proof.Machine

section
variable {s : State} {rs : List BootResult}

/-! ## A boot begins and ends (R249) -/

/-- The end of a boot's steps: the module is booted when all have passed. -/
def State.bootEnds (s : State) : State :=
  let booted := s.allPassed && s.warmed && !s.plat.recovery
  { s with plat := { s.plat with booting := s.plat.booting && !booted && !s.plat.recovery, booted := booted } }

/-- A boot whose first step is asked for, or that no boot is under way for, begins. -/
theorem State.bootRun_begins (hmode : s.plat.recovery = false) (hstarts : s.plat.booting = false ∨ rs.head?.map (·.step) = some 1) :
    s.bootRun rs = (s.bootBegins.bootSteps rs).bootEnds := by
  have hbegins : (!s.plat.booting || (rs.head?.map (·.step)) == some 1) = true := by
    rcases hstarts with h | h <;> simp [h]
  simp only [State.bootRun, hmode, hbegins, Bool.not_true, Bool.and_false, Bool.or_self, Bool.false_eq_true, if_false, if_true]
  rfl

/-- In recovery, and while the package warms, the steps wait. -/
theorem State.bootRun_waits (h : s.plat.recovery = true ∨ (s.plat.booting = true ∧ s.plat.warming = true ∧ rs.head?.map (·.step) ≠ some 1)) :
    s.bootRun rs = s := by
  refine if_pos ?_
  rcases h with h | ⟨hboots, hwarms, hstep⟩
  · simp [h]
  · simp [hboots, hwarms, hstep]

/-- A boot is not over while a step on a unit has no entry. -/
theorem State.allPassed_missing {step unit : Nat} (hunit : (step, unit) ∈ s.bootUnits) (hnone : entryIn s.plat.almanac step unit s.plat.boot = none) :
    s.allPassed = false :=
  List.all_eq_false.mpr ⟨_, hunit, by simp [hnone]⟩

/-- Steps 1 and 2 run on each module. -/
theorem State.mem_bootUnits (s : State) : (1, 0) ∈ s.bootUnits ∧ (2, 0) ∈ s.bootUnits := by simp [State.bootUnits]

/-- Every step of a boot is 1 or later. -/
theorem State.one_le_bootUnits {e : Nat × Nat} (he : e ∈ s.bootUnits) : 1 ≤ e.1 := by
  simp only [State.bootUnits, List.mem_append, List.mem_cons, List.mem_map, List.not_mem_nil, or_false] at he
  rcases he with (((rfl | rfl) | ⟨n, -, rfl⟩) | ⟨n, -, rfl⟩) | rfl | rfl | rfl <;> exact Nat.le_of_ble_eq_true rfl

/-- So the module is not booted. -/
theorem State.booted_bootEnds (h : s.allPassed = false) : s.bootEnds.plat.booted = false := by
  simp only [State.bootEnds, h, Bool.false_and]

/-- A boot that is over is not under way. -/
theorem State.booting_bootEnds (h : s.plat.booting = false) : s.bootEnds.plat.booting = false := by
  simp only [State.bootEnds, h, Bool.false_and]

/-! ## The first step (R249, R250) -/

/-- A boot has no entry yet. -/
def State.unwritten (s : State) : Prop := s.plat.almanac.all (fun e => e.boot != s.plat.boot) = true

/-- Then no step on a unit has one. -/
theorem State.unwritten.entryIn (h : s.unwritten) (step unit : Nat) : entryIn s.plat.almanac step unit s.plat.boot = none := by
  have hnone : s.plat.almanac.filter (fun e => e.step == step && e.unit == unit && e.boot == s.plat.boot) = [] := by
    rw [List.filter_eq_nil_iff]
    intro e he
    have hother := List.all_eq_true.mp h e he
    simp only [bne_iff_ne] at hother
    simp [hother]
  simp only [Machine.entryIn, hnone, List.getLast?_nil]

/-- It has not warmed. -/
theorem State.unwritten.warmed (h : s.unwritten) : s.warmed = true := by
  rw [State.warmed, h.entryIn]
  rfl

/-- Step 1 is the one that runs first. -/
theorem State.unwritten.stepNext (h : s.unwritten) : s.stepNext 1 0 = true := by
  have hunits : s.bootUnits.all (fun e => decide (1 ≤ e.1) || s.stepRun e.1 e.2) = true :=
    List.all_eq_true.mpr fun e he => by simp [State.one_le_bootUnits he]
  have hnone : s.plat.almanac.any (fun e => e.boot == s.plat.boot && e.step != 0 && (1 < e.step || (e.step == 1 && e.unit == 0))) = false := by
    rw [List.any_eq_false]
    intro e he
    have hother := List.all_eq_true.mp h e he
    simp only [bne_iff_ne] at hother
    simp [hother]
  simp only [State.stepNext, hunits, hnone, Bool.not_false, Bool.and_self]

/-- A later one has not its turn. -/
theorem State.unwritten.not_stepNext (h : s.unwritten) {step : Nat} (hstep : 2 ≤ step) (unit : Nat) : s.stepNext step unit = false := by
  have hfirst : ¬ (decide (step ≤ 1) || s.stepRun 1 0) = true := by
    rw [State.stepRun, h.entryIn]
    simp
    omega
  have hunits : s.bootUnits.all (fun e => decide (step ≤ e.1) || s.stepRun e.1 e.2) = false :=
    List.all_eq_false.mpr ⟨_, s.mem_bootUnits.1, hfirst⟩
  simp only [State.stepNext, hunits, Bool.false_and]

/-- The first step runs, and after it the others unless the power or the step fails. -/
theorem State.bootSteps_first {out : Option Bool} {cxl : Bool} {temp : Int} (h : s.unwritten) (hw : s.plat.warming = false) :
    let r : BootResult := ⟨1, 0, out, cxl, temp⟩
    s.bootSteps [r] = if out.isNone then { (s.bootStep r) with plat := { (s.bootStep r).plat with booting := false } } else s.bootStep r := by
  intro r
  have hgoes : (s.plat.warming || !s.warmed || !s.stepNext r.step r.unit) = false := by
    rw [hw, h.warmed, h.stepNext]
    rfl
  have hstep : ¬ 3 < r.step := show ¬ 3 < 1 by decide
  simp only [State.bootSteps, if_neg hstep, hgoes, Bool.false_eq_true, if_false, ite_self]
  rfl

/-- A step whose turn has not come ends the boot's steps. -/
theorem State.bootSteps_late {r : BootResult} (h : s.unwritten) (hcold : s.cold = false) (hstep : 2 ≤ r.step) : s.bootSteps (r :: rs) = s := by
  have hbegins : s.warmingBegins = s := by
    refine if_neg ?_
    simp [hcold]
  have hturn : (if 3 < r.step then s.warmingBegins else s) = s := by rw [hbegins, ite_self]
  have hends : (s.plat.warming || !s.warmed || !s.stepNext r.step r.unit) = true := by
    rw [h.not_stepNext hstep]
    simp
  simp only [State.bootSteps, hturn, hends, if_true]

/-- An outcome as the almanac notes it. -/
def outcomeOf (out : Option Bool) : Nat :=
  match out with
  | none => 0
  | some true => 1
  | some false => 2

/-- The first entry of an almanac. -/
theorem State.almanacNote_only (step unit outcome : Nat) (alternate : Bool) (temp : Int) (hlog : s.plat.almanac = []) :
    ∃ e : Almanac, (s.almanacNote step unit outcome alternate temp).plat.almanac = [e]
      ∧ (e.step, e.unit, e.boot, e.alternate, e.outcome) = (step, unit, s.plat.boot, alternate, outcome) := by
  simp only [State.almanacNote, State.almanacAdd, State.fresh, hlog, List.nil_append, List.length_cons, List.length_nil, Nat.zero_add,
    Nat.reduceSub, List.drop_zero]
  exact ⟨_, rfl, rfl⟩

/-- Its outcome. -/
theorem State.almanacEnd_only {e : Almanac} (outcome : Nat) (hlog : s.plat.almanac = [e]) :
    (s.almanacEnd outcome).plat.almanac = [{ e with outcome := outcome }] := by
  simp only [State.almanacEnd, hlog]
  rfl

/-- The first step is noted as started, and then ends with its outcome where the power does not fail. -/
def State.tried (s : State) (out : Option Bool) (temp : Int) : State :=
  let t := s.almanacNote 1 0 0 false temp
  match out with
  | none => t
  | some true => t.almanacEnd 1
  | some false => t.almanacEnd 2

/-- What a boot does with the first step by its primary method: it goes into recovery where a last try has not passed. -/
theorem State.bootStep_primary (out : Option Bool) (cxl : Bool) (temp : Int) (hmethod : chooseMethod s.plat.almanac 1 0 s.plat.boot = .primary) :
    s.bootStep ⟨1, 0, out, cxl, temp⟩ = if out ≠ some true ∧ lastTry s.plat.almanac 1 0 s.plat.boot = true
      then { (s.tried out temp) with plat := { (s.tried out temp).plat with recovery := true } } else s.tried out temp := by
  have hprimary : (Method.primary == .alternate) = false := rfl
  simp only [State.bootStep, hmethod, hprimary]
  match out with
  | none => simp [State.tried]
  | some true => simp [State.tried, State.stepDone]
  | some false => simp [State.tried]

/-- With an empty almanac, its entry is the only one. -/
theorem State.almanac_tried (out : Option Bool) (temp : Int) (hlog : s.plat.almanac = []) :
    ∃ e : Almanac, (s.tried out temp).plat.almanac = [e]
      ∧ (e.step, e.unit, e.boot, e.alternate, e.outcome) = (1, 0, s.plat.boot, false, outcomeOf out) := by
  obtain ⟨e, hnote, he⟩ := s.almanacNote_only 1 0 0 false temp hlog
  simp only [Prod.mk.injEq] at he
  obtain ⟨hstep, hunit, hboot, halt, hout⟩ := he
  match out with
  | none => exact ⟨e, hnote, by simp [hstep, hunit, hboot, halt, hout, outcomeOf]⟩
  | some true => exact ⟨_, State.almanacEnd_only 1 hnote, by simp [hstep, hunit, hboot, halt, outcomeOf]⟩
  | some false => exact ⟨_, State.almanacEnd_only 2 hnote, by simp [hstep, hunit, hboot, halt, outcomeOf]⟩

/-- It is tried by its primary method, and not for the last time. -/
theorem State.bootStep_only (out : Option Bool) (cxl : Bool) (temp : Int) (hlog : s.plat.almanac = []) :
    s.bootStep ⟨1, 0, out, cxl, temp⟩ = s.tried out temp := by
  have htry : lastTry s.plat.almanac 1 0 s.plat.boot = false := by rw [hlog]; rfl
  rw [State.bootStep_primary out cxl temp (by rw [hlog]; rfl), htry, if_neg (by simp)]

/-- A last try is by the primary method again. -/
theorem chooseMethod_of_lastTry {log : List Almanac} {b : Word32} (h : lastTry log 1 0 b = true) : chooseMethod log 1 0 b = .primary := by
  unfold lastTry at h
  split at h
  · next e f he hf =>
    simp only [Bool.and_eq_true] at h
    obtain ⟨⟨⟨⟨-, hfailed⟩, halternate⟩, -⟩, -⟩ := h
    simp only [chooseMethod, he, hfailed, halternate]
    rfl
  · exact absurd h Bool.false_ne_true

/-- When it fails the module goes into recovery. -/
theorem State.bootStep_lastTry {out : Option Bool} (cxl : Bool) (temp : Int) (h : lastTry s.plat.almanac 1 0 s.plat.boot = true)
    (hout : out ≠ some true) : (s.bootStep ⟨1, 0, out, cxl, temp⟩).plat.recovery = true := by
  rw [State.bootStep_primary out cxl temp (chooseMethod_of_lastTry h), if_pos ⟨hout, h⟩]

/-! ## Whole boots of one result (R249, R250) -/

/-- The first step passes or fails on an empty almanac: it is noted, and the module is not booted; a power failure ends the boot. -/
theorem State.bootRun_only (out : Option Bool) (cxl : Bool) (temp : Int) (hmode : s.plat.recovery = false) (hlog : s.plat.almanac = []) :
    (s.bootRun [⟨1, 0, out, cxl, temp⟩]).plat.booted = false ∧ (out = none → (s.bootRun [⟨1, 0, out, cxl, temp⟩]).plat.booting = false)
      ∧ (s.bootRun [⟨1, 0, out, cxl, temp⟩]).plat.almanac.map (fun e => (e.step, e.unit, e.boot, e.alternate, e.outcome))
        = [(1, 0, s.plat.boot + 1, false, outcomeOf out)] := by
  have hlog' : s.bootBegins.plat.almanac = [] := hlog
  have hfresh : s.bootBegins.unwritten := by rw [State.unwritten, hlog']; rfl
  obtain ⟨e, hentry, he⟩ := s.bootBegins.almanac_tried out temp hlog'
  have hnone (b : Word32) : entryIn [e] 2 0 b = none := by
    simp only [Prod.mk.injEq] at he
    simp [entryIn, he.1]
  have hmissing (t : State) (ht : t.plat.almanac = [e]) : t.allPassed = false :=
    State.allPassed_missing t.mem_bootUnits.2 (by rw [ht]; exact hnone _)
  have hmap : [e].map (fun e => (e.step, e.unit, e.boot, e.alternate, e.outcome)) = [(1, 0, s.plat.boot + 1, false, outcomeOf out)] :=
    congrArg (fun x => [x]) he
  rw [State.bootRun_begins hmode (.inr rfl), State.bootSteps_first hfresh rfl, State.bootStep_only out cxl temp hlog']
  generalize s.bootBegins.tried out temp = u at hentry ⊢
  cases out with
  | none =>
    simp only [Option.isNone_none, if_true]
    exact ⟨State.booted_bootEnds (hmissing _ hentry), fun _ => State.booting_bootEnds rfl, hentry ▸ hmap⟩
  | some passed =>
    simp only [Option.isNone_some, Bool.false_eq_true, if_false]
    exact ⟨State.booted_bootEnds (hmissing _ hentry), nofun, hentry ▸ hmap⟩

/-- A first step whose last try does not pass leads into recovery. -/
theorem State.bootRun_lastTry {out : Option Bool} (cxl : Bool) (temp : Int) (hmode : s.plat.recovery = false)
    (hnew : s.plat.almanac.all (fun e => e.boot != s.plat.boot + 1) = true) (htry : lastTry s.plat.almanac 1 0 (s.plat.boot + 1) = true)
    (hout : out ≠ some true) :
    (s.bootRun [⟨1, 0, out, cxl, temp⟩]).plat.recovery = true ∧ (s.bootRun [⟨1, 0, out, cxl, temp⟩]).plat.booted = false := by
  have hrecovers : (s.bootBegins.bootStep ⟨1, 0, out, cxl, temp⟩).plat.recovery = true := State.bootStep_lastTry cxl temp htry hout
  rw [State.bootRun_begins hmode (.inr rfl), State.bootSteps_first (show s.bootBegins.unwritten from hnew) rfl]
  generalize s.bootBegins.bootStep ⟨1, 0, out, cxl, temp⟩ = u at hrecovers ⊢
  have hends (t : State) (ht : t.plat.recovery = true) : t.bootEnds.plat.recovery = true ∧ t.bootEnds.plat.booted = false :=
    ⟨ht, by simp only [State.bootEnds, ht, Bool.not_true, Bool.and_false]⟩
  split
  · exact hends _ hrecovers
  · exact hends _ hrecovers

/-- Where no step has its turn, a boot begins and notes nothing. -/
theorem State.bootRun_idle (hmode : s.plat.recovery = false) (hboots : s.plat.booting = false) (hlog : s.plat.almanac = [])
    (hrun : s.bootBegins.bootSteps rs = s.bootBegins) : s.bootRun rs = s.bootBegins.bootEnds ∧ s.bootBegins.bootEnds.plat.booted = false := by
  refine ⟨by rw [State.bootRun_begins hmode (.inl hboots), hrun], State.booted_bootEnds ?_⟩
  refine State.allPassed_missing s.bootBegins.mem_bootUnits.1 ?_
  rw [show s.bootBegins.plat.almanac = [] from hlog]
  rfl

/-! ## Warming (R252) -/

/-- What the last entry of a list becomes. -/
theorem modify_last {α : Type} {l : List α} {e : α} (h : l.getLast? = some e) (g : α → α) : l.modify (l.length - 1) g = l.dropLast ++ [g e] := by
  obtain ⟨ys, rfl⟩ := List.getLast?_eq_some_iff.mp h
  rw [List.length_append, List.length_singleton, Nat.add_sub_cancel, List.dropLast_concat]
  induction ys with
  | nil => rfl
  | cons y ys ih => exact congrArg (y :: ·) (ih (by simp))

/-- The package warms when the dies read below their temperature at the turn of step 3. -/
theorem State.warm_begins {x : Int} (hw : s.plat.warming = false) (hboots : s.plat.booting = true) (hturn : s.stepNext 3 0 = true) (hx : x < -10) :
    (s.warm [x] []).plat.warming = true := by
  let u : State := { s with plat := { s.plat with temps := [x], stackTemps := [] } }
  have hcold : u.cold = true := by simp [State.cold, u, hx]
  have hends : ¬ (!u.cold && u.plat.warming) = true := by simp [hcold]
  have hbegins : (u.plat.booting && u.cold && !u.plat.warming && u.stepNext 3 0) = true := by
    rw [hcold, show u.plat.warming = false from hw, show u.plat.booting = true from hboots, show u.stepNext 3 0 = true from hturn]
    rfl
  have hwarm : s.warm [x] [] = ({ u with plat := { u.plat with warming := true } } : State).almanacNote 3 0 0 false
      (coldest (u.plat.temps ++ u.plat.stackTemps)) := (if_neg hends).trans (if_pos hbegins)
  rw [hwarm]
  rfl

/-- Warming ends when they have reached it. -/
theorem State.warm_ends {x : Int} (hw : s.plat.warming = true) (hx : -10 ≤ x) : (s.warm [x] []).plat.warming = false := by
  let u : State := { s with plat := { s.plat with temps := [x], stackTemps := [] } }
  have hcold : u.cold = false := by simp [State.cold, u, hx]
  have hends : (!u.cold && u.plat.warming) = true := by
    rw [hcold, show u.plat.warming = true from hw]
    rfl
  have hwarm : s.warm [x] [] = u.warmingEnds 1 := if_pos hends
  rw [hwarm]
  rfl

/-- Its last entry takes the outcome, the end temperatures and the duration. -/
theorem State.warmingEnds_entry {e : Almanac} (outcome : Nat) (he : s.plat.almanac.getLast? = some e) : (s.warmingEnds outcome).plat.almanac
    = s.plat.almanac.dropLast ++ [{ e with outcome := outcome, ends := s.plat.temps ++ s.plat.stackTemps, lasted := Config.word s.free }] := by
  have hout : (s.fresh.2.almanacEnd outcome).plat.almanac = s.plat.almanac.dropLast ++ [{ e with outcome := outcome }] := modify_last he _
  have hlast : (s.fresh.2.almanacEnd outcome).plat.almanac.getLast? = some { e with outcome := outcome } := by
    rw [hout]
    simp
  refine (modify_last hlast _).trans ?_
  rw [hout, List.dropLast_concat]
  rfl

/-! ## Attestation and the mailbox (R251) -/

/-- A report names the nonce, the boot, the measurements and the version ranges. -/
theorem State.attest_reports (nonce : Word64) (hversion : s.plat.mailboxVersion.isSome = true) (hmode : s.plat.recovery = false) :
    ∃ r, (s.attest nonce).plat.reports = s.plat.reports ++ [r] ∧ r.nonce = nonce ∧ r.boot = s.plat.boot ∧ r.measurements = s.measurements
      ∧ r.packetLow = 1 ∧ r.packetHigh = 1 ∧ r.finvenLow = 1 ∧ r.finvenHigh = 1 := by
  have hgoes : (s.plat.mailboxVersion.isNone || s.plat.recovery) = false := by
    rw [hmode, Bool.or_false, ← Option.not_isSome, hversion]
    rfl
  simp only [State.attest, hgoes, Bool.false_eq_true, if_false]
  exact ⟨_, rfl, rfl, rfl, rfl, rfl, rfl, rfl, rfl⟩

/-- The driver's first message negotiates the version. -/
theorem State.mailboxMessage_negotiates {v : Nat} (h : s.plat.mailboxVersion = none) :
    (s.mailboxMessage (.negotiate v)).plat.mailboxVersion = some v := by
  simp only [State.mailboxMessage, h, Option.isNone_none, if_true]

/-! ## Kernels (R262) -/

/-- The canonical pointer of a register that is made. -/
theorem oCanon_oMake (touched view : Bool) (off len : Nat) (p : Word64) : oCanon (oMake touched view off len p) = p := by
  simp only [oCanon, oMake]
  exact BitVec.extractLsb'_append_eq_right

/-- The task of a kernel as it starts: at the privileged level, in the supervisor's tenant, with its argument in o1. -/
def kernelTask (gen : BitVec 13) (tid pc : Word32) (argument : BitVec 128) : Task :=
  { Task.empty with status := .ready, gen := gen, tid := tid, pc := pc, tenant := superTenant, part := 16, priv := true }.setO 1 argument

/-- The state with a kernel's code in an M-core's store and its task in a slot. -/
def State.withKernel (s : State) (c : CoreId) (r : CodeRange) (k : TaskKey) (argument : Word64) (entry : Word32) : State :=
  ({ s with mcode := s.mcode.set c (s.kernelCode c ++ [r]) } : State).setTask k
    (kernelTask (nextGen (s.task k).gen) (s.taskId k (nextGen (s.task k).gen)) (entry + BitVec.ofNat 32 r.base)
      (s.argReg Config.mCorePart.val argument))

/-- A kernel starts on a free slot of its M-core when its code can be read and has room there. -/
theorem State.kernelStart_starts {c : CoreId} {code argument : Word64} {entry : Word32} {a b : Nat} {k : TaskKey} (hm : isM c = true) (hc : c < 516)
    (harg : malformed argument = false) (hslot : ((List.range 8).map (8 * c + ·)).find? (fun k => (s.task k).status == .free) = some k)
    (hcode : s.packetCode Config.mCorePart.val code entry.toNat = true) (hplace : s.place Config.mCorePart.val code 16 = .ok a)
    (hmode : s.plat.recovery = false) (hfits : lowestFit [s.kernelCode c] (s.codeParcels a).length = some b) :
    s.kernelStart c code argument entry = s.withKernel c { base := b, parcels := s.codeParcels a, ptr := code } k argument entry := by
  have hgoes : (!isM c || 516 ≤ c || malformed argument || s.plat.recovery) = false := by simp [hm, hc, harg, hmode]
  simp only [State.kernelStart, hslot, hcode, hplace, hgoes, Bool.false_eq_true, if_false, hfits]
  rfl

/-- What a kernel finds when it starts. -/
theorem State.withKernel_starts (c : CoreId) (r : CodeRange) (k : TaskKey) (argument : Word64) (entry : Word32) :
    let t := s.withKernel c r k argument entry
    (t.task k).status = .ready ∧ (t.task k).priv = true ∧ (t.task k).pc = entry + BitVec.ofNat 32 r.base ∧ (t.task k).tenant = 0xFFFF
      ∧ (t.task k).width = 0 ∧ (t.task k).x = Vector.replicate 64 0 ∧ oCanon ((t.task k).getO 1) = argument ∧ t.mem = s.mem
      ∧ t.mcode.find c [] = s.kernelCode c ++ [r] := by
  intro t
  rw [show t.task k = kernelTask _ _ _ _ from State.task_setTask ..]
  refine ⟨rfl, rfl, rfl, rfl, rfl, rfl, ?_, rfl, FMap.find_set_same ..⟩
  rw [kernelTask, Task.getO_setO_same _ (by decide) (by decide)]
  exact oCanon_oMake ..

/-! ## Adaptive clocking (R253) -/

/-- A monitor's trip stretches its cluster's clock by 1 to 8 steps, and is counted. -/
theorem State.stretch_trips (k : ClusterId) {n : Nat} (hlow : 1 ≤ n) (hhigh : n ≤ 8) : s.stretch k n = s.setCluster k
    { s.cluster k with
      stretch := max (s.cluster k).stretch n, stretchedCycles := (s.cluster k).stretchedCycles + 1
      stretchSteps := (s.cluster k).stretchSteps + BitVec.ofNat 32 n } :=
  if_neg (by simp; omega)

/-- Other step counts are none. -/
theorem State.stretch_unlawful (k : ClusterId) {n : Nat} (h : n = 0 ∨ 8 < n) : s.stretch k n = s := if_pos (by simpa using h)

/-- A stretched clock relaxes by one step. -/
theorem State.relax_stretched {k : ClusterId} (h : (s.cluster k).stretch ≠ 0) : s.relax k = s.setCluster k
    { s.cluster k with stretch := (s.cluster k).stretch - 1, stretchedCycles := (s.cluster k).stretchedCycles + 32 } :=
  if_neg h

end

/-- Settles O46: what a boot of one result notes and where it ends (R249, R250), warming, attestation, a kernel's start and a cluster's
clock, each by the rule of its own step. -/
theorem firmwareAndClocks : Obligations.FirmwareAndClocks := by
  unfold Obligations.FirmwareAndClocks
  refine ⟨fun s => ?_, fun s k n => ?_⟩
  · intro fresh
    have hidle (h : fresh) {rs : List BootResult} (hrun : s.bootBegins.bootSteps rs = s.bootBegins) :
        ∃ t, exec (.boot rs) s = .next t ∧ t = s.bootBegins.bootEnds ∧ t.plat.booted = false := by
      obtain ⟨hmode, -, hboots, hlog, -⟩ := h
      obtain ⟨hruns, hbooted⟩ := State.bootRun_idle hmode hboots hlog hrun
      exact ⟨_, congrArg Host.Outcome.next hruns, rfl, hbooted⟩
    refine ⟨?_, ?_, ?_, ?_, ?_, ?_, ?_, ?_, ?_, ?_, ?_, ?_⟩
    · intro h
      obtain ⟨t, hruns, rfl, hbooted⟩ := hidle h (rs := []) rfl
      have hbooting : s.bootBegins.bootEnds.plat.booting = (true && !s.bootBegins.bootEnds.plat.booted && !s.plat.recovery) := rfl
      exact ⟨_, hruns, rfl, hbooted, h.1, by rw [hbooting, hbooted, h.1]; rfl⟩
    · intro rs h
      exact congrArg Host.Outcome.next (State.bootRun_waits h)
    · rintro temp cxl passed ⟨hmode, -, -, hlog, -⟩
      obtain ⟨hbooted, -, hnotes⟩ := State.bootRun_only (some passed) cxl temp hmode hlog
      refine ⟨_, rfl, hbooted, hnotes.trans ?_⟩
      cases passed <;> rfl
    · rintro temp cxl ⟨hmode, -, -, hlog, -⟩
      obtain ⟨hbooted, hbooting, hnotes⟩ := State.bootRun_only none cxl temp hmode hlog
      exact ⟨_, rfl, hbooted, hbooting rfl, hnotes⟩
    · intro r rs h hstep
      obtain ⟨-, -, -, hlog, hcold⟩ := id h
      have hnew : s.bootBegins.unwritten := by rw [State.unwritten, show s.bootBegins.plat.almanac = [] from hlog]; rfl
      obtain ⟨t, hruns, rfl, hbooted⟩ := hidle h (State.bootSteps_late (rs := rs) hnew hcold hstep)
      exact ⟨_, hruns, hlog, hbooted⟩
    · intro temp cxl out hmode hnew htry hout
      obtain ⟨hrecovers, hbooted⟩ := State.bootRun_lastTry cxl temp hmode hnew htry hout
      exact ⟨_, rfl, hrecovers, hbooted⟩
    · intro x hw hboots hturn hx
      exact ⟨_, rfl, State.warm_begins hw hboots hturn hx⟩
    · intro x hw hx
      exact ⟨_, rfl, State.warm_ends hw hx⟩
    · intro e hw he
      have hends : s.warmingFails = s.warmingEnds 2 := if_pos hw
      exact ⟨s.warmingEnds 2, Config.word s.free, congrArg Host.Outcome.next hends, rfl, State.warmingEnds_entry 2 he⟩
    · intro nonce hversion hmode
      obtain ⟨r, hreports⟩ := State.attest_reports nonce hversion hmode
      exact ⟨_, r, rfl, hreports⟩
    · intro v h
      exact ⟨_, rfl, State.mailboxMessage_negotiates h⟩
    · intro c code arg entry a b k hm hc harg hslot hcode hplace hmode hfits
      obtain ⟨hstatus, hpriv, hpc, htenant, hwidth, hx, ho, hmem, hstore⟩ :=
        State.withKernel_starts (s := s) c { base := b, parcels := s.codeParcels a, ptr := code } k arg entry
      exact ⟨_, congrArg Host.Outcome.next (State.kernelStart_starts hm hc harg hslot hcode hplace hmode hfits), hstatus, hpriv, hpc, htenant, hwidth, hx, ho,
        hmem, _, hstore, rfl, rfl⟩
  · intro c leads
    refine ⟨fun hlow hhigh => ?_, fun h => ?_, fun h => ?_, rfl, rfl, rfl⟩
    · exact congrArg Host.Outcome.next (State.stretch_trips k hlow hhigh)
    · exact congrArg Host.Outcome.next (State.stretch_unlawful k h)
    · exact congrArg Host.Outcome.next (State.relax_stretched h)

end Sys2Proof.Machine
end

section
/-!
PROOFS. Launches and partitions (rules): roots and completions (R221), the registers of a description (R222), slices (R225) and the swap of a
partition's contexts (R226), and the statement put together from that (O42).
-/

open Sys2Proof.Claims

namespace Sys2Proof.Machine

section
variable {s : State} {p ctx : Nat}

/-- What every element leaves as it is, a fold leaves as it is. -/
theorem foldl_still {α β : Type} {g : α → β → α} {a : α} {xs : List β} (h : ∀ x ∈ xs, g a x = a) : xs.foldl g a = a := by
  induction xs with
  | nil => rfl
  | cons x xs ih =>
    rw [List.foldl_cons, h x List.mem_cons_self]
    exact ih fun y hy => h y (List.mem_cons_of_mem _ hy)

/-- What a key has is one of the entries. -/
theorem FMap.mem_of_lookup {α : Type} {m : FMap α} {k : Nat} {v : α} (h : m.lookup k = some v) : (k, v) ∈ m := by
  obtain ⟨l₁, l₂, hm, -⟩ := List.lookup_eq_some_iff.mp h
  exact hm ▸ List.mem_append_right _ List.mem_cons_self

/-- A removed entry is gone. -/
theorem FMap.lookup_del {α : Type} (m : FMap α) (k : Nat) : (m.del k).lookup k = none := by
  rw [List.lookup_eq_none_iff]
  intro e he
  have hother := (List.mem_filter.mp he).2
  simp only [bne_iff_ne] at hother ⊢
  exact hother.symm

/-- An entry that is set is the only new one. -/
theorem FMap.mem_set {α : Type} {m : FMap α} {k : Nat} {v : α} {e : Nat × α} (he : e ∈ m.set k v) : e = (k, v) ∨ e ∈ m := by
  induction m with
  | nil => exact .inl (List.mem_singleton.mp he)
  | cons x m ih =>
    obtain ⟨j, w⟩ := x
    simp only [FMap.set] at he
    split at he
    · exact List.mem_cons.mp he
    · split at he
      · exact (List.mem_cons.mp he).imp_right (List.mem_cons_of_mem _)
      · rcases List.mem_cons.mp he with rfl | he
        · exact .inr List.mem_cons_self
        · exact (ih he).imp_right (List.mem_cons_of_mem _)

/-! ## Roots and completions (R221) -/

/-- A launch that is loaded is not loaded again. -/
theorem State.loadLaunch_loaded {l : Nat} (h : ∀ e ∈ s.launches, e.2.loaded = true) : s.loadLaunch l = s := by
  unfold State.loadLaunch
  split
  · rfl
  · next la hla => exact if_pos (h _ (FMap.mem_of_lookup hla))

/-- With every launch loaded, the first root that can be placed is. -/
theorem State.rootPlace_places {io i : Nat} {s' : State} (h : ∀ e ∈ s.launches, e.2.loaded = true) (hroot : s.placeableRoot io = some (i, s')) :
    s.rootPlace io = s'.setDist io { s'.dist io with held := (s'.dist io).held.eraseIdx i } := by
  have hloads : s.launches.foldl (fun s e => if e.2.io == io && !s.frozen e.2.part e.2.ctx then s.loadLaunch e.1 else s) s = s :=
    foldl_still fun e _ => by rw [State.loadLaunch_loaded h, ite_self]
  simp only [State.rootPlace, hloads, hroot]

/-- What LAUNCH_COMPLETE does after the completion word: the launch goes, with the code that only it ran, and its queue is free. -/
def State.forgetLaunch (s : State) (l : Nat) (la : Launch) : State :=
  let s : State := { s with launches := s.launches.del l }
  let s := s.setQueue la.part la.queue { s.queue la.part la.queue with running := none }
  la.clusters.foldl (fun s k =>
    if s.launches.any (fun e => e.2.loaded && e.2.code == la.code && e.2.base == la.base && e.2.clusters.contains k) then s
    else s.setCluster k { s.cluster k with code := (s.cluster k).code.filter (fun r => !(r.ptr == la.code && r.base == la.base)) }) s

/-- Its memory, queue and launches. -/
theorem State.forgetLaunch_leaves (s : State) (l : Nat) (la : Launch) : (s.forgetLaunch l la).mem = s.mem
    ∧ ((s.forgetLaunch l la).queue la.part la.queue).running = none ∧ (s.forgetLaunch l la).launches.lookup l = none := by
  have hfold : ((s.forgetLaunch l la).mem, (s.forgetLaunch l la).queues, (s.forgetLaunch l la).launches) = (s.mem,
      s.queues.set (64 * la.part + la.queue) { s.queue la.part la.queue with running := none }, s.launches.del l) := by
    unfold State.forgetLaunch
    refine (foldl_keeps (fun t : State => (t.mem, t.queues, t.launches)) (fun k _ t => ?_) _).trans rfl
    split <;> rfl
  simp only [Prod.mk.injEq] at hfold
  obtain ⟨hmem, hqueues, hlaunches⟩ := hfold
  refine ⟨hmem, ?_, ?_⟩
  · rw [State.queue, hqueues, FMap.find_set_same]
  · rw [hlaunches, FMap.lookup_del]

/-- A launch that has come to its end completes. -/
theorem State.launchDone_completes {l : Nat} {la : Launch} (hla : s.launches.lookup l = some la) (hloaded : la.loaded = true)
    (hends : s.descends l = false) (hwait : s.engineWaits la.part la.mailbox 24 = false) : s.launchDone l
    = (s.completePacket la.io la.part la.queue la.mailbox la.count 1 la.notify).forgetLaunch l la := by
  have hover : s.launchEnds l = true := by simp only [State.launchEnds, hla, hloaded, hends, Bool.not_false, Bool.and_self]
  simp only [State.launchDone, hla, hover, hwait, Bool.not_true, Bool.false_eq_true, if_false]
  rfl

/-! ## Descriptions (R222) -/

/-- A register of an idle partition's description from offset 8 on is written. -/
theorem State.partitionWrite_member (v : Word32) (hp : p < 16) (hidle : s.partBusy p = false) : s.partitionWrite p 8 v
    = if (s.part p).group = 0x3FF then s.ignoredWrite
      else s.setPart p { s.part p with member := (s.part p).member.extractLsb' 32 32 ++ v, configured := true } := by
  have hin : ¬ (0x18 ≤ 8 || 16 ≤ p || 8 % 4 != 0) = true := by simp; omega
  rw [State.partitionWrite, if_neg hin, hidle]
  rfl

/-- Dividing a pad anew changes no memory and no description. -/
theorem State.divide_keeps (s : State) (u : PadUnit) : ((s.divide u).mem, (s.divide u).parts) = (s.mem, s.parts) := by
  simp only [State.divide]
  refine foldl_keeps (fun t : State => (t.mem, t.parts)) (fun c _ t => ?_) s
  rfl

/-- Nor does dividing those whose context count has changed. -/
theorem State.divideFrom_keeps (s before : State) : ((s.divideFrom before).mem, (s.divideFrom before).parts) = (s.mem, s.parts) := by
  unfold State.divideFrom
  exact foldl_keeps (fun t : State => (t.mem, t.parts)) (fun u _ t => t.divide_keeps u) s

/-- A half of `c.part` that is written configures the partition and ends its calendar. -/
theorem State.partitionWrite_part (v : Word32) (hp : p < 16) (hidle : s.partBusy p = false)
    (hgroup : ({ s.part p with part := partWord p (setHalf (s.part p).part false v) } : Partition).group ≠ 0x3FF) :
    (s.partitionWrite p 0 v).mem = s.mem ∧ (s.partitionWrite p 0 v).part p = { s.part p with
      part := partWord p (setHalf (s.part p).part false v), configured := true, ctx := 0, calendar := none, next := none, boundary := none } := by
  have hin : ¬ (0x18 ≤ 0 || 16 ≤ p || 0 % 4 != 0) = true := by simp; omega
  have hlow : (0 : Nat) < 8 := by decide
  have hwrite : ∃ t, s.partitionWrite p 0 v = State.divideFrom (State.setPart t p { s.part p with
      part := partWord p (setHalf (s.part p).part false v), configured := true, ctx := 0, calendar := none, next := none, boundary := none }) s
      ∧ t.mem = s.mem := by
    rw [State.partitionWrite, if_neg hin, hidle, if_neg Bool.false_ne_true]
    refine ⟨_, (if_neg hgroup).trans (if_pos hlow), rfl⟩
  obtain ⟨t, hwrite, hmem⟩ := hwrite
  have hkeeps := State.divideFrom_keeps (t.setPart p { s.part p with
      part := partWord p (setHalf (s.part p).part false v), configured := true, ctx := 0, calendar := none, next := none, boundary := none }) s
  rw [← hwrite] at hkeeps
  simp only [Prod.mk.injEq] at hkeeps
  obtain ⟨hmem', hparts⟩ := hkeeps
  refine ⟨hmem'.trans hmem, ?_⟩
  rw [State.part, hparts]
  exact FMap.find_set_same ..

/-- A write to a description that is in use is ignored, with a note at both distributors. -/
theorem State.partitionWrite_busy {off : Nat} (v : Word32) (hp : p < 16) (hbusy : s.partBusy p = true) (hoff : off < 0x18) (hword : off % 4 = 0) :
    s.partitionWrite p off v = s.ignoredWrite := by
  have hin : ¬ (0x18 ≤ off || 16 ≤ p || off % 4 != 0) = true := by simp; omega
  rw [State.partitionWrite, if_neg hin, if_pos hbusy]

/-- The note. -/
theorem State.ignoredWrite_notes (s : State) : s.ignoredWrite.parts = s.parts ∧ (s.ignoredWrite.dist 0).derr.getLsbD 31 = true
    ∧ (s.ignoredWrite.dist 1).derr.getLsbD 31 = true := by
  let t := s.setDist 0 { s.dist 0 with derr := (s.dist 0).derr ||| 0x80000000#32 }
  have hnotes : s.ignoredWrite = t.setDist 1 { t.dist 1 with derr := (t.dist 1).derr ||| 0x80000000#32 } := rfl
  have hfirst : s.ignoredWrite.dist 0 = { s.dist 0 with derr := (s.dist 0).derr ||| 0x80000000#32 } := by
    rw [hnotes]
    exact (FMap.find_set_other _ (by decide) _ _).trans (FMap.find_set_same ..)
  have hsecond : s.ignoredWrite.dist 1 = { t.dist 1 with derr := (t.dist 1).derr ||| 0x80000000#32 } := by
    rw [hnotes]
    exact FMap.find_set_same ..
  refine ⟨rfl, ?_, ?_⟩
  · rw [hfirst, BitVec.getLsbD_or]
    simp
  · rw [hsecond, BitVec.getLsbD_or]
    simp

/-! ## Slices (R225) -/

/-- A slice of the calendar that starts now and names another context than the active one sends the boundary. -/
theorem State.sliceBoundary_sends {c : Calendar} {e : Nat × Nat} {time : Word64} (hlate : s.plat.time.toNat ≤ time.toNat)
    (hnext : (s.part p).next = none) (hcal : (s.part p).calendar = some c) (hepoch : c.epoch ≤ time.toNat)
    (hslice : c.slices.find? (fun e => (time.toNat - c.epoch) % c.period == e.2) = some e) (hctx : e.1 ≠ (s.part p).ctx) :
    (s.sliceBoundary p time).part p = { s.part p with boundary := some e.1 } ∧ (s.sliceBoundary p time).plat.time = time := by
  let u : State := { s with plat := { s.plat with time := time } }
  have hpart : (u.setPart p (s.part p)).part p = s.part p := FMap.find_set_same ..
  have hstarts : c.slices.find? (fun e => c.epoch ≤ time.toNat && (time.toNat - c.epoch) % c.period == e.2) = some e := by
    simpa only [hepoch, decide_true, Bool.true_and] using hslice
  have hsends : s.sliceBoundary p time = (u.setPart p (s.part p)).boundaryArrives p e.1 := by
    rw [State.sliceBoundary, if_neg (Nat.not_lt.mpr hlate)]
    simp only [show State.part { s with plat := { s.plat with time := time } } p = s.part p from rfl, hnext, hcal, hstarts]
    rfl
  have hother : (u.setPart p (s.part p)).boundaryArrives p e.1 = ((u.setPart p (s.part p)).setPart p
      { (u.setPart p (s.part p)).part p with boundary := some e.1 }).endIdle (fun _ t => t.part == p) :=
    if_neg (by rw [hpart]; exact hctx)
  rw [hsends, hother, hpart]
  exact ⟨FMap.find_set_same .., rfl⟩

/-! ## What keeps the partitions' contexts (R226) -/

/-- The descriptions of the partitions with the contexts in shadow storage. -/
def State.contexts (s : State) : FMap Partition × List Saved := (s.parts, s.shadow)

/-- A task that stops, or a result that arrives, changes none of them. -/
theorem State.contexts_stopAt (k : TaskKey) (f : Flt) (pos epc : Word32) (atIssue : Bool) : (s.stopAt k f pos epc atIssue).contexts = s.contexts := by
  simp only [State.stopAt]
  split <;> rfl

theorem State.contexts_land (k : TaskKey) (p : Pend) (m : BitVec 256) : (s.land k p m).contexts = s.contexts := by
  simp only [State.land]
  split
  · rfl
  · split <;> rfl

theorem State.contexts_landFlags (k : TaskKey) (p : Pend) (m : BitVec 256) : (s.landFlags k p m).contexts = s.contexts := by
  simp only [State.landFlags]
  split <;> rfl

theorem State.contexts_arrives (k : TaskKey) (p : Pend) (m : BitVec 256) : (s.arrives k p m).contexts = s.contexts := by
  unfold State.arrives
  split
  · exact State.contexts_stopAt ..
  · exact (State.contexts_landFlags ..).trans (State.contexts_land ..)

theorem State.contexts_unpark (k : TaskKey) : (s.unpark k).contexts = s.contexts := by
  simp only [State.unpark]
  split <;> rfl

/-- Nor does a switch point, or an instruction that completes. -/
theorem State.contexts_landAll (k : TaskKey) : (s.landAll k).contexts = s.contexts := by
  unfold State.landAll
  exact (State.contexts_unpark k).trans ((foldl_keeps State.contexts (fun _ _ _ => State.contexts_arrives ..) _).trans rfl)

theorem State.contexts_switchAt (k : TaskKey) : (s.switchAt k).contexts = s.contexts := by
  simp only [State.switchAt]
  split
  · rfl
  · exact State.contexts_landAll k

theorem State.contexts_complete (k : TaskKey) (f : Fields) : (s.complete k f).contexts = s.contexts := by
  simp only [State.complete]
  split
  · exact State.contexts_switchAt k
  · rfl

theorem State.contexts_wake (k : TaskKey) : (s.wake k).contexts = s.contexts := by
  simp only [State.wake]
  split <;> rfl

/-- Nor does a job that takes its queue entry. -/
theorem State.contexts_setStaged (a st : Nat) : (s.setStaged a st).contexts = s.contexts := by
  simp only [State.setStaged]
  split <;> rfl

@[simp] theorem State.contexts_setCluster (k : ClusterId) (v : Cluster) : (s.setCluster k v).contexts = s.contexts := rfl

theorem State.contexts_kick (k : ClusterId) (j : CopyJob) : (s.kick k j).contexts = s.contexts := by
  have hsource (src : Option (BitVec 4 × Nat)) : (match src with | some (_, a) => s.setStaged a 3 | none => s).contexts = s.contexts := by
    cases src with
    | none => rfl
    | some q => exact State.contexts_setStaged ..
  simp only [State.kick, State.contexts_setCluster]
  split
  · rw [State.contexts_setStaged]
    exact hsource _
  · exact hsource _

theorem State.contexts_bindNode (n : Option (Nat × Nat)) : (s.bindNode n).contexts = s.contexts := by
  cases n <;> rfl

theorem State.contexts_acceptCopy (f : Fields) (j : CopyJob) : (s.acceptCopy f j).contexts = s.contexts :=
  (State.contexts_kick ..).trans (State.contexts_bindNode j.node)

theorem State.contexts_acceptNear (f : Fields) (st : Nat) (j : NbJob) : (s.acceptNear f st j).contexts = s.contexts := by
  have hasks (t : State) (b : Bool) : ((if b then t.askLeave (.nearBank j.job st) j.core else t).deferX f.d (j.job.setWidth 64)).contexts = t.contexts := by
    cases b <;> rfl
  simp only [State.acceptNear, hasks]
  split
  · exact State.contexts_setStaged ..
  · rfl

/-- Nor do the tasks that take what came free. -/
theorem State.contexts_serveQueue (k : ClusterId) : (s.serveQueue k).contexts = s.contexts := by
  unfold State.serveQueue
  split
  · rfl
  · next t w _ _ =>
    split
    · rfl
    · next j _ =>
      split
      · rfl
      · change ((State.acceptCopy { s.wake t with cur := t } w.f j).complete t w.f).contexts = _
        rw [State.contexts_complete, State.contexts_acceptCopy]
        exact State.contexts_wake t

theorem State.contexts_serveNear (st : Nat) : (s.serveNear st).contexts = s.contexts := by
  unfold State.serveNear
  split
  · rfl
  · next t w _ _ =>
    split
    · rfl
    · next j _ =>
      split
      · rfl
      · change ((State.acceptNear { s.wake t with cur := t } w.f st j).complete t w.f).contexts = _
        rw [State.contexts_complete, State.contexts_acceptNear]
        exact State.contexts_wake t

theorem State.contexts_takeUp : s.takeUp.contexts = s.contexts := by
  have hserve {α : Type} (xs : List α) (k : ClusterId) (t : State) : (xs.foldl (fun s _ => s.serveQueue k) t).contexts = t.contexts :=
    foldl_keeps State.contexts (fun _ _ _ => State.contexts_serveQueue k) t
  have hnear {α : Type} (xs : List α) (st : Nat) (t : State) : (xs.foldl (fun s _ => s.serveNear st) t).contexts = t.contexts :=
    foldl_keeps State.contexts (fun _ _ _ => State.contexts_serveNear st) t
  simp only [State.takeUp]
  refine (foldl_keeps State.contexts (fun _ _ _ => hnear ..) _).trans ?_
  refine (foldl_keeps State.contexts (fun _ _ _ => hserve ..) _).trans ?_
  refine foldl_keeps State.contexts (fun _ _ t => ?_) s
  split
  · split
    · exact State.contexts_wake _
    · rfl
  · rfl

theorem State.contexts_nextPass (k : ClusterId) : (s.nextPass k).contexts = s.contexts := by
  simp only [State.nextPass]
  split
  · rfl
  · split <;> rfl

/-- Nor does a context that is loaded. -/
theorem State.contexts_loadContext (v : Saved) : (s.loadContext p v).contexts = s.contexts := by
  simp only [State.loadContext]
  refine (foldl_keeps State.contexts (fun k _ t => ?_) _).trans ?_
  · split
    · exact State.contexts_nextPass k
    · rfl
  refine (foldl_keeps State.contexts (fun e _ t => ?_) _).trans ?_
  · rfl
  refine Eq.trans (b := State.contexts _) rfl ((foldl_keeps State.contexts (fun c _ t => ?_) _).trans ?_)
  · split <;> rfl
  refine foldl_keeps State.contexts (fun c _ t => ?_) s
  split <;> rfl

/-! ## The swap (R226) -/

/-- A task that waits for no mailbox, queue entry or room. -/
def Task.seeksNothing (t : Task) : Bool := t.wait.all (fun w => w.kind != .mailbox && w.kind != .queue && w.kind != .room)

/-- What such a task waits for. -/
theorem Task.seeksNothing.kind {t : Task} (h : t.seeksNothing = true) {w : Wait} (hw : t.wait = some w) :
    w.kind ≠ .mailbox ∧ w.kind ≠ .queue ∧ w.kind ≠ .room := by
  simpa only [Task.seeksNothing, hw, Option.all_some, Bool.and_eq_true, bne_iff_ne, and_assoc] using h

/-- Where every task is one, nothing is taken up. -/
theorem State.takeUp_still (h : ∀ e ∈ s.tasks, e.2.seeksNothing = true) : s.takeUp = s := by
  have hnobody (aux : Nat) : s.waiters .queue aux = [] := by
    have hnone : s.tasks.filterMap (fun e => match e.2.wait with
        | some w => if e.2.status == .parked && w.kind == .queue && w.aux == aux then some (e.1, w) else none
        | none => none) = [] := by
      rw [List.filterMap_eq_nil_iff]
      intro e he
      split
      · next w hw => exact if_neg (by simp [(Task.seeksNothing.kind (h e he) hw).2.1])
      · rfl
    unfold State.waiters
    exact (congrArg (sortBy _) hnone).trans rfl
  have hqueues : s.clusters.foldl (fun s e => (s.waiters .queue (1000 + e.1)).foldl (fun s _ => s.serveQueue e.1) s) s = s :=
    foldl_still fun e _ => by rw [hnobody, List.foldl_nil]
  have hstacks : (List.range 8).foldl (fun s st => (s.waiters .queue (2000 + st)).foldl (fun s _ => s.serveNear st) s) s = s :=
    foldl_still fun st _ => by rw [hnobody, List.foldl_nil]
  simp only [State.takeUp]
  rw [foldl_still (xs := s.tasks) ?wakes, hqueues]
  · exact hstacks
  case wakes =>
    intro e he
    split
    · next w hw =>
      obtain ⟨hbox, hqueue, hroom⟩ := Task.seeksNothing.kind (h e he) hw
      have hbusy : s.resourceFree e.1 w = false := by
        unfold State.resourceFree
        split
        · next hk => exact absurd hk hbox
        · next hk => exact absurd hk hqueue
        · next hk => exact absurd hk hroom
        · rfl
      exact if_neg (ne_true_of_eq_false hbusy)
    · rfl

/-- The tasks of a context in their slots. -/
def State.loadTasks (s : State) (p : Nat) (v : Saved) : State :=
  ((s.clustersOf p).flatMap (fun k => (List.range 64).map (64 * k + ·))).foldl (fun t k =>
    match v.tasks.lookup k, s.tasks.lookup k with
    | some x, o => t.setTask k { x with gen := (o.map (·.gen)).getD x.gen }
    | none, some o => t.setTask k { Task.empty with gen := o.gen }
    | none, none => t) s

/-- They are the tasks of the state that has loaded it. -/
theorem State.tasks_loadContext (v : Saved) : (s.loadContext p v).tasks = (s.loadTasks p v).tasks := by
  have hpass (t : State) (k : ClusterId) : (t.nextPass k).tasks = t.tasks := by
    simp only [State.nextPass]
    split
    · rfl
    · split <;> rfl
  simp only [State.loadContext]
  refine (foldl_keeps (fun t : State => t.tasks) (fun k _ t => ?_) _).trans ?_
  · split
    · exact hpass _ k
    · rfl
  refine (foldl_keeps (fun t : State => t.tasks) (fun e _ t => ?_) _).trans ?_
  · rfl
  refine (foldl_keeps (fun t : State => t.tasks) (fun c _ t => ?_) _).trans rfl
  split <;> rfl

/-- A context that has never run brings no task that waits. -/
theorem State.seeksNothing_loadContext (h : ∀ e ∈ s.tasks, e.2.seeksNothing = true) :
    ∀ e ∈ (s.loadContext p (Saved.fresh p ctx)).tasks, e.2.seeksNothing = true := by
  rw [State.tasks_loadContext]
  unfold State.loadTasks
  refine List.foldlRecOn (motive := fun t : State => ∀ e ∈ t.tasks, e.2.seeksNothing = true) _ _ h fun t ht k _ => ?_
  split
  · next hx => exact absurd hx nofun
  · intro e he
    rcases FMap.mem_set he with rfl | he
    · rfl
    · exact ht e he
  · exact ht

/-- The context that a swap brings in. -/
def State.incoming (s : State) (p ctx : Nat) : Saved := (s.shadow.find? (fun v => v.part == p && v.ctx == ctx)).getD (Saved.fresh p ctx)

/-- The state in which the context that ran is kept, before the incoming one is loaded. -/
def State.swapped (s : State) (p ctx : Nat) : State :=
  ({ s with shadow := s.shadow.filter (fun v => !(v.part == p && (v.ctx == ctx || v.ctx == (s.part p).ctx))) ++ [s.contextNow p] } : State).setPart p
    { s.part p with ctx := ctx, boundary := none }

/-- A swap of idle contexts at a boundary. -/
theorem State.contextSwap_swaps (hbound : (s.part p).boundary = some ctx) (hrun : (s.halt p).halted = false) (hreports : (s.halt p).reports = [])
    (hout : s.collecting p (s.part p).ctx = false) (hin : s.collecting p ctx = false)
    (hidle : ∀ e ∈ s.tasks, e.2.part = p → e.2.status = .free ∧ e.2.sb = []) :
    s.contextSwap p ctx = ((s.swapped p ctx).loadContext p (s.incoming p ctx)).takeUp := by
  have hpauses : s.tasks.foldl (fun s e => if e.2.status != .free && e.2.part == p then (s.landAll e.1).drainAll e.1 else s) s = s := by
    refine foldl_still fun e he => if_neg ?_
    simp only [Bool.and_eq_true, bne_iff_ne, beq_iff_eq, not_and]
    exact fun hbusy hpart => hbusy (hidle e he hpart).1
  have hstores : s.tasks.any (fun e => e.2.part == p && !e.2.sb.isEmpty) = false := by
    rw [List.any_eq_false]
    intro e he
    simp only [Bool.and_eq_true, beq_iff_eq, Bool.not_eq_true', not_and, Bool.not_eq_false, List.isEmpty_iff]
    exact fun hpart => (hidle e he hpart).2
  have hgoes : ((s.part p).boundary != some ctx || (s.halt p).halted || !(s.halt p).reports.isEmpty || s.collecting p (s.part p).ctx
      || s.collecting p ctx) = false := by
    simp [hbound, hrun, hreports, hout, hin]
  unfold State.contextSwap
  refine (if_neg (ne_true_of_eq_false hgoes)).trans ?_
  dsimp only
  rw [hpauses]
  exact if_neg (by simp [hreports, hstores])

/-- The partition's context is then the new one, and the old one is kept. -/
theorem State.swapped_leaves (v : Saved) : (((s.swapped p ctx).loadContext p v).takeUp).part p = { s.part p with ctx := ctx, boundary := none }
    ∧ s.contextNow p ∈ (((s.swapped p ctx).loadContext p v).takeUp).shadow := by
  have hkeeps : (((s.swapped p ctx).loadContext p v).takeUp).contexts = (s.swapped p ctx).contexts :=
    State.contexts_takeUp.trans (State.contexts_loadContext v)
  simp only [State.contexts, Prod.mk.injEq] at hkeeps
  obtain ⟨hparts, hshadow⟩ := hkeeps
  refine ⟨?_, ?_⟩
  · rw [State.part, hparts]
    exact FMap.find_set_same ..
  · rw [hshadow]
    exact List.mem_append_right _ (List.mem_singleton.mpr rfl)

/-- A context that has never run is swapped in without a write to memory. -/
theorem State.swapped_mem (hsettled : settled s = true) (hnew : s.shadow.all (fun v => v.part != p || v.ctx != ctx) = true) :
    (((s.swapped p ctx).loadContext p (s.incoming p ctx)).takeUp).mem = s.mem := by
  have hfresh : s.incoming p ctx = Saved.fresh p ctx := by
    have hnone : s.shadow.find? (fun v => v.part == p && v.ctx == ctx) = none := by
      rw [List.find?_eq_none]
      intro v hv
      simpa [imp_iff_not_or] using List.all_eq_true.mp hnew v hv
    rw [State.incoming, hnone]
    rfl
  have htasks : ∀ e ∈ (s.swapped p ctx).tasks, e.2.seeksNothing = true := by
    simp only [settled, Bool.and_eq_true] at hsettled
    exact List.all_eq_true.mp hsettled.2
  rw [hfresh, State.takeUp_still (State.seeksNothing_loadContext htasks), State.loadContext_mem]
  rfl

end

/-- Settles O42: roots and completions, the registers of a description, the boundary of a slice, and the swap of a partition's contexts. -/
theorem launchesAndPartitions : Obligations.LaunchesAndPartitions := by
  refine ⟨fun s => ⟨?roots, ?completions⟩, fun s p hp => ?partitions⟩
  case roots =>
    intro io i s' hloaded hroot
    exact congrArg Host.Outcome.next (State.rootPlace_places hloaded hroot)
  case completions =>
    intro l a la hla hloaded hends hwait ha hf
    obtain ⟨hmem, hrunning, hlaunches⟩ :=
      State.forgetLaunch_leaves (s.completePacket la.io la.part la.queue la.mailbox la.count 1 la.notify) l la
    rw [← State.launchDone_completes hla hloaded hends hwait] at hmem hrunning hlaunches
    refine ⟨_, rfl, hmem.trans ((State.completePacket_word ha hf).2.trans ?_), hrunning, hlaunches⟩
    rw [toNat_completion _ (by decide)]
  case partitions =>
    intro q
    refine ⟨fun v hidle => ?_, fun v hidle hgroup => ?_, fun off v hbusy hoff hword => ?_, fun c e time hlate hnext hcal hepoch hslice hctx => ?_,
      fun ctx hbound _ hrun hreports hout hin hidle => ?_⟩
    · exact congrArg Host.Outcome.next (State.partitionWrite_member v hp hidle)
    · exact ⟨_, rfl, State.partitionWrite_part v hp hidle hgroup⟩
    · exact ⟨_, congrArg Host.Outcome.next (State.partitionWrite_busy v hp hbusy hoff hword), State.ignoredWrite_notes s⟩
    · exact ⟨_, rfl, State.sliceBoundary_sends hlate hnext hcal hepoch hslice hctx⟩
    · have hfree : ∀ e ∈ s.tasks, e.2.part = p → e.2.status = .free ∧ e.2.sb = [] := fun e he hpart =>
        ⟨(hidle e he hpart).1, (hidle e he hpart).2.1⟩
      obtain ⟨hpart, hshadow⟩ := State.swapped_leaves (s := s) (p := p) (ctx := ctx) (s.incoming p ctx)
      exact ⟨_, congrArg Host.Outcome.next (State.contextSwap_swaps hbound hrun hreports hout hin hfree), hpart, hshadow,
        fun hsettled hnew => State.swapped_mem hsettled hnew⟩

end Sys2Proof.Machine
end
